-- ==== Sys2Proof/Word.lean ====
section
/-! DEFINITION. The word types of Harioben 1 (R3, R4, R23, R24). -/

namespace Sys2Proof

/-- A byte of memory. -/
abbrev Byte := BitVec 8

/-- One lane of a vector register (R24). -/
abbrev Lane := BitVec 32

/-- A scalar register, an instruction word, or a literal (R4, R24). -/
abbrev Word := BitVec 64

/-- One bit for each of up to 64 lanes: `em`, a predicate, a path mask (R158). -/
abbrev Mask := BitVec 64

/-- A virtual, physical or local address once it has been computed. -/
abbrev Addr := Nat

end Sys2Proof
end

