-- ==== Sys2Proof/Config.lean ====
section
/-! DEFINITION. What an implementation fixes, and the values the manual leaves open (free values). -/

namespace Sys2Proof.Config

/-- Cores of the package (R13, R20). -/
def cores : Nat := 1024

/-- Pods of the package (R13). -/
def pods : Nat := 256

/-- What a byte of the part's memory that nothing has written reads as. The manual gives HBM4 no
contents at reset: DESIGN CHOICE, unsafe (log 3). -/
def emptyByte : Byte := 0

/-- What an entry of a code book that no CBLD has loaded holds. DESIGN CHOICE, unsafe (log 4). -/
def emptyEntry : Int := 0

/-! ### Free values: constants without a body, so that no proof can use what they are -/

/-- A byte that a UALink peer answers: the n-th free value, at a physical address (log 10). -/
opaque peerByte : Nat → Nat → Byte

/-- Whether a peer performs an access at a physical address, or reports it as failed: the n-th free value (R296;
log 10). -/
opaque peerPerforms : Nat → Nat → Bool

/-- Whether a byte of a failed engine operation's destination holds the value that the operation would have
written, or its former one: the n-th free value, at an address (R308, R356; log 22). -/
opaque landed : Nat → Nat → Bool

/-- Whether the n-th image that is restored lies in a 32-byte sector, by its number: the layout of a save area is
not architectural (R397; log 9). -/
opaque imageIn : Nat → Nat → Bool

/-- The ML-DSA-44 signature of 2,420 bytes by the identity key (R414, R431): the key never leaves the part (log 11). -/
opaque sign : List Byte → BitVec 19360

/-- Whether an image or a test kernel verifies against Isesh's key held in fuses (R430; log 11). -/
opaque verifies : List Byte → Bool

/-- Whether the pieces of an image that have been staged make a whole image (R428 gives its commands no end mark;
log 11). -/
opaque imageEnds : List Byte → Bool

/-- Which of the firmware images a staged one is (log 11). -/
opaque imageKind : List Byte → Nat

/-- The bytes of a staged image that its measurement covers (R430 gives no layout of an image with its signature;
log 11). -/
opaque imageBody : List Byte → List Byte

/-- Whether the bank of a row of an HBM4 stack has a spare left: the n-th free value (R419 gives no number of
spares; log 23). -/
opaque spareLeft : Nat → Nat → Nat → Bool

/-- The SHA3-256 measurement of a firmware image with which the part was made (R431; log 11). -/
opaque measurement : Nat → BitVec 256

/-- The fuse revision that the attestation report carries (R431; log 11). -/
opaque fuseRevision : BitVec 64

/-- The n-th reading of sensor k, in the units of R433 (log 11). -/
opaque sensor : Nat → Nat → BitVec 32

/-- How many of the latest messages of a queue pair were not delivered when it was torn down: the n-th free value
(R89; log 109). -/
opaque undelivered : Nat → Nat

/-- The rkey given to the n-th region (R86 fixes its width only; log 14). -/
opaque rkeyOf : Nat → BitVec 32

end Sys2Proof.Config
end

