-- ==== Sys2Proof/Syntax.lean ====
section
/-! DEFINITION. The instructions of Harioben 1 and the events of the part: one constructor of `Instr`
for every row of spec/opcode_table.json. Instruction rows carry the fields their format gives them
(R117 to R127); event rows carry what the outside of the part, or the time that passes, decides. -/

namespace Sys2Proof

/-! ### Names used by operands -/

/-- The type codes 0 to 13 of R119, in the order of their codes. -/
inductive Ty where
  | s32 | n32 | s64 | n64 | s16 | n16 | s8 | n8 | s4 | b32 | f32 | f64 | bf16 | c8
  deriving DecidableEq, Repr

/-- The rounding modes of R30, in the order of their values. -/
inductive RMode where
  | rne | rtz | rdn | rup
  deriving DecidableEq, Repr

/-- The comparisons of R178 and R203, in the order of their codes. -/
inductive Cmp where
  | eq | ne | lt | le | gt | ge | nan | num
  deriving DecidableEq, Repr

/-- The guard fields of R115: the predicate, and whether the guard holds when it is 0. -/
structure Guard where
  inv : Bool
  p : BitVec 3
  deriving DecidableEq, Repr

/-- What every instruction word holds beside its opcode (R115). -/
structure Head where
  stall : BitVec 3
  guard : Option Guard
  deriving DecidableEq, Repr

/-- A vector destination with its marks `.pub` and `.t` (R117). -/
structure VDst where
  reg : BitVec 8
  pub : Bool
  tr : Bool
  deriving DecidableEq, Repr

/-- Operand A: a register, read `k` items earlier when `k` is not 0 (R117, R224). -/
structure VSrc where
  reg : BitVec 8
  k : BitVec 4
  deriving DecidableEq, Repr

/-- Operand B of formats V and VI (R168). -/
inductive OpB where
  | vec (r : BitVec 8)
  | scal (r : BitVec 6)
  | lit (w : Word)
  deriving DecidableEq, Repr

/-- Operand C of format V (R168). -/
inductive OpC where
  | vec (r : BitVec 8)
  | scal (r : BitVec 6)
  deriving DecidableEq, Repr

/-- A scalar operand of format S: s0 to s63, or `em` (R121). -/
inductive SReg where
  | s (r : BitVec 6)
  | em
  deriving DecidableEq, Repr

/-- The second source of format S (R185). -/
inductive SSrc where
  | imm (i : BitVec 16)
  | lit (w : Word)
  | reg (r : SReg)
  deriving DecidableEq, Repr

/-- A source or destination of PLOG: a predicate, or the lane's `em` bit (R188). -/
inductive PReg where
  | p (r : BitVec 3)
  | em
  deriving DecidableEq, Repr

/-- The special registers of R128, in the order of their numbers. -/
inductive Special where
  | item | lane | width | group | team | pod | core | tower
  | launch | winbase | sig | fflags | clock | cause | epc | tval
  deriving DecidableEq, Repr

/-- The batch classes of R127, in the order of their codes. -/
inductive Cls where
  | cp | mx | cb | rm
  deriving DecidableEq, Repr

/-- The scopes of R123 and R245, in the order of their codes. -/
inductive Scope where
  | group | team | pod | device | system
  deriving DecidableEq, Repr

/-- The policies POL of R123, in the order of their codes. -/
inductive Pol where
  | dflt | bypass | stream | nocache
  deriving DecidableEq, Repr

/-- Where the modulus of a modular instruction comes from (R184): a channel C0 to C9, or an operand. -/
inductive ModSel where
  | chan (i : BitVec 4)
  | operand
  deriving DecidableEq, Repr

/-! ### Payloads of class 0 and class 1 instructions -/

/-- `OP.t vD, vA` and conversions within one type. -/
structure V1 where
  h : Head
  t : Ty
  sat : Bool
  d : VDst
  a : VSrc
  deriving DecidableEq, Repr

/-- `OP.t vD, vA, B`. -/
structure V2 where
  h : Head
  t : Ty
  sat : Bool
  d : VDst
  a : VSrc
  b : OpB
  deriving DecidableEq, Repr

/-- `OP.t vD, vA, B, C`. -/
structure V3 where
  h : Head
  t : Ty
  sat : Bool
  d : VDst
  a : VSrc
  b : OpB
  c : OpC
  deriving DecidableEq, Repr

/-- The VI form `OP.t vD, vA, imm` (R120, R170). -/
structure VImm where
  h : Head
  t : Ty
  sat : Bool
  d : VDst
  a : VSrc
  imm : BitVec 16
  deriving DecidableEq, Repr

/-- `ISETP.cmp.t pD, vA, B` and `FSETP.cmp.t pD, vA, B` (R178, R203). -/
structure VCmp where
  h : Head
  cmp : Cmp
  t : Ty
  p : BitVec 3
  a : VSrc
  b : OpB
  deriving DecidableEq, Repr

/-- The VI form of ISETP (R178). -/
structure VCmpImm where
  h : Head
  cmp : Cmp
  t : Ty
  p : BitVec 3
  a : VSrc
  imm : BitVec 16
  deriving DecidableEq, Repr

/-- `SEL.t vD, vA, B, pN` or `!pN` (R179). -/
structure VSel where
  h : Head
  t : Ty
  inv : Bool
  p : BitVec 3
  d : VDst
  a : VSrc
  b : OpB
  deriving DecidableEq, Repr

/-- The source of MOV (R180). -/
inductive MovSrc where
  | lit (w : Word)
  | scal (r : BitVec 6)
  | vec (a : VSrc)
  deriving DecidableEq, Repr

/-- `MOV.t vD, src` (R180). -/
structure VMov where
  h : Head
  t : Ty
  d : VDst
  src : MovSrc
  deriving DecidableEq, Repr

/-- `MOVI.t vD, imm` (R181). -/
structure VMovi where
  h : Head
  t : Ty
  d : VDst
  imm : BitVec 16
  deriving DecidableEq, Repr

/-- `CVTI.td.ts vD, vA` (R182). -/
structure VCvti where
  h : Head
  td : Ty
  ts : Ty
  sat : Bool
  d : VDst
  a : VSrc
  deriving DecidableEq, Repr

/-- `LEA.t.k vD, vA, B` (R183). -/
structure VLea where
  h : Head
  t : Ty
  k : BitVec 2
  d : VDst
  a : VSrc
  b : OpB
  deriving DecidableEq, Repr

/-- MODRED in format V (R184): `b` is the modulus when `m` is `operand`. -/
structure VModRed where
  h : Head
  m : ModSel
  t : Ty
  d : VDst
  a : VSrc
  b : Option OpB
  deriving DecidableEq, Repr

/-- MODADD and MODMUL in format V (R184): `c` is the modulus when `m` is `operand`. -/
structure VMod where
  h : Head
  m : ModSel
  t : Ty
  d : VDst
  a : VSrc
  b : OpB
  c : Option OpC
  deriving DecidableEq, Repr

/-- The VI forms of MODRED, MODADD and MODMUL (R184). -/
structure VModImm where
  h : Head
  m : ModSel
  t : Ty
  d : VDst
  a : VSrc
  imm : BitVec 16
  deriving DecidableEq, Repr

/-- `FOP.t.m vD, vA`. -/
structure F1 where
  h : Head
  t : Ty
  rm : RMode
  d : VDst
  a : VSrc
  deriving DecidableEq, Repr

/-- `FOP.t.m vD, vA, B`. -/
structure F2 where
  h : Head
  t : Ty
  rm : RMode
  d : VDst
  a : VSrc
  b : OpB
  deriving DecidableEq, Repr

/-- `FOP.t.m vD, vA, B, C`. -/
structure F3 where
  h : Head
  t : Ty
  rm : RMode
  d : VDst
  a : VSrc
  b : OpB
  c : OpC
  deriving DecidableEq, Repr

/-- `FCVT.td.ts.m vD, vA` (R205). -/
structure VFcvt where
  h : Head
  td : Ty
  ts : Ty
  rm : RMode
  d : VDst
  a : VSrc
  deriving DecidableEq, Repr

/-- `DOTC4.bookN vD, vA, B, C` (R209). -/
structure VDotc where
  h : Head
  book : BitVec 2
  sat : Bool
  d : VDst
  a : VSrc
  b : OpB
  c : OpC
  deriving DecidableEq, Repr

/-- The two forms of CDEC (R212). -/
inductive CdecForm where
  | s16
  | s32 (sel : BitVec 2)
  deriving DecidableEq, Repr

/-- CDEC (R212). -/
structure VCdec where
  h : Head
  form : CdecForm
  book : BitVec 2
  d : VDst
  a : VSrc
  deriving DecidableEq, Repr

/-- BITUNPK (R213): A is a plain register. -/
structure VUnpk where
  h : Head
  signed : Bool
  d : VDst
  a : BitVec 8
  b : OpB
  c : OpC
  deriving DecidableEq, Repr

/-- The modes of SHFL (R215). -/
inductive ShflMode where
  | idx | up | down | xor
  deriving DecidableEq, Repr

/-- SHFL (R215): A is a plain register. -/
structure VShfl where
  h : Head
  mode : ShflMode
  wide : Bool
  d : VDst
  a : BitVec 8
  b : OpB
  deriving DecidableEq, Repr

/-- VOTE (R216). -/
inductive VoteMode where
  | all (p : BitVec 3) | any (p : BitVec 3) | uni (p : BitVec 3) | ballot (d : VDst)
  deriving DecidableEq, Repr

/-- VOTE (R216). -/
structure VVote where
  h : Head
  mode : VoteMode
  neg : Bool
  p : BitVec 3
  deriving DecidableEq, Repr

/-- The operations of LRED and LSCAN (R217), in the order of their codes. -/
inductive RedOp where
  | add | fadd | min | max | and | or | xor | minidx | maxidx
  deriving DecidableEq, Repr

/-- LRED (R217): A is a plain register. -/
structure VRed where
  h : Head
  op : RedOp
  rm : RMode
  t : Ty
  d : VDst
  a : BitVec 8
  deriving DecidableEq, Repr

/-- LSCAN (R217, R218). -/
structure VScan where
  h : Head
  op : RedOp
  rm : RMode
  t : Ty
  excl : Bool
  d : VDst
  a : BitVec 8
  deriving DecidableEq, Repr

/-- XSWAP (R220). -/
structure VXswap where
  h : Head
  wide : Bool
  d : BitVec 8
  a : BitVec 8
  b : BitVec 6
  deriving DecidableEq, Repr

/-! ### Payloads of class 2 -/

/-- `SADD sD, sA, y` and its kind (R185). -/
structure S2 where
  h : Head
  d : SReg
  a : SReg
  y : SSrc
  deriving DecidableEq, Repr

/-- SSHR with its `.a` (R185). -/
structure SShr where
  h : Head
  arith : Bool
  d : SReg
  a : SReg
  y : SSrc
  deriving DecidableEq, Repr

/-- SMOV (R186). -/
structure SMov where
  h : Head
  d : SReg
  a : SReg
  deriving DecidableEq, Repr

/-- SMOVL (R186). -/
structure SMovl where
  h : Head
  d : SReg
  lit : Word
  deriving DecidableEq, Repr

/-- SSETP (R187): `signed` for s64, else n64. -/
structure SSetp where
  h : Head
  cmp : Cmp
  signed : Bool
  p : BitVec 3
  a : SReg
  y : SSrc
  deriving DecidableEq, Repr

/-- The types of VGET and VPUT (R189). -/
inductive XferTy where
  | b32 | n64 | s32
  deriving DecidableEq, Repr

/-- VGET (R189). -/
structure SVget where
  h : Head
  t : XferTy
  d : SReg
  a : BitVec 8
  y : SSrc
  deriving DecidableEq, Repr

/-- VPUT (R189): `wide` for n64, else b32. -/
structure SVput where
  h : Head
  wide : Bool
  d : BitVec 8
  a : SReg
  y : SSrc
  deriving DecidableEq, Repr

/-- GETS (R190): D is a vector register for %item and %lane, else a scalar. -/
structure SGets where
  h : Head
  clr : Bool
  d : BitVec 8
  src : Special
  deriving DecidableEq, Repr

/-- PLOG (R188). -/
structure SPlog where
  h : Head
  lut : BitVec 4
  d : PReg
  a : PReg
  b : PReg
  deriving DecidableEq, Repr

/-- WGROW and WSHRINK (R198). -/
structure SWin where
  h : Head
  n : SSrc
  deriving DecidableEq, Repr

/-- BRA (R191). -/
structure CBra where
  h : Head
  tgt : BitVec 20
  deriving DecidableEq, Repr

/-- BRD (R191, R193). -/
structure CBrd where
  h : Head
  p : BitVec 3
  inv : Bool
  tgt : BitVec 20
  join : BitVec 16
  deriving DecidableEq, Repr

/-- The destination of CALL (R191). -/
inductive CallTo where
  | label (tgt : BitVec 20)
  | reg (t : BitVec 6)
  deriving DecidableEq, Repr

/-- CALL (R191). -/
structure CCall where
  h : Head
  link : BitVec 6
  dest : CallTo
  deriving DecidableEq, Repr

/-- RET (R191). -/
structure CRet where
  h : Head
  s : BitVec 6
  deriving DecidableEq, Repr

/-- BRI (R191). -/
structure CBri where
  h : Head
  s : BitVec 6
  tgt : BitVec 20
  n : BitVec 16
  deriving DecidableEq, Repr

/-- LOOP (R191). -/
structure CLoop where
  h : Head
  s : BitVec 6
  tgt : BitVec 20
  deriving DecidableEq, Repr

/-- EXIT (R191, R194): with a predicate when AUX bit 0 is set. -/
structure CExit where
  h : Head
  sel : Option Guard
  deriving DecidableEq, Repr

/-- SAFE (R196). -/
structure CSafe where
  h : Head
  vmask : Word
  smask : Word
  deriving DecidableEq, Repr

/-- SIGCHK (R197). -/
structure CSig where
  h : Head
  imm : BitVec 32
  deriving DecidableEq, Repr

/-- PUB (R226). -/
structure CPub where
  h : Head
  d : BitVec 8
  deriving DecidableEq, Repr

/-! ### Payloads of class 3 -/

/-- The byte offset of a memory operand (R123). -/
inductive MOff where
  | ofs (o : BitVec 7)
  | lit (w : Word)
  deriving DecidableEq, Repr

/-- An address without a layout record (R123, R267). -/
structure MPlain where
  sb : BitVec 6
  idx : Option (BitVec 8 × BitVec 2)
  off : MOff
  deriving DecidableEq, Repr

/-- The address of LD, ST, LDS and STS: plain, or through a layout record (R272). -/
inductive MAddr where
  | plain (m : MPlain)
  | record (lay : BitVec 6) (sb : BitVec 6) (vx : BitVec 8)
  deriving DecidableEq, Repr

/-- LD and ST (R270 to R275). -/
structure MAcc where
  h : Head
  t : Ty
  pol : Pol
  d : BitVec 8
  addr : MAddr
  deriving DecidableEq, Repr

/-- LDS and STS. -/
structure MLoc where
  h : Head
  t : Ty
  d : BitVec 8
  addr : MAddr
  deriving DecidableEq, Repr

/-- The operation of ATOM and RED with its type or channel (R276). -/
inductive AtomOp where
  | add (t : Ty) | min (t : Ty) | max (t : Ty)
  | and (wide : Bool) | or (wide : Bool) | xor (wide : Bool)
  | exch (wide : Bool) | cas (wide : Bool)
  | radd (ch : BitVec 4)
  deriving DecidableEq, Repr

/-- ATOM and RED (R276, R277). -/
structure MAtom where
  h : Head
  op : AtomOp
  loc : Bool
  scope : Scope
  d : BitVec 8
  addr : MPlain
  deriving DecidableEq, Repr

/-- The kinds of FENCE (R247, R279). -/
inductive FenceKind where
  | acq | rel | full
  deriving DecidableEq, Repr

/-- FENCE (R279). -/
structure MFence where
  h : Head
  kind : FenceKind
  scope : Scope
  deriving DecidableEq, Repr

/-- The levels of PREF (R280). -/
inductive PrefLvl where
  | l1 | l2 | msc
  deriving DecidableEq, Repr

/-- PREF (R280). -/
structure MPref where
  h : Head
  lvl : PrefLvl
  addr : MPlain
  deriving DecidableEq, Repr

/-- CFLUSH (`deep` is `.mem`) and CINV (`deep` is `.l2`) (R281). -/
structure MLine where
  h : Head
  deep : Bool
  addr : MPlain
  deriving DecidableEq, Repr

/-- FETCH and POST (R282). -/
structure MXfer where
  h : Head
  d : BitVec 6
  sb : BitVec 6
  off : MOff
  deriving DecidableEq, Repr

/-! ### Payloads of class 4 -/

/-- The directions of CPY (R303). -/
inductive CpyDir where
  | g2g | l2g | g2l
  deriving DecidableEq, Repr

/-- CPY (R303). -/
structure PCpy where
  h : Head
  dir : CpyDir
  srec : BitVec 6
  drec : BitVec 6
  sa : BitVec 6
  sb : BitVec 6
  sc : BitVec 6
  deriving DecidableEq, Repr

/-- CPYM (R315): `loc` for `.l2l`, else `.g2l`. -/
structure PCpym where
  h : Head
  loc : Bool
  srec : BitVec 6
  drec : BitVec 6
  sa : BitVec 6
  sb : BitVec 6
  sc : BitVec 6
  slot : BitVec 4
  deriving DecidableEq, Repr

/-- The scalars that LAND names. -/
structure LandArgs where
  sa : BitVec 6
  sb : BitVec 6
  sc : BitVec 6
  deriving DecidableEq, Repr

/-- LAND, and LAND.off without scalars (R313). -/
structure PLand where
  h : Head
  slot : BitVec 4
  args : Option LandArgs
  deriving DecidableEq, Repr

/-- LANDW (R314). -/
structure PLandw where
  h : Head
  slot : BitVec 4
  deriving DecidableEq, Repr

/-- SEAL (R298). -/
structure PSeal where
  h : Head
  cls : Cls
  deriving DecidableEq, Repr

/-- WAITB (R300). -/
structure PWait where
  h : Head
  cls : Cls
  n : BitVec 4
  deriving DecidableEq, Repr

/-- YIELDB (R301). -/
structure PYieldb where
  h : Head
  cls : Cls
  n : BitVec 4
  tgt : BitVec 20
  deriving DecidableEq, Repr

/-- CSTAT (R311). -/
structure PCstat where
  h : Head
  sa : BitVec 6
  sb : BitVec 6
  deriving DecidableEq, Repr

/-- CBLD (R319). -/
structure PCbld where
  h : Head
  book : BitVec 2
  sa : BitVec 6
  sc : BitVec 6
  deriving DecidableEq, Repr

/-! ### Payloads of class 5 -/

/-- Input types of an MMA (R341), in the order of their codes. -/
inductive InTy where
  | s4 | s8 | s16 | c8 | bsf4 | bsf8 | bsf16
  deriving DecidableEq, Repr

/-- Accumulator formats (R47, R341). -/
inductive AccFmt where
  | acc64 | acc32
  deriving DecidableEq, Repr

/-- Result types of a tile (R341), in the order of their codes. -/
inductive ResTy where
  | s64 | s32 | s16 | s8 | f64 | f32 | bf16
  deriving DecidableEq, Repr

/-- GANG (R344): slab counts are 2^a and 2^b. -/
structure XGang where
  h : Head
  a : BitVec 2
  b : BitVec 2
  m : BitVec 6
  deriving DecidableEq, Repr

/-- MZERO (R345). -/
structure XMzero where
  h : Head
  fmt : AccFmt
  td : ResTy
  tile : BitVec 3
  e : BitVec 6
  deriving DecidableEq, Repr

/-- REL and ACQ (R346). -/
structure XTok where
  h : Head
  tile : BitVec 3
  deriving DecidableEq, Repr

/-- MMA (R347). -/
structure XMma where
  h : Head
  ta : InTy
  tb : InTy
  fmt : AccFmt
  td : ResTy
  tile : BitVec 3
  ra : BitVec 8
  rb : BitVec 8
  book : BitVec 2
  trp : Bool
  aux : BitVec 8
  deriving DecidableEq, Repr

/-- MSCALE (R349). -/
structure XScale where
  h : Head
  tile : BitVec 3
  n : BitVec 8
  deriving DecidableEq, Repr

/-- DRAIN (R350): `td` absent is `.rec`. -/
structure XDrain where
  h : Head
  td : Option ResTy
  tile : BitVec 3
  d : BitVec 8
  r : BitVec 6
  rm : RMode
  trp : Bool
  shift : BitVec 8
  deriving DecidableEq, Repr

/-- DRAINM (R353). -/
structure XDrainm where
  h : Head
  loc : Bool
  tile : BitVec 3
  lay : BitVec 6
  b : BitVec 6
  rm : RMode
  trp : Bool
  shift : BitVec 8
  deriving DecidableEq, Repr

/-- ACST (R354): with a scope for `.radd`. -/
structure XAcst where
  h : Head
  tile : BitVec 3
  b : BitVec 6
  radd : Option Scope
  loc : Bool
  deriving DecidableEq, Repr

/-- ACLD (R355). -/
structure XAcld where
  h : Head
  add : Bool
  fmt : AccFmt
  td : ResTy
  tile : BitVec 3
  b : BitVec 6
  loc : Bool
  deriving DecidableEq, Repr

/-- MSTAT (R357). -/
structure XMstat where
  h : Head
  d : BitVec 6
  tile : BitVec 3
  deriving DecidableEq, Repr

/-- CONT (R358). -/
structure XCont where
  h : Head
  d : BitVec 6
  deriving DecidableEq, Repr

/-- The courses of an injected fault (R359). -/
inductive MinjMode where
  | soft | stuck | hard
  deriving DecidableEq, Repr

/-- MINJ (R359). -/
structure XMinj where
  h : Head
  mode : MinjMode
  tile : BitVec 3
  r : BitVec 6
  deriving DecidableEq, Repr

/-! ### Payloads of classes 6 and 7 -/

/-- The count of a barrier instruction (R366). -/
inductive BarCount where
  | imm (n : BitVec 24)
  | reg (c : BitVec 6)
  deriving DecidableEq, Repr

/-- BAR and BINIT (R366). -/
structure YBar where
  h : Head
  bar : BitVec 6
  n : BarCount
  deriving DecidableEq, Repr

/-- BARA (R366). -/
structure YBara where
  h : Head
  t : BitVec 6
  bar : BitVec 6
  n : BarCount
  deriving DecidableEq, Repr

/-- BARW and BARQ (R366). -/
structure YTok where
  h : Head
  bar : BitVec 6
  t : BitVec 6
  deriving DecidableEq, Repr

/-- OBJREG, OBJDEL and OREL (R370, R371, R380). -/
structure YObj where
  h : Head
  s : BitVec 6
  deriving DecidableEq, Repr

/-- OCALL (R372). -/
structure YOcall where
  h : Head
  d : BitVec 8
  a : BitVec 8
  b : BitVec 8
  deriving DecidableEq, Repr

/-- CREPLY (R377). -/
structure YCreply where
  h : Head
  a : BitVec 8
  deriving DecidableEq, Repr

/-- An instruction that uses no field (JOIN, NOP, YIELD, CDONE, HALT). -/
structure Bare where
  h : Head
  deriving DecidableEq, Repr

/-- TRAP and BKPT (R401). -/
structure ZTrap where
  h : Head
  imm : BitVec 16
  deriving DecidableEq, Repr

/-- Where RTT returns to (R402). -/
inductive RttTo where
  | plain | skip | reg (a : BitVec 6) | both (a : BitVec 6)
  deriving DecidableEq, Repr

/-- RTT (R402). -/
structure ZRtt where
  h : Head
  dest : RttTo
  deriving DecidableEq, Repr

/-- LAUNCH (R404). -/
structure ZLaunch where
  h : Head
  sa : BitVec 6
  sb : BitVec 6
  deriving DecidableEq, Repr

/-- SETS.troot (R405): the one register number that is assigned. -/
structure ZSets where
  h : Head
  sa : BitVec 6
  deriving DecidableEq, Repr

/-- TLBINV: with the scalar that names the page, or `.all` (R406). -/
structure ZTlbinv where
  h : Head
  page : Option (BitVec 6)
  deriving DecidableEq, Repr

/-- PRES: with `.page` when `sb` is present (R407). -/
structure ZPres where
  h : Head
  sa : BitVec 6
  sb : Option (BitVec 6)
  deriving DecidableEq, Repr

/-! ### What events carry -/

/-- A group: of a team of a launch, or the wave that serves an object of a launch (R59, R375). -/
inductive GroupId where
  | member (lid team group : Nat)
  | wave (lid obj : Nat)
  deriving DecidableEq, Repr

/-- A page walk is made for a group's access or for an engine operation (R291, R308). -/
inductive Walker where
  | group (g : GroupId)
  | op (n : Nat)
  deriving DecidableEq, Repr

/-- A UALink peer's request (R424): its physical address and what it asks. -/
inductive PeerReq where
  | read (pa len : Nat)
  | write (pa : Nat) (data : List Byte)
  | atomic (op : AtomOp) (pa : Nat) (v v2 : Word)
  deriving DecidableEq, Repr

/-- A management frame as it arrives (R427): source, header, payload, tag. -/
structure Frame where
  src : BitVec 128
  hdr : BitVec 256
  payload : List Byte
  tag : BitVec 256
  deriving DecidableEq, Repr

/-- The unit that an in-field test names (R422). -/
inductive TestUnit where
  | core (c : Nat)
  | pod (p : Nat)
  | channel (tower i : Nat)
  deriving DecidableEq, Repr

/-- One step of the part: an instruction of the group that issues, or an event. -/
inductive Instr where
  -- class 0, format V
  | iadd (o : V2) | isub (o : V2) | imul (o : V2) | imulh (o : V2) | imad (o : V3)
  | idiv (o : V2) | irem (o : V2) | imin (o : V2) | imax (o : V2)
  | iabs (o : V1) | ineg (o : V1) | iclamp (o : V3)
  | and (o : V2) | or (o : V2) | xor (o : V2) | andn (o : V2)
  | shl (o : V2) | shr (o : V2) | sar (o : V2) | rot (o : V2)
  | popc (o : V1) | clz (o : V1) | ctz (o : V1) | brev (o : V1)
  | bfx (o : V2) | bfi (o : V3) | permb (o : V3)
  | isetp (o : VCmp) | sel (o : VSel) | mov (o : VMov) | movi (o : VMovi)
  | cvti (o : VCvti) | lea (o : VLea)
  | modred (o : VModRed) | modadd (o : VMod) | modmul (o : VMod)
  -- class 0, format VI
  | iaddVI (o : VImm) | isubVI (o : VImm) | imulVI (o : VImm) | iminVI (o : VImm) | imaxVI (o : VImm)
  | andVI (o : VImm) | orVI (o : VImm) | xorVI (o : VImm) | andnVI (o : VImm)
  | shlVI (o : VImm) | shrVI (o : VImm) | sarVI (o : VImm) | rotVI (o : VImm)
  | bfxVI (o : VImm) | isetpVI (o : VCmpImm)
  | modredVI (o : VModImm) | modaddVI (o : VModImm) | modmulVI (o : VModImm)
  -- class 1
  | fadd (o : F2) | fsub (o : F2) | fmul (o : F2) | ffma (o : F3) | fmin (o : F2) | fmax (o : F2)
  | fsetp (o : VCmp) | fdiv (o : F2) | fsqrt (o : F1) | frcp (o : F1) | fexp2 (o : F1) | flog2 (o : F1)
  | fcvt (o : VFcvt) | fround (o : F1) | fclass (o : V1)
  | dot4 (o : V3) | dot8 (o : V3) | dotc4 (o : VDotc) | bdot (o : F3)
  | cdec (o : VCdec) | bitunpk (o : VUnpk)
  | shfl (o : VShfl) | vote (o : VVote) | lred (o : VRed) | lscan (o : VScan) | xswap (o : VXswap)
  -- class 2
  | sadd (o : S2) | ssub (o : S2) | smul (o : S2) | sand (o : S2) | sor (o : S2) | sxor (o : S2)
  | sshl (o : S2) | sshr (o : SShr) | smov (o : SMov) | smovl (o : SMovl) | ssetp (o : SSetp)
  | vget (o : SVget) | vput (o : SVput) | gets (o : SGets) | plog (o : SPlog)
  | bra (o : CBra) | brd (o : CBrd) | join (o : Bare) | call (o : CCall) | ret (o : CRet)
  | bri (o : CBri) | loop (o : CLoop) | exit (o : CExit) | nop (o : Bare) | safe (o : CSafe)
  | sigchk (o : CSig) | yield (o : Bare) | wgrow (o : SWin) | wshrink (o : SWin) | pub (o : CPub)
  -- class 3
  | ld (o : MAcc) | st (o : MAcc) | lds (o : MLoc) | sts (o : MLoc)
  | atom (o : MAtom) | red (o : MAtom) | fence (o : MFence) | pref (o : MPref)
  | cflush (o : MLine) | cinv (o : MLine) | fetch (o : MXfer) | post (o : MXfer)
  -- class 4
  | cpy (o : PCpy) | cpym (o : PCpym) | land (o : PLand) | landw (o : PLandw) | sealb (o : PSeal)
  | waitb (o : PWait) | yieldb (o : PYieldb) | cstat (o : PCstat) | cbld (o : PCbld)
  -- class 5
  | gang (o : XGang) | mzero (o : XMzero) | rel (o : XTok) | acq (o : XTok) | mma (o : XMma)
  | mscale (o : XScale) | drain (o : XDrain) | drainm (o : XDrainm) | acst (o : XAcst) | acld (o : XAcld)
  | mstat (o : XMstat) | cont (o : XCont) | minj (o : XMinj)
  -- class 6
  | bar (o : YBar) | bara (o : YBara) | barw (o : YTok) | barq (o : YTok) | binit (o : YBar)
  | objreg (o : YObj) | objdel (o : YObj) | ocall (o : YOcall) | orel (o : YObj)
  | creply (o : YCreply) | cdone (o : Bare)
  -- class 7
  | trap (o : ZTrap) | rtt (o : ZRtt) | bkpt (o : ZTrap) | halt (o : Bare) | launch (o : ZLaunch)
  | sets (o : ZSets) | tlbinv (o : ZTlbinv) | pres (o : ZPres)
  -- events inside the part
  | clauseEntry (g : GroupId) | deferredTrap (g : GroupId)
  | loadResponse (g : GroupId) (n : Nat) | atomicResponse (g : GroupId) (n : Nat)
  | fetchLineLanded (op : Nat) | postAcknowledged (op : Nat)
  | copyOperationComplete (op : Nat) | cpymArrival (op k : Nat)
  | rendezvousGrant (pod latch : Nat) | passStart (pod : Nat) | passComplete (pod : Nat)
  | mxOperationComplete (op : Nat) | drainComplete (op : Nat) | patternPass (pod : Nat)
  | reservationAging (pod k : Nat)
  | runnerValueArrival (g : GroupId) | runnerSpillTimeout (g : GroupId)
  | ocallRequestAccept (op : Nat) | waveStart (lid obj : Nat) | ocallReply (op lane : Nat)
  | waveTimeLimit (lid obj : Nat)
  | quantumExpiry (g : GroupId) | pendingAging (g : GroupId) | urgentDisplacement (g : GroupId)
  | groupActivation (core : Nat) | wgrowStalemate (core : Nat)
  | tableWalk (w : Walker) | faultRecordWrite (lid : Nat)
  -- the host
  | launchRecord (qp : Nat) (r : BitVec 2048) | badmsgSend (qp len : Nat)
  | abort (qp : Nat) (m : BitVec 512) | resume (qp : Nat) (m : BitVec 512)
  | region (qp : Nat) (m : BitVec 512) | unregion (qp : Nat) (m : BitVec 512)
  | rdmaRead (qp rkey va len : Nat) | rdmaWrite (qp rkey va : Nat) (data : List Byte)
  -- peers and placement
  | ualinkInboundRequest (src : Nat) (r : PeerReq) | linkLoss (port : Nat)
  | teamDispatch (core : Nat) | steal (tower : Nat) | preemptionRequest (tower : Nat)
  | forcedStop (g : GroupId) | unitSave (lid : Nat) (team : Option Nat)
  | unitRestore (lid : Nat) (team : Option Nat) (core : Nat)
  | groupRetirement (g : GroupId) | launchCompletion (lid : Nat) | podLost (pod : Nat)
  -- reliability and power
  | softRepair (stack row : Nat) | quiesceEnd (stack row : Nat)
  | activationCounterEvent (stack row : Nat) (corrupt : Bool)
  | selfRefreshEnter (stack : Nat) | selfRefreshExit (stack : Nat) | criticalShutdown
  | infieldTestRun (u : TestUnit) (test : Nat) (signed first second : Bool)
  | powerCapWindow (demand : Nat)
  -- the management controller
  | provision (f : Frame) | qpset (f : Frame) | qmask (f : Frame) | partnum (f : Frame) | accept (f : Frame)
  | jread (f : Frame) | jack (f : Frame) | attest (f : Frame) | pcap (f : Frame) | telem (f : Frame)
  | unfreeze (f : Frame) | fwload (f : Frame) | reset (f : Frame)
  -- power, time and links
  | powerOn | ptpSync (ns : Nat) | linkTraining (port : Nat) (vendor : Bool)
  | writeAcknowledgement (g : GroupId) (n : Nat) (ok : Bool) | variableLatencyResult (g : GroupId) (n : Nat)
  deriving DecidableEq, Repr

end Sys2Proof
end

