-- ==== Sys2Proof/Machine/State.lean ====
section
/-! DEFINITION. The state of the part: everything the manual gives it, as plain data. A list of numbered
entries (`Sparse`) holds its keys strictly rising and no entry equal to its default value. -/

namespace Sys2Proof.Machine

/-- Data by number, in the one canonical form: keys strictly rising, no entry at the default value. -/
abbrev Sparse (α : Type) := List (Nat × α)

/-! ### Places in code -/

/-- Where a group stands in its code (R106, R112, R113). -/
inductive Pos where
  /-- It is to enter the clause at this address; `xfer` is the instruction that transferred control or
  the last slot issued, absent at a first entry (R112). -/
  | header (addr : Addr) (xfer : Option Addr)
  /-- It stands at a slot of a clause it has entered; `hw` is the header word it read. -/
  | slot (hdr : Addr) (j : Nat) (hw : Word)
  /-- It returns to a slot by RTT or from a save image (R113). -/
  | back (hdr : Addr) (j : Nat)
  /-- It returns by the RTT.skip at `xfer` to the place after the instruction of this slot and its literals (R402). -/
  | after (hdr : Addr) (j : Nat) (xfer : Addr)
  deriving DecidableEq, Repr

/-- A fork of the execution mask by BRD (R159). -/
structure DivEntry where
  e : Mask
  t : Mask
  join : Addr
  target : Addr
  snap : Sparse Word
  sig0 : BitVec 32
  /-- The taken path is running. -/
  taken : Bool
  /-- The fall-through path held the lowest lane of E at the BRD (R161). -/
  lowF : Bool
  /-- The scalars at the end of the fall-through path, and those it wrote. -/
  sF : Sparse Word
  wF : List Nat
  /-- The scalars written on the path that is running. -/
  written : List Nat
  deriving DecidableEq, Repr

/-- One instruction's place in the bypass (R162): the lanes it wrote, keyed register × 64 + lane. -/
structure Bypassed where
  /-- The count of the instruction in the group's issue order. -/
  idx : Nat
  addr : Addr
  /-- The destination is marked `.t`. -/
  marked : Bool
  vals : Sparse Lane
  deriving DecidableEq, Repr

/-- What a fixed-latency instruction has written, until its latency has passed (R134). -/
structure Producer where
  addr : Addr
  /-- Its count in the group's issue order, and the lanes that it wrote. -/
  idx : Nat
  lanes : Mask
  /-- The group's distance counter at its issue, and its latency. -/
  dist : Nat
  lat : Nat
  /-- The core clock at which its results are ready. -/
  ready : Nat
  vregs : List Nat
  scals : List Nat
  preds : List Nat
  em : Bool
  deriving DecidableEq, Repr

/-! ### What a group waits for -/

/-- The waits of R147 and R148. -/
inductive Wait where
  /-- The thresholds of these classes in the next clause's header (R109). -/
  | thresholds (cs : List Cls)
  /-- A variable-latency result that the next clause reads (R147). -/
  | operands
  | result
  | reply
  | partner
  | batch (cls : Cls) (n : Nat)
  /-- YIELDB's continuation: when the condition holds the group enters the target (R301). -/
  | yieldb (cls : Cls) (n : Nat) (addr : Addr) (target : Addr)
  | sealRoom (cls : Cls)
  | copyRoom
  | barrier (bar token : Nat)
  | runner
  /-- A publish of this slot that finds the successor's buffer full, the instruction's `need`-th to it; since when
  (R233). -/
  | publish (slot need since : Nat)
  | xswapRoom
  | replySlot
  | passes (tile : Nat)
  /-- An ACQ that waited for passes holds the tile (R346). -/
  | holding (tile : Nat)
  | tile (n : Nat)
  | object (addr : Addr)
  | store (n : Nat)
  | landing (slot : Nat)
  /-- The arming for which the group waited has filled (R314). -/
  | filled (slot : Nat)
  | latch
  | queueRoom
  /-- Room for one more message to the host (R89). -/
  | message
  | fence
  /-- Page walks are being made for these addresses. -/
  | walk (vas : List Addr) (x w : Bool)
  /-- A page walk is being made for the spill area, which an engine writes (R69). -/
  | spillWalk (va : Addr)
  /-- Translation faults, by address and level, until they are released (R291, R392). -/
  | xlate (faults : List (Addr × Nat))
  deriving DecidableEq, Repr

/-! ### Results under way -/

/-- What kind of variable-latency result is under way (R136). -/
inductive PendKind where
  | load | atomic | scalar | drain (op : Nat) | xswap | reply (op : Nat)
  deriving DecidableEq, Repr

/-- A failure that a later wait or instruction reports: cause code and %tval (R385). -/
structure Failure where
  cause : Nat
  tval : Word
  deriving DecidableEq, Repr

/-- A variable-latency result under way: its destinations, and the values it brings (R136, R285). -/
structure Pend where
  n : Nat
  /-- The count of its instruction in the group's issue order, and the lanes that issued it (R136, R235). -/
  idx : Nat
  lanes : Mask
  kind : PendKind
  addr : Addr
  vregs : List Nat
  scals : List Nat
  vals : Sparse Lane
  svals : Sparse Word
  flags : BitVec 5
  fail : Option Failure
  /-- The HBM4 channels, by stack and channel, that its accesses need (R419, R421). -/
  chans : List (Nat × Nat)
  /-- Its first access to a peer, by virtual and physical address (R296, R426). -/
  peer : Option (Addr × Addr)
  deriving DecidableEq, Repr

/-- A trap that waits for its place (R222, R285, R311, R352). -/
structure Deferred where
  /-- The failed instruction's result, in issue order. -/
  n : Nat
  addr : Addr
  fail : Failure
  vregs : List Nat
  scals : List Nat
  /-- The count of the failed instruction in the group's issue order, and the lanes that issued it (R235). -/
  idx : Nat
  lanes : Mask
  deriving DecidableEq, Repr

/-- A write not yet acknowledged (R279). -/
structure Ack where
  n : Nat
  /-- The first number of its instruction. -/
  instr : Nat
  va : Addr
  /-- The write lies on a peer, at this physical address. -/
  peer : Option Nat
  /-- The HBM4 channels that the writes need (R419, R421). -/
  chans : List (Nat × Nat)
  deriving DecidableEq, Repr

/-- A batch: operations not complete, failures held with their operations, flags that DRAINM raised (R297,
R299, R353). -/
structure Batch where
  ops : List Nat
  fails : List (Nat × Failure)
  flags : BitVec 5
  deriving DecidableEq, Repr

/-- The batches of one class of one group (R297). -/
structure Batches where
  opened : Batch
  closed : List Batch
  /-- SEALs issued (R310). -/
  seals : Nat
  deriving DecidableEq, Repr

/-- One entry of a gang register (R344). -/
structure Member where
  grp : Nat
  role : Nat
  aslab : Nat
  bslab : Nat
  deriving DecidableEq, Repr

/-- A gang register (R326): slab counts and entries in use. -/
structure Gang where
  a : Nat
  b : Nat
  members : List Member
  deriving DecidableEq, Repr

/-- A failed pass that a member has still to be told of (R330). -/
structure PassFail where
  tile : Nat
  op : Nat
  fail : Failure
  deriving DecidableEq, Repr

/-- An unpaired XSWAP (R220, R221). -/
structure Xswap where
  n : Nat
  team : Nat
  grp : Nat
  wide : Bool
  lanes : Mask
  vals : Sparse Lane
  deriving DecidableEq, Repr

/-- Per-lane work of an instruction that the group has passed while some lanes were behind (R235):
the instruction, the scalars and predicates it saw, and the lanes that have still to do it. -/
structure LaneWork where
  idx : Nat
  addr : Addr
  word : List Word
  scalars : Sparse Word
  lanes : Mask
  /-- Since when its publish has stalled (R233). -/
  stalled : Option Nat
  /-- It has stalled for 256 core clocks: it spills. -/
  spill : Bool
  deriving DecidableEq, Repr

/-- What a trap sets aside (R383). -/
structure Aside where
  resume : Pos
  bypass : List Bypassed
  sig : BitVec 32
  em : Mask
  depth : Nat
  /-- Results numbered from here on are the handler's own (R285). -/
  next : Nat
  /-- The trap was taken at an instruction of lanes that are behind: its count and those lanes (log 13). -/
  late : Option (Nat × Mask)
  /-- What lanes that were behind have still to do after the return from such a trap. -/
  backlog : List LaneWork
  deriving DecidableEq, Repr

/-- Counts of runner reads and publishes (R227), keyed by lane, slot and distance. -/
abbrev Counts := Sparse Nat

/-- An MMA that has arrived at a latch (R328), with the operands it reads (R329). -/
structure Arrived where
  gid : GroupId
  op : Nat
  addr : Addr
  ins : XMma
  gang : Gang
  vregs : Sparse Lane
  deriving DecidableEq, Repr

/-- A resident or saved group. -/
structure Group where
  id : GroupId
  /-- Group in team and team; all ones in a wave (R376). -/
  width : Nat
  core : Nat
  resident : Bool
  /-- First item of the group (R60). -/
  item0 : Nat
  pos : Pos
  em : Mask
  live : Mask
  path : Mask
  /-- The window size (R64). -/
  n : Nat
  /-- v0 to v255: register × 64 + lane. -/
  vregs : Sparse Lane
  /-- Poisoned 8-byte words of the window, by number, rising (R65, R416). -/
  bad : List Nat
  /-- s0 to s63. -/
  sregs : Sparse Word
  /-- p0 to p7, one bit a lane. -/
  preds : Sparse Mask
  stack : List DivEntry
  fflags : BitVec 5
  sig : BitVec 32
  cause : Word
  epc : Word
  tval : Word
  aside : Option Aside
  bypass : List Bypassed
  /-- Instructions issued, and the distance counter of R133. -/
  issued : Nat
  dist : Nat
  /-- The address of the last slot issued (R112). -/
  last : Addr
  producers : List Producer
  /-- Not to issue before this core clock (R133). -/
  readyAt : Nat
  pend : List Pend
  deferred : List Deferred
  acks : List Ack
  /-- Failed peer stores not yet reported, one an instruction: its number, the lowest failed write, its address
  (R296). -/
  lost : List (Nat × Nat × Word)
  cp : Batches
  mx : Batches
  cb : Batches
  rm : Batches
  /-- Reply slots taken (R283), by operation. -/
  slots : List Nat
  gang : Option Gang
  /-- The ungranted MMA and the registers it reserves (R328, R329), by operation. -/
  reserved : List (Nat × List Nat)
  passFails : List PassFail
  /-- The ungranted MMA of a saved group (R333). -/
  withdrawn : Option Arrived
  xswap : Option Xswap
  reads : Counts
  pubs : Counts
  backlog : List LaneWork
  /-- A publish has stalled for 256 core clocks: the next one spills (R233). -/
  spillOk : Bool
  /-- The instruction of lanes that are behind whose page walk or fault the group waits for (R389). -/
  missAt : Option Addr
  /-- Reply values of CREPLY by lane (R377). -/
  replies : Sparse Lane
  /-- One of the eight active places, or none; since which core clock it has been so (R146, R147, R149). -/
  active : Bool
  since : Nat
  /-- Since when it has been pending and ready, which each step notes (R146, R150). -/
  readySince : Option Nat
  /-- The core clock at which it was dispatched or its wave started (R149). -/
  born : Nat
  wait : Option Wait
  /-- It is to leave the active set at its next clause boundary (R150). -/
  leave : Bool
  /-- Pre-emption or abort pending, since which core clock (R395). -/
  stopAt : Option Nat
  stopped : Bool
  /-- It stopped at a SAFE with these masks (R196, R396). -/
  safe : Option (Word × Word)
  halted : Bool
  /-- CDONE, or an end as if by it (R378). -/
  done : Bool
  /-- Counted time of a wave (R379). -/
  waveTime : Nat
  deriving DecidableEq, Repr

/-! ### Teams and launches -/

/-- A barrier (R362). -/
structure Barrier where
  gen : BitVec 16
  arrived : BitVec 24
  count : BitVec 24
  deriving DecidableEq, Repr

/-- A landing slot (R312). -/
inductive LandState where
  | idle | armed | filled
  deriving DecidableEq, Repr

/-- A landing slot (R312). -/
structure Land where
  st : LandState
  base : Nat
  len : Nat
  want : Nat
  /-- Arrivals accepted, and those of them that are written. -/
  got : Nat
  wrote : Nat
  gen : Nat
  deriving DecidableEq, Repr

/-- A tile's holder (R323). -/
inductive Holder where
  | free
  | group (g : GroupId)
  | engine (lid : Nat)
  deriving DecidableEq, Repr

/-- A tile (R323, R357); residues keyed by (row × 128 + column) × 10 + channel. -/
structure Tile where
  res : Sparse Nat
  fmt : AccFmt
  e : Nat
  td : ResTy
  scale : Bool
  ovf : Bool
  ovfpos : Nat
  clamp : Bool
  det : Bool
  ccount : Nat
  holder : Holder
  deriving DecidableEq, Repr

/-- A team that has been dispatched (R59). -/
structure Team where
  num : Nat
  /-- Home core, and the other core of a pair. -/
  core : Nat
  core2 : Option Nat
  /-- The tower that holds its range (R96, R99, R398). -/
  tower : Nat
  urgent : Bool
  resident : Bool
  faulted : Bool
  scratch : Sparse Byte
  /-- Poisoned 8-byte words of the scratchpad, by number, rising (R416). -/
  bad : List Nat
  bars : Sparse Barrier
  lands : Sparse Land
  /-- The tiles of its groups while it is saved (R396): group, tile number and contents. -/
  tiles : List (GroupId × Nat × Tile)
  deriving DecidableEq, Repr

/-- A run of undispatched teams on one tower, `first` to `last - 1`, and the pod of the tower that its distributor
has given it to (R96, R99). -/
structure Range where
  first : Nat
  last : Nat
  tower : Nat
  pod : Option Nat
  deriving DecidableEq, Repr

/-- One request to a combinable object (R372). -/
structure Request where
  op : Nat
  caller : GroupId
  lane : Nat
  obj : Addr
  /-- The tower and slice of the object's home, in the part's own memory (R287, R372). -/
  home : Option (Nat × Nat)
  arg0 : Lane
  arg1 : Lane
  item : Nat
  deriving DecidableEq, Repr

/-- A registered object (R368, R369): `queue` in order of acceptance. -/
structure Obj where
  addr : Addr
  /-- Its home: tower and slice (R287, R370). -/
  home : Nat × Nat
  size : Nat
  entry : Addr
  win : Nat
  batch : Nat
  ctx : Word
  queue : List Request
  /-- The requests of the running wave, by lane. -/
  wave : Option (List Request)
  held : Bool
  deriving DecidableEq, Repr

/-- A publish that a later item may still read (R225 to R234); `j` counts from 1. -/
structure Publish where
  item : Nat
  slot : Nat
  j : Nat
  val : Lane
  /-- It lies in the spill area. -/
  spilled : Bool
  /-- The successor has read it (R233). -/
  seen : Bool
  deriving DecidableEq, Repr

/-- The value of the slots of a retired item (R229). -/
structure Final where
  item : Nat
  slot : Nat
  val : Lane
  spilled : Bool
  seen : Bool
  deriving DecidableEq, Repr

/-- A launch fault record that waits to be written (R388, R389), without NUM and TIME. -/
structure FaultRec where
  kind : Nat
  reason : Nat
  cause : Nat
  lvl : Nat
  x : Bool
  w : Bool
  engine : Bool
  deferred : Bool
  addr : Word
  epc : Word
  tval : Word
  team : Nat
  group : Nat
  core : Nat
  deriving DecidableEq, Repr

/-- A live launch. -/
structure Launch where
  lid : Nat
  /-- The launch record as it was accepted (R78). -/
  record : BitVec 2048
  /-- lay0 to lay63 (R70). -/
  layouts : List (BitVec 320)
  age : Nat
  /-- The queue pair that carried the record; none for LAUNCH (R89). -/
  qp : Option Nat
  supervisor : Bool
  started : Bool
  /-- Launches of NPRED ids that were live at acceptance and have not completed (R92). -/
  preds : List Nat
  /-- A predecessor failed (R92). -/
  predFailed : Bool
  /-- Ranges that the chip distributor has sent to towers (R96), and what is left of them. -/
  sentRanges : Nat
  ranges : List Range
  teams : List Team
  /-- Teams retired or faulted. -/
  ended : Nat
  anyFault : Bool
  /-- Aborted by a fault, or by ABORT (R86, R387). -/
  aborted : Bool
  cancelled : Bool
  grid : Sparse Barrier
  /-- pb0 to pb3 of each pod set: set × 4 + number. -/
  podBars : Sparse Barrier
  objects : List Obj
  publishes : List Publish
  finals : List Final
  /-- The items that have retired, in a launch with RUNNER: by group of the launch, a mask of its lanes (R229). -/
  outItems : Sparse Nat
  records : List FaultRec
  /-- Bytes of the save area in use (R397), and the translation fault on which a save is held: address and
  level. -/
  saved : Nat
  saveHeld : Option (Nat × Nat)
  /-- The header of its save area was found uncorrectable, which the journal holds once (R391, R397). -/
  headerBad : Bool
  /-- Engine-held tiles of a launch that is saved whole: the pod they left, tile number and contents (R396). -/
  tiles : List (Nat × Nat × Tile)
  deriving DecidableEq, Repr

/-! ### Engines -/

/-- One side of a box: its record number, base and extents (R272, R304). -/
structure Side where
  lay : Nat
  base : Word
  ext : List Nat
  deriving DecidableEq, Repr

/-- What a CPY or CPYM reads at issue (R304, R315). -/
structure CopyArgs where
  srcLocal : Bool
  dstLocal : Bool
  src : Side
  dst : Side
  done : Word
  perm : Word
  org : List Int
  seq : Nat
  deriving DecidableEq, Repr

/-- One arrival of a CPYM (R317): its target, the generation under which it was accepted, and its outcome
once it is known. -/
structure Arrival where
  k : Nat
  team : Nat
  /-- Its number in the order in which arrivals were sent (R295). -/
  seq : Nat
  gen : Option Nat
  reason : Option Nat
  deriving DecidableEq, Repr

/-- An element or a scale byte to write: bit address, width and value. -/
structure Put where
  bit : Nat
  w : Nat
  v : Nat
  deriving DecidableEq, Repr

/-- What a copy has read and converted (R305, R306, R310): what it writes, the status bits it raised, the
first element that raised NONFINITE or SATURATED, and the elements of its box. -/
structure BoxOut where
  puts : List Put
  nonfinite : Bool
  saturated : Bool
  inexact : Bool
  first : Option Nat
  elems : Nat
  deriving DecidableEq, Repr

/-- What a drain reads at issue (R350, R353). -/
structure DrainArgs where
  tile : Nat
  row0 : Nat
  rows : Nat
  rm : RMode
  trp : Bool
  shift : Int
  /-- The lanes that were live: a lane that exits later receives nothing (R194). -/
  live : Mask
  deriving DecidableEq, Repr

/-- An engine operation of a group, with the operands it read at issue. -/
inductive OpKind where
  | cpy (a : CopyArgs)
  /-- `sent` is absent until the engine has read the source, once. -/
  | cpym (a : CopyArgs) (slot : Nat) (targets : Word) (sent : Option (BoxOut × List Arrival))
  | cbld (book : Nat) (image done : Word) (seq : Nat)
  /-- The global address, its physical one, and the scratchpad address. -/
  | fetch (ga pa la : Addr)
  | post (ga pa la : Addr)
  | mma
  | drain (a : DrainArgs) (td : ResTy) (d : Nat)
  | drainm (a : DrainArgs) (loc : Bool) (dst : Side)
  | acst (tile : Nat) (base : Word) (radd : Option Scope) (loc : Bool)
  | acld (tile : Nat) (base : Word) (add : Bool) (fmt : AccFmt) (td : ResTy) (e : Nat) (loc : Bool)
  /-- OCALL: requests sent and not yet accepted, and replies on their way: lane, value, status. -/
  | ocall (sent : List Request) (d : Nat) (coming : List (Nat × Lane × Nat)) (waiting : List Nat)
  deriving DecidableEq, Repr

/-- An operation issued and not complete (R297). -/
structure Op where
  n : Nat
  gid : GroupId
  cls : Option Cls
  addr : Addr
  kind : OpKind
  /-- Held on a translation fault: the address and the level (R308, R356). -/
  fault : Option (Addr × Nat)
  /-- It waits for a page walk. -/
  walk : Option (Addr × Bool)
  deriving DecidableEq, Repr

/-- A code book (R34): entries by code. -/
structure Book where
  entries : Sparse Int
  ordered : Bool
  deriving DecidableEq, Repr

/-- A rendezvous latch (R328). -/
structure Latch where
  team : Nat
  lid : Nat
  arrived : List Arrived
  deriving DecidableEq, Repr

/-- A granted pass (R331): its operands as integers, by row of A and by column of B. -/
structure Pass where
  lid : Nat
  ops : List (GroupId × Nat)
  tile : Nat
  a : List (List Int)
  b : List (List Int)
  /-- The scale of each row and column; none when both sides are unscaled (R321). -/
  scales : Option (List Nat × List Nat)
  granted : Nat
  level : Nat
  prio : Nat
  deriving DecidableEq, Repr

/-- An injected fault and the course it takes (R359). -/
structure Injected where
  tile : Nat
  pos : Nat
  chan : Nat
  mode : MinjMode
  deriving DecidableEq, Repr

/-- A pattern pass that waits for a free tile (R337). -/
structure Pattern where
  chan : Nat
  /-- The elements whose write-back failed: tile and position. -/
  spots : List (Nat × Nat)
  hard : Bool
  deriving DecidableEq, Repr

/-- The engines of one pod. -/
structure Pod where
  books : Sparse Book
  tiles : Sparse Tile
  latches : List Latch
  table : List Pass
  running : Option Pass
  /-- Containment: TOTAL and bits 63:0 without POD (R358). -/
  total : Nat
  event : Option (Nat × Nat × Nat × Nat)
  retired : List Nat
  stopped : Bool
  injected : List Injected
  patterns : List Pattern
  /-- Reconstructions that the engine's fault has still to make wrong (R336). -/
  misreads : Nat
  /-- The pod set that holds pb0 to pb3: launch and set (R361). -/
  podset : Option (Nat × Nat)
  deriving DecidableEq, Repr

/-- A byte held by an L1: whether it has still to be written back (R240), whether it lies in an object page (R287),
and whether its word in the core store is poisoned (R416). -/
structure Cached where
  val : Byte
  dirty : Bool
  obj : Bool
  bad : Bool
  deriving DecidableEq, Repr

/-- What the levels below L1 hold of a 32-byte sector (R17, R240): the home L2 slice and the owning tower's MSC, each
with whether its copy is dirty. -/
structure Sector where
  /-- The slice of its tower that is its home (R287). -/
  slice : Nat
  l2 : Option Bool
  msc : Option Bool
  /-- Accesses to it wait at its home for its stack (R419, R421). -/
  waits : Bool
  deriving DecidableEq, Repr

/-- A translation that a TLB holds (R291): the virtual page and the leaf entry. -/
structure Tlb where
  base : Nat
  size : Nat
  pte : Word
  deriving DecidableEq, Repr

/-! ### Host, masters and journal -/

/-- A region registered for RDMA (R86). -/
structure Region where
  rkey : BitVec 32
  base : Nat
  len : Nat
  rd : Bool
  wr : Bool
  deriving DecidableEq, Repr

/-- A message to the host (R89), without TIME. -/
structure Msg where
  qp : Option Nat
  kind : Nat
  status : Nat
  lid : Nat
  arg : Word
  detail : BitVec 256
  seq : BitVec 32
  deriving DecidableEq, Repr

/-- What the part sends on a queue pair: a 64-byte SEND, the data of a READ, or a remote access error. -/
inductive Sent where
  | msg (m : BitVec 512)
  | data (bs : List Byte)
  | nak
  deriving DecidableEq, Repr

/-- An answer that is owed for an access which waits at its home (R419, R421): to a UALink peer or on a queue pair,
by its number, with the channels that the access needs. -/
structure Owed where
  peer : Bool
  dest : Nat
  chans : List (Nat × Nat)
  ans : Sent
  deriving DecidableEq, Repr

/-- A journal entry (R411). -/
structure Entry where
  seq : Nat
  time : Nat
  kind : Nat
  src : Nat
  detail : Nat
  unit : Nat
  count : Nat
  loc : Word
  chain : BitVec 256
  deriving DecidableEq, Repr

/-- What an event puts into its entry (R411 to R413). -/
structure Noted where
  kind : Nat
  detail : Nat
  src : Nat
  unit : Nat
  loc : Word
  deriving DecidableEq, Repr

/-- The error journal (R410 to R415). -/
structure Journal where
  entries : List Entry
  next : Nat
  chain : BitVec 256
  /-- Entries of room left in the flash. -/
  room : Nat
  /-- Events of kinds 1 and 2 counted while room is short, with their count. -/
  folded : List (Noted × Nat)
  /-- Events that wait for room. -/
  waiting : List Noted
  /-- SEQs of checkpoints that JREAD has returned. -/
  exported : List Nat
  segments : Nat
  /-- The SEQ of the latest checkpoint (R431). -/
  lastCheckpoint : Nat
  /-- Segments closed whose message has still to arise (R89, R414). -/
  unsent : List Nat
  deriving DecidableEq, Repr

/-- An HBM4 stack (R418 to R421). A row is named by the offset of its first sector in the stack. -/
structure Stack where
  /-- In forced self-refresh (R421). -/
  forced : Bool
  /-- Rows whose channel is quiesced, and since which core clock. -/
  quiesced : List (Nat × Nat)
  /-- Rows repaired softly since the last reset. -/
  soft : List Nat
  /-- Repair candidates, and since which core clock. -/
  candidates : List (Nat × Nat)
  /-- Activation-counter events: row and core clock (R420). -/
  acts : List (Nat × Nat)
  deriving DecidableEq, Repr

/-- A UALink station (R424). -/
structure Station where
  up : Bool
  vendor : Bool
  deriving DecidableEq, Repr

/-- The management settings and the controller's standing (R427 to R430). -/
structure Mgmt where
  key : Option (BitVec 256)
  source : BitVec 128
  lastSeq : Option Nat
  frozen : Bool
  hostFrozen : Bool
  super : BitVec 64
  closed : BitVec 64
  accepted : BitVec 1024
  cap : Nat
  /-- The pieces of an image that FWLOAD has brought so far, and whole images that replace the running ones at the next
  reset, by what they are for (R430). -/
  staged : List Byte
  ready : Sparse (List Byte)
  /-- The images that run, of the distributors (0), the journal controller (1) and the HBM4 controllers (2): those that
  FWLOAD brought; no bytes, the one with which the part was made (R430). -/
  running : Sparse (List Byte)
  /-- Answers sent: the frame and its address. -/
  answers : List (BitVec 128 × Frame)
  deriving DecidableEq, Repr

/-- Where a storage error is found (R413, R416, R418): a word of a group's window, of a scratchpad or of L1
data, by its number or address and its store offset; a sector in L2 or the MSC, changed since it was fetched or
not; a sector of a stack, with its row. -/
inductive Site where
  | reg (g : GroupId) (word ofs : Nat)
  | scratch (lid team word ofs : Nat)
  | l1 (core : Nat) (pa : Addr) (ofs : Nat)
  | l2 (pod : Nat) (pa : Addr) (dirty : Bool)
  | msc (bank : Nat) (pa : Addr) (dirty : Bool)
  | hbm (pa : Addr) (row : Nat)
  deriving DecidableEq, Repr

/-- What the re-read of a word that was read in error shows (R416): no error, a single-bit one that is still there
after the write-back or is not, or a double-bit one. -/
inductive Reread where
  | clean
  | single (lasting : Bool)
  | double
  deriving DecidableEq, Repr

/-- What happens next in the part: a group issues, or an event of the opcode table, or the silicon fails, or a cache
or a TLB gives up what it holds, or time passes. -/
inductive Act where
  | issue (g : GroupId)
  | event (i : Instr)
  /-- A read finds a storage error. -/
  | flaw (x : Site) (r : Reread)
  /-- A residue of a tile becomes wrong by a difference. -/
  | upset (pod tile pos chan d : Nat) (mode : MinjMode)
  /-- The next reconstructions of an engine are wrong. -/
  | misread (pod n : Nat)
  /-- A core's L1 writes back and drops a line; the TLBs drop the translations of an address. -/
  | evict (core : Nat) (pa : Addr)
  /-- A home L2 slice writes back a dirty sector to the MSC, or the MSC to HBM4. -/
  | settle (pa : Addr)
  | evictTlb (va : Addr)
  | tick (n : Nat)
  deriving DecidableEq, Repr

/-- The part. -/
structure State where
  /-- What happens next, in order (log 1). -/
  agenda : List Act
  /-- The group an instruction acts for (log 1). -/
  cur : GroupId
  /-- The counter of the free values of Config (log 2). -/
  free : Nat
  nextOp : Nat
  power : Bool
  /-- Core clocks since reset (R128). -/
  clock : Nat
  /-- The part's memory below L1, by physical address. -/
  mem : List Host.Cell
  /-- Poisoned 32-byte sectors, by number: 16, and a bit for each of the four words that no write has covered whole
  since (R289, R416). -/
  poison : Sparse Nat
  l1 : Sparse (Sparse (Option Cached))
  /-- What L2 and the MSC hold, by the number of the 32-byte sector (R17, R240, R416). -/
  sectors : Sparse Sector
  /-- The TLBs, the latest entry first: of core c under c, of tower t under 1,024 + t (R291). -/
  tlb : Sparse (List Tlb)
  /-- The translation root (R405). -/
  troot : Word
  partNum : Option Nat
  pods : Sparse Pod
  groups : List Group
  launches : List Launch
  ops : List Op
  nextAge : Nat
  /-- Retired pods, cores, and channels retired before launches (R103, R423). -/
  podsOut : List Nat
  coresOut : List Nat
  /-- Units to retire when no launch is live, with the number of the test that failed (R103, R422). -/
  toRetire : List (TestUnit × Option Nat)
  /-- Lasting words of core stores, by core × 2^22 + store offset, rising; spare units used, by core × 64 + bank
  (R417). -/
  lasting : List Nat
  spares : Sparse Nat
  /-- The core clock of each core's last issue (R156). -/
  coreIssue : Sparse Nat
  /-- The pod map since it was rebuilt: the physical pod of each logical number in order; as made, each number
  names the pod of its own number (R103). -/
  podMap : Option (List Nat)
  qps : List Nat
  regions : List Region
  nextRegion : Nat
  seq : BitVec 32
  held : List Msg
  sent : List (Nat × Sent)
  mgmt : Mgmt
  journal : Journal
  /-- PTP time minus the part's own nanoseconds, once synchronised (R84, R411). -/
  ptp : Option Int
  hbm : Sparse Stack
  stations : Sparse Station
  /-- Answers sent to UALink peers, by source part (R424, R425). -/
  toPeers : List (Nat × Sent)
  /-- Answers owed for accesses that wait at their homes, in their order (R419, R421). -/
  owed : List Owed
  throttled : Bool
  deriving DecidableEq, Repr

/-- Why a run stops. No meaning raises it: every exception the manual describes is taken as a next
state (safe). -/
inductive Fault where
  /-- Raised by nothing in this model; it keeps the type inhabited (safe). -/
  | unused
  deriving DecidableEq, Repr

/-- Why an instruction has no meaning. -/
inductive Refusal where
  /-- Raised by an arm of `exec` whose instruction is not modelled yet (safe). -/
  | notModelled (mnemonic : String)
  deriving DecidableEq, Repr

/-! ### Defaults of numbered entries -/

def Batch.empty : Batch := ⟨[], [], 0⟩

def Batches.empty : Batches := ⟨Batch.empty, [], 0⟩

/-- A barrier as a team, pod set or launch starts it (R362). -/
def Barrier.zero : Barrier := ⟨0, 0, 0⟩

/-- A landing slot as a team starts it (R312). -/
def Land.idle : Land := ⟨.idle, 0, 0, 0, 0, 0, 0⟩

/-- A tile at reset and after release (R323, R324). -/
def Tile.zero : Tile := ⟨[], .acc64, 254, .s64, false, false, 0, false, false, 0, .free⟩

/-- A book before any CBLD: DESIGN CHOICE (log 4). -/
def Book.empty : Book := ⟨[], false⟩

def Pod.zero : Pod := ⟨[], [], [], [], none, 0, none, [], false, [], [], 0, none⟩

def Stack.zero : Stack := ⟨false, [], [], [], []⟩

/-- A sector that neither L2 nor the MSC holds. -/
def Sector.none : Sector := ⟨0, Option.none, Option.none, false⟩

/-- A station is down at reset (R425). -/
def Station.down : Station := ⟨false, false⟩

/-- The journal as the part is made (R410, R411). The room of the flash is not given: the 64 MiB that
R434 asks for, at 64 bytes an entry. DESIGN CHOICE, unsafe (log 15). -/
def Journal.made : Journal := ⟨[], 0, 0, 1048576, [], [], [], 0, 0, []⟩

/-- The settings after a reset of a part that is not provisioned (R427, R428). -/
def Mgmt.made : Mgmt :=
  { key := none, source := 0, lastSeq := none, frozen := false, hostFrozen := false,
    super := 0x8000000000000000, closed := 0, accepted := 0, cap := 5800, staged := [], ready := [], running := [],
    answers := [] }

/-- The part right after its first reset: no launch, memory with nothing listed, every setting as R428,
R323, R362 and R405 give it. -/
def State.reset : State :=
  { agenda := [], cur := .wave 0 0, free := 0, nextOp := 0, power := true, clock := 0, mem := [],
    poison := [], l1 := [], sectors := [], tlb := [], troot := 0, partNum := none, pods := [], groups := [],
    launches := [], ops := [], nextAge := 0, podsOut := [], coresOut := [], toRetire := [], lasting := [], spares := [],
    coreIssue := [], podMap := none,
    qps := [], regions := [], nextRegion := 0, seq := 0, held := [], sent := [], mgmt := Mgmt.made,
    journal := Journal.made, ptp := none, hbm := [], stations := [], toPeers := [], owed := [], throttled := false }

end Sys2Proof.Machine
end

