-- ==== Sys2Proof/Machine/Flags.lean ====
section
/-! DEFINITION. The five sticky flags of %fflags (R32). -/

namespace Sys2Proof.Machine

/-- The flags that one operation raises, in the order of %fflags: NV, DZ, OF, UF, NX. -/
abbrev Flags := BitVec 5

namespace Flags

def none : Flags := 0
def nx : Flags := 1
def uf : Flags := 2
def ovf : Flags := 4
def dz : Flags := 8
def nv : Flags := 16

/-- One flag, when a condition holds. -/
def when (c : Bool) (f : Flags) : Flags := if c then f else 0

/-- The OR of the flags raised by several lanes (R32). -/
def all (l : List Flags) : Flags := l.foldl (· ||| ·) 0

/-- %fflags as a 64-bit register (R32). -/
def toWord (f : Flags) : Word := f.setWidth 64

end Flags

end Sys2Proof.Machine
end

