-- ==== Sys2Proof/Machine/Float.lean ====
section
/-! DEFINITION. Floating point (R27 to R33, R200 to R207): each result is the exact value, rounded once.
An exact value is a sign, a natural number and a power of two; a sticky mark stands for a remainder
that lies strictly between 0 and one unit of the last place kept. -/

namespace Sys2Proof.Machine

/-- A floating-point format: exponent bits and fraction bits (R27). -/
structure FFmt where
  eb : Nat
  fb : Nat
  deriving DecidableEq, Repr

namespace FFmt

def f32 : FFmt := ⟨8, 23⟩
def f64 : FFmt := ⟨11, 52⟩
def bf16 : FFmt := ⟨8, 7⟩

/-- The width of the format. -/
def width (f : FFmt) : Nat := f.eb + f.fb + 1
/-- The bias of the exponent (R27). -/
def bias (f : FFmt) : Nat := 2 ^ (f.eb - 1) - 1
/-- The all-ones exponent field (R28). -/
def emax (f : FFmt) : Nat := 2 ^ f.eb - 1
/-- The exponent of the least normal value. -/
def emin (f : FFmt) : Int := 1 - (f.bias : Int)
/-- The canonical NaN (R29). -/
def nan (f : FFmt) : Nat := f.emax * 2 ^ f.fb + 2 ^ (f.fb - 1)
/-- An infinity (R28). -/
def inf (f : FFmt) (neg : Bool) : Nat := (if neg then 2 ^ (f.eb + f.fb) else 0) + f.emax * 2 ^ f.fb
/-- The largest finite value of a sign (R27). -/
def big (f : FFmt) (neg : Bool) : Nat := f.inf neg - 1
/-- A zero (R28). -/
def zero (f : FFmt) (neg : Bool) : Nat := if neg then 2 ^ (f.eb + f.fb) else 0

end FFmt

/-- The format of a float type (R27). -/
def fmtOf : Ty → FFmt
  | .f64 => .f64
  | .bf16 => .bf16
  | _ => .f32

/-- What an encoding stands for (R28): a NaN, an infinity, or ± m × 2^e. -/
inductive Num where
  | nan (signalling : Bool)
  | inf (neg : Bool)
  | fin (neg : Bool) (m : Nat) (e : Int)
  deriving DecidableEq, Repr

namespace Num

def isNan : Num → Bool
  | nan _ => true
  | _ => false

def isSnan : Num → Bool
  | nan s => s
  | _ => false

/-- An integer as an exact value. -/
def ofInt (x : Int) : Num := fin (x < 0) x.natAbs 0

/-- The value without its sign bit's meaning changed: negated (R201). -/
def neg : Num → Num
  | nan s => nan s
  | inf n => inf (!n)
  | fin n m e => fin (!n) m e

/-- Multiplied by a power of two. -/
def scale (k : Int) : Num → Num
  | fin n m e => fin n m (e + k)
  | x => x

/-- A finite value as an integer multiple of 2^k, for a k at or below its exponent. -/
def atExp (k : Int) : Num → Int
  | fin n m e => (if n then -1 else 1) * (m * 2 ^ (e - k).toNat : Nat)
  | _ => 0

/-- The exponent of a finite value. -/
def exp : Num → Int
  | fin _ _ e => e
  | _ => 0

end Num

/-- An encoding read in its format (R28). -/
def unpack (f : FFmt) (x : Nat) : Num :=
  let frac := x % 2 ^ f.fb
  let ex := x / 2 ^ f.fb % 2 ^ f.eb
  let neg := x / 2 ^ (f.eb + f.fb) % 2 == 1
  if ex = f.emax then
    if frac = 0 then .inf neg else .nan (frac < 2 ^ (f.fb - 1))
  else if ex = 0 then .fin neg frac (f.emin - f.fb)
  else .fin neg (2 ^ f.fb + frac) ((ex : Int) - f.bias - f.fb)

/-- Whether rounding away from zero is due: `odd` the last bit kept, `r` the remainder below `2 * h`
where `h` is one half, `st` a further remainder below the last place of `r` (R30). -/
def roundsUp (mode : RMode) (neg odd : Bool) (r h : Nat) (st : Bool) : Bool :=
  match mode with
  | .rne => r > h || (r == h && (st || odd))
  | .rtz => false
  | .rdn => neg && (r != 0 || st)
  | .rup => !neg && (r != 0 || st)

/-- m × 2^e as a multiple of 2^q, rounded; whether the result differs (R30). -/
def quantum (mode : RMode) (neg : Bool) (m : Nat) (e : Int) (st : Bool) (q : Int) : Nat × Bool :=
  if q ≤ e then
    let k := m * 2 ^ (e - q).toNat
    (if roundsUp mode neg (k % 2 == 1) 0 1 st then k + 1 else k, st)
  else
    let s := (q - e).toNat
    let k := m / 2 ^ s
    let r := m % 2 ^ s
    (if roundsUp mode neg (k % 2 == 1) (2 * r) (2 ^ s) st then k + 1 else k, r != 0 || st)

/-- `round` of a non-zero exact value ± (m + sticky) × 2^e, with the flags of R31. -/
def roundNZ (f : FFmt) (mode : RMode) (neg : Bool) (m : Nat) (e : Int) (st : Bool) : Nat × Flags :=
  let top : Int := e + Nat.log2 m
  let qU := top - f.fb
  let q := max qU (f.emin - f.fb)
  let (k, inexact) := quantum mode neg m e st q
  let sign := if neg then 2 ^ (f.eb + f.fb) else 0
  let tiny := top < f.emin &&
    !(top + 1 == f.emin && (quantum mode neg m e st qU).1 == 2 ^ (f.fb + 1))
  let fl := Flags.when inexact .nx ||| Flags.when (inexact && tiny) .uf
  if k < 2 ^ f.fb then (sign + k, fl)
  else
    let (k, q) := if k = 2 ^ (f.fb + 1) then (2 ^ f.fb, q + 1) else (k, q)
    let ex := q + f.fb + f.bias
    if ex ≥ f.emax then
      let toInf := match mode with
        | .rne => true
        | .rtz => false
        | .rdn => neg
        | .rup => !neg
      (if toInf then f.inf neg else f.big neg, .ovf ||| .nx)
    else (sign + ex.toNat * 2 ^ f.fb + (k - 2 ^ f.fb), fl)

/-- `round(x, t, mode)` of an exact value, or of a value with a remainder (R30, R31). -/
def roundTo (f : FFmt) (mode : RMode) (neg : Bool) (m : Nat) (e : Int) (st : Bool := false) : Nat × Flags :=
  if m = 0 && !st then (f.zero neg, 0) else roundNZ f mode neg m e st

/-- `round` of a number: NaNs become the canonical NaN without a flag of their own (R29). -/
def Num.round (f : FFmt) (mode : RMode) : Num → Nat × Flags
  | .nan _ => (f.nan, 0)
  | .inf n => (f.inf n, 0)
  | .fin n m e => roundTo f mode n m e

/-- NV for a signalling operand (R29). -/
def snanFlag (l : List Num) : Flags := Flags.when (l.any Num.isSnan) .nv

/-- The exact sum; a zero sum of opposite signs takes the sign of R30. `none` is ∞ − ∞. -/
def addNum (mode : RMode) : Num → Num → Option Num
  | .inf a, .inf b => if a = b then some (.inf a) else none
  | .inf a, _ => some (.inf a)
  | _, .inf b => some (.inf b)
  | .fin na ma ea, .fin nb mb eb =>
    let k := min ea eb
    let s := (Num.fin na ma ea).atExp k + (Num.fin nb mb eb).atExp k
    if s = 0 then
      some (.fin (if ma = 0 && mb = 0 && na = nb then na
        else if ma ≠ 0 && na = nb then na else mode == .rdn) 0 0)
    else some (.fin (s < 0) s.natAbs k)
  | a, _ => some a

/-- The exact product; `none` is 0 × ∞. -/
def mulNum : Num → Num → Option Num
  | .fin na ma ea, .fin nb mb eb => some (.fin (na != nb) (ma * mb) (ea + eb))
  | .inf a, .inf b => some (.inf (a != b))
  | .inf a, .fin nb mb _ => if mb = 0 then none else some (.inf (a != nb))
  | .fin na ma _, .inf b => if ma = 0 then none else some (.inf (na != b))
  | a, _ => some a

/-- The result of an operation on encodings: NaN operands first, then the exact result (R200, R201). -/
def finish (f : FFmt) (mode : RMode) (ops : List Num) (r : Option Num) : Nat × Flags :=
  if ops.any Num.isNan then (f.nan, snanFlag ops)
  else match r with
    | none => (f.nan, .nv)
    | some x => x.round f mode

def fadd (f : FFmt) (mode : RMode) (a b : Nat) : Nat × Flags :=
  let (x, y) := (unpack f a, unpack f b)
  finish f mode [x, y] (addNum mode x y)

def fsub (f : FFmt) (mode : RMode) (a b : Nat) : Nat × Flags :=
  let (x, y) := (unpack f a, unpack f b)
  finish f mode [x, y] (addNum mode x y.neg)

def fmul (f : FFmt) (mode : RMode) (a b : Nat) : Nat × Flags :=
  let (x, y) := (unpack f a, unpack f b)
  finish f mode [x, y] (mulNum x y)

/-- a × b + c with one rounding; 0 × ∞ is invalid whatever c holds (R201). -/
def ffma (f : FFmt) (mode : RMode) (a b c : Nat) : Nat × Flags :=
  let (x, y, z) := (unpack f a, unpack f b, unpack f c)
  if x.isNan || y.isNan then (f.nan, snanFlag [x, y, z])
  else match mulNum x y with
    | none => (f.nan, .nv)
    | some p => finish f mode [p, z] (addNum mode p z)

/-- a < b of numbers that are no NaN, −0 and +0 being equal. -/
def numLt : Num → Num → Bool
  | .inf a, .inf b => a && !b
  | .inf a, _ => a
  | _, .inf b => !b
  | a, b => let k := min a.exp b.exp; a.atExp k < b.atExp k

/-- a = b of numbers that are no NaN, −0 and +0 being equal. -/
def numEq (a b : Num) : Bool := !numLt a b && !numLt b a

/-- The sign of a number. -/
def Num.sign : Num → Bool
  | .inf n => n
  | .fin n _ _ => n
  | .nan _ => false

/-- FMIN's order: −0 lies below +0 (R202). -/
def numBelow (a b : Num) : Bool := numLt a b || (numEq a b && a.sign && !b.sign)

/-- FMIN and FMAX (R202): one operand unchanged, or the canonical NaN. -/
def fminmax (f : FFmt) (isMax : Bool) (a b : Nat) : Nat × Flags :=
  let (x, y) := (unpack f a, unpack f b)
  let fl := snanFlag [x, y]
  if x.isNan then (if y.isNan then f.nan else b, fl)
  else if y.isNan then (a, fl)
  else (if (if isMax then numBelow x y else numBelow y x) then b else a, fl)

/-- FSETP (R203). -/
def fcompare (f : FFmt) (c : Cmp) (a b : Nat) : Bool × Flags :=
  let (x, y) := (unpack f a, unpack f b)
  let un := x.isNan || y.isNan
  let fl := snanFlag [x, y]
  match c with
  | .eq => (!un && numEq x y, 0)
  | .ne => (un || !numEq x y, 0)
  | .lt => (!un && numLt x y, fl)
  | .le => (!un && !numLt y x, fl)
  | .gt => (!un && numLt y x, fl)
  | .ge => (!un && !numLt x y, fl)
  | .nan => (un, 0)
  | .num => (!un, 0)

/-- The bits that a quotient keeps beyond its divisor: enough for every format. -/
def guardBits : Nat := 128

/-- FDIV (R204). -/
def fdiv (f : FFmt) (mode : RMode) (a b : Nat) : Nat × Flags :=
  let (x, y) := (unpack f a, unpack f b)
  if x.isNan || y.isNan then (f.nan, snanFlag [x, y])
  else match x, y with
    | .inf n, .inf _ => (f.nan, Flags.when (n || !n) .nv)
    | .inf n, .fin nb _ _ => (f.inf (n != nb), 0)
    | .fin n _ _, .inf nb => (f.zero (n != nb), 0)
    | .fin n m e, .fin nb mb eb =>
      if mb = 0 then (if m = 0 then (f.nan, .nv) else (f.inf (n != nb), .dz))
      else if m = 0 then (f.zero (n != nb), 0)
      else
        let num := m * 2 ^ guardBits
        roundTo f mode (n != nb) (num / mb) (e - eb - guardBits) (num % mb != 0)
    | _, _ => (f.nan, 0)

/-- FRCP (R204). -/
def frcp (f : FFmt) (mode : RMode) (a : Nat) : Nat × Flags :=
  match unpack f a with
  | .nan s => (f.nan, Flags.when s .nv)
  | .inf n => (f.zero n, 0)
  | .fin n m e =>
    if m = 0 then (f.inf n, .dz)
    else
      let num := 2 ^ (2 * guardBits)
      roundTo f mode n (num / m) (-e - 2 * guardBits) (num % m != 0)

/-- The largest r with r² ≤ m among r + the numbers below 2^(fuel): the digits of a square root. -/
def isqrtAux (m : Nat) : Nat → Nat → Nat
  | 0, r => r
  | k + 1, r => isqrtAux m k (if (r + 2 ^ k) * (r + 2 ^ k) ≤ m then r + 2 ^ k else r)

/-- The integer square root. -/
def isqrt (m : Nat) : Nat := isqrtAux m (Nat.log2 m / 2 + 1) 0

/-- FSQRT (R204). -/
def fsqrt (f : FFmt) (mode : RMode) (a : Nat) : Nat × Flags :=
  match unpack f a with
  | .nan s => (f.nan, Flags.when s .nv)
  | .inf n => if n then (f.nan, .nv) else (f.inf false, 0)
  | .fin n m e =>
    if m = 0 then (f.zero n, 0)
    else if n then (f.nan, .nv)
    else
      let (m, e) := if e % 2 = 0 then (m, e) else (2 * m, e - 1)
      let v := m * 2 ^ (2 * guardBits)
      let r := isqrt v
      roundTo f mode false r (e / 2 - guardBits) (r * r != v)

/-! ### Powers and logarithms of two -/

/-- Bounds of 2^f in units of 2^−p: `fr` holds the fraction bits of f still to multiply in, `n` of them,
`lo` and `hi` bound 2^(2^−i) for the next bit, `plo` and `phi` the product so far. -/
def exp2Bits (p : Nat) : Nat → Nat → Nat → Nat → Nat → Nat → Nat × Nat
  | 0, _, _, _, plo, phi => (plo, phi)
  | n + 1, fr, lo, hi, plo, phi =>
    let lo' := isqrt (lo * 2 ^ p)
    let hi' := isqrt (hi * 2 ^ p) + 1
    let b := fr / 2 ^ n % 2 == 1
    exp2Bits p n fr lo' hi' (if b then plo * lo' / 2 ^ p else plo) (if b then phi * hi' / 2 ^ p + 1 else phi)

/-- 2^f for f = fr × 2^−n in 0 to 1, as a number of `keep` bits and a remainder: the first precision at
which both bounds agree, of `fuel` tries that each double it (log 16). -/
def exp2Frac (keep : Nat) : Nat → Nat → Nat → Nat → Nat
  | 0, p, n, fr => let one := 2 ^ p; (exp2Bits p n fr (2 * one) (2 * one) one one).1 / 2 ^ (p - keep)
  | fuel + 1, p, n, fr =>
    let one := 2 ^ p
    let (lo, hi) := exp2Bits p n fr (2 * one) (2 * one) one one
    if lo / 2 ^ (p - keep) = hi / 2 ^ (p - keep) then lo / 2 ^ (p - keep)
    else exp2Frac keep fuel (2 * p) n fr

/-- FEXP2 (R204). -/
def fexp2 (f : FFmt) (mode : RMode) (a : Nat) : Nat × Flags :=
  match unpack f a with
  | .nan s => (f.nan, Flags.when s .nv)
  | .inf n => (if n then f.zero false else f.inf false, 0)
  | .fin neg m e =>
    let top : Int := e + Nat.log2 m
    if m = 0 then roundTo f mode false 1 0
    else if top ≥ 13 then roundTo f mode false 1 (if neg then -9000 else 9000)
    else if top < -80 then
      if neg then roundTo f mode false (2 ^ 100 - 1) (-100) true
      else roundTo f mode false (2 ^ 100) (-100) true
    else
      let n := (-e).toNat
      let x : Int := (if neg then -1 else 1) * (m * 2 ^ e.toNat : Nat)
      let whole := x / (2 ^ n : Nat)
      let fr := (x % (2 ^ n : Nat)).toNat
      if fr = 0 then roundTo f mode false 1 whole
      else roundTo f mode false (exp2Frac 128 4 384 n fr) (whole - 128) true

/-- The first `n` bits of log2 of a number that lies between `lo` and `hi` in units of 2^−p, both from 1
to 2; none when the bounds do not decide a bit. -/
def log2Bits (p : Nat) : Nat → Nat → Nat → Nat → Option Nat
  | 0, _, _, acc => some acc
  | n + 1, lo, hi, acc =>
    let lo := lo * lo / 2 ^ p
    let hi := hi * hi / 2 ^ p + 1
    if lo ≥ 2 ^ (p + 1) then log2Bits p n (lo / 2) (hi / 2 + 1) (2 * acc + 1)
    else if hi < 2 ^ (p + 1) then log2Bits p n lo hi (2 * acc)
    else none

/-- The first `keep` bits of log2 of m × 2^−k, from 1 to 2, at the first precision that decides them, of
`fuel` tries (log 16). -/
def log2Frac (keep m k : Nat) : Nat → Nat → Nat
  | 0, _ => 0
  | fuel + 1, p =>
    match log2Bits p keep (m * 2 ^ (p - k)) (m * 2 ^ (p - k)) 0 with
    | some b => b
    | none => log2Frac keep m k fuel (2 * p)

/-- FLOG2 (R204). -/
def flog2 (f : FFmt) (mode : RMode) (a : Nat) : Nat × Flags :=
  match unpack f a with
  | .nan s => (f.nan, Flags.when s .nv)
  | .inf n => if n then (f.nan, .nv) else (f.inf false, 0)
  | .fin neg m e =>
    if m = 0 then (f.inf true, .dz)
    else if neg then (f.nan, .nv)
    else
      let k := Nat.log2 m
      let top : Int := e + k
      if m = 2 ^ k then roundTo f mode (top < 0) top.natAbs 0
      else
        let b := log2Frac 192 m k 4 512
        let v : Int := top * (2 ^ 192 : Nat) + b
        if v ≥ 0 then roundTo f mode false v.toNat (-192) true
        else roundTo f mode true (v.natAbs - 1) (-192) true

/-! ### Conversions (R33, R205, R206) -/

/-- An exact value rounded to an integer; whether it changed (R30). -/
def roundInt (mode : RMode) (neg : Bool) (m : Nat) (e : Int) : Int × Bool :=
  let (k, ch) := quantum mode neg m e false 0
  (if neg then -(k : Int) else k, ch)

/-- FROUND (R206): the integral value keeps the sign of the operand. -/
def fround (f : FFmt) (mode : RMode) (a : Nat) : Nat × Flags :=
  match unpack f a with
  | .nan s => (f.nan, Flags.when s .nv)
  | .inf n => (f.inf n, 0)
  | .fin n m e => if e ≥ 0 then (a, 0) else ((roundTo f mode n (quantum mode n m e false 0).1 0).1, 0)

/-- FCLASS (R207): the number of the one bit set. -/
def fclass (f : FFmt) (a : Nat) : Nat :=
  match unpack f a with
  | .nan true => 8
  | .nan false => 9
  | .inf n => if n then 0 else 7
  | .fin n m _ =>
    if m = 0 then (if n then 3 else 4)
    else if m < 2 ^ f.fb then (if n then 2 else 5)
    else (if n then 1 else 6)

/-- The least value of an integer type (R23). -/
def tyMin (t : Ty) : Int :=
  match t with
  | .s4 => -8
  | .s8 => -128
  | .s16 => -32768
  | .s32 => -2147483648
  | .s64 => -9223372036854775808
  | _ => 0

/-- The greatest value of an integer type (R23). -/
def tyMax (t : Ty) : Int :=
  match t with
  | .s4 => 7
  | .s8 => 127
  | .s16 => 32767
  | .s32 => 2147483647
  | .s64 => 9223372036854775807
  | .n8 => 255
  | .n16 => 65535
  | .n32 => 4294967295
  | .n64 => 18446744073709551615
  | _ => 0

/-- `sat(x, t)` (R25). -/
def satTo (t : Ty) (x : Int) : Int := max (tyMin t) (min x (tyMax t))

/-- A number to an integer type, with the flags of R33. -/
def numToInt (t : Ty) (mode : RMode) : Num → Int × Flags
  | .nan _ => (0, .nv)
  | .inf n => (if n then tyMin t else tyMax t, .nv)
  | .fin n m e =>
    let (k, ch) := roundInt mode n m e
    if k < tyMin t || k > tyMax t then (satTo t k, .nv) else (k, Flags.when ch .nx)

/-- A number to a float format, with the flags of R33: a NaN becomes canonical. An exact real that comes out tiny and
inexact raises UF as R31 says, which R33's row for exact reals does not name: DEDUCED (log 120). -/
def numToFloat (f : FFmt) (mode : RMode) (x : Num) : Nat × Flags :=
  let (r, fl) := x.round f mode
  (r, fl ||| Flags.when x.isSnan .nv)

end Sys2Proof.Machine
end

