-- ==== Sys2Proof/WellFormed.lean ====
section
/-! DEFINITION. Which instructions an encoding can stand for: the decode-time checks of R24, R118, R119,
R127 and of each instruction's own description that do not depend on the launch (R132, fifth rule). -/

namespace Sys2Proof

/-- The type fills an even-odd register pair (R24). -/
def Ty.wide : Ty → Bool
  | .s64 | .n64 | .f64 => true
  | _ => false

/-- Integer types, codes 0 to 7 (R169). -/
def Ty.isInt : Ty → Bool
  | .s32 | .n32 | .s64 | .n64 | .s16 | .n16 | .s8 | .n8 => true
  | _ => false

/-- Raw types, codes 9 and 3 (R169). -/
def Ty.isRaw : Ty → Bool
  | .b32 | .n64 => true
  | _ => false

/-- The types of float arithmetic (R200). -/
def Ty.isFloat : Ty → Bool
  | .f32 | .f64 => true
  | _ => false

/-- Every float format (R205). -/
def Ty.isAnyFloat : Ty → Bool
  | .f32 | .f64 | .bf16 => true
  | _ => false

/-- Signed integer types. -/
def Ty.signed : Ty → Bool
  | .s32 | .s64 | .s16 | .s8 | .s4 => true
  | _ => false

/-- Types whose codes are 0 to 8 (R182, R205). -/
def Ty.isCvtInt (t : Ty) : Bool := t.isInt || t == .s4

namespace WF

/-- A register that holds a 64-bit value must be even (R24). -/
def pair (wide : Bool) (r : BitVec 8) : Bool := !wide || !r.getLsbD 0

/-- A vector destination (R24, R118, R225). -/
def dst (wide : Bool) (d : VDst) : Bool :=
  pair wide d.reg && !(d.pub && d.tr) && !(wide && d.pub)

/-- Operand A (R24, R224). -/
def src (wide : Bool) (a : VSrc) : Bool :=
  pair wide a.reg && (!wide || a.k == 0)

/-- Operand B (R24). -/
def opB (wide : Bool) : OpB → Bool
  | .vec r => pair wide r
  | .scal _ => true
  | .lit _ => true

/-- Operand C (R24). -/
def opC (wide : Bool) : OpC → Bool
  | .vec r => pair wide r
  | .scal _ => true

/-- One source. `sat` says whether the instruction has `.sat`. -/
def v1 (ok : Ty → Bool) (sat : Bool) (dw : Ty → Bool) (o : V1) : Bool :=
  ok o.t && (sat || !o.sat) && dst (dw o.t) o.d && src o.t.wide o.a

/-- Two sources; `bw` says of which types B fills a pair. -/
def v2 (ok : Ty → Bool) (sat : Bool) (bw : Ty → Bool) (o : V2) : Bool :=
  ok o.t && (sat || !o.sat) && dst o.t.wide o.d && src o.t.wide o.a && opB (bw o.t) o.b

/-- Three sources. -/
def v3 (ok : Ty → Bool) (sat : Bool) (bw : Ty → Bool) (o : V3) : Bool :=
  ok o.t && (sat || !o.sat) && dst o.t.wide o.d && src o.t.wide o.a && opB (bw o.t) o.b
    && opC o.t.wide o.c

/-- The VI form. -/
def vimm (ok : Ty → Bool) (sat : Bool) (o : VImm) : Bool :=
  ok o.t && (sat || !o.sat) && dst o.t.wide o.d && src o.t.wide o.a

/-- A channel number (R42, R184). -/
def modSel : ModSel → Bool
  | .chan i => i.toNat ≤ 9
  | .operand => true

/-- The types of the modular instructions (R184). -/
def modTy : Ty → Bool
  | .s32 | .n32 | .s64 | .n64 => true
  | _ => false

def f1 (o : F1) : Bool := o.t.isFloat && dst o.t.wide o.d && src o.t.wide o.a

def f2 (rounds : Bool) (o : F2) : Bool :=
  o.t.isFloat && (rounds || o.rm == .rne) && dst o.t.wide o.d && src o.t.wide o.a && opB o.t.wide o.b

/-- LRED's and LSCAN's types of each operation (R217). -/
def redTy : RedOp → Ty → Bool
  | .add, t => t.isInt
  | .fadd, t => t.isFloat
  | .min, t | .max, t => t.isInt || t.isFloat
  | .and, t | .or, t | .xor, t => t.isRaw
  | .minidx, t | .maxidx, t => t == .s32 || t == .n32 || t == .f32

/-- The destination fills a pair: a 64-bit type, or a value with its index (R219). -/
def redWide (op : RedOp) (t : Ty) : Bool :=
  t.wide || op == .minidx || op == .maxidx

/-- The comparisons of ISETP and SSETP (R178). -/
def intCmp (c : Cmp) : Bool := c != .nan && c != .num

/-- Types of a plain access (R270). -/
def accTy (t : Ty) : Bool := t != .s4 && t != .c8

/-- Types of an access through a record (R273). -/
def recTy (t : Ty) : Bool := t.isInt || t.isAnyFloat || t == .b32

def access (t : Ty) (d : BitVec 8) (a : MAddr) : Bool :=
  pair t.wide d && match a with
    | .plain _ => accTy t
    | .record .. => recTy t

/-- The types and the data registers of an atomic (R276). -/
def atomOp (d : BitVec 8) : AtomOp → Bool
  | .add t | .min t | .max t => (t == .s32 || t == .n32 || t == .s64 || t == .n64) && pair t.wide d
  | .and w | .or w | .xor w | .exch w => pair w d
  | .cas false => pair true d
  | .cas true => d.toNat % 4 == 0
  | .radd c => c.toNat ≤ 9

/-- Barrier numbers (R127). -/
def bar (b : BitVec 6) : Bool := b.toNat ≤ 21

end WF

open WF in
/-- The instruction breaks none of the decode-time rules that its own fields decide. An event is
always well formed. The vector operand B of BFX, BFI and LEA may be odd: DEDUCED (log 28). -/
def wellFormed : Instr → Bool
  | .iadd o | .isub o | .imul o => v2 Ty.isInt true Ty.wide o
  | .imulh o | .idiv o | .irem o | .imin o | .imax o => v2 Ty.isInt false Ty.wide o
  | .imad o => v3 Ty.isInt true Ty.wide o
  | .iclamp o => v3 Ty.isInt false Ty.wide o
  | .iabs o => v1 (fun t => t.isInt && t.signed) true Ty.wide o
  | .ineg o => v1 Ty.isInt true Ty.wide o
  | .and o | .or o | .xor o | .andn o => v2 Ty.isRaw false Ty.wide o
  | .shl o | .shr o | .sar o | .rot o => v2 Ty.isRaw false Ty.wide o
  | .popc o | .clz o | .ctz o | .brev o => v1 Ty.isRaw false Ty.wide o
  | .bfx o => v2 modTy false (fun _ => false) o
  | .bfi o => v3 Ty.isRaw false (fun _ => false) o
  | .permb o => v3 (· == .b32) false (fun _ => false) o
  | .isetp o => intCmp o.cmp && o.t.isInt && src o.t.wide o.a && opB o.t.wide o.b
  | .sel o => o.t.isRaw && dst o.t.wide o.d && src o.t.wide o.a && opB o.t.wide o.b
  | .mov o => o.t.isRaw && dst o.t.wide o.d && (match o.src with
      | .vec a => src o.t.wide a
      | _ => true)
  | .movi o => o.t.isRaw && dst o.t.wide o.d
  | .cvti o => o.td.isCvtInt && o.ts.isCvtInt && dst o.td.wide o.d && src o.ts.wide o.a
  | .lea o => (o.t == .n32 || o.t == .n64) && dst o.t.wide o.d && src o.t.wide o.a && opB false o.b
  | .modred o => modSel o.m && modTy o.t && dst false o.d && src o.t.wide o.a
      && (match o.m, o.b with
        | .chan _, none => true
        | .operand, some b => opB false b
        | _, _ => false)
  | .modadd o | .modmul o => modSel o.m && (o.t == .s32 || o.t == .n32) && dst false o.d
      && src false o.a && opB false o.b
      && (match o.m, o.c with
        | .chan _, none => true
        | .operand, some c => opC false c
        | _, _ => false)
  | .iaddVI o | .isubVI o | .imulVI o => vimm Ty.isInt true o
  | .iminVI o | .imaxVI o => vimm Ty.isInt false o
  | .andVI o | .orVI o | .xorVI o | .andnVI o => vimm Ty.isRaw false o
  | .shlVI o | .shrVI o | .sarVI o | .rotVI o => vimm Ty.isRaw false o
  | .bfxVI o => vimm modTy false o
  | .isetpVI o => intCmp o.cmp && o.t.isInt && src o.t.wide o.a
  | .modredVI o => o.m == .operand && modTy o.t && dst false o.d && src o.t.wide o.a
  | .modaddVI o | .modmulVI o => modSel o.m && o.m != .operand && (o.t == .s32 || o.t == .n32)
      && dst false o.d && src false o.a
  | .fadd o | .fsub o | .fmul o | .fdiv o => f2 true o
  | .fmin o | .fmax o => f2 false o
  | .ffma o => o.t.isFloat && dst o.t.wide o.d && src o.t.wide o.a && opB o.t.wide o.b && opC o.t.wide o.c
  | .fsetp o => o.t.isFloat && src o.t.wide o.a && opB o.t.wide o.b
  | .fsqrt o | .frcp o | .fexp2 o | .flog2 o | .fround o => f1 o
  | .fcvt o => (o.td.isCvtInt || o.td.isAnyFloat) && (o.ts.isCvtInt || o.ts.isAnyFloat)
      && (o.td.isAnyFloat || o.ts.isAnyFloat) && dst o.td.wide o.d && src o.ts.wide o.a
  | .fclass o => v1 Ty.isAnyFloat false (fun _ => false) o
  | .dot4 o => v3 (fun t => t == .s8 || t == .n8) true (fun _ => false) o
  | .dot8 o => v3 (· == .s4) true (fun _ => false) o
  | .dotc4 o => dst false o.d && src false o.a
  | .bdot o => (o.t == .s8 || o.t == .s4 || o.t == .s16) && dst false o.d && src false o.a
  | .cdec o => (match o.form with
      | .s16 => dst true o.d
      | .s32 _ => dst false o.d) && src false o.a
  | .bitunpk o => dst false o.d
  | .shfl o => dst o.wide o.d && pair o.wide o.a && opB false o.b
  | .vote o => (match o.mode with
      | .ballot d => dst false d
      | _ => true)
  | .lred o => redTy o.op o.t && (o.op == .fadd || o.rm == .rne) && dst (redWide o.op o.t) o.d
      && pair o.t.wide o.a
  | .lscan o => redTy o.op o.t && o.op != .minidx && o.op != .maxidx
      && (o.op == .fadd || o.rm == .rne) && dst o.t.wide o.d && pair o.t.wide o.a
  | .xswap o => pair o.wide o.d && pair o.wide o.a
  | .ssetp o => intCmp o.cmp
  | .vget o => pair (o.t == .n64) o.a
  | .vput o => pair o.wide o.d
  | .gets o => (!o.clr || o.src == .fflags) && (match o.src with
      | .item => pair true o.d
      | .lane => true
      | _ => o.d.toNat < 64)
  | .join o => o.h.guard == none
  | .ld o | .st o => access o.t o.d o.addr
  | .lds o | .sts o => access o.t o.d o.addr
  | .atom o | .red o => atomOp o.d o.op && (!o.loc || o.scope == .group || o.scope == .team)
  | .gang o => o.a.toNat ≤ 2 && o.b.toNat ≤ 2
  | .mscale o => o.n.toNat ≤ 62
  | .drain o => (match o.td with
      | some .s64 | some .f64 => pair true o.d
      | _ => true)
  | .acst o => (match o.radd with
      | none => true
      | some sc => sc != .group && (!o.loc || sc == .team))
  | .bar o | .binit o => bar o.bar
  | .bara o => bar o.bar
  | .barw o | .barq o => bar o.bar
  | .ocall o => pair true o.d && pair true o.a && pair true o.b
  | _ => true

end Sys2Proof
end

