-- ==== Sys2Proof/Decode.lean ====
section
/-! DEFINITION. Words to instructions and back (R106 to R131). `decode` reads the fields of the format
that the opcode fixes, then refuses a word that the encoder would not have written: so every reserved
bit, every reserved code and every literal count of R110 and R116 is checked in one place. -/

namespace Sys2Proof

/-- Bits `lo + len - 1 : lo` of a word. -/
def bits (w : Word) (lo len : Nat) : BitVec len := w.extractLsb' lo len

/-! ### Code tables -/

/-- R119. -/
def Ty.code : Ty → Nat
  | .s32 => 0 | .n32 => 1 | .s64 => 2 | .n64 => 3 | .s16 => 4 | .n16 => 5 | .s8 => 6 | .n8 => 7
  | .s4 => 8 | .b32 => 9 | .f32 => 10 | .f64 => 11 | .bf16 => 12 | .c8 => 13

/-- R119. -/
def Ty.ofCode : Nat → Option Ty
  | 0 => some .s32 | 1 => some .n32 | 2 => some .s64 | 3 => some .n64 | 4 => some .s16
  | 5 => some .n16 | 6 => some .s8 | 7 => some .n8 | 8 => some .s4 | 9 => some .b32
  | 10 => some .f32 | 11 => some .f64 | 12 => some .bf16 | 13 => some .c8 | _ => none

/-- R30. -/
def RMode.code : RMode → BitVec 2
  | .rne => 0 | .rtz => 1 | .rdn => 2 | .rup => 3

/-- R30. -/
def RMode.ofCode (c : BitVec 2) : RMode :=
  if c = 0 then .rne else if c = 1 then .rtz else if c = 2 then .rdn else .rup

/-- R178, R203. -/
def Cmp.code : Cmp → Nat
  | .eq => 0 | .ne => 1 | .lt => 2 | .le => 3 | .gt => 4 | .ge => 5 | .nan => 6 | .num => 7

/-- R178, R203. -/
def Cmp.ofCode : Nat → Option Cmp
  | 0 => some .eq | 1 => some .ne | 2 => some .lt | 3 => some .le | 4 => some .gt | 5 => some .ge
  | 6 => some .nan | 7 => some .num | _ => none

/-- R127. -/
def Cls.code : Cls → BitVec 2
  | .cp => 0 | .mx => 1 | .cb => 2 | .rm => 3

/-- R127. -/
def Cls.ofCode (c : BitVec 2) : Cls :=
  if c = 0 then .cp else if c = 1 then .mx else if c = 2 then .cb else .rm

/-- R123, R354. -/
def Scope.code : Scope → Nat
  | .group => 0 | .team => 1 | .pod => 2 | .device => 3 | .system => 4

/-- R123, R354. -/
def Scope.ofCode : Nat → Option Scope
  | 0 => some .group | 1 => some .team | 2 => some .pod | 3 => some .device | 4 => some .system
  | _ => none

/-- R123, R271. -/
def Pol.code : Pol → BitVec 2
  | .dflt => 0 | .bypass => 1 | .stream => 2 | .nocache => 3

/-- R123, R271. -/
def Pol.ofCode (c : BitVec 2) : Pol :=
  if c = 0 then .dflt else if c = 1 then .bypass else if c = 2 then .stream else .nocache

/-- R217. -/
def RedOp.code : RedOp → Nat
  | .add => 0 | .fadd => 1 | .min => 2 | .max => 3 | .and => 4 | .or => 5 | .xor => 6
  | .minidx => 7 | .maxidx => 8

/-- R217. -/
def RedOp.ofCode : Nat → Option RedOp
  | 0 => some .add | 1 => some .fadd | 2 => some .min | 3 => some .max | 4 => some .and
  | 5 => some .or | 6 => some .xor | 7 => some .minidx | 8 => some .maxidx | _ => none

/-- R215. -/
def ShflMode.code : ShflMode → Nat
  | .idx => 0 | .up => 1 | .down => 2 | .xor => 3

/-- R215. -/
def ShflMode.ofCode : Nat → Option ShflMode
  | 0 => some .idx | 1 => some .up | 2 => some .down | 3 => some .xor | _ => none

/-- R128. -/
def Special.code : Special → BitVec 8
  | .item => 0 | .lane => 1 | .width => 2 | .group => 3 | .team => 4 | .pod => 5 | .core => 6
  | .tower => 7 | .launch => 8 | .winbase => 9 | .sig => 10 | .fflags => 11 | .clock => 12
  | .cause => 13 | .epc => 14 | .tval => 15

/-- R128. -/
def Special.ofCode : Nat → Option Special
  | 0 => some .item | 1 => some .lane | 2 => some .width | 3 => some .group | 4 => some .team
  | 5 => some .pod | 6 => some .core | 7 => some .tower | 8 => some .launch | 9 => some .winbase
  | 10 => some .sig | 11 => some .fflags | 12 => some .clock | 13 => some .cause | 14 => some .epc
  | 15 => some .tval | _ => none

/-- R341, the column of TA and TB. -/
def InTy.code : InTy → BitVec 4
  | .s4 => 0 | .s8 => 1 | .s16 => 2 | .c8 => 3 | .bsf4 => 4 | .bsf8 => 5 | .bsf16 => 6

/-- R341, the column of TA and TB. -/
def InTy.ofCode : Nat → Option InTy
  | 0 => some .s4 | 1 => some .s8 | 2 => some .s16 | 3 => some .c8 | 4 => some .bsf4
  | 5 => some .bsf8 | 6 => some .bsf16 | _ => none

/-- R341, the column of TC. -/
def AccFmt.code : AccFmt → BitVec 4
  | .acc64 => 0 | .acc32 => 1

/-- R341, the column of TC. -/
def AccFmt.ofCode : Nat → Option AccFmt
  | 0 => some .acc64 | 1 => some .acc32 | _ => none

/-- R341, the column of TD. -/
def ResTy.code : ResTy → BitVec 4
  | .s64 => 0 | .s32 => 1 | .s16 => 2 | .s8 => 3 | .f64 => 4 | .f32 => 5 | .bf16 => 6

/-- R341, the column of TD. -/
def ResTy.ofCode : Nat → Option ResTy
  | 0 => some .s64 | 1 => some .s32 | 2 => some .s16 | 3 => some .s8 | 4 => some .f64
  | 5 => some .f32 | 6 => some .bf16 | _ => none

/-- A flag as one bit. -/
def bit1 (b : Bool) : BitVec 1 := BitVec.ofBool b

/-- A bit read as a flag. -/
def flag1 (b : BitVec 1) : Bool := b.getLsbD 0

/-! ### What every format holds (R115) -/

/-- Stall count and guard as bits 53:46 of the word. -/
def Head.toBits (h : Head) : BitVec 8 :=
  h.stall ++ (match h.guard with
    | none => 0#5
    | some g => 1#1 ++ bit1 g.inv ++ g.p)

/-- Bits 53:46 of the word as stall count and guard. -/
def Head.ofBits (b : BitVec 8) : Head where
  stall := b.extractLsb' 5 3
  guard := if b.getLsbD 4 then some ⟨b.getLsbD 3, b.extractLsb' 0 3⟩ else none

/-! ### The fields of each format (R117 to R126) -/

/-- Formats V and VI; in VI, `b` and `c` together are IMM16. -/
structure VRaw where
  opc : BitVec 10
  hd : BitVec 8
  mod : BitVec 6
  d : BitVec 8
  a : BitVec 8
  b : BitVec 8
  c : BitVec 8
  k : BitVec 4
  pb : BitVec 1
  tr : BitVec 1
  bs : BitVec 1
  cs : BitVec 1
  deriving DecidableEq, Repr

def VRaw.toWord (r : VRaw) : Word :=
  r.opc ++ r.hd ++ r.mod ++ r.d ++ r.a ++ r.b ++ r.c ++ r.k ++ r.pb ++ r.tr ++ r.bs ++ r.cs

def VRaw.ofWord (w : Word) : VRaw where
  opc := bits w 54 10
  hd := bits w 46 8
  mod := bits w 40 6
  d := bits w 32 8
  a := bits w 24 8
  b := bits w 16 8
  c := bits w 8 8
  k := bits w 4 4
  pb := bits w 3 1
  tr := bits w 2 1
  bs := bits w 1 1
  cs := bits w 0 1

/-- Format S (R121). -/
structure SRaw where
  opc : BitVec 10
  hd : BitVec 8
  mod : BitVec 5
  i : BitVec 1
  d : BitVec 8
  a : BitVec 8
  b : BitVec 8
  imm : BitVec 16
  deriving DecidableEq, Repr

def SRaw.toWord (r : SRaw) : Word :=
  r.opc ++ r.hd ++ r.mod ++ r.i ++ r.d ++ r.a ++ r.b ++ r.imm

def SRaw.ofWord (w : Word) : SRaw where
  opc := bits w 54 10
  hd := bits w 46 8
  mod := bits w 41 5
  i := bits w 40 1
  d := bits w 32 8
  a := bits w 24 8
  b := bits w 16 8
  imm := bits w 0 16

/-- Format C (R122). -/
structure CRaw where
  opc : BitVec 10
  hd : BitVec 8
  s : BitVec 6
  p : BitVec 3
  pi : BitVec 1
  tgt : BitVec 20
  aux : BitVec 16
  deriving DecidableEq, Repr

def CRaw.toWord (r : CRaw) : Word :=
  r.opc ++ r.hd ++ r.s ++ r.p ++ r.pi ++ r.tgt ++ r.aux

def CRaw.ofWord (w : Word) : CRaw where
  opc := bits w 54 10
  hd := bits w 46 8
  s := bits w 40 6
  p := bits w 37 3
  pi := bits w 36 1
  tgt := bits w 16 20
  aux := bits w 0 16

/-- Format M (R123). -/
structure MRaw where
  opc : BitVec 10
  hd : BitVec 8
  ty : BitVec 4
  pol : BitVec 2
  d : BitVec 8
  sb : BitVec 6
  vx : BitVec 8
  sh : BitVec 2
  xe : BitVec 1
  scope : BitVec 3
  op : BitVec 4
  l : BitVec 1
  ofs : BitVec 7
  deriving DecidableEq, Repr

def MRaw.toWord (r : MRaw) : Word :=
  r.opc ++ r.hd ++ r.ty ++ r.pol ++ r.d ++ r.sb ++ r.vx ++ r.sh ++ r.xe ++ r.scope ++ r.op ++ r.l ++ r.ofs

def MRaw.ofWord (w : Word) : MRaw where
  opc := bits w 54 10
  hd := bits w 46 8
  ty := bits w 42 4
  pol := bits w 40 2
  d := bits w 32 8
  sb := bits w 26 6
  vx := bits w 18 8
  sh := bits w 16 2
  xe := bits w 15 1
  scope := bits w 12 3
  op := bits w 8 4
  l := bits w 7 1
  ofs := bits w 0 7

/-- Format P (R124). -/
structure PRaw where
  opc : BitVec 10
  hd : BitVec 8
  mod : BitVec 6
  srec : BitVec 6
  drec : BitVec 6
  sa : BitVec 6
  sb : BitVec 6
  sc : BitVec 6
  slot : BitVec 4
  cls : BitVec 2
  n : BitVec 4
  deriving DecidableEq, Repr

def PRaw.toWord (r : PRaw) : Word :=
  r.opc ++ r.hd ++ r.mod ++ r.srec ++ r.drec ++ r.sa ++ r.sb ++ r.sc ++ r.slot ++ r.cls ++ r.n

def PRaw.ofWord (w : Word) : PRaw where
  opc := bits w 54 10
  hd := bits w 46 8
  mod := bits w 40 6
  srec := bits w 34 6
  drec := bits w 28 6
  sa := bits w 22 6
  sb := bits w 16 6
  sc := bits w 10 6
  slot := bits w 6 4
  cls := bits w 4 2
  n := bits w 0 4

/-- Format X (R125). -/
structure XRaw where
  opc : BitVec 10
  hd : BitVec 8
  ta : BitVec 4
  tb : BitVec 4
  tc : BitVec 4
  td : BitVec 4
  tile : BitVec 3
  ra : BitVec 8
  rb : BitVec 8
  book : BitVec 2
  trp : BitVec 1
  aux : BitVec 8
  deriving DecidableEq, Repr

def XRaw.toWord (r : XRaw) : Word :=
  r.opc ++ r.hd ++ r.ta ++ r.tb ++ r.tc ++ r.td ++ r.tile ++ r.ra ++ r.rb ++ r.book ++ r.trp ++ r.aux

def XRaw.ofWord (w : Word) : XRaw where
  opc := bits w 54 10
  hd := bits w 46 8
  ta := bits w 42 4
  tb := bits w 38 4
  tc := bits w 34 4
  td := bits w 30 4
  tile := bits w 27 3
  ra := bits w 19 8
  rb := bits w 11 8
  book := bits w 9 2
  trp := bits w 8 1
  aux := bits w 0 8

/-- Format Y (R126). -/
structure YRaw where
  opc : BitVec 10
  hd : BitVec 8
  mod : BitVec 6
  d : BitVec 8
  a : BitVec 8
  b : BitVec 8
  bar : BitVec 6
  s : BitVec 6
  rsv : BitVec 4
  deriving DecidableEq, Repr

def YRaw.toWord (r : YRaw) : Word :=
  r.opc ++ r.hd ++ r.mod ++ r.d ++ r.a ++ r.b ++ r.bar ++ r.s ++ r.rsv

def YRaw.ofWord (w : Word) : YRaw where
  opc := bits w 54 10
  hd := bits w 46 8
  mod := bits w 40 6
  d := bits w 32 8
  a := bits w 24 8
  b := bits w 16 8
  bar := bits w 10 6
  s := bits w 4 6
  rsv := bits w 0 4

/-- Format Z (R126). -/
structure ZRaw where
  opc : BitVec 10
  hd : BitVec 8
  mod : BitVec 6
  sa : BitVec 6
  sb : BitVec 6
  rsv : BitVec 12
  imm : BitVec 16
  deriving DecidableEq, Repr

def ZRaw.toWord (r : ZRaw) : Word :=
  r.opc ++ r.hd ++ r.mod ++ r.sa ++ r.sb ++ r.rsv ++ r.imm

def ZRaw.ofWord (w : Word) : ZRaw where
  opc := bits w 54 10
  hd := bits w 46 8
  mod := bits w 40 6
  sa := bits w 34 6
  sb := bits w 28 6
  rsv := bits w 16 12
  imm := bits w 0 16

/-! ### Operands as fields -/

/-- The vector format with nothing but an opcode and a head. -/
def VRaw.mk0 (opc : BitVec 10) (h : Head) : VRaw :=
  ⟨opc, h.toBits, 0, 0, 0, 0, 0, 0, 0, 0, 0, 0⟩

/-- Destination and its marks. -/
def VRaw.setD (r : VRaw) (d : VDst) : VRaw := { r with d := d.reg, pb := bit1 d.pub, tr := bit1 d.tr }

/-- Operand A. -/
def VRaw.setA (r : VRaw) (a : VSrc) : VRaw := { r with a := a.reg, k := a.k }

/-- Operand B; a literal leaves the field zero (R110). -/
def VRaw.setB (r : VRaw) : OpB → VRaw
  | .vec x => { r with b := x }
  | .scal x => { r with b := x.setWidth 8, bs := 1 }
  | .lit _ => r

/-- Operand C. -/
def VRaw.setC (r : VRaw) : OpC → VRaw
  | .vec x => { r with c := x }
  | .scal x => { r with c := x.setWidth 8, cs := 1 }

/-- TYPE in bits 45:42 and OPT in bits 41:40 (R119). -/
def VRaw.setTy (r : VRaw) (t : Ty) (opt : Nat) : VRaw := { r with mod := BitVec.ofNat 6 (t.code * 4 + opt) }

/-- IMM16 of format VI (R120). -/
def VRaw.setImm (r : VRaw) (i : BitVec 16) : VRaw :=
  { r with b := i.extractLsb' 8 8, c := i.extractLsb' 0 8 }

/-- The literal of operand B, when it has one. -/
def OpB.lits : OpB → List Word
  | .lit w => [w]
  | _ => []

def VRaw.getD (r : VRaw) : VDst := ⟨r.d, flag1 r.pb, flag1 r.tr⟩

def VRaw.getA (r : VRaw) : VSrc := ⟨r.a, r.k⟩

/-- Operand B, from the literal first (R168). -/
def VRaw.getB (r : VRaw) : List Word → OpB
  | w :: _ => .lit w
  | [] => if flag1 r.bs then .scal (r.b.setWidth 6) else .vec r.b

def VRaw.getC (r : VRaw) : OpC :=
  if flag1 r.cs then .scal (r.c.setWidth 6) else .vec r.c

def VRaw.getTy (r : VRaw) : Option Ty := Ty.ofCode (r.mod.toNat / 4)

def VRaw.opt (r : VRaw) : Nat := r.mod.toNat % 4

def VRaw.getImm (r : VRaw) : BitVec 16 := r.b ++ r.c

def VRaw.head (r : VRaw) : Head := Head.ofBits r.hd

/-- A flag of OPT (R119). -/
def b2n (b : Bool) : Nat := if b then 1 else 0

/-- What the modulus selector of R184 holds. -/
def ModSel.code : ModSel → Nat
  | .chan i => i.toNat
  | .operand => 10

/-- The modulus selector of R184. -/
def ModSel.ofCode (n : Nat) : Option ModSel :=
  if n ≤ 9 then some (.chan (BitVec.ofNat 4 n)) else if n = 10 then some .operand else none

/-- Register fields of format S: 64 is `em` (R121). -/
def SReg.code : SReg → BitVec 8
  | .s r => r.setWidth 8
  | .em => 64

/-- Register fields of format S (R121). -/
def SReg.ofCode (b : BitVec 8) : SReg := if b = 64 then .em else .s (b.setWidth 6)

/-- Fields of PLOG: 8 is the lane's `em` bit (R188). -/
def PReg.code : PReg → BitVec 8
  | .p r => r.setWidth 8
  | .em => 8

/-- Fields of PLOG (R188). -/
def PReg.ofCode (b : BitVec 8) : PReg := if b = 8 then .em else .p (b.setWidth 3)

def SRaw.mk0 (opc : BitVec 10) (h : Head) : SRaw := ⟨opc, h.toBits, 0, 0, 0, 0, 0, 0⟩

/-- The second source of R185. -/
def SRaw.setY (r : SRaw) : SSrc → SRaw
  | .imm i => { r with i := 1, imm := i }
  | .lit _ => r
  | .reg x => { r with b := x.code }

/-- The literal of the second source, when it has one. -/
def SSrc.lits : SSrc → List Word
  | .lit w => [w]
  | _ => []

/-- The second source of R185. -/
def SRaw.getY (r : SRaw) : List Word → SSrc
  | w :: _ => .lit w
  | [] => if flag1 r.i then .imm r.imm else .reg (SReg.ofCode r.b)

def SRaw.head (r : SRaw) : Head := Head.ofBits r.hd

def CRaw.mk0 (opc : BitVec 10) (h : Head) : CRaw := ⟨opc, h.toBits, 0, 0, 0, 0, 0⟩

def CRaw.head (r : CRaw) : Head := Head.ofBits r.hd

def MRaw.mk0 (opc : BitVec 10) (h : Head) : MRaw := ⟨opc, h.toBits, 0, 0, 0, 0, 0, 0, 0, 0, 0, 0, 0⟩

def MRaw.head (r : MRaw) : Head := Head.ofBits r.hd

/-- The literal offset, when there is one. -/
def MOff.lits : MOff → List Word
  | .lit w => [w]
  | .ofs _ => []

/-- A byte offset (R123). -/
def MRaw.setOff (r : MRaw) : MOff → MRaw
  | .ofs o => { r with ofs := o }
  | .lit _ => r

/-- A byte offset (R123). -/
def MRaw.getOff (r : MRaw) : List Word → MOff
  | w :: _ => .lit w
  | [] => .ofs r.ofs

/-- The fields of an address (R123). -/
def MRaw.setAddr (r : MRaw) (m : MPlain) : MRaw :=
  let r := { r with sb := m.sb }.setOff m.off
  match m.idx with
  | some (v, s) => { r with vx := v, sh := s, xe := 1 }
  | none => r

/-- The fields of an address (R123). -/
def MRaw.getAddr (r : MRaw) (lits : List Word) : MPlain where
  sb := r.sb
  idx := if flag1 r.xe then some (r.vx, r.sh) else none
  off := r.getOff lits

/-- A plain address, or one through a layout record (R123, R272). -/
def MRaw.setMem (r : MRaw) : MAddr → MRaw
  | .plain m => r.setAddr m
  | .record lay sb vx => { r with sb := sb, vx := vx, xe := 1, l := 1, ofs := lay.setWidth 7 }

/-- A plain address, or one through a layout record (R123, R272). -/
def MRaw.getMem (r : MRaw) (lits : List Word) : MAddr :=
  if flag1 r.l then .record (r.ofs.setWidth 6) r.sb r.vx else .plain (r.getAddr lits)

def MAddr.lits : MAddr → List Word
  | .plain m => m.off.lits
  | .record .. => []

/-- OP of R276. -/
def AtomOp.opCode : AtomOp → BitVec 4
  | .add _ => 0 | .min _ => 1 | .max _ => 2 | .and _ => 3 | .or _ => 4 | .xor _ => 5
  | .exch _ => 6 | .cas _ => 7 | .radd _ => 8

/-- A raw type of R276: b32, or n64 when wide. -/
def rawTy (wide : Bool) : Ty := if wide then .n64 else .b32

/-- TYPE of R276. -/
def AtomOp.tyCode : AtomOp → BitVec 4
  | .add t | .min t | .max t => BitVec.ofNat 4 t.code
  | .and w | .or w | .xor w | .exch w | .cas w => BitVec.ofNat 4 (rawTy w).code
  | .radd c => c

/-- OP and TYPE of R276. -/
def AtomOp.ofCodes (op : Nat) (ty : BitVec 4) : Option AtomOp :=
  let t := Ty.ofCode ty.toNat
  let w := ty == BitVec.ofNat 4 Ty.n64.code
  match op with
  | 0 => t.map .add | 1 => t.map .min | 2 => t.map .max
  | 3 => some (.and w) | 4 => some (.or w) | 5 => some (.xor w) | 6 => some (.exch w) | 7 => some (.cas w)
  | 8 => some (.radd ty) | _ => none

/-- R247, R279. -/
def FenceKind.code : FenceKind → BitVec 4
  | .acq => 0 | .rel => 1 | .full => 2

/-- R279. -/
def FenceKind.ofCode : Nat → Option FenceKind
  | 0 => some .acq | 1 => some .rel | 2 => some .full | _ => none

/-- R280. -/
def PrefLvl.code : PrefLvl → BitVec 4
  | .l1 => 0 | .l2 => 1 | .msc => 2

/-- R280. -/
def PrefLvl.ofCode : Nat → Option PrefLvl
  | 0 => some .l1 | 1 => some .l2 | 2 => some .msc | _ => none

def PRaw.mk0 (opc : BitVec 10) (h : Head) : PRaw := ⟨opc, h.toBits, 0, 0, 0, 0, 0, 0, 0, 0, 0⟩

def PRaw.head (r : PRaw) : Head := Head.ofBits r.hd

/-- R303. -/
def CpyDir.code : CpyDir → BitVec 6
  | .g2g => 0 | .l2g => 1 | .g2l => 2

/-- R303. -/
def CpyDir.ofCode : Nat → Option CpyDir
  | 0 => some .g2g | 1 => some .l2g | 2 => some .g2l | _ => none

def XRaw.mk0 (opc : BitVec 10) (h : Head) : XRaw := ⟨opc, h.toBits, 0, 0, 0, 0, 0, 0, 0, 0, 0, 0⟩

def XRaw.head (r : XRaw) : Head := Head.ofBits r.hd

/-- R359. -/
def MinjMode.code : MinjMode → BitVec 8
  | .soft => 0 | .stuck => 1 | .hard => 2

/-- R359. -/
def MinjMode.ofCode : Nat → Option MinjMode
  | 0 => some .soft | 1 => some .stuck | 2 => some .hard | _ => none

def YRaw.mk0 (opc : BitVec 10) (h : Head) : YRaw := ⟨opc, h.toBits, 0, 0, 0, 0, 0, 0, 0⟩

def YRaw.head (r : YRaw) : Head := Head.ofBits r.hd

/-- COUNT24 and MOD bit 40 (R366). -/
def YRaw.setCount (r : YRaw) : BarCount → YRaw
  | .imm n => { r with d := n.extractLsb' 16 8, a := n.extractLsb' 8 8, b := n.extractLsb' 0 8 }
  | .reg c => { r with mod := 1, b := c.setWidth 8 }

/-- COUNT24 and MOD bit 40 (R366). -/
def YRaw.getCount (r : YRaw) : BarCount :=
  if r.mod.getLsbD 0 then .reg (r.b.setWidth 6) else .imm (r.d ++ r.a ++ r.b)

def ZRaw.mk0 (opc : BitVec 10) (h : Head) : ZRaw := ⟨opc, h.toBits, 0, 0, 0, 0, 0⟩

def ZRaw.head (r : ZRaw) : Head := Head.ofBits r.hd

/-! ### The words of each kind of instruction -/

def V1.enc (opc : BitVec 10) (o : V1) : List Word :=
  [((VRaw.mk0 opc o.h).setTy o.t (b2n o.sat) |>.setD o.d |>.setA o.a).toWord]

def V2.enc (opc : BitVec 10) (o : V2) : List Word :=
  ((VRaw.mk0 opc o.h).setTy o.t (b2n o.sat) |>.setD o.d |>.setA o.a |>.setB o.b).toWord :: o.b.lits

def V3.enc (opc : BitVec 10) (o : V3) : List Word :=
  ((VRaw.mk0 opc o.h).setTy o.t (b2n o.sat) |>.setD o.d |>.setA o.a |>.setB o.b |>.setC o.c).toWord
    :: o.b.lits

def VImm.enc (opc : BitVec 10) (o : VImm) : List Word :=
  [((VRaw.mk0 opc o.h).setTy o.t (b2n o.sat) |>.setD o.d |>.setA o.a |>.setImm o.imm).toWord]

/-- CMP in bits 45:43, a type number in bits 42:40, the predicate in D (R178, R203). -/
def VRaw.setCmp (r : VRaw) (c : Cmp) (t : Nat) (p : BitVec 3) : VRaw :=
  { r with mod := BitVec.ofNat 6 (c.code * 8 + t), d := p.setWidth 8 }

/-- FSETP's type number (R203). -/
def fcmpTy (t : Ty) : Nat := if t = .f64 then 1 else 0

/-- FSETP's type number (R203). -/
def fcmpTyOf : Nat → Option Ty
  | 0 => some .f32 | 1 => some .f64 | _ => none

def VCmp.enc (opc : BitVec 10) (ty : Ty → Nat) (o : VCmp) : List Word :=
  ((VRaw.mk0 opc o.h).setCmp o.cmp (ty o.t) o.p |>.setA o.a |>.setB o.b).toWord :: o.b.lits

def VCmpImm.enc (opc : BitVec 10) (o : VCmpImm) : List Word :=
  [((VRaw.mk0 opc o.h).setCmp o.cmp o.t.code o.p |>.setA o.a |>.setImm o.imm).toWord]

def VSel.enc (opc : BitVec 10) (o : VSel) : List Word :=
  ({ (VRaw.mk0 opc o.h).setTy o.t (2 * b2n o.inv) |>.setD o.d |>.setA o.a |>.setB o.b with
      c := o.p.setWidth 8 } : VRaw).toWord :: o.b.lits

def VMov.enc (opc : BitVec 10) (o : VMov) : List Word :=
  let r := (VRaw.mk0 opc o.h).setTy o.t 0 |>.setD o.d
  match o.src with
  | .lit w => [r.toWord, w]
  | .scal x => [(r.setB (.scal x)).toWord]
  | .vec a => [(r.setA a).toWord]

def VMovi.enc (opc : BitVec 10) (o : VMovi) : List Word :=
  [((VRaw.mk0 opc o.h).setTy o.t 0 |>.setD o.d |>.setImm o.imm).toWord]

def VCvti.enc (opc : BitVec 10) (o : VCvti) : List Word :=
  [({ (VRaw.mk0 opc o.h).setTy o.td (b2n o.sat) |>.setD o.d |>.setA o.a with
      c := BitVec.ofNat 8 o.ts.code } : VRaw).toWord]

def VLea.enc (opc : BitVec 10) (o : VLea) : List Word :=
  ((VRaw.mk0 opc o.h).setTy o.t o.k.toNat |>.setD o.d |>.setA o.a |>.setB o.b).toWord :: o.b.lits

/-- MSEL and the operand type of R184. -/
def VRaw.setMod (r : VRaw) (m : ModSel) (t : Ty) : VRaw :=
  { r with mod := BitVec.ofNat 6 (m.code * 4 + t.code) }

def VModRed.enc (opc : BitVec 10) (o : VModRed) : List Word :=
  let r := (VRaw.mk0 opc o.h).setMod o.m o.t |>.setD o.d |>.setA o.a
  match o.b with
  | some b => (r.setB b).toWord :: b.lits
  | none => [r.toWord]

def VMod.enc (opc : BitVec 10) (o : VMod) : List Word :=
  let r := (VRaw.mk0 opc o.h).setMod o.m o.t |>.setD o.d |>.setA o.a |>.setB o.b
  (match o.c with
    | some c => (r.setC c).toWord
    | none => r.toWord) :: o.b.lits

def VModImm.enc (opc : BitVec 10) (o : VModImm) : List Word :=
  [((VRaw.mk0 opc o.h).setMod o.m o.t |>.setD o.d |>.setA o.a |>.setImm o.imm).toWord]

def F1.enc (opc : BitVec 10) (o : F1) : List Word :=
  [((VRaw.mk0 opc o.h).setTy o.t o.rm.code.toNat |>.setD o.d |>.setA o.a).toWord]

def F2.enc (opc : BitVec 10) (o : F2) : List Word :=
  ((VRaw.mk0 opc o.h).setTy o.t o.rm.code.toNat |>.setD o.d |>.setA o.a |>.setB o.b).toWord :: o.b.lits

def F3.enc (opc : BitVec 10) (o : F3) : List Word :=
  ((VRaw.mk0 opc o.h).setTy o.t o.rm.code.toNat |>.setD o.d |>.setA o.a |>.setB o.b |>.setC o.c).toWord
    :: o.b.lits

def VFcvt.enc (opc : BitVec 10) (o : VFcvt) : List Word :=
  [({ (VRaw.mk0 opc o.h).setTy o.td o.rm.code.toNat |>.setD o.d |>.setA o.a with
      c := BitVec.ofNat 8 o.ts.code } : VRaw).toWord]

def VDotc.enc (opc : BitVec 10) (o : VDotc) : List Word :=
  ({ (VRaw.mk0 opc o.h).setD o.d |>.setA o.a |>.setB o.b |>.setC o.c with
      mod := 0#2 ++ o.book ++ 0#1 ++ bit1 o.sat } : VRaw).toWord :: o.b.lits

def VCdec.enc (opc : BitVec 10) (o : VCdec) : List Word :=
  [({ (VRaw.mk0 opc o.h).setD o.d |>.setA o.a with
      mod := (match o.form with
        | .s16 => 0#2 ++ o.book ++ 0#2
        | .s32 k => 1#2 ++ o.book ++ k) } : VRaw).toWord]

def VUnpk.enc (opc : BitVec 10) (o : VUnpk) : List Word :=
  ({ (VRaw.mk0 opc o.h).setTy (if o.signed then .s32 else .n32) 0 |>.setD o.d |>.setB o.b |>.setC o.c with
      a := o.a } : VRaw).toWord :: o.b.lits

def VShfl.enc (opc : BitVec 10) (o : VShfl) : List Word :=
  ({ (VRaw.mk0 opc o.h).setD o.d |>.setB o.b with
      a := o.a, mod := BitVec.ofNat 6 (o.mode.code * 16 + b2n o.wide * 4) } : VRaw).toWord :: o.b.lits

def VVote.enc (opc : BitVec 10) (o : VVote) : List Word :=
  let r := { VRaw.mk0 opc o.h with a := o.p.setWidth 8 }
  let m (n : Nat) : BitVec 6 := BitVec.ofNat 6 (n * 16 + b2n o.neg * 8)
  match o.mode with
  | .all p => [({ r with mod := m 0, d := p.setWidth 8 } : VRaw).toWord]
  | .any p => [({ r with mod := m 1, d := p.setWidth 8 } : VRaw).toWord]
  | .uni p => [({ r with mod := m 2, d := p.setWidth 8 } : VRaw).toWord]
  | .ballot d => [(({ r with mod := m 3 } : VRaw).setD d).toWord]

def VRed.enc (opc : BitVec 10) (o : VRed) : List Word :=
  [({ (VRaw.mk0 opc o.h).setD o.d with
      a := o.a, mod := BitVec.ofNat 6 (o.op.code * 4 + o.rm.code.toNat),
      c := BitVec.ofNat 8 o.t.code } : VRaw).toWord]

def VScan.enc (opc : BitVec 10) (o : VScan) : List Word :=
  [({ (VRaw.mk0 opc o.h).setD o.d with
      a := o.a, mod := BitVec.ofNat 6 (o.op.code * 4 + o.rm.code.toNat),
      c := BitVec.ofNat 8 (o.t.code + b2n o.excl * 16) } : VRaw).toWord]

def VXswap.enc (opc : BitVec 10) (o : VXswap) : List Word :=
  [({ (VRaw.mk0 opc o.h).setTy (rawTy o.wide) 0 with
      d := o.d, a := o.a, b := o.b.setWidth 8, bs := 1 } : VRaw).toWord]

def S2.enc (opc : BitVec 10) (o : S2) : List Word :=
  ({ (SRaw.mk0 opc o.h).setY o.y with d := o.d.code, a := o.a.code } : SRaw).toWord :: o.y.lits

def SShr.enc (opc : BitVec 10) (o : SShr) : List Word :=
  ({ (SRaw.mk0 opc o.h).setY o.y with
      d := o.d.code, a := o.a.code, mod := BitVec.ofNat 5 (b2n o.arith) } : SRaw).toWord :: o.y.lits

def SMov.enc (opc : BitVec 10) (o : SMov) : List Word :=
  [({ SRaw.mk0 opc o.h with d := o.d.code, a := o.a.code } : SRaw).toWord]

def SMovl.enc (opc : BitVec 10) (o : SMovl) : List Word :=
  [({ SRaw.mk0 opc o.h with d := o.d.code } : SRaw).toWord, o.lit]

def SSetp.enc (opc : BitVec 10) (o : SSetp) : List Word :=
  ({ (SRaw.mk0 opc o.h).setY o.y with
      d := o.p.setWidth 8, a := o.a.code,
      mod := BitVec.ofNat 5 (o.cmp.code * 4 + b2n (!o.signed)) } : SRaw).toWord :: o.y.lits

/-- R189. -/
def XferTy.code : XferTy → Nat
  | .b32 => 0 | .n64 => 1 | .s32 => 2

/-- R189. -/
def XferTy.ofCode : Nat → Option XferTy
  | 0 => some .b32 | 1 => some .n64 | 2 => some .s32 | _ => none

def SVget.enc (opc : BitVec 10) (o : SVget) : List Word :=
  ({ (SRaw.mk0 opc o.h).setY o.y with
      d := o.d.code, a := o.a, mod := BitVec.ofNat 5 o.t.code } : SRaw).toWord :: o.y.lits

def SVput.enc (opc : BitVec 10) (o : SVput) : List Word :=
  ({ (SRaw.mk0 opc o.h).setY o.y with
      d := o.d, a := o.a.code, mod := BitVec.ofNat 5 (b2n o.wide) } : SRaw).toWord :: o.y.lits

def SGets.enc (opc : BitVec 10) (o : SGets) : List Word :=
  [({ SRaw.mk0 opc o.h with
      d := o.d, a := o.src.code, mod := BitVec.ofNat 5 (b2n o.clr) } : SRaw).toWord]

def SPlog.enc (opc : BitVec 10) (o : SPlog) : List Word :=
  [({ SRaw.mk0 opc o.h with
      d := o.d.code, a := o.a.code, b := o.b.code, mod := o.lut.setWidth 5 } : SRaw).toWord]

def SWin.enc (opc : BitVec 10) (o : SWin) : List Word :=
  ((SRaw.mk0 opc o.h).setY o.n).toWord :: o.n.lits

def Bare.encC (opc : BitVec 10) (o : Bare) : List Word := [(CRaw.mk0 opc o.h).toWord]

def CBra.enc (opc : BitVec 10) (o : CBra) : List Word :=
  [({ CRaw.mk0 opc o.h with tgt := o.tgt } : CRaw).toWord]

def CBrd.enc (opc : BitVec 10) (o : CBrd) : List Word :=
  [({ CRaw.mk0 opc o.h with p := o.p, pi := bit1 o.inv, tgt := o.tgt, aux := o.join } : CRaw).toWord]

def CCall.enc (opc : BitVec 10) (o : CCall) : List Word :=
  match o.dest with
  | .label t => [({ CRaw.mk0 opc o.h with s := o.link, tgt := t } : CRaw).toWord]
  | .reg t => [({ CRaw.mk0 opc o.h with s := o.link, aux := 1#1 ++ 0#9 ++ t } : CRaw).toWord]

def CRet.enc (opc : BitVec 10) (o : CRet) : List Word :=
  [({ CRaw.mk0 opc o.h with s := o.s } : CRaw).toWord]

def CBri.enc (opc : BitVec 10) (o : CBri) : List Word :=
  [({ CRaw.mk0 opc o.h with s := o.s, tgt := o.tgt, aux := o.n } : CRaw).toWord]

def CLoop.enc (opc : BitVec 10) (o : CLoop) : List Word :=
  [({ CRaw.mk0 opc o.h with s := o.s, tgt := o.tgt } : CRaw).toWord]

def CExit.enc (opc : BitVec 10) (o : CExit) : List Word :=
  match o.sel with
  | some g => [({ CRaw.mk0 opc o.h with p := g.p, pi := bit1 g.inv, aux := 1 } : CRaw).toWord]
  | none => [(CRaw.mk0 opc o.h).toWord]

def CSafe.enc (opc : BitVec 10) (o : CSafe) : List Word :=
  [(CRaw.mk0 opc o.h).toWord, o.vmask, o.smask]

def CSig.enc (opc : BitVec 10) (o : CSig) : List Word :=
  [({ CRaw.mk0 opc o.h with
      tgt := (o.imm.extractLsb' 16 16).setWidth 20, aux := o.imm.extractLsb' 0 16 } : CRaw).toWord]

def CPub.enc (opc : BitVec 10) (o : CPub) : List Word :=
  [({ VRaw.mk0 opc o.h with d := o.d } : VRaw).toWord]

def MAcc.enc (opc : BitVec 10) (o : MAcc) : List Word :=
  (({ MRaw.mk0 opc o.h with ty := BitVec.ofNat 4 o.t.code, pol := o.pol.code, d := o.d } : MRaw).setMem
    o.addr).toWord :: o.addr.lits

def MLoc.enc (opc : BitVec 10) (o : MLoc) : List Word :=
  (({ MRaw.mk0 opc o.h with ty := BitVec.ofNat 4 o.t.code, d := o.d } : MRaw).setMem o.addr).toWord
    :: o.addr.lits

def MAtom.enc (opc : BitVec 10) (o : MAtom) : List Word :=
  (({ MRaw.mk0 opc o.h with
      ty := o.op.tyCode, pol := BitVec.ofNat 2 (b2n o.loc), d := o.d,
      scope := BitVec.ofNat 3 o.scope.code, op := o.op.opCode } : MRaw).setAddr o.addr).toWord
    :: o.addr.off.lits

def MFence.enc (opc : BitVec 10) (o : MFence) : List Word :=
  [({ MRaw.mk0 opc o.h with scope := BitVec.ofNat 3 o.scope.code, op := o.kind.code } : MRaw).toWord]

def MPref.enc (opc : BitVec 10) (o : MPref) : List Word :=
  (({ MRaw.mk0 opc o.h with op := o.lvl.code } : MRaw).setAddr o.addr).toWord :: o.addr.off.lits

def MLine.enc (opc : BitVec 10) (o : MLine) : List Word :=
  (({ MRaw.mk0 opc o.h with op := BitVec.ofNat 4 (b2n o.deep) } : MRaw).setAddr o.addr).toWord
    :: o.addr.off.lits

def MXfer.enc (opc : BitVec 10) (o : MXfer) : List Word :=
  (({ MRaw.mk0 opc o.h with d := o.d.setWidth 8, sb := o.sb } : MRaw).setOff o.off).toWord :: o.off.lits

def PCpy.enc (opc : BitVec 10) (o : PCpy) : List Word :=
  [({ PRaw.mk0 opc o.h with
      mod := o.dir.code, srec := o.srec, drec := o.drec, sa := o.sa, sb := o.sb, sc := o.sc } : PRaw).toWord]

def PCpym.enc (opc : BitVec 10) (o : PCpym) : List Word :=
  [({ PRaw.mk0 opc o.h with
      mod := if o.loc then 3 else 2, srec := o.srec, drec := o.drec, sa := o.sa, sb := o.sb, sc := o.sc,
      slot := o.slot } : PRaw).toWord]

def PLand.enc (opc : BitVec 10) (o : PLand) : List Word :=
  match o.args with
  | some x => [({ PRaw.mk0 opc o.h with sa := x.sa, sb := x.sb, sc := x.sc, slot := o.slot } : PRaw).toWord]
  | none => [({ PRaw.mk0 opc o.h with mod := 1, slot := o.slot } : PRaw).toWord]

def PLandw.enc (opc : BitVec 10) (o : PLandw) : List Word :=
  [({ PRaw.mk0 opc o.h with slot := o.slot } : PRaw).toWord]

def PSeal.enc (opc : BitVec 10) (o : PSeal) : List Word :=
  [({ PRaw.mk0 opc o.h with cls := o.cls.code } : PRaw).toWord]

def PWait.enc (opc : BitVec 10) (o : PWait) : List Word :=
  [({ PRaw.mk0 opc o.h with cls := o.cls.code, n := o.n } : PRaw).toWord]

def PYieldb.enc (opc : BitVec 10) (o : PYieldb) : List Word :=
  [({ CRaw.mk0 opc o.h with tgt := o.tgt, aux := 0#10 ++ o.cls.code ++ o.n } : CRaw).toWord]

def PCstat.enc (opc : BitVec 10) (o : PCstat) : List Word :=
  [({ PRaw.mk0 opc o.h with sa := o.sa, sb := o.sb } : PRaw).toWord]

def PCbld.enc (opc : BitVec 10) (o : PCbld) : List Word :=
  [({ PRaw.mk0 opc o.h with slot := o.book.setWidth 4, sa := o.sa, sc := o.sc } : PRaw).toWord]

def XGang.enc (opc : BitVec 10) (o : XGang) : List Word :=
  [({ XRaw.mk0 opc o.h with ra := o.m.setWidth 8, aux := 0#4 ++ o.b ++ o.a } : XRaw).toWord]

def XMzero.enc (opc : BitVec 10) (o : XMzero) : List Word :=
  [({ XRaw.mk0 opc o.h with
      tc := o.fmt.code, td := o.td.code, tile := o.tile, rb := o.e.setWidth 8 } : XRaw).toWord]

def XTok.enc (opc : BitVec 10) (o : XTok) : List Word :=
  [({ XRaw.mk0 opc o.h with tile := o.tile } : XRaw).toWord]

def XMma.enc (opc : BitVec 10) (o : XMma) : List Word :=
  [({ XRaw.mk0 opc o.h with
      ta := o.ta.code, tb := o.tb.code, tc := o.fmt.code, td := o.td.code, tile := o.tile,
      ra := o.ra, rb := o.rb, book := o.book, trp := bit1 o.trp, aux := o.aux } : XRaw).toWord]

def XScale.enc (opc : BitVec 10) (o : XScale) : List Word :=
  [({ XRaw.mk0 opc o.h with tile := o.tile, aux := o.n } : XRaw).toWord]

/-- TD of DRAIN: 15 is the recorded type (R341). -/
def drainTd : Option ResTy → BitVec 4
  | some t => t.code
  | none => 15

/-- TD of DRAIN: 15 is the recorded type (R341). -/
def drainTdOf (n : Nat) : Option (Option ResTy) := if n = 15 then some none else (ResTy.ofCode n).map some

def XDrain.enc (opc : BitVec 10) (o : XDrain) : List Word :=
  [({ XRaw.mk0 opc o.h with
      td := drainTd o.td, tile := o.tile, ra := o.d, rb := o.r.setWidth 8, book := o.rm.code,
      trp := bit1 o.trp, aux := o.shift } : XRaw).toWord]

def XDrainm.enc (opc : BitVec 10) (o : XDrainm) : List Word :=
  [({ XRaw.mk0 opc o.h with
      ta := BitVec.ofNat 4 (b2n o.loc), tile := o.tile, ra := o.lay.setWidth 8, rb := o.b.setWidth 8,
      book := o.rm.code, trp := bit1 o.trp, aux := o.shift } : XRaw).toWord]

/-- AUX of ACST and ACLD: mode in bit 0, scope in bits 3:1, space in bit 4 (R354, R355). -/
def imageAux (loc : Bool) (scope mode : Nat) : BitVec 8 := BitVec.ofNat 8 (b2n loc * 16 + scope * 2 + mode)

def XAcst.enc (opc : BitVec 10) (o : XAcst) : List Word :=
  [({ XRaw.mk0 opc o.h with
      tile := o.tile, rb := o.b.setWidth 8,
      aux := (match o.radd with
        | some sc => imageAux o.loc sc.code 1
        | none => imageAux o.loc 0 0) } : XRaw).toWord]

def XAcld.enc (opc : BitVec 10) (o : XAcld) : List Word :=
  [({ XRaw.mk0 opc o.h with
      tc := o.fmt.code, td := o.td.code, tile := o.tile, rb := o.b.setWidth 8,
      aux := imageAux o.loc 0 (b2n o.add) } : XRaw).toWord]

def XMstat.enc (opc : BitVec 10) (o : XMstat) : List Word :=
  [({ XRaw.mk0 opc o.h with tile := o.tile, ra := o.d.setWidth 8 } : XRaw).toWord]

def XCont.enc (opc : BitVec 10) (o : XCont) : List Word :=
  [({ XRaw.mk0 opc o.h with ra := o.d.setWidth 8 } : XRaw).toWord]

def XMinj.enc (opc : BitVec 10) (o : XMinj) : List Word :=
  [({ XRaw.mk0 opc o.h with tile := o.tile, rb := o.r.setWidth 8, aux := o.mode.code } : XRaw).toWord]

def YBar.enc (opc : BitVec 10) (o : YBar) : List Word :=
  [({ (YRaw.mk0 opc o.h).setCount o.n with bar := o.bar } : YRaw).toWord]

def YBara.enc (opc : BitVec 10) (o : YBara) : List Word :=
  [({ (YRaw.mk0 opc o.h).setCount o.n with bar := o.bar, s := o.t } : YRaw).toWord]

def YTok.enc (opc : BitVec 10) (o : YTok) : List Word :=
  [({ YRaw.mk0 opc o.h with bar := o.bar, s := o.t } : YRaw).toWord]

def YObj.enc (opc : BitVec 10) (o : YObj) : List Word :=
  [({ YRaw.mk0 opc o.h with s := o.s } : YRaw).toWord]

def YOcall.enc (opc : BitVec 10) (o : YOcall) : List Word :=
  [({ YRaw.mk0 opc o.h with d := o.d, a := o.a, b := o.b } : YRaw).toWord]

def YCreply.enc (opc : BitVec 10) (o : YCreply) : List Word :=
  [({ YRaw.mk0 opc o.h with a := o.a } : YRaw).toWord]

def Bare.encY (opc : BitVec 10) (o : Bare) : List Word := [(YRaw.mk0 opc o.h).toWord]

def Bare.encZ (opc : BitVec 10) (o : Bare) : List Word := [(ZRaw.mk0 opc o.h).toWord]

def ZTrap.enc (opc : BitVec 10) (o : ZTrap) : List Word :=
  [({ ZRaw.mk0 opc o.h with imm := o.imm } : ZRaw).toWord]

/-- MOD bit 40 is `.skip`, bit 41 names sA (R400, R402). -/
def ZRtt.enc (opc : BitVec 10) (o : ZRtt) : List Word :=
  match o.dest with
  | .plain => [(ZRaw.mk0 opc o.h).toWord]
  | .skip => [({ ZRaw.mk0 opc o.h with mod := 1 } : ZRaw).toWord]
  | .reg a => [({ ZRaw.mk0 opc o.h with mod := 2, sa := a } : ZRaw).toWord]
  | .both a => [({ ZRaw.mk0 opc o.h with mod := 3, sa := a } : ZRaw).toWord]

def ZLaunch.enc (opc : BitVec 10) (o : ZLaunch) : List Word :=
  [({ ZRaw.mk0 opc o.h with sa := o.sa, sb := o.sb } : ZRaw).toWord]

def ZSets.enc (opc : BitVec 10) (o : ZSets) : List Word :=
  [({ ZRaw.mk0 opc o.h with sa := o.sa } : ZRaw).toWord]

def ZTlbinv.enc (opc : BitVec 10) (o : ZTlbinv) : List Word :=
  match o.page with
  | some a => [({ ZRaw.mk0 opc o.h with sa := a } : ZRaw).toWord]
  | none => [({ ZRaw.mk0 opc o.h with mod := 1 } : ZRaw).toWord]

def ZPres.enc (opc : BitVec 10) (o : ZPres) : List Word :=
  match o.sb with
  | some b => [({ ZRaw.mk0 opc o.h with mod := 1, sa := o.sa, sb := b } : ZRaw).toWord]
  | none => [({ ZRaw.mk0 opc o.h with sa := o.sa } : ZRaw).toWord]

/-- The words of an instruction, its literals after it, with the opcodes of R129 and R130. An event has
no words. -/
def encode : Instr → List Word
  | .iadd o => o.enc 0x001 | .isub o => o.enc 0x002 | .imul o => o.enc 0x003 | .imulh o => o.enc 0x004
  | .imad o => o.enc 0x005 | .idiv o => o.enc 0x006 | .irem o => o.enc 0x007 | .imin o => o.enc 0x008
  | .imax o => o.enc 0x009 | .iabs o => o.enc 0x00A | .ineg o => o.enc 0x00B | .iclamp o => o.enc 0x00C
  | .and o => o.enc 0x00D | .or o => o.enc 0x00E | .xor o => o.enc 0x00F | .andn o => o.enc 0x010
  | .shl o => o.enc 0x011 | .shr o => o.enc 0x012 | .sar o => o.enc 0x013 | .rot o => o.enc 0x014
  | .popc o => o.enc 0x015 | .clz o => o.enc 0x016 | .ctz o => o.enc 0x017 | .brev o => o.enc 0x018
  | .bfx o => o.enc 0x019 | .bfi o => o.enc 0x01A | .permb o => o.enc 0x01B
  | .isetp o => o.enc 0x01C Ty.code | .sel o => o.enc 0x01D | .mov o => o.enc 0x01E | .movi o => o.enc 0x01F
  | .cvti o => o.enc 0x020 | .lea o => o.enc 0x021
  | .modred o => o.enc 0x022 | .modadd o => o.enc 0x023 | .modmul o => o.enc 0x024
  | .iaddVI o => o.enc 0x041 | .isubVI o => o.enc 0x042 | .imulVI o => o.enc 0x043
  | .iminVI o => o.enc 0x048 | .imaxVI o => o.enc 0x049
  | .andVI o => o.enc 0x04D | .orVI o => o.enc 0x04E | .xorVI o => o.enc 0x04F | .andnVI o => o.enc 0x050
  | .shlVI o => o.enc 0x051 | .shrVI o => o.enc 0x052 | .sarVI o => o.enc 0x053 | .rotVI o => o.enc 0x054
  | .bfxVI o => o.enc 0x059 | .isetpVI o => o.enc 0x05C
  | .modredVI o => o.enc 0x062 | .modaddVI o => o.enc 0x063 | .modmulVI o => o.enc 0x064
  | .fadd o => o.enc 0x080 | .fsub o => o.enc 0x081 | .fmul o => o.enc 0x082 | .ffma o => o.enc 0x083
  | .fmin o => o.enc 0x084 | .fmax o => o.enc 0x085 | .fsetp o => o.enc 0x086 fcmpTy
  | .fdiv o => o.enc 0x087 | .fsqrt o => o.enc 0x088 | .frcp o => o.enc 0x089
  | .fexp2 o => o.enc 0x08A | .flog2 o => o.enc 0x08B | .fcvt o => o.enc 0x08C
  | .fround o => o.enc 0x08D | .fclass o => o.enc 0x08E
  | .dot4 o => o.enc 0x090 | .dot8 o => o.enc 0x091 | .dotc4 o => o.enc 0x092 | .bdot o => o.enc 0x093
  | .cdec o => o.enc 0x094 | .bitunpk o => o.enc 0x095
  | .shfl o => o.enc 0x0A0 | .vote o => o.enc 0x0A1 | .lred o => o.enc 0x0A2 | .lscan o => o.enc 0x0A3
  | .xswap o => o.enc 0x0A4
  | .sadd o => o.enc 0x100 | .ssub o => o.enc 0x101 | .smul o => o.enc 0x102 | .sand o => o.enc 0x103
  | .sor o => o.enc 0x104 | .sxor o => o.enc 0x105 | .sshl o => o.enc 0x106 | .sshr o => o.enc 0x107
  | .smov o => o.enc 0x108 | .smovl o => o.enc 0x109 | .ssetp o => o.enc 0x10A
  | .vget o => o.enc 0x10B | .vput o => o.enc 0x10C | .gets o => o.enc 0x10D | .plog o => o.enc 0x10E
  | .bra o => o.enc 0x110 | .brd o => o.enc 0x111 | .join o => o.encC 0x112 | .call o => o.enc 0x113
  | .ret o => o.enc 0x114 | .bri o => o.enc 0x115 | .loop o => o.enc 0x116 | .exit o => o.enc 0x117
  | .nop o => o.encC 0x118 | .safe o => o.enc 0x119 | .sigchk o => o.enc 0x11A | .yield o => o.encC 0x11B
  | .wgrow o => o.enc 0x11C | .wshrink o => o.enc 0x11D | .pub o => o.enc 0x11E
  | .ld o => o.enc 0x180 | .st o => o.enc 0x181 | .lds o => o.enc 0x182 | .sts o => o.enc 0x183
  | .atom o => o.enc 0x184 | .red o => o.enc 0x185 | .fence o => o.enc 0x186 | .pref o => o.enc 0x187
  | .cflush o => o.enc 0x188 | .cinv o => o.enc 0x189 | .fetch o => o.enc 0x18A | .post o => o.enc 0x18B
  | .cpy o => o.enc 0x200 | .cpym o => o.enc 0x201 | .land o => o.enc 0x202 | .landw o => o.enc 0x203
  | .sealb o => o.enc 0x204 | .waitb o => o.enc 0x205 | .yieldb o => o.enc 0x206 | .cstat o => o.enc 0x207
  | .cbld o => o.enc 0x208
  | .gang o => o.enc 0x280 | .mzero o => o.enc 0x281 | .rel o => o.enc 0x282 | .acq o => o.enc 0x283
  | .mma o => o.enc 0x284 | .mscale o => o.enc 0x285 | .drain o => o.enc 0x286 | .drainm o => o.enc 0x287
  | .acst o => o.enc 0x288 | .acld o => o.enc 0x289 | .mstat o => o.enc 0x28A | .cont o => o.enc 0x28B
  | .minj o => o.enc 0x28C
  | .bar o => o.enc 0x300 | .bara o => o.enc 0x301 | .barw o => o.enc 0x302 | .barq o => o.enc 0x303
  | .binit o => o.enc 0x304
  | .objreg o => o.enc 0x310 | .objdel o => o.enc 0x311 | .ocall o => o.enc 0x312 | .orel o => o.enc 0x313
  | .creply o => o.enc 0x314 | .cdone o => o.encY 0x315
  | .trap o => o.enc 0x380 | .rtt o => o.enc 0x381 | .bkpt o => o.enc 0x382 | .halt o => o.encZ 0x383
  | .launch o => o.enc 0x384 | .sets o => o.enc 0x385 | .tlbinv o => o.enc 0x386 | .pres o => o.enc 0x387
  | .clauseEntry .. | .deferredTrap .. | .loadResponse .. | .atomicResponse .. | .fetchLineLanded ..
  | .postAcknowledged .. | .copyOperationComplete .. | .cpymArrival .. | .rendezvousGrant ..
  | .passStart .. | .passComplete .. | .mxOperationComplete .. | .drainComplete .. | .patternPass ..
  | .reservationAging .. | .runnerValueArrival .. | .runnerSpillTimeout .. | .ocallRequestAccept ..
  | .waveStart .. | .ocallReply .. | .waveTimeLimit .. | .quantumExpiry .. | .pendingAging ..
  | .urgentDisplacement .. | .groupActivation .. | .wgrowStalemate .. | .tableWalk ..
  | .faultRecordWrite .. | .launchRecord .. | .badmsgSend .. | .abort .. | .resume .. | .region ..
  | .unregion .. | .rdmaRead .. | .rdmaWrite .. | .ualinkInboundRequest .. | .linkLoss ..
  | .teamDispatch .. | .steal .. | .preemptionRequest .. | .forcedStop .. | .unitSave ..
  | .unitRestore .. | .groupRetirement .. | .launchCompletion .. | .podLost .. | .softRepair ..
  | .quiesceEnd .. | .activationCounterEvent .. | .selfRefreshEnter .. | .selfRefreshExit ..
  | .criticalShutdown | .infieldTestRun .. | .powerCapWindow .. | .provision .. | .qpset .. | .qmask ..
  | .partnum .. | .accept .. | .jread .. | .jack .. | .attest .. | .pcap .. | .telem .. | .unfreeze ..
  | .fwload .. | .reset .. | .powerOn | .ptpSync .. | .linkTraining .. | .writeAcknowledgement ..
  | .variableLatencyResult .. => []

/-! ### What the fields of a word can stand for -/

def V1.cand (w : Word) : Option V1 := do
  let r := VRaw.ofWord w
  let t ← r.getTy
  return ⟨r.head, t, r.mod.getLsbD 0, r.getD, r.getA⟩

def V2.cand (w : Word) (l : List Word) : Option V2 := do
  let r := VRaw.ofWord w
  let t ← r.getTy
  return ⟨r.head, t, r.mod.getLsbD 0, r.getD, r.getA, r.getB l⟩

def V3.cand (w : Word) (l : List Word) : Option V3 := do
  let r := VRaw.ofWord w
  let t ← r.getTy
  return ⟨r.head, t, r.mod.getLsbD 0, r.getD, r.getA, r.getB l, r.getC⟩

def VImm.cand (w : Word) : Option VImm := do
  let r := VRaw.ofWord w
  let t ← r.getTy
  return ⟨r.head, t, r.mod.getLsbD 0, r.getD, r.getA, r.getImm⟩

def VCmp.cand (ty : Nat → Option Ty) (w : Word) (l : List Word) : Option VCmp := do
  let r := VRaw.ofWord w
  let c ← Cmp.ofCode (r.mod.toNat / 8)
  let t ← ty (r.mod.toNat % 8)
  return ⟨r.head, c, t, r.d.setWidth 3, r.getA, r.getB l⟩

def VCmpImm.cand (w : Word) : Option VCmpImm := do
  let r := VRaw.ofWord w
  let c ← Cmp.ofCode (r.mod.toNat / 8)
  let t ← Ty.ofCode (r.mod.toNat % 8)
  return ⟨r.head, c, t, r.d.setWidth 3, r.getA, r.getImm⟩

def VSel.cand (w : Word) (l : List Word) : Option VSel := do
  let r := VRaw.ofWord w
  let t ← r.getTy
  return ⟨r.head, t, r.mod.getLsbD 1, r.c.setWidth 3, r.getD, r.getA, r.getB l⟩

def VMov.cand (w : Word) (l : List Word) : Option VMov := do
  let r := VRaw.ofWord w
  let t ← r.getTy
  let src : MovSrc := match l with
    | x :: _ => .lit x
    | [] => if flag1 r.bs then .scal (r.b.setWidth 6) else .vec r.getA
  return ⟨r.head, t, r.getD, src⟩

def VMovi.cand (w : Word) : Option VMovi := do
  let r := VRaw.ofWord w
  let t ← r.getTy
  return ⟨r.head, t, r.getD, r.getImm⟩

def VCvti.cand (w : Word) : Option VCvti := do
  let r := VRaw.ofWord w
  let td ← r.getTy
  let ts ← Ty.ofCode r.c.toNat
  return ⟨r.head, td, ts, r.mod.getLsbD 0, r.getD, r.getA⟩

def VLea.cand (w : Word) (l : List Word) : Option VLea := do
  let r := VRaw.ofWord w
  let t ← r.getTy
  return ⟨r.head, t, r.mod.setWidth 2, r.getD, r.getA, r.getB l⟩

def VModRed.cand (w : Word) (l : List Word) : Option VModRed := do
  let r := VRaw.ofWord w
  let m ← ModSel.ofCode (r.mod.toNat / 4)
  let t ← Ty.ofCode r.opt
  return ⟨r.head, m, t, r.getD, r.getA, if m = .operand then some (r.getB l) else none⟩

def VMod.cand (w : Word) (l : List Word) : Option VMod := do
  let r := VRaw.ofWord w
  let m ← ModSel.ofCode (r.mod.toNat / 4)
  let t ← Ty.ofCode r.opt
  return ⟨r.head, m, t, r.getD, r.getA, r.getB l, if m = .operand then some r.getC else none⟩

def VModImm.cand (w : Word) : Option VModImm := do
  let r := VRaw.ofWord w
  let m ← ModSel.ofCode (r.mod.toNat / 4)
  let t ← Ty.ofCode r.opt
  return ⟨r.head, m, t, r.getD, r.getA, r.getImm⟩

/-- The rounding mode of OPT (R119). -/
def VRaw.rm (r : VRaw) : RMode := RMode.ofCode (r.mod.setWidth 2)

def F1.cand (w : Word) : Option F1 := do
  let r := VRaw.ofWord w
  let t ← r.getTy
  return ⟨r.head, t, r.rm, r.getD, r.getA⟩

def F2.cand (w : Word) (l : List Word) : Option F2 := do
  let r := VRaw.ofWord w
  let t ← r.getTy
  return ⟨r.head, t, r.rm, r.getD, r.getA, r.getB l⟩

def F3.cand (w : Word) (l : List Word) : Option F3 := do
  let r := VRaw.ofWord w
  let t ← r.getTy
  return ⟨r.head, t, r.rm, r.getD, r.getA, r.getB l, r.getC⟩

def VFcvt.cand (w : Word) : Option VFcvt := do
  let r := VRaw.ofWord w
  let td ← r.getTy
  let ts ← Ty.ofCode r.c.toNat
  return ⟨r.head, td, ts, r.rm, r.getD, r.getA⟩

def VDotc.cand (w : Word) (l : List Word) : Option VDotc :=
  let r := VRaw.ofWord w
  some ⟨r.head, r.mod.extractLsb' 2 2, r.mod.getLsbD 0, r.getD, r.getA, r.getB l, r.getC⟩

def VCdec.cand (w : Word) : Option VCdec := do
  let r := VRaw.ofWord w
  let f ← (match r.mod.toNat / 16 with
    | 0 => some CdecForm.s16
    | 1 => some (.s32 (r.mod.setWidth 2))
    | _ => none)
  return ⟨r.head, f, r.mod.extractLsb' 2 2, r.getD, r.getA⟩

def VUnpk.cand (w : Word) (l : List Word) : Option VUnpk := do
  let r := VRaw.ofWord w
  let t ← r.getTy
  return ⟨r.head, t == .s32, r.getD, r.a, r.getB l, r.getC⟩

def VShfl.cand (w : Word) (l : List Word) : Option VShfl := do
  let r := VRaw.ofWord w
  let m ← ShflMode.ofCode (r.mod.toNat / 16)
  return ⟨r.head, m, r.mod.getLsbD 2, r.getD, r.a, r.getB l⟩

def VVote.cand (w : Word) : Option VVote := do
  let r := VRaw.ofWord w
  let p := r.d.setWidth 3
  let m : VoteMode := match r.mod.toNat / 16 with
    | 0 => .all p
    | 1 => .any p
    | 2 => .uni p
    | _ => .ballot r.getD
  return ⟨r.head, m, r.mod.getLsbD 3, r.a.setWidth 3⟩

def VRed.cand (w : Word) : Option VRed := do
  let r := VRaw.ofWord w
  let op ← RedOp.ofCode (r.mod.toNat / 4)
  let t ← Ty.ofCode r.c.toNat
  return ⟨r.head, op, r.rm, t, r.getD, r.a⟩

def VScan.cand (w : Word) : Option VScan := do
  let r := VRaw.ofWord w
  let op ← RedOp.ofCode (r.mod.toNat / 4)
  let t ← Ty.ofCode (r.c.toNat % 16)
  return ⟨r.head, op, r.rm, t, r.c.getLsbD 4, r.getD, r.a⟩

def VXswap.cand (w : Word) : Option VXswap := do
  let r := VRaw.ofWord w
  let t ← r.getTy
  return ⟨r.head, t == .n64, r.d, r.a, r.b.setWidth 6⟩

def S2.cand (w : Word) (l : List Word) : Option S2 :=
  let r := SRaw.ofWord w
  some ⟨r.head, SReg.ofCode r.d, SReg.ofCode r.a, r.getY l⟩

def SShr.cand (w : Word) (l : List Word) : Option SShr :=
  let r := SRaw.ofWord w
  some ⟨r.head, r.mod.getLsbD 0, SReg.ofCode r.d, SReg.ofCode r.a, r.getY l⟩

def SMov.cand (w : Word) : Option SMov :=
  let r := SRaw.ofWord w
  some ⟨r.head, SReg.ofCode r.d, SReg.ofCode r.a⟩

def SMovl.cand (w : Word) : List Word → Option SMovl
  | x :: _ => let r := SRaw.ofWord w; some ⟨r.head, SReg.ofCode r.d, x⟩
  | [] => none

def SSetp.cand (w : Word) (l : List Word) : Option SSetp := do
  let r := SRaw.ofWord w
  let c ← Cmp.ofCode (r.mod.toNat / 4)
  return ⟨r.head, c, !r.mod.getLsbD 0, r.d.setWidth 3, SReg.ofCode r.a, r.getY l⟩

def SVget.cand (w : Word) (l : List Word) : Option SVget := do
  let r := SRaw.ofWord w
  let t ← XferTy.ofCode r.mod.toNat
  return ⟨r.head, t, SReg.ofCode r.d, r.a, r.getY l⟩

def SVput.cand (w : Word) (l : List Word) : Option SVput :=
  let r := SRaw.ofWord w
  some ⟨r.head, r.mod.getLsbD 0, r.d, SReg.ofCode r.a, r.getY l⟩

def SGets.cand (w : Word) : Option SGets := do
  let r := SRaw.ofWord w
  let x ← Special.ofCode r.a.toNat
  return ⟨r.head, r.mod.getLsbD 0, r.d, x⟩

def SPlog.cand (w : Word) : Option SPlog :=
  let r := SRaw.ofWord w
  some ⟨r.head, r.mod.setWidth 4, PReg.ofCode r.d, PReg.ofCode r.a, PReg.ofCode r.b⟩

def SWin.cand (w : Word) (l : List Word) : Option SWin :=
  let r := SRaw.ofWord w
  some ⟨r.head, r.getY l⟩

/-- An instruction without fields, in any format: the head lies at the same bits (R115). -/
def Bare.cand (w : Word) : Option Bare := some ⟨Head.ofBits (bits w 46 8)⟩

def CBra.cand (w : Word) : Option CBra :=
  let r := CRaw.ofWord w
  some ⟨r.head, r.tgt⟩

def CBrd.cand (w : Word) : Option CBrd :=
  let r := CRaw.ofWord w
  some ⟨r.head, r.p, flag1 r.pi, r.tgt, r.aux⟩

def CCall.cand (w : Word) : Option CCall :=
  let r := CRaw.ofWord w
  some ⟨r.head, r.s, if r.aux.getLsbD 15 then .reg (r.aux.setWidth 6) else .label r.tgt⟩

def CRet.cand (w : Word) : Option CRet :=
  let r := CRaw.ofWord w
  some ⟨r.head, r.s⟩

def CBri.cand (w : Word) : Option CBri :=
  let r := CRaw.ofWord w
  some ⟨r.head, r.s, r.tgt, r.aux⟩

def CLoop.cand (w : Word) : Option CLoop :=
  let r := CRaw.ofWord w
  some ⟨r.head, r.s, r.tgt⟩

def CExit.cand (w : Word) : Option CExit :=
  let r := CRaw.ofWord w
  some ⟨r.head, if r.aux.getLsbD 0 then some ⟨flag1 r.pi, r.p⟩ else none⟩

def CSafe.cand (w : Word) : List Word → Option CSafe
  | x :: y :: _ => some ⟨(CRaw.ofWord w).head, x, y⟩
  | _ => none

def CSig.cand (w : Word) : Option CSig :=
  let r := CRaw.ofWord w
  some ⟨r.head, (r.tgt.setWidth 16 : BitVec 16) ++ r.aux⟩

def CPub.cand (w : Word) : Option CPub :=
  let r := VRaw.ofWord w
  some ⟨r.head, r.d⟩

def MAcc.cand (w : Word) (l : List Word) : Option MAcc := do
  let r := MRaw.ofWord w
  let t ← Ty.ofCode r.ty.toNat
  return ⟨r.head, t, Pol.ofCode r.pol, r.d, r.getMem l⟩

def MLoc.cand (w : Word) (l : List Word) : Option MLoc := do
  let r := MRaw.ofWord w
  let t ← Ty.ofCode r.ty.toNat
  return ⟨r.head, t, r.d, r.getMem l⟩

def MAtom.cand (w : Word) (l : List Word) : Option MAtom := do
  let r := MRaw.ofWord w
  let op ← AtomOp.ofCodes r.op.toNat r.ty
  let sc ← Scope.ofCode r.scope.toNat
  return ⟨r.head, op, r.pol.getLsbD 0, sc, r.d, r.getAddr l⟩

def MFence.cand (w : Word) : Option MFence := do
  let r := MRaw.ofWord w
  let k ← FenceKind.ofCode r.op.toNat
  let sc ← Scope.ofCode r.scope.toNat
  return ⟨r.head, k, sc⟩

def MPref.cand (w : Word) (l : List Word) : Option MPref := do
  let r := MRaw.ofWord w
  let k ← PrefLvl.ofCode r.op.toNat
  return ⟨r.head, k, r.getAddr l⟩

def MLine.cand (w : Word) (l : List Word) : Option MLine :=
  let r := MRaw.ofWord w
  some ⟨r.head, r.op.getLsbD 0, r.getAddr l⟩

def MXfer.cand (w : Word) (l : List Word) : Option MXfer :=
  let r := MRaw.ofWord w
  some ⟨r.head, r.d.setWidth 6, r.sb, r.getOff l⟩

def PCpy.cand (w : Word) : Option PCpy := do
  let r := PRaw.ofWord w
  let d ← CpyDir.ofCode r.mod.toNat
  return ⟨r.head, d, r.srec, r.drec, r.sa, r.sb, r.sc⟩

def PCpym.cand (w : Word) : Option PCpym :=
  let r := PRaw.ofWord w
  some ⟨r.head, r.mod.getLsbD 0, r.srec, r.drec, r.sa, r.sb, r.sc, r.slot⟩

def PLand.cand (w : Word) : Option PLand :=
  let r := PRaw.ofWord w
  some ⟨r.head, r.slot, if r.mod.getLsbD 0 then none else some ⟨r.sa, r.sb, r.sc⟩⟩

def PLandw.cand (w : Word) : Option PLandw :=
  let r := PRaw.ofWord w
  some ⟨r.head, r.slot⟩

def PSeal.cand (w : Word) : Option PSeal :=
  let r := PRaw.ofWord w
  some ⟨r.head, Cls.ofCode r.cls⟩

def PWait.cand (w : Word) : Option PWait :=
  let r := PRaw.ofWord w
  some ⟨r.head, Cls.ofCode r.cls, r.n⟩

def PYieldb.cand (w : Word) : Option PYieldb :=
  let r := CRaw.ofWord w
  some ⟨r.head, Cls.ofCode (r.aux.extractLsb' 4 2), r.aux.setWidth 4, r.tgt⟩

def PCstat.cand (w : Word) : Option PCstat :=
  let r := PRaw.ofWord w
  some ⟨r.head, r.sa, r.sb⟩

def PCbld.cand (w : Word) : Option PCbld :=
  let r := PRaw.ofWord w
  some ⟨r.head, r.slot.setWidth 2, r.sa, r.sc⟩

def XGang.cand (w : Word) : Option XGang :=
  let r := XRaw.ofWord w
  some ⟨r.head, r.aux.setWidth 2, r.aux.extractLsb' 2 2, r.ra.setWidth 6⟩

def XMzero.cand (w : Word) : Option XMzero := do
  let r := XRaw.ofWord w
  let f ← AccFmt.ofCode r.tc.toNat
  let t ← ResTy.ofCode r.td.toNat
  return ⟨r.head, f, t, r.tile, r.rb.setWidth 6⟩

def XTok.cand (w : Word) : Option XTok :=
  let r := XRaw.ofWord w
  some ⟨r.head, r.tile⟩

def XMma.cand (w : Word) : Option XMma := do
  let r := XRaw.ofWord w
  let ta ← InTy.ofCode r.ta.toNat
  let tb ← InTy.ofCode r.tb.toNat
  let f ← AccFmt.ofCode r.tc.toNat
  let t ← ResTy.ofCode r.td.toNat
  return ⟨r.head, ta, tb, f, t, r.tile, r.ra, r.rb, r.book, flag1 r.trp, r.aux⟩

def XScale.cand (w : Word) : Option XScale :=
  let r := XRaw.ofWord w
  some ⟨r.head, r.tile, r.aux⟩

def XDrain.cand (w : Word) : Option XDrain := do
  let r := XRaw.ofWord w
  let t ← drainTdOf r.td.toNat
  return ⟨r.head, t, r.tile, r.ra, r.rb.setWidth 6, RMode.ofCode r.book, flag1 r.trp, r.aux⟩

def XDrainm.cand (w : Word) : Option XDrainm :=
  let r := XRaw.ofWord w
  some ⟨r.head, r.ta.getLsbD 0, r.tile, r.ra.setWidth 6, r.rb.setWidth 6, RMode.ofCode r.book,
    flag1 r.trp, r.aux⟩

def XAcst.cand (w : Word) : Option XAcst := do
  let r := XRaw.ofWord w
  let loc := r.aux.getLsbD 4
  if r.aux.getLsbD 0 then
    let sc ← Scope.ofCode (r.aux.toNat / 2 % 8)
    return ⟨r.head, r.tile, r.rb.setWidth 6, some sc, loc⟩
  else return ⟨r.head, r.tile, r.rb.setWidth 6, none, loc⟩

def XAcld.cand (w : Word) : Option XAcld := do
  let r := XRaw.ofWord w
  let f ← AccFmt.ofCode r.tc.toNat
  let t ← ResTy.ofCode r.td.toNat
  return ⟨r.head, r.aux.getLsbD 0, f, t, r.tile, r.rb.setWidth 6, r.aux.getLsbD 4⟩

def XMstat.cand (w : Word) : Option XMstat :=
  let r := XRaw.ofWord w
  some ⟨r.head, r.ra.setWidth 6, r.tile⟩

def XCont.cand (w : Word) : Option XCont :=
  let r := XRaw.ofWord w
  some ⟨r.head, r.ra.setWidth 6⟩

def XMinj.cand (w : Word) : Option XMinj := do
  let r := XRaw.ofWord w
  let m ← MinjMode.ofCode r.aux.toNat
  return ⟨r.head, m, r.tile, r.rb.setWidth 6⟩

def YBar.cand (w : Word) : Option YBar :=
  let r := YRaw.ofWord w
  some ⟨r.head, r.bar, r.getCount⟩

def YBara.cand (w : Word) : Option YBara :=
  let r := YRaw.ofWord w
  some ⟨r.head, r.s, r.bar, r.getCount⟩

def YTok.cand (w : Word) : Option YTok :=
  let r := YRaw.ofWord w
  some ⟨r.head, r.bar, r.s⟩

def YObj.cand (w : Word) : Option YObj :=
  let r := YRaw.ofWord w
  some ⟨r.head, r.s⟩

def YOcall.cand (w : Word) : Option YOcall :=
  let r := YRaw.ofWord w
  some ⟨r.head, r.d, r.a, r.b⟩

def YCreply.cand (w : Word) : Option YCreply :=
  let r := YRaw.ofWord w
  some ⟨r.head, r.a⟩

def ZTrap.cand (w : Word) : Option ZTrap :=
  let r := ZRaw.ofWord w
  some ⟨r.head, r.imm⟩

def ZRtt.cand (w : Word) : Option ZRtt := do
  let r := ZRaw.ofWord w
  let t ← (match r.mod.toNat with
    | 0 => some RttTo.plain
    | 1 => some .skip
    | 2 => some (.reg r.sa)
    | 3 => some (.both r.sa)
    | _ => none)
  return ⟨r.head, t⟩

def ZLaunch.cand (w : Word) : Option ZLaunch :=
  let r := ZRaw.ofWord w
  some ⟨r.head, r.sa, r.sb⟩

def ZSets.cand (w : Word) : Option ZSets :=
  let r := ZRaw.ofWord w
  some ⟨r.head, r.sa⟩

def ZTlbinv.cand (w : Word) : Option ZTlbinv :=
  let r := ZRaw.ofWord w
  some ⟨r.head, if r.mod.getLsbD 0 then none else some r.sa⟩

def ZPres.cand (w : Word) : Option ZPres :=
  let r := ZRaw.ofWord w
  some ⟨r.head, r.sa, if r.mod.getLsbD 0 then some r.sb else none⟩

/-- Class 0 and its VI forms (R129, R130). -/
def cand0 (op : Nat) (w : Word) (l : List Word) : Option Instr :=
  match op with
  | 0x001 => (V2.cand w l).map .iadd | 0x002 => (V2.cand w l).map .isub
  | 0x003 => (V2.cand w l).map .imul | 0x004 => (V2.cand w l).map .imulh
  | 0x005 => (V3.cand w l).map .imad | 0x006 => (V2.cand w l).map .idiv
  | 0x007 => (V2.cand w l).map .irem | 0x008 => (V2.cand w l).map .imin
  | 0x009 => (V2.cand w l).map .imax | 0x00A => (V1.cand w).map .iabs
  | 0x00B => (V1.cand w).map .ineg | 0x00C => (V3.cand w l).map .iclamp
  | 0x00D => (V2.cand w l).map .and | 0x00E => (V2.cand w l).map .or
  | 0x00F => (V2.cand w l).map .xor | 0x010 => (V2.cand w l).map .andn
  | 0x011 => (V2.cand w l).map .shl | 0x012 => (V2.cand w l).map .shr
  | 0x013 => (V2.cand w l).map .sar | 0x014 => (V2.cand w l).map .rot
  | 0x015 => (V1.cand w).map .popc | 0x016 => (V1.cand w).map .clz
  | 0x017 => (V1.cand w).map .ctz | 0x018 => (V1.cand w).map .brev
  | 0x019 => (V2.cand w l).map .bfx | 0x01A => (V3.cand w l).map .bfi
  | 0x01B => (V3.cand w l).map .permb | 0x01C => (VCmp.cand Ty.ofCode w l).map .isetp
  | 0x01D => (VSel.cand w l).map .sel | 0x01E => (VMov.cand w l).map .mov
  | 0x01F => (VMovi.cand w).map .movi | 0x020 => (VCvti.cand w).map .cvti
  | 0x021 => (VLea.cand w l).map .lea | 0x022 => (VModRed.cand w l).map .modred
  | 0x023 => (VMod.cand w l).map .modadd | 0x024 => (VMod.cand w l).map .modmul
  | 0x041 => (VImm.cand w).map .iaddVI | 0x042 => (VImm.cand w).map .isubVI
  | 0x043 => (VImm.cand w).map .imulVI | 0x048 => (VImm.cand w).map .iminVI
  | 0x049 => (VImm.cand w).map .imaxVI | 0x04D => (VImm.cand w).map .andVI
  | 0x04E => (VImm.cand w).map .orVI | 0x04F => (VImm.cand w).map .xorVI
  | 0x050 => (VImm.cand w).map .andnVI | 0x051 => (VImm.cand w).map .shlVI
  | 0x052 => (VImm.cand w).map .shrVI | 0x053 => (VImm.cand w).map .sarVI
  | 0x054 => (VImm.cand w).map .rotVI | 0x059 => (VImm.cand w).map .bfxVI
  | 0x05C => (VCmpImm.cand w).map .isetpVI | 0x062 => (VModImm.cand w).map .modredVI
  | 0x063 => (VModImm.cand w).map .modaddVI | 0x064 => (VModImm.cand w).map .modmulVI
  | _ => none

/-- Class 1 (R129). -/
def cand1 (op : Nat) (w : Word) (l : List Word) : Option Instr :=
  match op with
  | 0x080 => (F2.cand w l).map .fadd | 0x081 => (F2.cand w l).map .fsub
  | 0x082 => (F2.cand w l).map .fmul | 0x083 => (F3.cand w l).map .ffma
  | 0x084 => (F2.cand w l).map .fmin | 0x085 => (F2.cand w l).map .fmax
  | 0x086 => (VCmp.cand fcmpTyOf w l).map .fsetp | 0x087 => (F2.cand w l).map .fdiv
  | 0x088 => (F1.cand w).map .fsqrt | 0x089 => (F1.cand w).map .frcp
  | 0x08A => (F1.cand w).map .fexp2 | 0x08B => (F1.cand w).map .flog2
  | 0x08C => (VFcvt.cand w).map .fcvt | 0x08D => (F1.cand w).map .fround
  | 0x08E => (V1.cand w).map .fclass | 0x090 => (V3.cand w l).map .dot4
  | 0x091 => (V3.cand w l).map .dot8 | 0x092 => (VDotc.cand w l).map .dotc4
  | 0x093 => (F3.cand w l).map .bdot | 0x094 => (VCdec.cand w).map .cdec
  | 0x095 => (VUnpk.cand w l).map .bitunpk | 0x0A0 => (VShfl.cand w l).map .shfl
  | 0x0A1 => (VVote.cand w).map .vote | 0x0A2 => (VRed.cand w).map .lred
  | 0x0A3 => (VScan.cand w).map .lscan | 0x0A4 => (VXswap.cand w).map .xswap
  | _ => none

/-- Class 2 (R129). -/
def cand2 (op : Nat) (w : Word) (l : List Word) : Option Instr :=
  match op with
  | 0x100 => (S2.cand w l).map .sadd | 0x101 => (S2.cand w l).map .ssub
  | 0x102 => (S2.cand w l).map .smul | 0x103 => (S2.cand w l).map .sand
  | 0x104 => (S2.cand w l).map .sor | 0x105 => (S2.cand w l).map .sxor
  | 0x106 => (S2.cand w l).map .sshl | 0x107 => (SShr.cand w l).map .sshr
  | 0x108 => (SMov.cand w).map .smov | 0x109 => (SMovl.cand w l).map .smovl
  | 0x10A => (SSetp.cand w l).map .ssetp | 0x10B => (SVget.cand w l).map .vget
  | 0x10C => (SVput.cand w l).map .vput | 0x10D => (SGets.cand w).map .gets
  | 0x10E => (SPlog.cand w).map .plog | 0x110 => (CBra.cand w).map .bra
  | 0x111 => (CBrd.cand w).map .brd | 0x112 => (Bare.cand w).map .join
  | 0x113 => (CCall.cand w).map .call | 0x114 => (CRet.cand w).map .ret
  | 0x115 => (CBri.cand w).map .bri | 0x116 => (CLoop.cand w).map .loop
  | 0x117 => (CExit.cand w).map .exit | 0x118 => (Bare.cand w).map .nop
  | 0x119 => (CSafe.cand w l).map .safe | 0x11A => (CSig.cand w).map .sigchk
  | 0x11B => (Bare.cand w).map .yield | 0x11C => (SWin.cand w l).map .wgrow
  | 0x11D => (SWin.cand w l).map .wshrink | 0x11E => (CPub.cand w).map .pub
  | _ => none

/-- Classes 3 and 4 (R129). -/
def cand34 (op : Nat) (w : Word) (l : List Word) : Option Instr :=
  match op with
  | 0x180 => (MAcc.cand w l).map .ld | 0x181 => (MAcc.cand w l).map .st
  | 0x182 => (MLoc.cand w l).map .lds | 0x183 => (MLoc.cand w l).map .sts
  | 0x184 => (MAtom.cand w l).map .atom | 0x185 => (MAtom.cand w l).map .red
  | 0x186 => (MFence.cand w).map .fence | 0x187 => (MPref.cand w l).map .pref
  | 0x188 => (MLine.cand w l).map .cflush | 0x189 => (MLine.cand w l).map .cinv
  | 0x18A => (MXfer.cand w l).map .fetch | 0x18B => (MXfer.cand w l).map .post
  | 0x200 => (PCpy.cand w).map .cpy | 0x201 => (PCpym.cand w).map .cpym
  | 0x202 => (PLand.cand w).map .land | 0x203 => (PLandw.cand w).map .landw
  | 0x204 => (PSeal.cand w).map .sealb | 0x205 => (PWait.cand w).map .waitb
  | 0x206 => (PYieldb.cand w).map .yieldb | 0x207 => (PCstat.cand w).map .cstat
  | 0x208 => (PCbld.cand w).map .cbld
  | _ => none

/-- Classes 5, 6 and 7 (R129). -/
def cand567 (op : Nat) (w : Word) : Option Instr :=
  match op with
  | 0x280 => (XGang.cand w).map .gang | 0x281 => (XMzero.cand w).map .mzero
  | 0x282 => (XTok.cand w).map .rel | 0x283 => (XTok.cand w).map .acq
  | 0x284 => (XMma.cand w).map .mma | 0x285 => (XScale.cand w).map .mscale
  | 0x286 => (XDrain.cand w).map .drain | 0x287 => (XDrainm.cand w).map .drainm
  | 0x288 => (XAcst.cand w).map .acst | 0x289 => (XAcld.cand w).map .acld
  | 0x28A => (XMstat.cand w).map .mstat | 0x28B => (XCont.cand w).map .cont
  | 0x28C => (XMinj.cand w).map .minj
  | 0x300 => (YBar.cand w).map .bar | 0x301 => (YBara.cand w).map .bara
  | 0x302 => (YTok.cand w).map .barw | 0x303 => (YTok.cand w).map .barq
  | 0x304 => (YBar.cand w).map .binit | 0x310 => (YObj.cand w).map .objreg
  | 0x311 => (YObj.cand w).map .objdel | 0x312 => (YOcall.cand w).map .ocall
  | 0x313 => (YObj.cand w).map .orel | 0x314 => (YCreply.cand w).map .creply
  | 0x315 => (Bare.cand w).map .cdone
  | 0x380 => (ZTrap.cand w).map .trap | 0x381 => (ZRtt.cand w).map .rtt
  | 0x382 => (ZTrap.cand w).map .bkpt | 0x383 => (Bare.cand w).map .halt
  | 0x384 => (ZLaunch.cand w).map .launch | 0x385 => (ZSets.cand w).map .sets
  | 0x386 => (ZTlbinv.cand w).map .tlbinv | 0x387 => (ZPres.cand w).map .pres
  | _ => none

/-- The opcode of a word (R115). -/
def opcodeOf (w : Word) : Nat := (bits w 54 10).toNat

/-- The class of a word: its opcode divided by 0x80 (R108). -/
def classOf (w : Word) : Nat := opcodeOf w / 0x80

/-- The one instruction whose encoding a word with its literals can be. -/
def candidate (w : Word) (l : List Word) : Option Instr :=
  match classOf w with
  | 0 => cand0 (opcodeOf w) w l
  | 1 => cand1 (opcodeOf w) w l
  | 2 => cand2 (opcodeOf w) w l
  | 3 => cand34 (opcodeOf w) w l
  | 4 => cand34 (opcodeOf w) w l
  | _ => cand567 (opcodeOf w) w

/-- Why a slot holds no instruction; each is ILLEGAL by the fifth rule of R132. -/
inductive Reject where
  /-- No word at all. -/
  | empty
  /-- The opcode is unassigned (R131), or a code of a field has no meaning. -/
  | unassigned
  /-- A reserved bit or code is set, or the literals are too many or too few (R110, R116). -/
  | reserved
  /-- A register field breaks R24, R118 or R127, or the type is outside the instruction's set. -/
  | operands
  deriving DecidableEq, Repr

/-- The instruction in a slot, its literals after it. -/
def decode : List Word → Except Reject Instr
  | [] => .error .empty
  | w :: l =>
    match candidate w l with
    | none => .error .unassigned
    | some i =>
      if encode i ≠ w :: l then .error .reserved
      else if wellFormed i then .ok i
      else .error .operands

/-- How many literals an instruction word asks for when it cannot do without (R110). -/
def literalsNeeded (w : Word) : Nat :=
  if opcodeOf w = 0x109 then 1 else if opcodeOf w = 0x119 then 2 else 0

/-- What `decode` reads from an instruction whose bits are `w`, the first word lowest. -/
def decodeTableWord (nbits w : Nat) : Option Instr :=
  let first : Word := BitVec.ofNat 64 w
  let n := max (literalsNeeded first) (nbits / 64 - 1)
  let lits := (List.range n).map fun k => BitVec.ofNat 64 (w / 2 ^ (64 * (k + 1)))
  match decode (first :: lits) with
  | .ok i => some i
  | .error _ => none

/-! ### Clauses (R106 to R111) -/

/-- A clause header without its mark (R107). -/
structure Header where
  eclass : BitVec 4
  nslot : BitVec 4
  lmask : BitVec 16
  wcp : BitVec 3
  wmx : BitVec 3
  wcb : BitVec 3
  wrm : BitVec 3
  rsv : BitVec 18
  deriving DecidableEq, Repr

/-- The mark of a header (R107). -/
def Header.mark : BitVec 10 := 0x3FF

def Header.toWord (h : Header) : Word :=
  Header.mark ++ h.eclass ++ h.nslot ++ h.lmask ++ h.wcp ++ h.wmx ++ h.wcb ++ h.wrm ++ h.rsv

/-- A word as a header, when it has the mark (R112). -/
def Header.ofWord (w : Word) : Option Header :=
  if bits w 54 10 = Header.mark then
    some ⟨bits w 50 4, bits w 46 4, bits w 30 16, bits w 27 3, bits w 24 3, bits w 21 3, bits w 18 3,
      bits w 0 18⟩
  else none

/-- How many slots the clause has (R107). -/
def Header.slots (h : Header) : Nat := h.nslot.toNat + 1

/-- Slot `j` is a literal (R107). -/
def Header.literal (h : Header) (j : Nat) : Bool := h.lmask.getLsbD j

/-- A header that R108 lets stand. -/
def Header.good (h : Header) : Bool :=
  h.eclass.toNat ≤ 7 && h.rsv == 0 && !h.literal 0 && h.lmask.toNat < 2 ^ h.slots

/-- The classes that a header admits (R108). -/
def Header.admits (h : Header) (cls : Nat) : Bool :=
  match h.eclass.toNat with
  | 0 => true
  | 1 => cls == 0 || cls == 1
  | c => cls == c

/-- The wait threshold of a class; 7 is no wait (R107). -/
def Header.threshold (h : Header) : Cls → Nat
  | .cp => h.wcp.toNat
  | .mx => h.wmx.toNat
  | .cb => h.wcb.toNat
  | .rm => h.wrm.toNat

/-- The number of literal slots that follow slot `j`, with `fuel` slots left to look at (R110). -/
def Header.litsFrom (h : Header) : Nat → Nat → Nat
  | _, 0 => 0
  | j, fuel + 1 => if j < h.slots && h.literal j then h.litsFrom (j + 1) fuel + 1 else 0

/-- The number of literals of the instruction in slot `j` (R110). -/
def Header.litCount (h : Header) (j : Nat) : Nat := h.litsFrom (j + 1) 16

/-- The clause-ending instructions (R111). -/
def Instr.endsClause : Instr → Bool
  | .bra _ | .brd _ | .join _ | .call _ | .ret _ | .bri _ | .loop _ | .exit _ | .yield _ | .yieldb _
  | .landw _ | .trap _ | .rtt _ | .halt _ => true
  | _ => false

end Sys2Proof
end

