-- ==== Sys2Proof/Machine/Crypto.lean ====
section
/-! DEFINITION. CRC-32C (R164), SHA3-256 (FIPS 202; R411) and HMAC-SHA3-256 (R427). -/

namespace Sys2Proof.Machine

/-- The low `n` bytes of a number, lowest first (R4). -/
def leBytes (n x : Nat) : List Byte := (List.range n).map fun k => BitVec.ofNat 8 (x / 2 ^ (8 * k))

/-- The number whose bytes these are, lowest first (R4). -/
def ofBytes : List Byte → Nat
  | [] => 0
  | b :: t => b.toNat + 256 * ofBytes t

namespace Crc

/-- One bit step of `crc_byte` (R164). -/
def bitStep (c : BitVec 32) : BitVec 32 :=
  if c.getLsbD 0 then (c >>> 1) ^^^ 0x82F63B78#32 else c >>> 1

/-- `crc_byte` (R164). -/
def byte (c : BitVec 32) (x : Byte) : BitVec 32 :=
  bitStep (bitStep (bitStep (bitStep (bitStep (bitStep (bitStep (bitStep (c ^^^ x.setWidth 32))))))))

/-- The eight bytes of a word, lowest first (R164). -/
def word (c : BitVec 32) (w : Word) : BitVec 32 := (leBytes 8 w.toNat).foldl byte c

end Crc

namespace Sha3

/-- A state of 25 lanes, lane x + 5 y (FIPS 202). -/
abbrev Lanes := List (BitVec 64)

def lane (s : Lanes) (x y : Nat) : BitVec 64 := s.getD (x % 5 + 5 * (y % 5)) 0

/-- The round constants of ι. -/
def constants : List (BitVec 64) :=
  [0x0000000000000001, 0x0000000000008082, 0x800000000000808A, 0x8000000080008000,
   0x000000000000808B, 0x0000000080000001, 0x8000000080008081, 0x8000000000008009] ++
  [0x000000000000008A, 0x0000000000000088, 0x0000000080008009, 0x000000008000000A,
   0x000000008000808B, 0x800000000000008B, 0x8000000000008089, 0x8000000000008003] ++
  [0x8000000000008002, 0x8000000000000080, 0x000000000000800A, 0x800000008000000A,
   0x8000000080008081, 0x8000000000008080, 0x0000000080000001, 0x8000000080008008]

/-- The rotations of ρ, lane x + 5 y. -/
def rotations : List Nat :=
  [0, 1, 62, 28, 27, 36, 44, 6, 55, 20, 3, 10, 43, 25, 39, 41, 45, 15, 21, 8, 18, 2, 61, 56, 14]

def theta (s : Lanes) : Lanes :=
  let c := (List.range 5).map fun x => lane s x 0 ^^^ lane s x 1 ^^^ lane s x 2 ^^^ lane s x 3 ^^^ lane s x 4
  let d (x : Nat) := c.getD ((x + 4) % 5) 0 ^^^ (c.getD ((x + 1) % 5) 0).rotateLeft 1
  (List.range 25).map fun i => s.getD i 0 ^^^ d (i % 5)

/-- ρ and π: lane (y, 2x + 3y) is lane (x, y) rotated. -/
def rhoPi (s : Lanes) : Lanes :=
  (List.range 25).map fun i =>
    let x := i % 5
    let y := i / 5
    let src := (x + 3 * y) % 5 + 5 * x
    (s.getD src 0).rotateLeft (rotations.getD src 0)

def chi (s : Lanes) : Lanes :=
  (List.range 25).map fun i =>
    let x := i % 5
    let y := i / 5
    lane s x y ^^^ (~~~ lane s (x + 1) y &&& lane s (x + 2) y)

def round (s : Lanes) (rc : BitVec 64) : Lanes :=
  match chi (rhoPi (theta s)) with
  | a :: t => (a ^^^ rc) :: t
  | [] => []

def keccakF (s : Lanes) : Lanes := constants.foldl round s

/-- A block of 136 bytes as 17 lanes. -/
def blockLanes (b : List Byte) : Lanes :=
  (List.range 17).map fun k => BitVec.ofNat 64 (ofBytes ((b.drop (8 * k)).take 8))

def xorLanes : Lanes → Lanes → Lanes
  | a :: s, b :: t => (a ^^^ b) :: xorLanes s t
  | s, [] => s
  | [], _ => []

/-- Absorbs the whole blocks, at most `n` of them. -/
def absorb : Nat → Lanes → List Byte → Lanes
  | 0, s, _ => s
  | n + 1, s, m => if m = [] then s else absorb n (keccakF (xorLanes s (blockLanes (m.take 136)))) (m.drop 136)

/-- The padding of SHA-3: 01, then 10*1. -/
def pad (m : List Byte) : List Byte :=
  let q := 136 - m.length % 136
  m ++ (if q = 1 then [0x86#8] else [0x06#8] ++ List.replicate (q - 2) 0#8 ++ [0x80#8])

/-- SHA3-256 as 32 bytes. -/
def hash (m : List Byte) : List Byte :=
  let p := pad m
  ((absorb (p.length / 136 + 1) (List.replicate 25 0#64) p).take 4).flatMap fun l => leBytes 8 l.toNat

/-- HMAC-SHA3-256 under a 32-byte key: the block is 136 bytes. -/
def hmac (key m : List Byte) : List Byte :=
  let k := key ++ List.replicate (136 - key.length) 0#8
  hash (k.map (· ^^^ 0x5C#8) ++ hash (k.map (· ^^^ 0x36#8) ++ m))

end Sha3

end Sys2Proof.Machine
end

