-- ==== Sys2Proof/Machine/Sparse.lean ====
section
/-! DEFINITION. Reading and writing numbered entries, in the one canonical form of `Sparse`. -/

namespace Sys2Proof.Machine

/-- The entry under a number, or the default. -/
def Sparse.get {α : Type} (d : α) : Sparse α → Nat → α
  | [], _ => d
  | (k, v) :: t, n => if n = k then v else Sparse.get d t n

/-- Puts an entry in its place. -/
def Sparse.insert {α : Type} : Sparse α → Nat → α → Sparse α
  | [], n, x => [(n, x)]
  | (k, v) :: t, n, x =>
    if n < k then (n, x) :: (k, v) :: t else if n = k then (n, x) :: t else (k, v) :: Sparse.insert t n x

/-- Takes the entry under a number out. -/
def Sparse.erase {α : Type} (m : Sparse α) (n : Nat) : Sparse α := m.filter fun p => p.1 != n

/-- Puts an entry under a number; the default value is not listed. -/
def Sparse.set {α : Type} [DecidableEq α] (d : α) (m : Sparse α) (n : Nat) (x : α) : Sparse α :=
  if x = d then Sparse.erase m n else Sparse.insert m n x

/-- Every key of the list is above `b`, the keys rise, and no entry is the default. -/
def Sparse.above {α : Type} [DecidableEq α] (d : α) : Nat → Sparse α → Bool
  | _, [] => true
  | b, (k, v) :: t => decide (b < k) && decide (v ≠ d) && Sparse.above d k t

/-- The canonical form. -/
def Sparse.wf {α : Type} [DecidableEq α] (d : α) : Sparse α → Bool
  | [] => true
  | (k, v) :: t => decide (v ≠ d) && Sparse.above d k t

/-- Puts several entries. -/
def Sparse.setAll {α : Type} [DecidableEq α] (d : α) (m : Sparse α) (l : List (Nat × α)) : Sparse α :=
  l.foldl (fun m p => Sparse.set d m p.1 p.2) m

/-- Keeps the entries whose key satisfies `p`. -/
def Sparse.keep {α : Type} (p : Nat → Bool) (m : Sparse α) : Sparse α := m.filter fun x => p x.1

/-- The entries of the `len` keys from `a` on, under those from `b` on. -/
def Sparse.shift {α : Type} (a b len : Nat) (m : Sparse α) : Sparse α :=
  (m.filter fun x => decide (a ≤ x.1) && decide (x.1 < a + len)).map fun x => (x.1 - a + b, x.2)

/-- The set of the numbers in a rising list with one more. -/
def insertNat : List Nat → Nat → List Nat
  | [], n => [n]
  | k :: t, n => if n < k then n :: k :: t else if n = k then k :: t else k :: insertNat t n

/-- Puts an element before the first one that it may precede. -/
def insertBy {α : Type} (le : α → α → Bool) (x : α) : List α → List α
  | [] => [x]
  | y :: t => if le x y then x :: y :: t else y :: insertBy le x t

/-- The elements in order; equal ones keep theirs. -/
def sortBy {α : Type} (le : α → α → Bool) (l : List α) : List α := l.foldr (insertBy le) []

/-- The canonical form of the memory (R17; log 3). -/
abbrev Memory.wf (m : List Host.Cell) : Bool := Sparse.wf Config.emptyByte m

end Sys2Proof.Machine
end

