-- ==== Sys2Proof/Machine/Ops.lean ====
section
/-! DEFINITION. The named operations over the state: finding and replacing its parts, registers, memory
below and in L1, the journal and messages, and taking a trap and returning from one (R383 to R390, R402). -/

namespace Sys2Proof.Machine

/-! ### Names of groups and fields of the launch record -/

/-- The launch a group belongs to. -/
def lidOf : GroupId → Nat
  | .member l _ _ => l
  | .wave l _ => l

/-- The group is a combiner wave (R375). -/
def isWave : GroupId → Bool
  | .wave .. => true
  | .member .. => false

/-- The team of a group; all ones in a wave (R376). -/
def teamOf : GroupId → Nat
  | .member _ t _ => t
  | .wave .. => 2 ^ 64 - 1

/-- The group in its team; all ones in a wave (R376). -/
def groupOf : GroupId → Nat
  | .member _ _ g => g
  | .wave .. => 2 ^ 64 - 1

/-- A field of the launch record (R78). -/
def field (r : BitVec 2048) (lo len : Nat) : Nat := r.toNat / 2 ^ lo % 2 ^ len

namespace Launch

def code (l : Launch) : Nat := field l.record 0 57
def items (l : Launch) : Nat := field l.record 64 64
/-- T (R59). -/
def teamCount (l : Launch) : Nat := field l.record 128 40 + 1
/-- W (R59). -/
def width (l : Launch) : Nat := 16 * 2 ^ field l.record 168 2
/-- G (R59). -/
def groupsPer (l : Launch) : Nat := field l.record 170 5 + 1
/-- The initial window (R64). -/
def window (l : Launch) : Nat := 4 * field l.record 175 7
/-- S (R67). -/
def scratchSize (l : Launch) : Nat := 1024 * field l.record 182 9
def prio (l : Launch) : Nat := field l.record 192 3
def urgent (l : Launch) : Bool := field l.record 195 1 == 1
def queue (l : Launch) : Nat := field l.record 196 6
def nslot (l : Launch) : Nat := field l.record 202 4
def pset (l : Launch) : Nat := field l.record 206 3
def npred (l : Launch) : Nat := field l.record 209 3
def cores (l : Launch) : Bool := field l.record 224 1 == 1
def podset (l : Launch) : Bool := field l.record 225 1 == 1
def runner (l : Launch) : Bool := field l.record 226 1 == 1
def stallck (l : Launch) : Bool := field l.record 227 1 == 1
def diag (l : Launch) : Bool := field l.record 228 1 == 1
def serial (l : Launch) : Bool := field l.record 229 1 == 1
def pair (l : Launch) : Bool := field l.record 230 1 == 1
def contf (l : Launch) : Bool := field l.record 231 1 == 1
def pred (l : Launch) (k : Nat) : Nat := field l.record (256 + 16 * k) 16
def pmap (l : Launch) : Nat := field l.record 384 57
def trapOfs (l : Launch) : Int := (BitVec.ofNat 32 (field l.record 448 32)).toInt
def spillSize (l : Launch) : Nat := field l.record 480 32
def save (l : Launch) : Nat := field l.record 512 57
def fqueue (l : Launch) : Nat := field l.record 576 57
def spill (l : Launch) : Nat := field l.record 640 57
def rreg (l : Launch) (k : Nat) : Nat := field l.record (704 + 8 * k) 8
def rdef (l : Launch) (k : Nat) : Lane := BitVec.ofNat 32 (field l.record (768 + 32 * k) 32)
def arg (l : Launch) (j : Nat) : Word := BitVec.ofNat 64 (field l.record (1024 + 64 * j) 64)

/-- The launch is pre-empted only as a whole (R94). -/
def wholeOnly (l : Launch) : Bool := l.runner || l.cores

/-- Two teams are pre-empted together: of a launch that goes as a whole, or of one pod set (R94, R394, R398). -/
def sameUnit (l : Launch) (t u : Nat) : Bool :=
  l.wholeOnly || (if l.podset then t / (l.pset + 1) == u / (l.pset + 1) else t == u)

/-- The range of 64 team numbers that a team belongs to; a pod set goes with its first team (R96, R101). -/
def rangeOf (l : Launch) (t : Nat) : Nat :=
  (if l.podset then t / (l.pset + 1) * (l.pset + 1) else t) / 64

/-- The first team of a range. -/
def rangeStart (l : Launch) (k : Nat) : Nat :=
  min l.teamCount (if l.podset then (64 * k + l.pset) / (l.pset + 1) * (l.pset + 1) else 64 * k)

/-- N, or T × G × W (R61). -/
def itemCount (l : Launch) : Nat :=
  if l.items = 0 then l.teamCount * l.groupsPer * l.width else l.items

/-- The runner slot that a register is (R223). -/
def slotOf (l : Launch) (reg : Nat) : Option Nat :=
  if l.runner then (List.range l.nslot).find? fun k => l.rreg k == reg else none

end Launch

/-! ### Finding and replacing parts -/

namespace State

def group? (s : State) (g : GroupId) : Option Group := s.groups.find? fun x => x.id == g

def setGroup (s : State) (g : Group) : State :=
  { s with groups := s.groups.map fun x => if x.id = g.id then g else x }

/-- Changes one group, when it exists. -/
def onGroup (s : State) (g : GroupId) (f : Group → Group) : State :=
  { s with groups := s.groups.map fun x => if x.id = g then f x else x }

def dropGroup (s : State) (g : GroupId) : State := { s with groups := s.groups.filter fun x => x.id != g }

def launch? (s : State) (lid : Nat) : Option Launch := s.launches.find? fun x => x.lid == lid

def onLaunch (s : State) (lid : Nat) (f : Launch → Launch) : State :=
  { s with launches := s.launches.map fun x => if x.lid = lid then f x else x }

def team? (s : State) (lid t : Nat) : Option Team :=
  (s.launch? lid).bind fun l => l.teams.find? fun x => x.num == t

def onTeam (s : State) (lid t : Nat) (f : Team → Team) : State :=
  s.onLaunch lid fun l => { l with teams := l.teams.map fun x => if x.num = t then f x else x }

def pod (s : State) (p : Nat) : Pod := Sparse.get Pod.zero s.pods p

def setPod (s : State) (p : Nat) (x : Pod) : State := { s with pods := Sparse.set Pod.zero s.pods p x }

def onPod (s : State) (p : Nat) (f : Pod → Pod) : State := s.setPod p (f (s.pod p))

def tile (s : State) (p t : Nat) : Tile := Sparse.get Tile.zero (s.pod p).tiles t

def setTile (s : State) (p t : Nat) (x : Tile) : State :=
  s.onPod p fun q => { q with tiles := Sparse.set Tile.zero q.tiles t x }

def book (s : State) (p b : Nat) : Book := Sparse.get Book.empty (s.pod p).books b

def op? (s : State) (n : Nat) : Option Op := s.ops.find? fun o => o.n == n

def onOp (s : State) (n : Nat) (f : Op → Op) : State :=
  { s with ops := s.ops.map fun o => if o.n = n then f o else o }

def dropOp (s : State) (n : Nat) : State := { s with ops := s.ops.filter fun o => o.n != n }

def object? (s : State) (lid addr : Nat) : Option Obj :=
  (s.launch? lid).bind fun l => l.objects.find? fun o => o.addr == addr

def onObject (s : State) (lid addr : Nat) (f : Obj → Obj) : State :=
  s.onLaunch lid fun l => { l with objects := l.objects.map fun o => if o.addr = addr then f o else o }

end State

/-- The book entry of a code (R35). -/
def Book.entry (b : Book) (c : Nat) : Int := Sparse.get Config.emptyEntry b.entries c

/-- Pod, tower and number in the tower of a core: four cores a pod, 32 pods a tower (R13). -/
def podOf (core : Nat) : Nat := core / 4
def towerOf (core : Nat) : Nat := core / 128

/-! ### Batches (R297 to R301) -/

namespace Group

def batches (g : Group) : Cls → Batches
  | .cp => g.cp
  | .mx => g.mx
  | .cb => g.cb
  | .rm => g.rm

def setBatches (g : Group) (c : Cls) (b : Batches) : Group :=
  match c with
  | .cp => { g with cp := b }
  | .mx => { g with mx := b }
  | .cb => { g with cb := b }
  | .rm => { g with rm := b }

end Group

/-- Sealed batches that are not complete: the first with an operation under way, and all after it (R299). -/
def Batches.incomplete (b : Batches) : Nat := (b.closed.dropWhile fun x => x.ops.isEmpty).length

/-- An operation joins the open batch (R297). -/
def Batches.join (b : Batches) (op : Nat) : Batches := { b with opened := { b.opened with ops := b.opened.ops ++ [op] } }

/-- An operation is complete, with what it has to report. -/
def Batch.finish (b : Batch) (op : Nat) (fail : Option Failure) (fl : Flags) : Batch :=
  if b.ops.contains op then
    ⟨b.ops.filter (· != op), b.fails ++ (fail.map fun f => (op, f)).toList, b.flags ||| fl⟩
  else b

def Batches.finish (b : Batches) (op : Nat) (fail : Option Failure) (fl : Flags) : Batches :=
  { b with opened := b.opened.finish op fail fl, closed := b.closed.map fun x => x.finish op fail fl }

/-- The completed batches at the head of the queue (R260). -/
def Batches.ready (b : Batches) : List Batch := b.closed.takeWhile fun x => x.ops.isEmpty

/-- The first failure that an acquiring wait meets (R284, R308, R330, R356). -/
def Batches.failure (b : Batches) : Option Failure := b.ready.findSome? fun x => x.fails.head?.map (·.2)

/-- The flags that DRAINM raised in the batches acquired (R353). -/
def Batches.flags (b : Batches) : Flags := Flags.all (b.ready.map (·.flags))

/-- The completed batches are acquired. -/
def Batches.acquire (b : Batches) : Batches := { b with closed := b.closed.dropWhile fun x => x.ops.isEmpty }

/-- The first failed batch counts as complete and acquired: its failures are consumed by their trap (R384). -/
def dropFailure : List Batch → List Batch
  | [] => []
  | b :: t => if b.fails.isEmpty then b :: dropFailure t else { b with fails := [] } :: t

def Batches.consume (b : Batches) : Batches := { b with closed := dropFailure b.closed }

/-- The operations whose failures the consumed batch held. -/
def Batches.consumed (b : Batches) : List Nat :=
  ((b.ready.find? fun x => !x.fails.isEmpty).map fun x => x.fails.map (·.1)).getD []

/-- One operation's failure is consumed elsewhere (R330). -/
def Batches.forget (b : Batches) (op : Nat) : Batches :=
  let f := fun (x : Batch) => { x with fails := x.fails.filter fun y => y.1 != op }
  { b with opened := f b.opened, closed := b.closed.map f }

/-- An operation of a group is complete: it leaves the part and its batch. -/
def State.finishOp (s : State) (n : Nat) (fail : Option Failure) (fl : Flags := 0) : State :=
  match s.op? n with
  | none => s
  | some o =>
    let s := s.dropOp n
    match o.cls with
    | none => s
    | some c => s.onGroup o.gid fun g => g.setBatches c ((g.batches c).finish n fail fl)

/-! ### Registers (R24, R154, R162) -/

/-- The key of a register in a lane. -/
def vkey (reg lane : Nat) : Nat := reg * 64 + lane

namespace Group

/-- A register of the file in a lane. -/
def fileV (g : Group) (reg lane : Nat) : Lane := Sparse.get 0 g.vregs (vkey reg lane)

/-- The latest transient result of the three instructions before it that the instruction numbered `idx` reads
(R162): the bypass lists its entries in issue order. -/
def bypassed (g : Group) (idx reg lane : Nat) : Option Lane :=
  let kept := match g.aside with
    | some a => a.bypass
    | none => []
  (kept ++ g.bypass).reverse.findSome? fun b =>
    if b.idx < idx && idx ≤ b.idx + 3 then b.vals.lookup (vkey reg lane) else none

/-- What the instruction numbered `idx` reads: a transient result, or the file (R162). -/
def readV (g : Group) (idx reg lane : Nat) : Lane := (g.bypassed idx reg lane).getD (g.fileV reg lane)

/-- The first poisoned word of the window with a lane of a register that is read (R416). -/
def badWord (g : Group) (reads : Nat → Nat → Bool) : Option Nat :=
  g.bad.find? fun w => [0, 1].any fun k => reads (2 * w / g.width) (2 * w % g.width + k)

/-- Transient results that a later file write has replaced are gone, in the bypass and in the one a trap
has set aside (R162, R402). -/
def supersede (g : Group) (p : Nat → Bool) : Group :=
  let drop := fun (l : List Bypassed) => l.map fun b => { b with vals := b.vals.filter fun x => !p x.1 }
  { g with bypass := drop g.bypass, aside := g.aside.map fun a => { a with bypass := drop a.bypass } }

/-- Writes the file; a transient result of the same register and lane is no longer the latest. -/
def writeV (g : Group) (reg lane : Nat) (v : Lane) : Group :=
  { g.supersede (fun k => k == vkey reg lane) with vregs := Sparse.set 0 g.vregs (vkey reg lane) v }

/-- Writes several lanes of the file, keyed as `vkey`; a word that they cover whole is poisoned no more (R416). -/
def writeAll (g : Group) (l : List (Nat × Lane)) : Group :=
  { g.supersede (fun k => l.any fun q => q.1 == k) with
    vregs := Sparse.setAll 0 g.vregs l
    bad := g.bad.filter fun w => [0, 1].any fun k =>
      !l.any fun q => q.1 == vkey (2 * w / g.width) (2 * w % g.width + k) }

def sreg (g : Group) (r : Nat) : Word := Sparse.get 0 g.sregs r

/-- Every divergence path notes the scalars it writes (R161). -/
def noteWritten (g : Group) (r : Nat) : Group :=
  { g with stack := match g.stack with
      | [] => []
      | d :: t => { d with written := insertNat d.written r } :: t }

def setSreg (g : Group) (r : Nat) (v : Word) : Group :=
  { g.noteWritten r with sregs := Sparse.set 0 g.sregs r v }

def pred (g : Group) (p : Nat) : Mask := Sparse.get 0 g.preds p

def setPred (g : Group) (p : Nat) (v : Mask) : Group := { g with preds := Sparse.set 0 g.preds p v }

/-- A write to `em` is ANDed with the path mask (R158). -/
def setEm (g : Group) (v : Mask) : Group := { g with em := v &&& g.path }

/-- The lanes of the group, 0 to W − 1. -/
def lanes (g : Group) : List Nat := List.range g.width

/-- All W bits. -/
def fullMask (g : Group) : Mask := BitVec.ofNat 64 (2 ^ g.width - 1)

def raise (g : Group) (f : Flags) : Group := { g with fflags := g.fflags ||| f }

end Group

/-- A mask from the lanes that satisfy a condition. -/
def maskOf (lanes : List Nat) (p : Nat → Bool) : Mask :=
  BitVec.ofNat 64 ((lanes.filter p).foldl (fun a l => a + 2 ^ l) 0)

/-- The lowest lane of a mask. -/
def lowest (lanes : List Nat) (m : Mask) : Option Nat := lanes.find? fun l => m.getLsbD l

/-! ### Memory below L1, and L1 (R240; logs 6 and 7) -/

/-- The home L2 slice of an address in its tower; an object page has one home (R287). -/
def sliceOf (pa : Nat) (obj : Bool) : Nat :=
  let f := fun k => pa / 2 ^ k % 32
  let high := Nat.xor (Nat.xor (f 17) (f 22)) (Nat.xor (f 27) (f 32))
  if obj then high else Nat.xor (Nat.xor (f 7) (f 12)) high

/-- The stack of a physical address: bit 36 selects one of its tower's two (R13, R286). -/
def stackOf (pa : Nat) : Nat := 2 * (pa / 2 ^ 40 % 8) + pa / 2 ^ 36 % 2

/-- The HBM4 channel of its stack that an address lies in (R287). -/
def channelOf (pa : Nat) : Nat :=
  let f := fun k => pa / 2 ^ k % 32
  Nat.xor (Nat.xor (Nat.xor (f 8) (f 13)) (Nat.xor (f 18) (f 23))) (f 28)

/-- A channel of a stack serves no access: the stack is in forced self-refresh, or the channel is quiesced
(R419, R421). -/
def State.channelHeld (s : State) (c : Nat × Nat) : Bool :=
  s.hbm.any fun x => x.1 == c.1 && (x.2.forced || x.2.quiesced.any fun q => channelOf q.1 == c.2)

/-- An address lies in a channel that serves no access. -/
def State.heldAt (s : State) (pa : Nat) : Bool := s.channelHeld (stackOf pa, channelOf pa)

/-! ### L2 and the MSC (R14, R17, R240; log 7) -/

namespace Sector

/-- Neither L2 nor the MSC holds the sector. -/
def absent (x : Sector) : Bool := x.l2.isNone && x.msc.isNone

/-- Its latest data are not in HBM4 yet. -/
def dirty (x : Sector) : Bool := x.l2 == some true || x.msc == some true

/-- A sector of which nothing is held and for which nothing waits is not listed. -/
def norm (x : Sector) : Sector := if x.absent && !x.waits then Sector.none else x

/-- An access at the level it may reach, 2 the home L2 slice, 1 the MSC, 0 memory (R240, R290): a sector that no level
holds is fetched from its stack into L2 and the MSC. `held`: the stack's channel serves no access, and the access
waits at its home (R419, R421). -/
def reached (x : Sector) (far slice : Nat) (write held : Bool) : Sector :=
  let waits := x.waits || (held && (x.absent || far == 0))
  let left := write || x.dirty
  let y : Sector := match far with
    | 0 => ⟨slice, Option.none, if held && left then some true else Option.none, waits⟩
    | 1 => ⟨slice, Option.none, some left, waits⟩
    | _ => ⟨slice, some (write || x.l2 == some true), if x.absent then some false else x.msc, waits⟩
  y.norm

/-- L2 gives up its copy: a dirty one goes to the MSC. -/
def leaveL2 (x : Sector) : Sector := norm { x with l2 := Option.none, msc := if x.l2 = some true then some true else x.msc }

/-- The MSC gives up its copy: a dirty one goes to its stack, when that serves accesses (R421). -/
def leaveMsc (x : Sector) (held : Bool) : Sector :=
  if held && x.msc == some true then { x with waits := true } else norm { x with msc := Option.none }

/-- The sector is written back to its stack, as soon as that serves accesses. -/
def cleaned (x : Sector) (held : Bool) : Sector :=
  if !x.dirty then x
  else if held then { x with l2 := x.l2.map fun _ => false, msc := some true, waits := true }
  else norm { x with l2 := x.l2.map fun _ => false, msc := x.msc.map fun _ => false }

/-- Its stack serves accesses again: those that waited proceed, and what was to be written back is. -/
def released (x : Sector) : Sector := if x.waits then norm { x with msc := x.msc.map fun _ => false, waits := false } else x

end Sector

/-- The numbers in a rising list, once each. -/
def once : List Nat → List Nat
  | a :: b :: t => if a = b then once (b :: t) else a :: once (b :: t)
  | l => l

namespace State

/-- What the levels hold of a sector. -/
def sector (s : State) (k : Nat) : Sector := Sparse.get Sector.none s.sectors k

def onSector (s : State) (k : Nat) (f : Sector → Sector) : State :=
  { s with sectors := Sparse.set Sector.none s.sectors k (f (s.sector k)) }

/-- Every sector that satisfies a condition changes. -/
def onSectors (s : State) (p : Nat → Bool) (f : Nat → Sector → Sector) : State :=
  { s with sectors := (s.sectors.map fun x => if p x.1 then (x.1, f x.1 x.2) else x).filter fun x => x.2 != Sector.none }

/-- A set of the MSC: 16 lines of 128 bytes, by line number within its tower (R17; log 7). -/
def mscSet (k : Nat) : Nat := k / 2 ^ 35 * 2 ^ 18 + k / 4 % 2 ^ 18

/-- The lines of a sector's MSC set, rising. -/
def mscLines (s : State) (k : Nat) : List Nat :=
  once ((s.sectors.filter fun x => x.2.msc.isSome && mscSet x.1 == mscSet k).map fun x => x.1 / 4)

/-- An MSC set with more than 16 lines gives up the lowest other line that can leave (R17, R421; log 7). -/
def fitMsc (s : State) (k : Nat) : State :=
  if s.sectors.length ≤ 16 then s
  else
    let lines := s.mscLines k
    if lines.length ≤ 16 then s
    else
      let stays := fun (l : Nat) => l == k / 4 || s.sectors.any fun x =>
        x.1 / 4 == l && x.2.msc == some true && s.heldAt (32 * x.1)
      match lines.find? fun l => !stays l with
      | some l => s.onSectors (fun j => j / 4 == l) fun j x => x.leaveMsc (s.heldAt (32 * j))
      | none => s

/-- An L2 slice of 2 MiB that holds more than 65,536 sectors gives up the lowest other one (R14, R17; log 7). -/
def fitL2 (s : State) (k : Nat) : State :=
  if s.sectors.length ≤ 65536 then s
  else
    let mates := s.sectors.filter fun x => x.2.l2.isSome && x.2.slice == (s.sector k).slice && x.1 / 2 ^ 35 == k / 2 ^ 35
    if mates.length ≤ 65536 then s
    else match mates.find? fun x => x.1 != k with
      | some x => (s.onSector x.1 Sector.leaveL2).fitMsc x.1
      | none => s

/-- Accesses to a sector have been made at the level they may reach. -/
def reachSector (s : State) (far : Nat) (obj write : Bool) (k : Nat) : State :=
  ((s.onSector k fun x => x.reached far (sliceOf (32 * k) obj) write (s.heldAt (32 * k))).fitL2 k).fitMsc k

/-- Accesses to these bytes, in rising order, have been made below L1 (R17, R240). -/
def touch (s : State) (pas : List Nat) (obj write : Bool) (far : Nat := 2) : State :=
  (once (pas.map (· / 32))).foldl (fun s k => s.reachSector far obj write k) s

/-- An access to the part's own memory needs its stack: no level holds its sector, others wait for that, or it goes to
memory itself (R421). -/
def needsStack (s : State) (far pa : Nat) : Bool :=
  let x := s.sector (pa / 32)
  x.waits || x.absent || far == 0

/-- The channels that accesses to these bytes need, by stack and channel (R419, R421). -/
def chansOf (s : State) (far : Nat) (pas : List Nat) : List (Nat × Nat) :=
  ((pas.filter (s.needsStack far)).map fun pa => (stackOf pa, channelOf pa)).eraseDups

end State

namespace State

/-- A byte of the part's memory. -/
def memGet (s : State) (pa : Addr) : Byte := Sparse.get Config.emptyByte s.mem pa

def memSet (s : State) (pa : Addr) (b : Byte) : State := { s with mem := Sparse.set Config.emptyByte s.mem pa b }

/-- The sector of an address is poisoned (R416). -/
def poisoned (s : State) (pa : Addr) : Bool := Sparse.get 0 s.poison (pa / 32) != 0

/-- The word of an address is uncorrectable: no write has covered it whole since its sector was poisoned (R289). -/
def badWord (s : State) (pa : Addr) : Bool := (Sparse.get 0 s.poison (pa / 32)).testBit (pa / 8 % 4)

/-- The sector of an address is poisoned, all of it. -/
def poisonSector (s : State) (pa : Addr) : State := { s with poison := Sparse.set 0 s.poison (pa / 32) 31 }

/-- The bytes of an access. -/
def span (a len : Nat) : List Nat := (List.range len).map (a + ·)

/-- Some sector of these bytes is poisoned. -/
def poisonedSpan (s : State) (pa len : Nat) : Bool := (span pa len).any s.poisoned

def memRead (s : State) (pa len : Nat) : List Byte := (span pa len).map s.memGet

/-- Writes bytes from an address on. -/
def memWrite (s : State) (pa : Nat) : List Byte → State
  | [] => s
  | b :: t => (s.memSet pa b).memWrite (pa + 1) t

/-- A write of these bytes clears the poison of a sector that it covers whole, and of a word that it covers whole
(R289, R416). -/
def mend (s : State) (written : Nat → Bool) : State :=
  { s with poison := s.poison.filterMap fun (k, m) =>
      let whole := fun j => (span (32 * k + 8 * j) 8).all written
      if [0, 1, 2, 3].all whole then none
      else some (k, 16 + ([0, 1, 2, 3].map fun j => if m.testBit j && !whole j then 2 ^ j else 0).sum) }

/-- The poison that a write of bytes in a row clears. -/
def clearPoison (s : State) (pa len : Nat) : State := s.mend fun a => decide (pa ≤ a) && decide (a < pa + len)

/-- The L1 of a core. -/
def l1Of (s : State) (core : Nat) : Sparse (Option Cached) := Sparse.get [] s.l1 core

def setL1 (s : State) (core : Nat) (c : Sparse (Option Cached)) : State := { s with l1 := Sparse.set [] s.l1 core c }

/-- A byte as a core's `.def` access sees it. -/
def l1Get (s : State) (core pa : Nat) : Byte :=
  match Sparse.get none (s.l1Of core) pa with
  | some c => c.val
  | none => s.memGet pa

/-- Installs a byte in a core's L1. -/
def l1Put (s : State) (core pa : Nat) (c : Option Cached) : State :=
  s.setL1 core (Sparse.set none (s.l1Of core) pa c)

/-- Installs clean copies of bytes that the core does not hold. -/
def l1Fill (s : State) (core : Nat) (obj : Bool) : List Nat → State
  | [] => s
  | pa :: t =>
    let s := match Sparse.get none (s.l1Of core) pa with
      | some _ => s
      | none => s.l1Put core pa (some ⟨s.memGet pa, false, obj, false⟩)
    s.l1Fill core obj t

/-- A byte of a core's L1 lies in a poisoned word of its store (R416). -/
def l1Bad (s : State) (core pa : Nat) : Bool := (Sparse.get none (s.l1Of core) pa).any Cached.bad

/-- Stores bytes into a core's L1, to be written back later. A poisoned word stays one until it is covered whole. -/
def l1Write (s : State) (core pa : Nat) (obj : Bool) : List Byte → State
  | [] => s
  | b :: t => (s.l1Put core pa (some ⟨b, true, obj, s.l1Bad core pa⟩)).l1Write core (pa + 1) obj t

/-- Words of a core's L1 that the written bytes cover whole are poisoned no more (R416). -/
def l1Heal (s : State) (core : Nat) (written : List Nat) : State :=
  if (s.l1Of core).any fun c => c.2.any Cached.bad then
    s.setL1 core ((s.l1Of core).map fun c =>
      if (span (c.1 / 8 * 8) 8).all written.contains then (c.1, c.2.map fun x => { x with bad := false }) else c)
  else s

/-- The words of these bytes are poisoned (R416). -/
def poisonWords (s : State) (pas : List Nat) : State :=
  { s with poison := pas.foldl (fun p pa =>
      Sparse.set 0 p (pa / 32) (Nat.lor (Sparse.get 0 p (pa / 32)) (16 + 2 ^ (pa / 8 % 4)))) s.poison }

/-- Writes back the dirty bytes of a core that satisfy `p`; the clean copies stay. Poison is carried along (R416). -/
def writeBack (s : State) (core : Nat) (p : Nat → Bool) : State :=
  let cells := s.l1Of core
  let out := cells.filterMap fun (k, c) => match c with
    | some x => if x.dirty && p k then some (k, x) else none
    | none => none
  let dirty := out.map fun d => (d.1, d.2.val)
  let clean : Sparse (Option Cached) := cells.map fun (k, c) =>
    (k, c.map fun x => if p k then { x with dirty := false } else x)
  let mine := fun (obj : Bool) => (out.filter fun d => d.2.obj == obj).map (·.1)
  let s1 := ((s.setL1 core clean).mend fun a => dirty.any fun d => d.1 == a).poisonWords
    ((out.filter fun d => d.2.bad).map (·.1))
  { ((s1.touch (mine false) false true).touch (mine true) true true) with
    mem := Sparse.setAll Config.emptyByte s.mem dirty }

/-- Drops the clean bytes of a core that satisfy `p`. -/
def dropClean (s : State) (core : Nat) (p : Nat → Bool) : State :=
  s.setL1 core ((s.l1Of core).filter fun (k, c) => match c with
    | some x => x.dirty || !p k
    | none => false)

/-- What a release fence of team scope or above does with a core's `.def` data (R247). -/
def release (s : State) (core : Nat) : State := s.writeBack core fun _ => true

/-- What an acquire does: later `.def` reads go below L1 for every byte that is clean (R247). -/
def acquire (s : State) (core : Nat) : State := s.dropClean core fun _ => true

end State

/-! ### Time, journal and messages -/

/-- An engine operation waits for a channel that serves no access: the line that it transfers lies there, or, of an
operation that moves a box or a tile, some channel is held (log 27). -/
def State.opHeld (s : State) (o : Op) : Bool :=
  match o.kind with
  | .fetch _ pa _ | .post _ pa _ => (s.chansOf 2 (State.span pa 128)).any s.channelHeld
  | .mma | .drain .. | .ocall .. => false
  | _ => s.hbm.any fun x => x.2.forced || !x.2.quiesced.isEmpty

/-- An operation of a class under way for a group is held. -/
def State.classHeld (s : State) (g : Group) (c : Cls) : Bool :=
  s.ops.any fun o => decide (o.gid = g.id) && o.cls == some c && s.opHeld o

/-- The classes whose batches a group waits for at its header (R109). -/
def Group.awaited (g : Group) : List Cls :=
  match g.wait with
  | some (.thresholds cs) => cs
  | some (.batch c _) | some (.yieldb c ..) | some (.sealRoom c) => [c]
  | some .copyRoom => [.cp]
  | some .replySlot => [.rm]
  | _ => []

/-- A group waits for an access that is held (R379). -/
def State.accessHeld (s : State) (g : Group) : Bool :=
  match g.wait with
  | some .result | some .operands => g.pend.any fun p => p.chans.any s.channelHeld
  | some .fence => (g.acks.any fun a => a.chans.any s.channelHeld)
  | _ => g.awaited.any (s.classHeld g)

/-- The time of a wave counts: it has issued, and it is active or waits for something of its own, not for a
translation fault nor, ready, for an active place (R379). That of a wave whose pod is lost counts (log 83). -/
def Group.counts (g : Group) : Bool :=
  isWave g.id && !g.done && !g.halted && (g.stopped || decide (0 < g.issued) && (g.active || g.readySince.isNone && match g.wait with
    | some (.xlate _) => false
    | some _ => true
    | none => false))

/-- Time passes to a core clock that is not earlier; running waves count it (R379). -/
def State.advance (s : State) (t : Nat) : State :=
  if t ≤ s.clock then s
  else { s with clock := t, groups := if s.throttled then s.groups else s.groups.map fun g =>
    if (g.counts && !s.accessHeld g) = true then { g with waveTime := g.waveTime + (t - s.clock) } else g }

/-- The part's own nanoseconds since reset: 940 MHz (R5). -/
def State.ns (s : State) : Nat := s.clock * 1000 / 940

/-- PTP time, 0 before synchronisation (R411). -/
def State.ptpNow (s : State) : Nat :=
  match s.ptp with
  | some off => ((s.ns : Int) + off).toNat
  | none => 0

/-- Bytes 0 to 31 of an entry (R411). -/
def Entry.low (e : Entry) : Nat :=
  e.seq % 2 ^ 64 + e.time % 2 ^ 64 * 2 ^ 64
    + (e.kind % 16 + e.src % 16 * 2 ^ 4 + e.detail % 256 * 2 ^ 8 + e.unit % 2 ^ 16 * 2 ^ 16
        + e.count % 2 ^ 32 * 2 ^ 32) * 2 ^ 128
    + e.loc.toNat * 2 ^ 192

/-- The 64 bytes of an entry (R411). -/
def Entry.bytes (e : Entry) : List Byte := leBytes 32 e.low ++ (leBytes 32 e.chain.toNat)

/-- The chain value that follows an entry (R411): SHA3-256 of the value before and the entry's bytes. -/
def chainNext (chain : BitVec 256) (low : Nat) : BitVec 256 :=
  BitVec.ofNat 256 (ofBytes (Sha3.hash (leBytes 32 chain.toNat ++ leBytes 32 low)))

/-- Appends an entry in sequence order (R410, R411). -/
def Journal.append (j : Journal) (time kind detail src unit count : Nat) (loc : Word) : Journal :=
  let e : Entry := ⟨j.next, time, kind, src, detail, unit, count, loc, 0⟩
  let c := chainNext j.chain e.low
  { j with entries := j.entries ++ [{ e with chain := c }], next := j.next + 1, chain := c, room := j.room - 1 }

/-- Entries since the last checkpoint (R414). -/
def Journal.sinceCheckpoint (j : Journal) : Nat := (j.entries.reverse.takeWhile fun e => e.kind != 8).length

/-- Appends a checkpoint, which closes a segment (R414). -/
def Journal.checkpoint (j : Journal) (time : Nat) : Journal :=
  { j.append time 8 0 10 0 1 0 with segments := j.segments + 1, lastCheckpoint := j.next }

/-- The journal has no room for an event: the last place is kept for a checkpoint (R414, R415; log 15). -/
def Journal.full (j : Journal) : Bool := decide (j.room ≤ 1)

/-- An event that is counted, not entered, while fewer than 256 entries' room is free (R415). -/
def Noted.folds (x : Noted) : Bool := x.kind == 1 || x.kind == 2

/-- Counts an event of kinds 1 and 2 for its source and unit; the last one is kept (R415). -/
def foldEvent (l : List (Noted × Nat)) (x : Noted) : List (Noted × Nat) :=
  match l with
  | [] => [(x, 1)]
  | (y, n) :: t => if y.src = x.src ∧ y.unit = x.unit then (x, n + 1) :: t else (y, n) :: foldEvent t x

/-- The queue pair a message goes on: its own while established, else the notify queue pair (R84, R89); the host port
has power only with the rest of the part (R11). -/
def State.route (s : State) (qp : Option Nat) : Option Nat :=
  let notify := s.qps.foldl (fun a q => match a with
    | none => some q
    | some b => some (min b q)) none
  if !s.power then none
  else match qp with
    | some q => if s.qps.contains q then some q else notify
    | none => notify

/-- A message as 64 bytes (R89). -/
def Msg.toBits (m : Msg) (time : Nat) : BitVec 512 :=
  BitVec.ofNat 512 (m.kind % 256 + m.status % 256 * 2 ^ 40 + m.lid % 2 ^ 16 * 2 ^ 48 + m.arg.toNat * 2 ^ 64
    + m.seq.toNat * 2 ^ 128 + time % 2 ^ 64 * 2 ^ 192 + m.detail.toNat * 2 ^ 256)

/-- Sends a message that has arisen, or holds it while no queue pair is established (R89). -/
def State.deliver (s : State) (m : Msg) : State :=
  match s.route m.qp with
  | some q => { s with sent := s.sent ++ [(q, .msg (m.toBits s.ptpNow))] }
  | none => { s with held := s.held ++ [m] }

/-- A message arises: it takes its number (R89). -/
def State.post (s : State) (qp : Option Nat) (kind status lid : Nat) (arg : Word) (detail : BitVec 256 := 0) :
    State :=
  { s.deliver ⟨qp, kind, status, lid, arg, detail, s.seq⟩ with seq := s.seq + 1 }

/-- The part can take one more message (R89). -/
def State.canPost (s : State) : Bool := (s.power && !s.qps.isEmpty) || decide (s.held.length < 4096)

/-- A segment has closed: its message arises, or waits until the part can take it (R89, R414). -/
def State.postSegment (s : State) (n : Nat) : State :=
  if s.canPost then s.post none 5 0 0 (BitVec.ofNat 64 n)
  else { s with journal := { s.journal with unsent := s.journal.unsent ++ [n] } }

/-- Appends an entry, with the checkpoint and the message that it may bring (R414). Segments are numbered from 0
(log 108). -/
def State.journalEntry (s : State) (x : Noted) (count : Nat) : State :=
  let s := { s with journal := s.journal.append s.ptpNow x.kind x.detail x.src x.unit count x.loc }
  if s.journal.sinceCheckpoint ≥ 255 && s.journal.room ≥ 1 then
    let n := s.journal.segments
    State.postSegment { s with journal := s.journal.checkpoint s.ptpNow } n
  else s

/-- Enters an event in the journal: at once, counted, or waiting for room (R415). -/
def State.journalAdd (s : State) (kind detail src unit : Nat) (loc : Word) : State :=
  let x : Noted := ⟨kind, detail, src, unit, loc⟩
  if x.folds && decide (s.journal.room < 256) then
    { s with journal := { s.journal with folded := foldEvent s.journal.folded x } }
  else if s.journal.full then { s with journal := { s.journal with waiting := s.journal.waiting ++ [x] } }
  else s.journalEntry x 1

/-- Events that waited for room are entered, oldest first, while there is room (R415). -/
def State.enterWaiting (s : State) : List Noted → State
  | [] => { s with journal := { s.journal with waiting := [] } }
  | x :: t => if s.journal.full then { s with journal := { s.journal with waiting := x :: t } }
    else (s.journalEntry x 1).enterWaiting t

/-- One entry for each pair of source and unit that was counted, while the reserve is free (R410, R415). -/
def State.enterFolded (s : State) : List (Noted × Nat) → State
  | [] => { s with journal := { s.journal with folded := [] } }
  | x :: t => if s.journal.room < 256 then { s with journal := { s.journal with folded := x :: t } }
    else (s.journalEntry x.1 x.2).enterFolded t

/-- A load, fetch or engine met uncorrectable data at a physical address: kind 5 (R285, R391). Its home L2 slice
reports it, under the number of the slice's pod (R13, R413). -/
def State.journalBad (s : State) (pa : Nat) (obj : Bool := false) : State :=
  s.journalAdd 5 0 1 (pa / 2 ^ 40 % 8 * 32 + sliceOf pa obj) (BitVec.ofNat 64 (pa / 32 * 32))

/-- Each uncorrectable sector of these bytes, in the journal (R391). -/
def State.journalSpan (s : State) (pa len : Nat) (obj : Bool := false) : State :=
  ((once ((State.span pa len).map (· / 32))).filter fun k => s.poisoned (32 * k)).foldl
    (fun s k => s.journalBad (32 * k) obj) s

/-- A failed outbound access (R426): kind 5, source 7; the port is not given: 0 (log 17). -/
def State.journalPeer (s : State) (pa : Nat) : State := s.journalAdd 5 0 7 0 (BitVec.ofNat 64 pa)

/-! ### Trap causes (R385) -/

namespace Cause

def illegal : Nat := 1
def clauseTarget : Nat := 2
def misaligned : Nat := 3
def protection : Nat := 4
def memUncorrectable : Nat := 5
def stallShort : Nat := 6
def transientWindow : Nat := 7
def divergenceDepth : Nat := 8
def window : Nat := 9
def barrierCount : Nat := 10
def barrierBusy : Nat := 11
def token : Nat := 12
def gangMismatch : Nat := 13
def gangBroken : Nat := 14
def matrixScale : Nat := 15
def matrixRange : Nat := 16
def runnerUndeclared : Nat := 17
def runnerSpill : Nat := 18
def signature : Nat := 19
def xswapPartner : Nat := 20
def privilege : Nat := 21
def software : Nat := 22
def breakpoint : Nat := 23

end Cause

/-! ### Halts (R387 to R390) -/

/-- A member's MMA has failed: its batch and its next MMA or ACQ of the tile report it, once (R330). -/
def State.failMma (s : State) (a : Arrived) (f : Failure) : State :=
  (s.finishOp a.op (some f)).onGroup a.gid fun g =>
    { g with reserved := g.reserved.filter fun x => x.1 != a.op
             passFails := g.passFails ++ [⟨a.ins.tile.toNat, a.op, f⟩] }

/-- A latch lists a group as a member (R328). -/
def Latch.lists (l : Latch) (k : Nat) : Bool :=
  match l.arrived.head? with
  | some a => a.gang.members.any fun m => m.grp == k
  | none => false

/-- A pass into a tile that is in a latch, in the table or on the arrays (R324). -/
def Pod.passInto (p : Pod) (t : Nat) : Bool :=
  (p.latches.any fun x => x.arrived.any fun a => a.ins.tile.toNat == t) || (p.table.any fun x => x.tile == t)
    || (p.running.map fun x => x.tile == t).getD false

/-- A group waits at an ACQ for the passes into a tile, and has no failed pass to report first (R330, R346). -/
def Group.acquires (g : Group) (pod lid t : Nat) : Bool :=
  podOf g.core == pod && lidOf g.id == lid && g.wait == some (.passes t) && !g.passFails.any fun x => x.tile == t

/-- With no pass left into an engine-held tile, the first group that waits for it holds it (R346; log 101). -/
def State.handTile (s : State) (pod t : Nat) : State :=
  let x := s.tile pod t
  match x.holder with
  | .engine lid =>
    if (s.pod pod).passInto t then s
    else match s.groups.find? fun g => g.acquires pod lid t with
      | some g =>
        (s.setTile pod t { x with holder := .group g.id }).onGroup g.id fun y => { y with wait := some (.holding t) }
      | none => s
  | _ => s

/-- The tiles of an engine go to the groups that wait for their passes (R346). -/
def State.handTiles (s : State) (pod : Nat) : State := (List.range 8).foldl (fun s t => s.handTile pod t) s

/-- A latch is withdrawn with a cause; each failed MMA's address is its value (R330). -/
def State.withdrawLatch (s : State) (l : Latch) (cause : Nat) : State :=
  let s := l.arrived.foldl (fun s a => s.failMma a ⟨cause, BitVec.ofNat 64 a.addr⟩) s
  match l.arrived.head?.bind fun a => s.group? a.gid with
  | some g => s.handTiles (podOf g.core)
  | none => s

/-- A group has halted, been faulted, or retired before arriving: the rendezvous that list it are broken
(R330). -/
def State.breakGangs (s : State) : GroupId → State
  | .wave .. => s
  | .member lid t k =>
    let hit := fun (l : Latch) => l.lid == lid && l.team == t && l.lists k
    let broken := s.pods.flatMap fun p => p.2.latches.filter hit
    let s := s.pods.foldl (fun s p => s.onPod p.1 fun x =>
      { x with latches := x.latches.filter fun l => !hit l }) s
    broken.foldl (fun s l => s.withdrawLatch l Cause.gangBroken) s

/-- A failure joins those that wait, in the order of the failed instructions (R285). -/
def Group.defer (g : Group) (d : Deferred) : Group :=
  { g with deferred := (g.deferred.filter fun x => decide (x.n < d.n)) ++ d ::
      g.deferred.filter fun x => decide (d.n ≤ x.n) }

/-- A write to a peer has failed: its instruction is reported once, with the address of its lowest failed lane
(R296). -/
def Group.loseStore (g : Group) (a : Ack) : Group :=
  let it := fun (x : Nat × Nat × Word) => x.1 == a.instr
  let new : Nat × Nat × Word := (a.instr, a.n, BitVec.ofNat 64 a.va)
  { g with
    acks := g.acks.filter fun x => x.n != a.n
    lost := if g.lost.any it then g.lost.map fun x => if (it x && decide (a.n < x.2.1)) = true then new else x
      else g.lost ++ [new] }

/-- The XSWAP of a group fails after its issue: the trap is deferred, and it counts as completed (R222). -/
def Group.failXswap (g : Group) : Group :=
  match g.xswap with
  | none => g
  | some x =>
    let p := g.pend.find? fun p => p.n == x.n
    { g.defer ⟨x.n, (p.map (·.addr)).getD 0, ⟨Cause.xswapPartner, BitVec.ofNat 64 (x.team + x.grp * 2 ^ 40)⟩,
        (p.map (·.vregs)).getD [], [], (p.map (·.idx)).getD 0, (p.map (·.lanes)).getD 0⟩ with
      xswap := none
      pend := g.pend.filter fun p => p.n != x.n }

/-- A group has retired, halted or been faulted: every XSWAP and every rendezvous that names it fails (R222,
R330). -/
def State.partnerGone (s : State) (gid : GroupId) : State :=
  match gid with
  | .wave .. => s
  | .member lid t k =>
    let s := s.breakGangs gid
    { s with groups := s.groups.map fun g =>
        if (lidOf g.id == lid && (g.xswap.map fun x => (x.team, x.grp)) == some (t, k)) = true then g.failXswap
        else g }

/-- A launch fault record of a group, KIND 2 (R389). -/
def haltRecord (g : Group) (reason cause : Nat) (deferred engine : Bool) (epc tval : Word) : FaultRec :=
  { kind := 2, reason := reason, cause := cause, lvl := 0, x := false, w := false, engine := engine,
    deferred := deferred, addr := 0, epc := epc, tval := tval, team := teamOf g.id, group := groupOf g.id,
    core := g.core }

/-- A group that is parked or blocked: one whose wait is over is pending and ready, which each step notes (R146). -/
def Group.parked (g : Group) : Bool := !g.active && g.wait.isSome && g.readySince.isNone

/-- A group is to stop (R394); one that is parked or blocked stops at once (R395). -/
def Group.askStop (g : Group) (clock : Nat) : Group :=
  { g with stopAt := some (g.stopAt.getD clock), stopped := g.stopped || g.parked }

/-- 4,096 core clocks after its stop became pending, a group stops at its next instruction boundary (R395). -/
def Group.stopsBy (g : Group) (t : Nat) : Bool := g.stopAt.any fun a => decide (a + 4096 ≤ t)

/-- A group stops by force (R395). -/
def State.stopNow (s : State) (g : Group) : State :=
  let s := s.advance (g.stopAt.getD s.clock + 4096)
  s.onGroup g.id fun x => { x with stopped := true, active := false, since := s.clock }

/-- Every group of a set is to stop, as under ABORT and pre-emption (R387, R394, R399). -/
def State.stopGroups (s : State) (p : GroupId → Bool) : State :=
  { s with groups := s.groups.map fun g =>
      if (p g.id && !isWave g.id && !g.halted) = true then g.askStop s.clock else g }

/-- The launch ends: its unstarted teams never start, its groups stop (R86, R387). -/
def State.abortLaunch (s : State) (lid : Nat) (cancelled : Bool) : State :=
  let s := s.onLaunch lid fun l =>
    if l.aborted then l else
    { l with aborted := true, cancelled := cancelled, ended := l.teamCount - l.teams.length
             sentRanges := (l.teamCount + 63) / 64, ranges := [] }
  s.stopGroups fun g => lidOf g == lid

/-- A fatal fault of a team (R387, R237, R104): the launch ends, or the team alone under CONTF. -/
def State.faultTeam (s : State) (lid t : Nat) : State :=
  match s.launch? lid with
  | none => s
  | some l =>
    if !l.contf || l.runner then s.abortLaunch lid false
    else
      let s := s.onLaunch lid fun l => { l with anyFault := true }
      let s := s.onTeam lid t fun x => { x with faulted := true }
      let s := (s.groups.filter fun g => lidOf g.id == lid && teamOf g.id == t).foldl
        (fun s g => s.partnerGone g.id) s
      s.stopGroups fun g => lidOf g == lid && teamOf g == t

/-- An object becomes held: its running wave's requests and those queued receive FAULT (R379). -/
def State.closeObject (s : State) (lid obj : Nat) : State :=
  match s.object? lid obj with
  | none => s
  | some o =>
    let reqs := (o.wave.getD []) ++ o.queue
    let answer (s : State) (r : Request) : State := s.onOp r.op fun x =>
      { x with kind := match x.kind with
          | .ocall sent d coming w => .ocall sent d (coming ++ [(r.lane, 0, 2)]) w
          | k => k }
    let s := reqs.foldl answer s
    s.onObject lid obj fun o => { o with queue := [], wave := none, held := true }

/-- A wave has halted: its object is held, and a record names it. A trap or the time limit has reason 5, and the launch
goes on (R379); any other halt has its own reason, and the launch proceeds as R387 gives, with no team to fault
(log 69). -/
def State.haltWave (s : State) (lid obj : Nat) (r : FaultRec) : State :=
  let held := r.reason == 1 || r.reason == 2 || r.reason == 5
  let r := { r with reason := if held then 5 else r.reason, addr := BitVec.ofNat 64 obj }
  let s := (s.closeObject lid obj).onLaunch lid fun l => { l with records := l.records ++ [r] }
  if held then s
  else match s.launch? lid with
    | none => s
    | some l => if !l.contf || l.runner then s.abortLaunch lid false
      else s.onLaunch lid fun l => { l with anyFault := true }

/-- A group halts with a reason of R389 (R387). Its pending writes are discarded (R390). -/
def State.haltGroup (s : State) (gid : GroupId) (reason cause : Nat) (deferred : Bool) (epc tval : Word)
    (engine : Bool := false) : State :=
  match s.group? gid with
  | none => s
  | some g =>
    let g' := { g with halted := true, live := 0, em := 0, active := false, wait := none, pend := [],
                       deferred := [], backlog := [] }
    let s := (s.setGroup g').partnerGone gid
    match gid with
    | .wave lid obj => s.haltWave lid obj (haltRecord g reason cause deferred engine epc tval)
    | .member lid t _ =>
      let s := s.onLaunch lid fun l =>
        { l with records := l.records ++ [haltRecord g reason cause deferred engine epc tval] }
      s.faultTeam lid t

/-! ### Taking a trap, and returning from one (R383 to R386, R402) -/

/-- The trap is taken: %cause, %epc and %tval are written, the bypass, %sig, `em` and the depth are set
aside, and the group is to enter its handler. `next` numbers the next result. A trap of lanes that are behind names their
instruction and sets aside what such lanes have still to do (log 13). -/
def Group.enterHandler (g : Group) (handler : Addr) (cause : Nat) (epc tval : Word) (resume : Pos)
    (deferred : Bool) (next : Nat) (late : Option LaneWork := none) : Group :=
  { g with
    cause := BitVec.ofNat 64 (cause + (if deferred then 256 else 0))
    epc := epc
    tval := tval
    aside := some ⟨resume, g.bypass, g.sig, g.em, g.stack.length, next, late.map fun w => (w.idx, w.lanes),
      if late.isSome then g.backlog else []⟩
    backlog := if late.isSome then [] else g.backlog
    missAt := none
    bypass := []
    issued := g.issued + 4
    sig := 0
    pos := .header handler none
    wait := none }

/-- The address of a slot (R106). -/
def slotAddr (hdr j : Nat) : Addr := hdr + 8 * (j + 1)

/-- A place as an address, for %epc (R384). -/
def Pos.addr : Pos → Addr
  | .header a _ => a
  | .slot h j _ => slotAddr h j
  | .back h j => slotAddr h j
  | .after h j _ => slotAddr h (j + 1)

/-- One group takes a trap (R383): in its handler, without a handler or in a wave it halts instead.
DEFERRED says that the resume point is not %epc (R384). The resume point of lanes that are behind is their own
instruction, while the group goes on at `resume` (log 13). -/
def State.takeTrap (s : State) (gid : GroupId) (cause : Nat) (epc tval : Word) (resume : Pos)
    (late : Option LaneWork := none) : State :=
  let deferred := epc != BitVec.ofNat 64 ((late.map (·.addr)).getD resume.addr)
  match s.group? gid, s.launch? (lidOf gid) with
  | some g, some l =>
    if g.aside.isSome then s.haltGroup gid 1 cause deferred epc tval
    else if isWave gid || l.trapOfs == 0 then s.haltGroup gid 2 cause deferred epc tval
    else s.setGroup (g.enterHandler ((l.code : Int) + l.trapOfs).toNat cause epc tval resume deferred s.nextOp
        late)
  | _, _ => s

/-- The group leaves its handler: what was set aside is restored, and it goes on at a place (R402). The
transient results and the lane work from before the trap count on, after the RTT itself, as if there had been
none (R163). -/
def Group.leaveHandler (g : Group) (a : Aside) (pos : Pos) : Group :=
  let before := a.bypass.foldl (fun m x => max m (x.idx + 1)) 0
  let shift := fun i => if i < before then i + (g.issued + 1 - before) else i
  { g with aside := none, bypass := a.bypass.map fun b => { b with idx := shift b.idx }, sig := a.sig,
           backlog := (g.backlog ++ a.backlog).map fun w => { w with idx := shift w.idx },
           em := a.em &&& g.path, pos := pos }

end Sys2Proof.Machine
end

