-- ==== Sys2Proof/Machine/Operands.lean ====
section
/-! DEFINITION. Operands and results (R24, R168, R185, R199), the latency of each instruction (R135), and
what each instruction reads and writes, from which the window check, the interlock and the scoreboard
follow (R64, R134, R136). -/

namespace Sys2Proof.Machine

/-! ### Values of a type -/

/-- The width of a type in bits (R23, R27). -/
def Ty.bits : Ty → Nat
  | .s64 | .n64 | .f64 => 64
  | .s32 | .n32 | .b32 | .f32 => 32
  | .s16 | .n16 | .bf16 => 16
  | .s8 | .n8 | .c8 => 8
  | .s4 => 4

/-- The low bits of a number read in a type (R23, R24). -/
def intOf (t : Ty) (x : Nat) : Int :=
  let w := Ty.bits t
  let v := x % 2 ^ w
  if t.signed && 2 ^ (w - 1) ≤ v then (v : Int) - (2 ^ w : Nat) else v

/-- `trunc(x, w)` as a natural number. -/
def truncTo (w : Nat) (x : Int) : Nat := (x % (2 ^ w : Nat)).toNat

/-- `sat(x, t)` or `trunc(x, w)` (R25). -/
def narrow (t : Ty) (sat : Bool) (x : Int) : Nat := truncTo (Ty.bits t) (if sat then satTo t x else x)

/-- A value of a type as 64 register bits with the extension of R24. -/
def extend (t : Ty) (x : Nat) : Nat :=
  if t.wide then x % 2 ^ 64
  else if t.signed then truncTo 32 (intOf t x)
  else x % 2 ^ Ty.bits t % 2 ^ 32

/-- The registers that a value of 32 or 64 bits fills from `r` on (R24). -/
def regsOf (wide : Bool) (r : Nat) : List Nat := if wide then [r, r + 1] else [r]

/-- The words of a value, low word first. -/
def wordsOf (wide : Bool) (x : Nat) : List Lane :=
  if wide then [BitVec.ofNat 32 x, BitVec.ofNat 32 (x / 2 ^ 32)] else [BitVec.ofNat 32 x]

/-- Register writes of a value. -/
def putReg (wide : Bool) (r x : Nat) : List (Nat × Lane) := (regsOf wide r).zip (wordsOf wide x)

/-! ### Reading operands in a lane (R168) -/

/-- A register or pair in a lane, as a natural number. -/
def readReg (g : Group) (idx : Nat) (wide : Bool) (r lane : Nat) : Nat :=
  (g.readV idx r lane).toNat + if wide then (g.readV idx (r + 1) lane).toNat * 2 ^ 32 else 0

/-- Operand A: the runner value stands in for the register when K is not 0 (R224). -/
def readA (g : Group) (idx : Nat) (wide : Bool) (a : VSrc) (lane : Nat) (rv : Lane) : Nat :=
  if a.k = 0 then readReg g idx wide a.reg.toNat lane else rv.toNat

/-- A scalar or literal: all 64 bits, or bits 31:0. -/
def cut (wide : Bool) (w : Word) : Nat := if wide then w.toNat else w.toNat % 2 ^ 32

/-- Operand B: a literal, a scalar or a register. -/
def readB (g : Group) (idx : Nat) (wide : Bool) (b : OpB) (lane : Nat) : Nat :=
  match b with
  | .vec r => readReg g idx wide r.toNat lane
  | .scal r => cut wide (g.sreg r.toNat)
  | .lit w => cut wide w

/-- Operand C: a scalar or a register. -/
def readC (g : Group) (idx : Nat) (wide : Bool) (c : OpC) (lane : Nat) : Nat :=
  match c with
  | .vec r => readReg g idx wide r.toNat lane
  | .scal r => cut wide (g.sreg r.toNat)

/-- A scalar operand; `em` is zero-extended (R185). -/
def readS (g : Group) : SReg → Word
  | .s r => g.sreg r.toNat
  | .em => g.em

/-- The second source of R185. -/
def readY (g : Group) : SSrc → Word
  | .imm i => i.signExtend 64
  | .lit w => w
  | .reg r => readS g r

/-- A scalar destination (R158, R185). -/
def writeS (g : Group) (d : SReg) (v : Word) : Group :=
  match d with
  | .s r => g.setSreg r.toNat v
  | .em => g.setEm v

/-- A packed element of a 32-bit register (R24). -/
def elem (t : Ty) (x k : Nat) : Int := intOf t (x / 2 ^ (Ty.bits t * k))

/-! ### What one lane of an instruction does -/

/-- Register writes, a predicate write and flags of one lane. -/
structure LaneOut where
  regs : List (Nat × Lane) := []
  pred : Option (Nat × Bool) := none
  flags : Flags := 0
  /-- What PUB publishes, which it does not write (R226). -/
  val : Lane := 0
  deriving DecidableEq, Repr

/-- One lane of an instruction: the group as it reads it, the instruction's count, the lane, and the
value of its runner read. -/
abbrev LaneFn := Group → Nat → Nat → Lane → LaneOut

/-! ### What an instruction reads and writes -/

/-- Registers, scalars, predicates and `em` that an instruction names. -/
structure Uses where
  vr : List Nat := []
  vw : List Nat := []
  sr : List Nat := []
  sw : List Nat := []
  pr : List Nat := []
  pw : List Nat := []
  emR : Bool := false
  emW : Bool := false
  /-- The fixed latency; 0 for a variable one or no result (R135, R136). -/
  lat : Nat := 0
  /-- A runner read: register and distance (R224). -/
  run : Option (Nat × Nat) := none
  /-- The register that is published (R225, R226). -/
  pub : Option Nat := none
  tr : Bool := false
  /-- The guard acts lane by lane (R115), or the instruction itself says what it does when its guard fails
  (BRD by R159, SAFE by R163). -/
  lanes : Bool := false
  /-- It needs every lane at one place: a lane operation, or one that de-skews (R214, R236). -/
  whole : Bool := false
  /-- It waits for the writes to registers that are under way, which a window shows (R247, R257, R258). -/
  settle : Bool := false
  /-- It waits for the flags of loads, atomics and drains under way (R190). -/
  flags : Bool := false
  /-- Its accesses to memory come after those of instructions before it (R243). -/
  order : Bool := false
  deriving DecidableEq, Repr

namespace Uses

def withA (u : Uses) (wide : Bool) (a : VSrc) : Uses :=
  if a.k = 0 then { u with vr := u.vr ++ regsOf wide a.reg.toNat }
  else { u with run := some (a.reg.toNat, a.k.toNat) }

def withB (u : Uses) (wide : Bool) : OpB → Uses
  | .vec r => { u with vr := u.vr ++ regsOf wide r.toNat }
  | .scal r => { u with sr := u.sr ++ [r.toNat] }
  | .lit _ => u

def withC (u : Uses) (wide : Bool) : OpC → Uses
  | .vec r => { u with vr := u.vr ++ regsOf wide r.toNat }
  | .scal r => { u with sr := u.sr ++ [r.toNat] }

def withD (u : Uses) (wide : Bool) (d : VDst) : Uses :=
  { u with vw := regsOf wide d.reg.toNat, tr := d.tr, pub := if d.pub then some d.reg.toNat else none }

def withS (u : Uses) : SReg → Uses
  | .s r => { u with sr := u.sr ++ [r.toNat] }
  | .em => { u with emR := true, whole := true }

def withY (u : Uses) : SSrc → Uses
  | .reg r => u.withS r
  | _ => u

def toS (u : Uses) : SReg → Uses
  | .s r => { u with sw := u.sw ++ [r.toNat] }
  | .em => { u with emW := true, whole := true }

def withP (u : Uses) : PReg → Uses
  | .p r => { u with pr := u.pr ++ [r.toNat] }
  | .em => { u with emR := true }

def withM (u : Uses) (m : MPlain) : Uses :=
  { u with sr := u.sr ++ [m.sb.toNat], vr := u.vr ++ (m.idx.map fun x => x.1.toNat).toList }

/-- The base, extents and indices of an access through a record (R272). -/
def withRecord (u : Uses) (lays : List (BitVec 320)) (lay : BitVec 6) (sb : BitVec 6) (vx : BitVec 8) : Uses :=
  let r := (lays.getD lay.toNat 0).toNat
  let kind := r % 16
  let rank := r / 16 % 8
  let dims := if kind = 3 then 3 else min rank 5
  let scals := if kind = 3 then 1 else 1 + (dims + 1) / 2
  { u with sr := u.sr ++ (List.range scals).map (sb.toNat + ·),
           vr := u.vr ++ (List.range dims).map (vx.toNat + ·) }

def withAddr (u : Uses) (lays : List (BitVec 320)) : MAddr → Uses
  | .plain m => u.withM m
  | .record lay sb vx => u.withRecord lays lay sb vx

end Uses

/-- A vector instruction of fixed latency. -/
def vuse (lat : Nat) : Uses := { lat := lat, lanes := true, emR := true }

/-- A scalar instruction of fixed latency. -/
def suse (lat : Nat) : Uses := { lat := lat }

/-- Latency 4, or 6 with a 64-bit type (R135). -/
def lat46 (t : Ty) : Nat := if t.wide then 6 else 4
def lat610 (t : Ty) : Nat := if t.wide then 10 else 6
def latDiv (t : Ty) : Nat := if t.wide then 36 else 20
def lat58 (t : Ty) : Nat := if t.wide then 8 else 5
def latFdiv (t : Ty) : Nat := if t.wide then 32 else 16
def latSpec (t : Ty) : Nat := if t.wide then 24 else 12

def use1 (lat : Nat) (dw : Bool) (t : Ty) (d : VDst) (a : VSrc) : Uses :=
  ((vuse lat).withD dw d).withA t.wide a

def use2 (lat : Nat) (t : Ty) (bw : Bool) (d : VDst) (a : VSrc) (b : OpB) : Uses :=
  (use1 lat t.wide t d a).withB bw b

def use3 (lat : Nat) (t : Ty) (bw cw : Bool) (d : VDst) (a : VSrc) (b : OpB) (c : OpC) : Uses :=
  (use2 lat t bw d a b).withC cw c

def useCmp (lat : Nat) (t : Ty) (p : BitVec 3) (a : VSrc) : Uses :=
  ({ vuse lat with pw := [p.toNat] }).withA t.wide a

def useS2 (lat : Nat) (d a : SReg) (y : SSrc) : Uses := (((suse lat).toS d).withS a).withY y

/-- Scalars from a number on. -/
def block (r : BitVec 6) (n : Nat) : List Nat := (List.range n).map (r.toNat + ·)

/-- A block of `n` scalars runs past s63: the instruction's own fault (R304, R311, R315, R342). -/
def pastScalars (r : BitVec 6) (n : Nat) : Bool := decide (64 < r.toNat + n)

/-- log2 of a width (R135). -/
def logW (w : Nat) : Nat := Nat.log2 w

/-- LRED's and LSCAN's latency (R135). -/
def latRed (op : RedOp) (t : Ty) (w : Nat) : Nat := if t.isFloat && (op == .fadd || op == .min || op == .max
    || op == .minidx || op == .maxidx) then 6 + 6 * logW w else 6 + 2 * logW w

/-- The data registers of an atomic: what it reads, and what ATOM writes (R276). -/
def atomRegs (d : BitVec 8) : AtomOp → List Nat × List Nat
  | .add t | .min t | .max t => (regsOf t.wide d.toNat, regsOf t.wide d.toNat)
  | .and w | .or w | .xor w | .exch w => (regsOf w d.toNat, regsOf w d.toNat)
  | .cas w => if w then ([d.toNat, d.toNat + 1, d.toNat + 2, d.toNat + 3], [d.toNat, d.toNat + 1])
      else ([d.toNat, d.toNat + 1], [d.toNat])
  | .radd _ => ([d.toNat], [d.toNat])

/-- The registers that a DRAIN writes from vD on (R350): `rw` for the result type. -/
def drainRegs (g : Group) (td : ResTy) (d : BitVec 8) (r : BitVec 6) : List Nat :=
  let n := (g.sreg r.toNat).toNat / 256 % 256
  let rw := if td = .s64 ∨ td = .f64 then 2 else 1
  if (g.sreg r.toNat).toNat % 256 + n > 128 then [] else (List.range (n * (128 / g.width) * rw)).map (d.toNat + ·)

/-- The element width of an input type, and whether it carries a scale (R341). -/
def inBits : InTy → Nat
  | .s4 | .bsf4 => 4
  | .s8 | .c8 | .bsf8 => 8
  | .s16 | .bsf16 => 16

def inScaled : InTy → Bool
  | .bsf4 | .bsf8 | .bsf16 => true
  | _ => false

/-- The registers of a fragment block (R327). -/
def blockRegs (t : InTy) : Nat := inBits t + if inScaled t then 1 else 0

/-- The registers of a fragment: `n` slabs divide 128 rows or columns among lanes (R327, R347). -/
def fragment (t : InTy) (n w : Nat) (r : BitVec 8) : List Nat :=
  (List.range ((128 / n + w - 1) / w * blockRegs t)).map (r.toNat + ·)

/-- The registers that a member's MMA reads (R347). -/
def mmaRegs (g : Group) (o : XMma) : List Nat :=
  match g.gang with
  | none => []
  | some x => match x.members.find? fun m => m.grp == groupOf g.id with
    | none => []
    | some m =>
      (if m.role % 2 = 1 then fragment o.ta x.a g.width o.ra else [])
        ++ if m.role / 2 % 2 = 1 then fragment o.tb x.b g.width o.rb else []

/-- What an instruction reads and writes, guard apart. -/
def usesOf (lays : List (BitVec 320)) (g : Group) : Instr → Uses
  | .iadd o | .isub o | .imin o | .imax o => use2 (lat46 o.t) o.t o.t.wide o.d o.a o.b
  | .imul o | .imulh o => use2 (lat610 o.t) o.t o.t.wide o.d o.a o.b
  | .imad o => use3 (lat610 o.t) o.t o.t.wide o.t.wide o.d o.a o.b o.c
  | .idiv o | .irem o => use2 (latDiv o.t) o.t o.t.wide o.d o.a o.b
  | .iabs o | .ineg o | .popc o | .clz o | .ctz o | .brev o => use1 (lat46 o.t) o.t.wide o.t o.d o.a
  | .iclamp o => use3 (lat46 o.t) o.t o.t.wide o.t.wide o.d o.a o.b o.c
  | .and o | .or o | .xor o | .andn o | .shl o | .shr o | .sar o | .rot o =>
    use2 (lat46 o.t) o.t o.t.wide o.d o.a o.b
  | .bfx o => use2 (lat46 o.t) o.t false o.d o.a o.b
  | .bfi o => use3 (lat46 o.t) o.t false o.t.wide o.d o.a o.b o.c
  | .permb o => use3 4 o.t false false o.d o.a o.b o.c
  | .isetp o => (useCmp (lat46 o.t) o.t o.p o.a).withB o.t.wide o.b
  | .sel o => { use2 (lat46 o.t) o.t o.t.wide o.d o.a o.b with pr := [o.p.toNat] }
  | .mov o =>
    let u := (vuse (lat46 o.t)).withD o.t.wide o.d
    (match o.src with
      | .lit _ => u
      | .scal r => u.withB o.t.wide (.scal r)
      | .vec a => u.withA o.t.wide a)
  | .movi o => (vuse (lat46 o.t)).withD o.t.wide o.d
  | .cvti o => ((vuse (if o.td.wide || o.ts.wide then 6 else 4)).withD o.td.wide o.d).withA o.ts.wide o.a
  | .lea o => use2 (lat46 o.t) o.t false o.d o.a o.b
  | .modred o =>
    let u := ((vuse (lat46 o.t)).withD false o.d).withA o.t.wide o.a
    (match o.b with
      | some b => u.withB false b
      | none => u)
  | .modadd o =>
    let u := (((vuse 4).withD false o.d).withA false o.a).withB false o.b
    (match o.c with
      | some c => u.withC false c
      | none => u)
  | .modmul o =>
    let u := (((vuse 6).withD false o.d).withA false o.a).withB false o.b
    (match o.c with
      | some c => u.withC false c
      | none => u)
  | .iaddVI o | .isubVI o | .iminVI o | .imaxVI o | .andVI o | .orVI o | .xorVI o | .andnVI o | .shlVI o
  | .shrVI o | .sarVI o | .rotVI o | .bfxVI o => use1 (lat46 o.t) o.t.wide o.t o.d o.a
  | .imulVI o => use1 (lat610 o.t) o.t.wide o.t o.d o.a
  | .isetpVI o => useCmp (lat46 o.t) o.t o.p o.a
  | .modredVI o => ((vuse (lat46 o.t)).withD false o.d).withA o.t.wide o.a
  | .modaddVI o => ((vuse 4).withD false o.d).withA false o.a
  | .modmulVI o => ((vuse 6).withD false o.d).withA false o.a
  | .fadd o | .fsub o | .fmul o | .fmin o | .fmax o => use2 (lat58 o.t) o.t o.t.wide o.d o.a o.b
  | .ffma o => use3 (lat58 o.t) o.t o.t.wide o.t.wide o.d o.a o.b o.c
  | .fsetp o => (useCmp (lat58 o.t) o.t o.p o.a).withB o.t.wide o.b
  | .fdiv o => use2 (latFdiv o.t) o.t o.t.wide o.d o.a o.b
  | .fsqrt o => use1 (latFdiv o.t) o.t.wide o.t o.d o.a
  | .frcp o | .fexp2 o | .flog2 o => use1 (latSpec o.t) o.t.wide o.t o.d o.a
  | .fcvt o =>
    ((vuse (if o.td == .f64 || o.ts == .f64 then 6 else 4)).withD o.td.wide o.d).withA o.ts.wide o.a
  | .fround o => use1 (lat46 o.t) o.t.wide o.t o.d o.a
  | .fclass o => ((vuse (lat46 o.t)).withD false o.d).withA o.t.wide o.a
  | .dot4 o | .dot8 o => use3 6 .b32 false false o.d o.a o.b o.c
  | .dotc4 o => use3 6 .b32 false false o.d o.a o.b o.c
  | .bdot o =>
    let u := use3 8 .b32 false false o.d o.a o.b o.c
    { u with vr := u.vr ++ [o.d.reg.toNat] }
  | .cdec o => ((vuse 6).withD (o.form == .s16) o.d).withA false o.a
  | .bitunpk o =>
    { (((vuse 8).withD false o.d).withB false o.b).withC false o.c with
      vr := o.a.toNat :: ((vuse 8).withB false o.b |>.withC false o.c).vr, whole := true }
  | .shfl o =>
    { ((vuse 6).withD o.wide o.d).withB false o.b with
      vr := regsOf o.wide o.a.toNat ++ ((vuse 6).withB false o.b).vr, whole := true }
  | .vote o =>
    let u : Uses := { vuse 6 with pr := [o.p.toNat], whole := true }
    (match o.mode with
      | .all p | .any p | .uni p => { u with pw := [p.toNat] }
      | .ballot d => u.withD (g.width == 64) d)
  | .lred o =>
    { (vuse (latRed o.op o.t g.width)).withD (WF.redWide o.op o.t) o.d with
      vr := regsOf o.t.wide o.a.toNat, whole := true }
  | .lscan o =>
    { (vuse (latRed o.op o.t g.width)).withD o.t.wide o.d with vr := regsOf o.t.wide o.a.toNat, whole := true }
  | .xswap o =>
    { lanes := true, emR := true, whole := true, vw := regsOf o.wide o.d.toNat,
      vr := regsOf o.wide o.a.toNat, sr := [o.b.toNat] }
  | .sadd o | .ssub o | .sand o | .sor o | .sxor o | .sshl o => useS2 2 o.d o.a o.y
  | .smul o => useS2 4 o.d o.a o.y
  | .sshr o => useS2 2 o.d o.a o.y
  | .smov o => ((suse 2).toS o.d).withS o.a
  | .smovl o => (suse 2).toS o.d
  | .ssetp o => { (((suse 2).withS o.a).withY o.y) with pw := [o.p.toNat], emR := true }
  | .vget o => { ((suse 4).toS o.d).withY o.y with vr := regsOf (o.t == .n64) o.a.toNat, whole := true }
  | .vput o => { ((suse 4).withS o.a).withY o.y with vw := regsOf o.wide o.d.toNat, whole := true }
  | .gets o =>
    (match o.src with
      | .item => { suse 2 with vw := [o.d.toNat, o.d.toNat + 1], emR := true }
      | .lane => { suse 2 with vw := [o.d.toNat], emR := true }
      | .fflags => { suse 2 with sw := [o.d.toNat], whole := true, flags := true }
      | _ => { suse 2 with sw := [o.d.toNat] })
  | .plog o =>
    let u := { ((suse 2).withP o.a).withP o.b with emR := true, whole := decide (o.d = PReg.em) }
    (match o.d with
      | .p r => { u with pw := [r.toNat] }
      | .em => { u with emW := true })
  | .bra _ => {}
  | .brd o => { lanes := true, pr := [o.p.toNat], emR := true, whole := true }
  | .join _ => {}
  | .call o =>
    { lat := 2, sw := [o.link.toNat], sr := (match o.dest with
      | .label _ => []
      | .reg t => [t.toNat]) }
  | .ret o => { sr := [o.s.toNat] }
  | .bri o => { sr := [o.s.toNat], whole := true }
  | .loop o => { lat := 2, sr := [o.s.toNat], sw := [o.s.toNat] }
  | .exit o => { emR := true, pr := (o.sel.map fun x => x.p.toNat).toList, whole := o.sel.isNone }
  | .safe _ => { lanes := true, whole := g.stopAt.isSome }
  | .nop _ | .sigchk _ | .yield _ => {}
  | .wgrow o => ({} : Uses).withY o.n
  | .wshrink o => { ({} : Uses).withY o.n with whole := true }
  | .pub o => { lanes := true, emR := true, vr := [o.d.toNat], pub := some o.d.toNat }
  | .ld o =>
    { (({ lanes := true, emR := true, order := true } : Uses).withAddr lays o.addr) with vw := regsOf o.t.wide o.d.toNat }
  | .st o =>
    let u := ({ lanes := true, emR := true, order := true } : Uses).withAddr lays o.addr
    { u with vr := regsOf o.t.wide o.d.toNat ++ u.vr }
  | .lds o =>
    { (({ lanes := true, emR := true, order := true } : Uses).withAddr lays o.addr) with vw := regsOf o.t.wide o.d.toNat }
  | .sts o =>
    let u := ({ lanes := true, emR := true, order := true } : Uses).withAddr lays o.addr
    { u with vr := regsOf o.t.wide o.d.toNat ++ u.vr }
  | .atom o =>
    let u := ({ lanes := true, emR := true, order := true } : Uses).withM o.addr
    { u with vr := (atomRegs o.d o.op).1 ++ u.vr, vw := (atomRegs o.d o.op).2 }
  | .red o =>
    let u := ({ lanes := true, emR := true, order := true } : Uses).withM o.addr
    { u with vr := (atomRegs o.d o.op).1 ++ u.vr }
  | .fence o => { lanes := true, emR := true, settle := o.scope != .group }
  | .pref o => ({ lanes := true, emR := true } : Uses).withM o.addr
  | .cflush o | .cinv o => { (({ lanes := true, emR := true } : Uses).withM o.addr) with whole := true }
  | .fetch o | .post o => { sr := [o.d.toNat, o.sb.toNat], settle := true }
  | .cpy o => { sr := block o.sa 4 ++ block o.sb 4 ++ block o.sc 5, settle := true }
  | .cpym o => { sr := block o.sa 4 ++ block o.sb 4 ++ block o.sc 6, settle := true }
  | .land o =>
    { sr := (match o.args with
      | some x => [x.sa.toNat, x.sb.toNat, x.sc.toNat]
      | none => []) }
  | .landw _ | .sealb _ | .waitb _ | .yieldb _ => {}
  | .cstat o => { sr := [o.sa.toNat], sw := block o.sb 8, order := true }
  | .cbld o => { sr := [o.sa.toNat, o.sc.toNat], settle := true }
  | .gang o => { sr := block o.m 2 }
  | .mzero o => { sr := [o.e.toNat] }
  | .rel _ | .acq _ | .mscale _ => {}
  | .mma o => { whole := true, vr := (mmaRegs g o).filter fun r => decide (r < g.n) }
  | .drain o =>
    { sr := [o.r.toNat], whole := true, vw := (match o.td with
      | some td => drainRegs g td o.d o.r
      | none => []) }
  | .drainm o => { sr := block o.b 5, settle := true }
  | .acst o => { sr := [o.b.toNat], settle := true }
  | .acld o => { sr := if o.add then [o.b.toNat] else block o.b 2, settle := true }
  | .mstat o => { sw := [o.d.toNat] }
  | .cont o => { sw := block o.d 2 }
  | .minj o => { sr := [o.r.toNat] }
  | .bar o | .binit o =>
    { whole := true, sr := (match o.n with
      | .imm _ => []
      | .reg c => [c.toNat]) }
  | .bara o =>
    { whole := true, sw := [o.t.toNat], sr := (match o.n with
      | .imm _ => []
      | .reg c => [c.toNat]) }
  | .barw o => { whole := true, sr := [o.t.toNat] }
  | .barq o => { whole := true, sw := [o.t.toNat] }
  | .objreg o | .objdel o | .orel o => { sr := [o.s.toNat], sw := [o.s.toNat], order := true }
  | .ocall o =>
    { lanes := true, emR := true, whole := true, settle := true, vw := regsOf true o.d.toNat,
      vr := regsOf true o.a.toNat ++ regsOf true o.b.toNat }
  | .creply o => { lanes := true, emR := true, whole := true, vr := [o.a.toNat] }
  | .cdone _ | .trap _ | .bkpt _ | .halt _ => {}
  | .rtt o =>
    { sr := (match o.dest with
      | .reg a | .both a => [a.toNat]
      | _ => []) }
  | .launch o => { sr := [o.sa.toNat], sw := [o.sb.toNat] }
  | .sets o => { sr := [o.sa.toNat] }
  | .tlbinv o => { sr := (o.page.map BitVec.toNat).toList }
  | .pres o => { sr := o.sa.toNat :: (o.sb.map BitVec.toNat).toList }
  | _ => {}

/-- The head of an instruction word (R115): its stall count and guard lie at the same bits in every
format. -/
def headOf (w : Word) : Head := Head.ofBits (bits w 46 8)

/-- With the guard: its predicate, and `em`, which decides where it holds (R115). -/
def Uses.guarded (u : Uses) (h : Head) : Uses :=
  match h.guard with
  | none => u
  | some x => { u with pr := x.p.toNat :: u.pr, emR := true }

end Sys2Proof.Machine
end

