-- ==== Sys2Proof/Machine/Rns.lean ====
section
/-! DEFINITION. The residue channels (R42 to R52) and reconstruction (R334, R339). -/

namespace Sys2Proof.Machine

namespace Rns

/-- The modulus of a channel (R42). -/
def modulus : Nat → Nat
  | 0 => 256 | 1 => 255 | 2 => 253 | 3 => 251 | 4 => 247 | 5 => 241 | 6 => 239 | 7 => 233 | 8 => 257
  | _ => 263

/-- `inv(m[i], m[j])` for i before j (R45). -/
def inv (i j : Nat) : Nat :=
  let row : List Nat := match i with
    | 0 => [1, 169, 201, 55, 225, 225, 152, 256, 75]
    | 1 => [127, 63, 31, 155, 15, 53, 128, 230]
    | 2 => [126, 206, 221, 222, 35, 64, 184]
    | 3 => [62, 217, 20, 13, 214, 241]
    | 4 => [201, 30, 50, 77, 115]
    | 5 => [120, 204, 16, 251]
    | 6 => [39, 157, 252]
    | 7 => [182, 149]
    | _ => [219]
  row.getD (j - i - 1) 0

/-- `residue(x, m)`. -/
def residue (x : Int) (m : Nat) : Nat := (x % (m : Int)).toNat

/-- The channels of a format in conversion order (R47). -/
def channels : AccFmt → List Nat
  | .acc64 => [0, 1, 2, 3, 4, 5, 6, 7, 8, 9]
  | .acc32 => [0, 1, 2, 3, 8, 9]

/-- The primary product M or P (R43, R47). -/
def primary : AccFmt → Nat
  | .acc64 => 13741755155627516160
  | .acc32 => 4145475840

/-- The offset H (R47). -/
def offset (f : AccFmt) : Nat := primary f / 2

/-- The product of all channels of a format (R351). -/
def total (f : AccFmt) : Nat := primary f * 257 * 263

/-- The mixed-radix digits of R46, of residues given with their channels. -/
def mrc : Nat → List (Nat × Nat) → List (Nat × Nat)
  | 0, _ => []
  | _, [] => []
  | n + 1, (i, a) :: t =>
    (i, a) :: mrc n (t.map fun (j, y) =>
      (j, residue (((y : Int) - a) * inv i j) (modulus j)))

/-- The number whose digits these are. -/
def ofDigits : List (Nat × Nat) → Nat
  | [] => 0
  | (i, a) :: t => a + modulus i * ofDigits t

/-- The value of a residue vector over some channels, with the offset added (R48, R334). -/
def value (f : AccFmt) (chs : List Nat) (x : Nat → Nat) : Nat :=
  ofDigits (mrc 10 (chs.map fun i => (i, (x i + offset f) % modulus i)))

/-- What reconstruction answers for one element (R334). -/
inductive Outcome where
  | valid (x : Int)
  | corrected (chan : Nat) (x : Int)
  | detected
  /-- `greatest` when the value over all channels lies in the lower half (R351). -/
  | range (greatest : Bool)
  deriving DecidableEq, Repr

/-- The first channel whose removal gives a legitimate value (R334). -/
def dropOne (f : AccFmt) (chs : List Nat) (x : Nat → Nat) : List Nat → Option (Nat × Int)
  | [] => none
  | j :: t =>
    let y := value f (chs.filter (· != j)) x
    if y < primary f then some (j, (y : Int) - offset f) else dropOne f chs x t

/-- Reconstruction of one element, with the engine's retired channels (R334, R339). -/
def reconstruct (f : AccFmt) (retired : List Nat) (x : Nat → Nat) : Outcome :=
  let chs := (channels f).filter fun c => !retired.contains c
  let y := value f chs x
  if y < primary f then .valid ((y : Int) - offset f)
  else if chs.length < (channels f).length then .detected
  else match dropOne f chs x chs with
    | some (j, v) => .corrected j v
    | none => .range (y < total f / 2)

/-- The residue vector of an integer on one channel (R44). -/
def encode (x : Int) (i : Nat) : Nat := residue x (modulus i)

/-- `radd(old, operand, i)` (R52). -/
def radd (old operand : BitVec 32) (i : Nat) : BitVec 32 :=
  let m := modulus i
  let step (bits len : Nat) (k : Nat) : Nat :=
    (old.toNat / 2 ^ (bits * k) % 2 ^ len % m + operand.toNat / 2 ^ (bits * k) % 2 ^ len % m) % m
      * 2 ^ (bits * k)
  if i ≤ 7 then BitVec.ofNat 32 (step 8 8 0 + step 8 8 1 + step 8 8 2 + step 8 8 3)
  else BitVec.ofNat 32 (step 16 9 0 + step 16 9 1)

/-- Where the element `pos` of channel `i` lies in a residue-plane image (R49). -/
def planeOffset (i pos : Nat) : Nat :=
  if i ≤ 7 then 16384 * i + pos else 131072 + 32768 * (i - 8) + 2 * pos

/-- The bytes of an element of channel `i` (R49). -/
def planeWidth (i : Nat) : Nat := if i ≤ 7 then 1 else 2

/-- A plane element as it is loaded (R51). -/
def planeLoad (i v : Nat) : Nat := (if i ≤ 7 then v % 256 else v % 512) % modulus i

/-- The size of an image (R49). -/
def imageSize : Nat := 196608

end Rns

end Sys2Proof.Machine
end

