-- ==== Sys2Proof/Machine/Translate.lean ====
section
/-! DEFINITION. Translation (R286 to R291), the global space of the part and of its peers (R240, R267,
R290, R296), and the local space of a team (R65, R66). -/

namespace Sys2Proof.Machine

/-! ### Physical addresses (R286) -/

/-- PART, TOWER and the reserved bits of a physical address. -/
def partOf (pa : Nat) : Nat := pa / 2 ^ 43 % 1024
def towerOfPa (pa : Nat) : Nat := pa / 2 ^ 40 % 8
def reservedOf (pa : Nat) : Nat := pa / 2 ^ 37 % 8

/-- The part's own number; 0 before PARTNUM sets it (R425). -/
def State.ownPart (s : State) : Nat := s.partNum.getD 0

/-- The address lies on a peer (R286). -/
def State.isPeer (s : State) (pa : Nat) : Bool := partOf pa != s.ownPart

/-- A table, or any memory, of the part itself. -/
def State.isOwn (s : State) (pa : Nat) : Bool := !s.isPeer pa && reservedOf pa == 0

/-- Some station's link is up, so that a request can reach a peer (R424, R425). -/
def State.linked (s : State) : Bool := s.partNum.isSome && s.stations.any fun x => x.2.up

/-! ### Page-table entries (R289) -/

def pteV (e : Word) : Bool := e.getLsbD 0
def pteR (e : Word) : Bool := e.getLsbD 1
def pteW (e : Word) : Bool := e.getLsbD 2
def pteX (e : Word) : Bool := e.getLsbD 3
def pteLeaf (e : Word) : Bool := e.getLsbD 4
def pteFrame (e : Word) : Nat := e.toNat / 2 ^ 16 % 2 ^ 37 * 2 ^ 16
def pteClvl (e : Word) : Nat := e.toNat / 2 ^ 56 % 4
def pteWt (e : Word) : Bool := e.getLsbD 58
def pteObj (e : Word) : Bool := e.getLsbD 61

/-- The reserved bits of an entry: 63:62, 55:53 and 15:5. -/
def pteReserved (e : Word) : Bool :=
  decide (e.toNat / 2 ^ 62 ≠ 0) || decide (e.toNat / 2 ^ 53 % 8 ≠ 0) || decide (e.toNat / 2 ^ 5 % 2 ^ 11 ≠ 0)

/-- The fields that a pointer does not use are zero (R289; log 19). -/
def ptePlain (e : Word) : Bool := decide (e.toNat / 2 ^ 56 = 0) && decide (e.toNat / 2 % 8 = 0)

/-- The lowest address bit and the index width of each level (R288). -/
def levelLow : Nat → Nat
  | 0 => 43
  | 1 => 30
  | 2 => 21
  | _ => 16

def levelBits : Nat → Nat
  | 0 => 14
  | 1 => 13
  | 2 => 9
  | _ => 5

/-- The outcome of a walk: a leaf, or the level whose entry failed, and the address of an uncorrectable
entry (R289, R291). -/
inductive Walked where
  | leaf (t : Tlb)
  | fail (lvl : Nat) (bad : Option Nat)
  deriving DecidableEq, Repr

/-- An entry met at a level: malformed, a leaf or a pointer. -/
def State.entryBad (s : State) (lvl : Nat) (e : Word) : Bool :=
  pteReserved e ||
    (if pteLeaf e then
      decide (lvl = 0) || decide (pteFrame e % 2 ^ levelLow lvl ≠ 0) || (pteObj e && decide (lvl ≠ 3))
    else decide (lvl = 3) || !ptePlain e || !s.isOwn (pteFrame e))

/-- Walks the tables from a level on (R288). -/
def State.walkFrom (s : State) (va : Nat) : Nat → Nat → Nat → Walked
  | 0, lvl, _ => .fail lvl none
  | fuel + 1, lvl, table =>
    let at_ := table + 8 * (va / 2 ^ levelLow lvl % 2 ^ levelBits lvl)
    if s.badWord at_ then .fail lvl (some at_)
    else
      let e : Word := BitVec.ofNat 64 (ofBytes (s.memRead at_ 8))
      if !pteV e || s.entryBad lvl e then .fail lvl none
      else if pteLeaf e then
        .leaf ⟨va / 2 ^ levelLow lvl * 2 ^ levelLow lvl, 2 ^ levelLow lvl, e⟩
      else s.walkFrom va fuel (lvl + 1) (pteFrame e)

/-- The leaf of identity mode (R288). -/
def State.identityPte (s : State) (va : Nat) : Word :=
  BitVec.ofNat 64 (0x0800000000000000 + s.ownPart * 2 ^ 43 + va / 2 ^ 16 % 2 ^ 27 * 2 ^ 16 + 31)

/-- EN of the translation root (R405). -/
def State.walking (s : State) : Bool := s.troot.getLsbD 0

/-- Walks for an address (R288). -/
def State.walk (s : State) (va : Nat) : Walked :=
  if !s.walking then
    if va / 2 ^ 43 = 0 then .leaf ⟨va / 2 ^ 16 * 2 ^ 16, 2 ^ 16, s.identityPte va⟩ else .fail 0 none
  else if s.isOwn (pteFrame s.troot) then s.walkFrom va 4 0 (pteFrame s.troot) else .fail 0 none

/-- A unit that translates: a core under its number, the engines of a tower under 1,024 + the tower's (R291). -/
def towerUnit (core : Nat) : Nat := 1024 + towerOf core

/-- The unit that translates for the engines that work for a group. -/
def State.engineUnit (s : State) (g : GroupId) : Nat := towerUnit (((s.group? g).map (·.core)).getD 0)

/-- The entries that a TLB holds at most (R291). -/
def tlbSize (u : Nat) : Nat := if u < 1024 then 256 else 16384

/-- A TLB's entries. -/
def State.tlbOf (s : State) (u : Nat) : List Tlb := Sparse.get [] s.tlb u

/-- The entry maps an address. -/
def Tlb.covers (t : Tlb) (va : Nat) : Bool := decide (t.base ≤ va) && decide (va < t.base + t.size)

/-- A translation that a unit's TLB holds, or, for a core, its tower's. -/
def State.tlbFind (s : State) (u va : Nat) : Option Tlb :=
  (s.tlbOf u ++ if u < 1024 then s.tlbOf (towerUnit u) else []).find? fun t => t.covers va

/-- One TLB takes an entry as its latest; the oldest gives way when it is full (R291). -/
def State.tlbPut (s : State) (u : Nat) (t : Tlb) : State :=
  let rest := (s.tlbOf u).filter fun x => !(x.base == t.base && x.size == t.size)
  { s with tlb := Sparse.set [] s.tlb u ((t :: rest).take (tlbSize u)) }

/-- The TLB of a unit, and its tower's, hold a walk's leaf (R291). -/
def State.fillTlb (s : State) (u : Nat) (t : Tlb) : State :=
  if u < 1024 then (s.tlbPut u t).tlbPut (towerUnit u) t else s.tlbPut u t

/-- Every TLB drops the translations that satisfy a condition (R406). -/
def State.dropTlb (s : State) (p : Tlb → Bool) : State :=
  { s with tlb := (s.tlb.map fun x => (x.1, x.2.filter fun t => !p t)).filter fun x => !x.2.isEmpty }

/-- A translation at hand: a TLB's, or that of identity mode, which needs no walk (R288). Engines whose tower's
TLB is full walk as they go (log 25). -/
def State.known (s : State) (u va : Nat) : Option Tlb :=
  match s.tlbFind u va with
  | some t => some t
  | none =>
    if s.walking && (decide (u < 1024) || decide ((s.tlbOf u).length < tlbSize u)) then none
    else match s.walk va with
      | .leaf t => some t
      | .fail .. => none

/-- A translation that is walked for at once: acceptance, the distributors and the host's accesses (R79, R87). -/
def State.lookup (s : State) (va : Nat) : Option Tlb :=
  if 2 ^ 57 ≤ va then none
  else match s.walk va with
    | .leaf t => some t
    | .fail .. => none

/-- The physical address of a virtual one in a page. -/
def Tlb.phys (t : Tlb) (va : Nat) : Nat := pteFrame t.pte + (va - t.base)

/-- An address lies in an object page, as a unit has it translated (R287, R289). -/
def State.inObjPage (s : State) (u va : Nat) : Bool := (s.known u va).any fun t => pteObj t.pte

/-- The same for an access that is translated at once. -/
def State.objNow (s : State) (va : Nat) : Bool := (s.lookup va).any fun t => pteObj t.pte

/-- The home slice of an address that lies in the part's memory: tower and slice (R287). -/
def State.homeOf (s : State) (u va : Nat) : Option (Nat × Nat) :=
  match s.known u va with
  | none => none
  | some t =>
    let pa := t.phys va
    if s.isPeer pa then none else some (towerOfPa pa, sliceOf pa (pteObj t.pte))

/-! ### Rights -/

/-- What an access needs. -/
inductive Right where
  | none_ | read | write | both | exec
  deriving DecidableEq, Repr

def Right.ok : Right → Word → Bool
  | .none_, _ => true
  | .read, e => pteR e
  | .write, e => pteW e
  | .both, e => pteR e && pteW e
  | .exec, e => pteX e

def Right.isWrite : Right → Bool
  | .write | .both => true
  | _ => false

/-- What becomes of an access to a virtual address (R268): it has a place, the right or the memory is
missing, or no translation is at hand. -/
inductive Reach where
  | at_ (pa : Nat) (pte : Word)
  | protect
  /-- The physical address names no memory (R286). -/
  | noMemory
  | miss
  deriving DecidableEq, Repr

/-- The place of an address whose translation is known. -/
def State.place (_s : State) (t : Tlb) (va : Nat) (r : Right) : Reach :=
  let pa := t.phys va
  if !r.ok t.pte then .protect
  else if reservedOf pa != 0 then .noMemory
  else .at_ pa t.pte

/-- The access of a group or an engine: through the TLBs (R291). -/
def State.reach (s : State) (u va : Nat) (r : Right) : Reach :=
  match s.known u va with
  | none => .miss
  | some t => s.place t va r

/-- The address of a table word that a walk finds uncorrectable, in the journal (R289, R391). -/
def State.noteWalk (s : State) (va : Nat) : State :=
  if 2 ^ 57 ≤ va then s
  else match s.walk va with
    | .fail _ (some pa) => s.journalBad pa
    | _ => s

/-- An access that does not park: acceptance, the host, the placement map and a retirement's
spill walk at once (R69, R70, R87, R98). -/
def State.reachNow (s : State) (va : Nat) (r : Right) : Reach :=
  match s.lookup va with
  | none => .protect
  | some t => s.place t va r

/-! ### Global data -/

/-- A peer performs the next access, or UALink reports it as failed (R296; log 10). -/
def State.peerOk (s : State) (pa : Nat) : Bool := s.linked && Config.peerPerforms s.free pa

/-- One more free value has been taken (log 2). -/
def State.drawn (s : State) : State := { s with free := s.free + 1 }

/-- The bytes that a peer answers. -/
def State.peerBytes (s : State) (pa len : Nat) : List Byte := (State.span pa len).map (Config.peerByte s.free)

/-- An access of this policy to this page may be served by L1: never for a page whose CLVL keeps it out
(R240, R290). -/
def inL1 (pol : Pol) (pte : Word) : Bool := decide (pol = .dflt) && decide (pteClvl pte = 0)

/-- The bytes of a core's store that windows and scratchpads take (R153). -/
def State.storeTaken (s : State) (core : Nat) : Nat :=
  ((s.groups.filter fun g => g.resident && g.core == core).map fun g => 4 * g.n * g.width).sum
    + (s.launches.map fun l => ((l.teams.filter fun t => t.resident && t.core == core).map fun _ => l.scratchSize).sum).sum

/-- The 128-byte lines that a core's L1 can hold: the rest of its 4 MiB store, of which windows and scratchpads take
2 MiB at most (R16, R153). -/
def State.l1Size (s : State) (core : Nat) : Nat := (4194304 - min 2097152 (s.storeTaken core)) / 128

/-- The lines that a core's L1 holds. -/
def State.l1Lines (s : State) (core : Nat) : List Nat := once ((s.l1Of core).map fun x => x.1 / 128)

/-- An L1 that holds more lines than its share of the store writes back and drops the rest (R153; log 7). -/
def State.fitL1 (s : State) (core : Nat) : State :=
  let extra := (s.l1Lines core).drop (s.l1Size core)
  if extra.isEmpty then s
  else
    let p := fun k => extra.contains (k / 128)
    (s.writeBack core p).dropClean core p

/-- Clean copies of these bytes in a core's L1. -/
def State.l1Copy (s : State) (core pa : Nat) : List Byte → State
  | [] => s
  | b :: t => (s.l1Put core pa (some ⟨b, false, false, false⟩)).l1Copy core (pa + 1) t

/-- The same, within the L1's size. -/
def State.l1Keep (s : State) (core pa : Nat) (bs : List Byte) : State := (s.l1Copy core pa bs).fitL1 core

/-- The core's L1 gives up the sectors of these bytes: dirty ones are written back, clean ones dropped
(R243). -/
def State.flushSectors (s : State) (core pa len : Nat) : State :=
  let p := fun k => decide (pa / 32 ≤ k / 32) && decide (k / 32 ≤ (pa + len - 1) / 32)
  (s.writeBack core p).dropClean core p

/-- The L1 of a core holds a byte. -/
def State.l1Holds (s : State) (core k : Nat) : Bool := (Sparse.get none (s.l1Of core) k).isSome

/-- Reads bytes of a peer: those that the core's L1 holds, when the access may be served there, and else the peer's,
which the L1 then holds (R240, R296). The free value is drawn by the instruction, once for all of its lanes (R242). -/
def State.peerRead (s : State) (core : Nat) (l1 : Bool) (pa len : Nat) : State × Option (List Byte) :=
  let here := fun k => if l1 && s.l1Holds core k then s.l1Get core k else Config.peerByte s.free k
  if !(l1 && (State.span pa len).all (s.l1Holds core)) && !s.peerOk pa then (s.journalPeer pa, none)
  else
    let bs := (State.span pa len).map here
    (if l1 then s.l1Keep core pa bs else (s.flushSectors core pa len), some bs)

/-- Reads bytes of the global space for a group or an engine; none when they are uncorrectable (R285). `far` is the level
at which an access that goes below L1 is performed (R240, R290); data of L1 are written back before. -/
def State.gread (s : State) (core : Nat) (l1 : Bool) (pa len : Nat) (obj : Bool := false) (far : Nat := 2) :
    State × Option (List Byte) :=
  let all := State.span pa len
  if s.isPeer pa then s.peerRead core l1 pa len
  else if l1 then
    let here := s.l1Holds core
    if all.any (s.l1Bad core) then (s, none)
    else if all.any fun k => s.poisoned k && !here k then (s.journalBad pa obj, none)
    else (((s.touch (all.filter fun k => !here k) obj false).l1Fill core obj all).fitL1 core, some (all.map (s.l1Get core)))
  else
    let s := s.flushSectors core pa len
    if s.poisonedSpan pa len then (s.journalSpan pa len obj, none) else (s.touch all obj false far, some (s.memRead pa len))

/-- Writes bytes of the global space for a group: into its core's L1, or at the home. A page with WT is written
through (R290). A write to a peer is sent there, and the L1 holds a clean copy (R240, R296). -/
def State.gwrite (s : State) (core : Nat) (l1 wt : Bool) (pa : Nat) (bs : List Byte) (obj : Bool := false)
    (far : Nat := 2) : State :=
  let all := State.span pa bs.length
  if s.isPeer pa then (if l1 then s.l1Keep core pa bs else s.flushSectors core pa bs.length)
  else if l1 then
    let s := (s.touch (all.filter fun k => !s.l1Holds core k) obj false).l1Write core pa obj bs
    (if wt then s.writeBack core fun k => decide (pa ≤ k) && decide (k < pa + bs.length) else s).fitL1 core
  else ((s.flushSectors core pa bs.length).memWrite pa bs).touch all obj true far

/-- Poison of the sectors that a set of written bytes covers whole is cleared (R416). -/
def State.clearCovered (s : State) (written : List Nat) : State :=
  s.mend written.contains

/-- Writes bytes at their home, for an engine or another master: no L1 is touched (R240). -/
def State.homeWrite (s : State) (pa : Nat) (bs : List Byte) (obj : Bool := false) : State :=
  ((s.memWrite pa bs).clearPoison pa bs.length).touch (State.span pa bs.length) obj true

/-! ### Atomics at their home (R276) -/

/-- The order of a type. -/
def ordMin (t : Ty) (a b : Nat) : Nat := if intOf t a ≤ intOf t b then a else b
def ordMax (t : Ty) (a b : Nat) : Nat := if intOf t a ≤ intOf t b then b else a

/-- The new value of an atomic. -/
def atomNew (op : AtomOp) (old v v2 : Nat) : Nat :=
  match op with
  | .add t => truncTo (Ty.bits t) ((old : Int) + v)
  | .min t => ordMin t old v
  | .max t => ordMax t old v
  | .and _ => Nat.land old v
  | .or _ => Nat.lor old v
  | .xor _ => Nat.xor old v
  | .exch _ => v
  | .cas _ => if old = v then v2 else old
  | .radd c => (Rns.radd (BitVec.ofNat 32 old) (BitVec.ofNat 32 v) c.toNat).toNat

/-- The access width of an atomic, in bytes. -/
def atomWidth : AtomOp → Nat
  | .add t | .min t | .max t => if t.wide then 8 else 4
  | .and w | .or w | .xor w | .exch w | .cas w => if w then 8 else 4
  | .radd _ => 4

/-- An atomic on the part's own memory: the old value, or none when it is uncorrectable (R285). -/
def State.atomicAt (s : State) (pa : Nat) (op : AtomOp) (v v2 : Nat) (obj : Bool := false) : State × Option Nat :=
  if s.poisonedSpan pa (atomWidth op) then (s.journalBad pa obj, none)
  else
    let old := ofBytes (s.memRead pa (atomWidth op))
    ((s.memWrite pa (leBytes (atomWidth op) (atomNew op old v v2))).touch (State.span pa (atomWidth op)) obj true, some old)

/-! ### The local space (R65, R66) -/

/-- Where a local access falls. -/
inductive Local where
  | scratch (a : Nat)
  | window (g : GroupId) (ofs : Nat)
  deriving DecidableEq, Repr

/-- The group whose window region holds a local address, as a group of this team; a wave reaches its own
window alone (R376). -/
def windowOwner (g : GroupId) (a : Nat) : Option GroupId :=
  if a < 0x40000000 ∨ 0x40200000 ≤ a then none
  else
    let k := (a - 0x40000000) / 0x10000
    match g with
    | .member l t _ => some (.member l t k)
    | .wave l o => if k = 0 then some (.wave l o) else none

/-- Where a local access of `len` bytes falls; none is PROTECTION. -/
def State.localAt (s : State) (g : GroupId) (a len : Nat) : Option Local :=
  if a < 0x40000 then
    match g with
    | .wave .. => none
    | .member lid _ _ =>
      match s.launch? lid with
      | some l => if a + len ≤ l.scratchSize then some (.scratch a) else none
      | none => none
  else
    match windowOwner g a with
    | none => none
    | some o =>
      match s.group? o with
      | none => none
      | some x =>
        let ofs := (a - 0x40000000) % 0x10000
        if ofs + len ≤ 4 * x.n * x.width then some (.window o ofs) else none

/-- The local address of a group's window (R65); a wave's is that of group 0 (R376). -/
def winBase : GroupId → Nat
  | .member _ _ k => 0x40000000 + 0x10000 * k
  | .wave .. => 0x40000000

/-- A poisoned word lies among these bytes of the local space (R416). -/
def State.localBad (s : State) (g : GroupId) (a len : Nat) : Bool :=
  let hits := fun (b k : Nat) => decide (8 * k < b + len) && decide (b < 8 * k + 8)
  match s.localAt g a 1 with
  | some (.scratch b) => match s.team? (lidOf g) (teamOf g) with
    | some t => t.bad.any (hits b)
    | none => false
  | some (.window o ofs) => match s.group? o with
    | some x => x.bad.any (hits ofs)
    | none => false
  | none => false

/-- Local words that the written bytes cover whole are poisoned no more (R416). -/
def State.healLocal (s : State) (g : GroupId) (written : List Nat) : State :=
  let kept := fun (base k : Nat) => !(State.span (base + 8 * k) 8).all written.contains
  let s := s.onTeam (lidOf g) (teamOf g) fun t => { t with bad := t.bad.filter (kept 0) }
  { s with groups := s.groups.map fun x =>
      if windowOwner g (winBase x.id) = some x.id then { x with bad := x.bad.filter (kept (winBase x.id)) } else x }

/-- One byte of a window: the register file, never the bypass (R154). -/
def Group.windowByte (g : Group) (ofs : Nat) : Byte :=
  let r := ofs / 4 / g.width
  let l := ofs / 4 % g.width
  BitVec.ofNat 8 ((g.fileV r l).toNat / 2 ^ (8 * (ofs % 4)))

def Group.setWindowByte (g : Group) (ofs : Nat) (b : Byte) : Group :=
  let r := ofs / 4 / g.width
  let l := ofs / 4 % g.width
  let old := (g.fileV r l).toNat
  let sh := 2 ^ (8 * (ofs % 4))
  g.writeV r l (BitVec.ofNat 32 (old - old / sh % 256 * sh + b.toNat * sh))

/-- Reads one byte of the local space. -/
def State.localByte (s : State) (g : GroupId) : Local → Byte
  | .scratch a =>
    match s.team? (lidOf g) (teamOf g) with
    | some t => Sparse.get 0 t.scratch a
    | none => 0
  | .window o ofs =>
    match s.group? o with
    | some x => x.windowByte ofs
    | none => 0

/-- Writes one byte of the local space. -/
def State.setLocalByte (s : State) (g : GroupId) (w : Local) (b : Byte) : State :=
  match w with
  | .scratch a => s.onTeam (lidOf g) (teamOf g) fun t => { t with scratch := Sparse.set 0 t.scratch a b }
  | .window o ofs => s.onGroup o fun x => x.setWindowByte ofs b

/-- The place some bytes further on. -/
def Local.plus : Local → Nat → Local
  | .scratch a, k => .scratch (a + k)
  | .window o ofs, k => .window o (ofs + k)

def State.localRead (s : State) (g : GroupId) (w : Local) (len : Nat) : List Byte :=
  (List.range len).map fun k => s.localByte g (w.plus k)

def State.localWrite (s : State) (g : GroupId) (w : Local) : List Byte → State
  | [] => s
  | b :: t => (s.setLocalByte g w b).localWrite g (w.plus 1) t

end Sys2Proof.Machine
end

