-- ==== Sys2Proof/Machine/Runner.lean ====
section
/-! DEFINITION. The runner: counted reads and publishes, deemed publishes at retirement, the successor's
buffer and the spill area (R223 to R234). -/

namespace Sys2Proof.Machine

/-- The item of a lane (R60). -/
def Group.item (g : Group) (lane : Nat) : Nat := g.item0 + lane

namespace Launch

/-- An item that has retired, or that lies at or beyond N (R61, R229). -/
def gone (l : Launch) (p : Nat) : Bool :=
  decide (l.itemCount ≤ p) || (Sparse.get 0 l.outItems (p / l.width)).testBit (p % l.width)

/-- An item retires (R229). -/
def retireItem (l : Launch) (p : Nat) : Launch :=
  let k := p / l.width
  { l with outItems := Sparse.set 0 l.outItems k (Nat.lor (Sparse.get 0 l.outItems k) (2 ^ (p % l.width))) }

/-- The entry of an item is free in the successor's buffer or in the spill area: every item of the successor that
lies 1 to 15 places after it has retired (R232). -/
def freed (l : Launch) (p : Nat) : Bool :=
  (List.range 15).all fun k => l.gone (p + k + 1) || (p + k + 1) / l.width == p / l.width

/-- What the j-th read of item p's slot receives: its j-th publish, or its final value once it has
retired; none while it has to wait (R228). -/
def given (l : Launch) (p slot j : Nat) : Option Lane :=
  match l.publishes.find? fun x => x.item == p && x.slot == slot && x.j == j with
  | some x => some x.val
  | none => (l.finals.find? fun f => f.item == p && f.slot == slot).map (·.val)

/-- The entry that a read takes has been read by the successor (R233). -/
def markSeen (l : Launch) (p slot j : Nat) : Launch :=
  if l.publishes.any fun x => x.item == p && x.slot == slot && x.j == j then
    { l with publishes := l.publishes.map fun x =>
        if x.item = p ∧ x.slot = slot ∧ x.j = j then { x with seen := true } else x }
  else
    { l with finals := l.finals.map fun f =>
        if f.item = p ∧ f.slot = slot then { f with seen := true } else f }

/-- Entries of a slot that one group's last lanes have sent and that are not freed: in the successor's
buffer, and in the spill area (R232, R234). `lo` is the group's item of lane W − 15. -/
def inBuffer (l : Launch) (lo slot : Nat) : Nat :=
  let here := fun (item k : Nat) => decide (lo ≤ item) && decide (item < lo + 15) && k == slot && !l.freed item
  (l.publishes.filter fun x => here x.item x.slot && !x.spilled).length
    + (l.finals.filter fun x => here x.item x.slot && !x.spilled).length

/-- Spilled entries of a slot that the successor has still to read (R233). -/
def unseen (l : Launch) (lo slot : Nat) : Bool :=
  let here := fun (item k : Nat) => decide (lo ≤ item) && decide (item < lo + 15) && k == slot && !l.freed item
  (l.publishes.any fun x => here x.item x.slot && x.spilled && !x.seen)
    || (l.finals.any fun x => here x.item x.slot && x.spilled && !x.seen)

/-- Entries in the spill area (R234). -/
def spillUsed (l : Launch) : Nat :=
  (l.publishes.filter fun x => x.spilled && !l.freed x.item).length
    + (l.finals.filter fun x => x.spilled && !l.freed x.item).length

/-- No read can take an entry of this item any more. -/
def unread (l : Launch) (p : Nat) : Bool := (List.range 15).all fun k => l.gone (p + k + 1)

/-- Entries that no read can take are dropped. -/
def reap (l : Launch) : Launch :=
  { l with publishes := l.publishes.filter fun x => !l.unread x.item
           finals := l.finals.filter fun f => !l.unread f.item }

/-- Every item of the group after the one that holds an item has retired (R232). -/
def successorGone (l : Launch) (p : Nat) : Bool :=
  (List.range l.width).all fun k => l.gone ((p / l.width + 1) * l.width + k)

end Launch

/-- The successor of a group (R232). -/
def successor (l : Launch) : GroupId → Option GroupId
  | .wave .. => none
  | .member lid t k =>
    if k + 1 < l.groupsPer then some (.member lid t (k + 1))
    else if t + 1 < l.teamCount then some (.member lid (t + 1) 0) else none

/-- Where a publish goes (R232, R233). -/
inductive Route where
  | here | buffer | spill | stall
  deriving DecidableEq, Repr

/-- The entries of a slot that a group has in its successor's buffer (R232). -/
def Launch.sentBy (l : Launch) (g : Group) (slot : Nat) : Nat := l.inBuffer (g.item0 + (g.width - 15)) slot

/-- The route of one publish of a lane to a buffer with so many entries. `must`: it has stalled for 256 clocks. One to
a successor that has retired is freed at once (R232). -/
def State.routeAt (s : State) (l : Launch) (g : Group) (lane slot entries : Nat) (must : Bool) : Route :=
  if lane + 15 < g.width || decide (l.itemCount ≤ g.item0 + g.width) || l.successorGone (g.item lane) then .here
  else match (successor l g.id).bind s.group? with
    | none => .spill
    | some n =>
      if !n.resident || l.unseen (g.item0 + (g.width - 15)) slot then .spill
      else if entries < 16 then .buffer
      else if n.parked || must then .spill
      else .stall

/-- The route of one publish of a lane as things stand. -/
def State.routeOf (s : State) (l : Launch) (g : Group) (lane slot : Nat) (must : Bool) : Route :=
  s.routeAt l g lane slot (l.sentBy g slot) must

/-- So many publishes of a slot no longer stall (R233). -/
def State.sends (s : State) (l : Launch) (g : Group) (slot need : Nat) : Bool :=
  s.routeAt l g (g.width - 1) slot (l.sentBy g slot + need - 1) g.spillOk != .stall

/-- A stalled publish, counted from what the buffer held before its instruction: `need` named what it held when
the publish came. -/
def Wait.from (w : Wait) (l : Launch) (g : Group) : Wait :=
  match w with
  | .publish k held t => .publish k (held + 1 - l.sentBy g k) t
  | w => w

/-- The outcome of the spill area for one more entry (R69, R234). -/
inductive Spill where
  | fits | full | protect (va : Nat) | walk (va : Nat)
  deriving DecidableEq, Repr

/-- Whether the spill area takes one more entry: it is full, has no write right, or has no translation at
hand (R69, R234). -/
def State.spillRoom (s : State) (l : Launch) (core : Nat) : Spill :=
  let va := l.spill + 8 * l.spillUsed
  if l.spillSize / 8 ≤ l.spillUsed then .full
  else match s.reach core va .write with
    | .at_ .. => .fits
    | .protect | .noMemory => .protect va
    | .miss => .walk va

/-- The key of a read count and of a publish count (R227). -/
def readKey (lane slot k : Nat) : Nat := (lane * 8 + slot) * 16 + k
def pubKey (lane slot : Nat) : Nat := lane * 8 + slot

/-- The value of a lane's next read, and the state once it is counted (R227, R228). -/
def State.runnerRead (s : State) (l : Launch) (g : Group) (lane slot k : Nat) : Option (Lane × State) :=
  let j := Sparse.get 0 g.reads (readKey lane slot k) + 1
  let counted := fun (s : State) => s.onGroup g.id fun x =>
    { x with reads := Sparse.set 0 x.reads (readKey lane slot k) j }
  if g.item lane < k then some (l.rdef slot, counted s)
  else
    (l.given (g.item lane - k) slot j).map fun v =>
      (v, counted (if g.item lane - k < g.item0 then s.onLaunch l.lid fun x => x.markSeen (g.item lane - k) slot j
        else s))

/-- What stops a publish (R227, R233, R234, R69). -/
inductive PubStop where
  | trap (cause : Nat) (tval : Word)
  | wait (w : Wait)
  deriving DecidableEq, Repr

/-- One lane publishes a slot's value (R225 to R234). -/
def State.publish (s : State) (l : Launch) (g : Group) (lane slot : Nat) (v : Lane) : Except PubStop State :=
  let j := Sparse.get 0 g.pubs (pubKey lane slot) + 1
  let put := fun (spilled : Bool) =>
    (s.onLaunch l.lid fun x => { x with publishes := x.publishes ++ [⟨g.item lane, slot, j, v, spilled, false⟩] }).onGroup
      g.id fun x => { x with pubs := Sparse.set 0 x.pubs (pubKey lane slot) j }
  if 2 ^ 32 ≤ j then .error (.trap Cause.runnerSpill 0)
  else match s.routeOf l g lane slot g.spillOk with
    | .here | .buffer => .ok (put false)
    | .stall => .error (.wait (.publish slot (l.sentBy g slot) s.clock))
    | .spill => match s.spillRoom l g.core with
      | .fits => .ok (put true)
      | .full => .error (.trap Cause.runnerSpill (BitVec.ofNat 64 l.spillSize))
      | .protect va => .error (.trap Cause.protection (BitVec.ofNat 64 va))
      | .walk va => .error (.wait (.spillWalk va))

/-! ### Retirement (R229, R234) -/

/-- One final value of a lane, sent as a publish is: it stalls on a full buffer, and a place in the spill area may
need a walk (R69, R232 to R234). -/
def State.sendFinal (s : State) (lid : Nat) (gid : GroupId) (must : Bool) (x : Nat × Nat) : Except PubStop State :=
  match s.launch? lid, s.group? gid with
  | some l, some g =>
    let put := fun (spilled : Bool) => s.onLaunch lid fun y =>
      { y with finals := y.finals ++ [⟨g.item x.1, x.2, g.fileV (l.rreg x.2) x.1, spilled, false⟩] }
    match s.routeOf l g x.1 x.2 must with
    | .here | .buffer => .ok (put false)
    | .stall => .error (.wait (.publish x.2 (l.sentBy g x.2) s.clock))
    | .spill => match s.spillRoom l g.core with
      | .fits => .ok (put true)
      | .walk va => .error (.wait (.spillWalk va))
      | .full | .protect _ => .error (.trap Cause.runnerSpill (BitVec.ofNat 64 l.spillSize))
  | _, _ => .ok s

/-- The final values that lanes have to send: every slot of every lane that has not retired. -/
def finalsOf (l : Launch) (g : Group) (lanes : List Nat) : List (Nat × Nat) :=
  (lanes.filter fun lane => !l.gone (g.item lane)).flatMap fun lane => (List.range l.nslot).map fun k => (lane, k)

/-- The items of these lanes have retired: entries that no read can take are freed (R229, R232). -/
def State.itemsOut (s : State) (g : Group) (lanes : List Nat) : State :=
  s.onLaunch (lidOf g.id) fun l => (lanes.foldl (fun l lane => l.retireItem (g.item lane)) l).reap

/-- Lanes exit: their unmade publishes are deemed made (R229). What stops the first final value that cannot be sent
stops the exit (R233, R234). -/
def State.retireLanes (s : State) (gid : GroupId) (lanes : List Nat) : Except PubStop State :=
  match s.launch? (lidOf gid), s.group? gid with
  | some l, some g =>
    if !l.runner || isWave gid then .ok s
    else ((finalsOf l g lanes).foldlM (fun s x => State.sendFinal s l.lid gid g.spillOk x) s).map fun s =>
      s.itemsOut g lanes
  | _, _ => .ok s

/-- A group that has halted, or whose launch ends, retires: final values that cannot be sent are discarded (R234). -/
def State.discardLanes (s : State) (gid : GroupId) (lanes : List Nat) : State :=
  match s.launch? (lidOf gid), s.group? gid with
  | some l, some g =>
    if !l.runner || isWave gid then s
    else ((finalsOf l g lanes).foldl (fun s x => match s.sendFinal l.lid gid true x with
      | .ok s => s
      | .error _ => s) s).itemsOut g lanes
  | _, _ => s

end Sys2Proof.Machine
end

