-- ==== Sys2Proof/Machine/Issue.lean ====
section
/-! DEFINITION. The issue of one instruction, the same for every one: the checks at decode in the order of
R132, the scoreboard and the interlock (R134, R136), the guard (R115), what the instruction does (its
`Body`), and what is counted and where control goes after it (R112, R133, R162). -/

namespace Sys2Proof.Machine

/-- Where control goes after an instruction that has issued. -/
inductive Ctl where
  /-- The next slot, or the next clause after the last one. -/
  | next
  /-- The next clause (R111). -/
  | clause
  /-- The clause at this address (R192). -/
  | goto (addr : Addr)
  /-- A place, as RTT returns to one (R402). -/
  | at_ (p : Pos)
  /-- The next place, where the group parks (R148). -/
  | park (w : Wait)
  /-- A trap whose %epc and resume point are the next place (R384: TRAP, BKPT). -/
  | trapNext (cause : Nat) (tval : Word)
  /-- The instruction has placed, halted or ended the group itself. -/
  | done
  deriving DecidableEq, Repr

/-- What an instruction comes to: it has taken effect, it traps without effect, or it waits. -/
inductive Eff where
  | go (s : State) (c : Ctl) (vals : Sparse Lane)
  | trap (cause : Nat) (tval : Word)
  /-- It traps, and something else than the instruction's effect has happened: the journal has an entry, or
  another group is told (R222, R285). -/
  | trapIn (s : State) (cause : Nat) (tval : Word)
  /-- A pending failure is reported before it takes effect (R285). -/
  | report (d : Deferred)
  | wait (w : Wait)

/-- What an instruction does for a group of a launch, once it issues. -/
abbrev Body := State → Group → Launch → Eff

/-- An instruction that has taken effect on its group alone. -/
def Eff.group (s : State) (g : Group) (c : Ctl := .next) : Eff := .go (s.setGroup g) c []

/-! ### Lanes and guards (R9, R115) -/

namespace Group

/-- The guard holds in a lane. -/
def guardIn (g : Group) (h : Head) (lane : Nat) : Bool :=
  match h.guard with
  | none => true
  | some x => (g.pred x.p.toNat).getLsbD lane != x.inv

/-- The lanes that execute a per-lane instruction (R9). -/
def executing (g : Group) (h : Head) : List Nat := g.lanes.filter fun l => g.em.getLsbD l && g.guardIn h l

/-- The guard of a group-wide instruction: that of the lowest lane of `em` (R115). -/
def guardHolds (g : Group) (h : Head) : Bool :=
  match h.guard with
  | none => true
  | some _ => match lowest g.lanes g.em with
    | some l => g.guardIn h l
    | none => false

/-- Lanes with work they have still to do (R235). -/
def lagging (g : Group) : Mask := g.backlog.foldl (fun a w => a ||| w.lanes) 0

end Group

/-! ### Checks at decode (R132, rules 5 to 8) -/

/-- VOTE.ballot of a 64-wide group fills a pair (R216). -/
def ballotOk (g : Group) : Instr → Bool
  | .vote o => (match o.mode with
      | .ballot d => !(g.width == 64) || (!d.reg.getLsbD 0 && !d.pub)
      | _ => true)
  | _ => true

/-- The instruction stands where and as R108, R110, R111, R116 to R131 and R24 let it. -/
def legalAt (g : Group) (hw : Word) (j : Nat) (i : Instr) : Bool :=
  match Header.ofWord hw with
  | none => false
  | some h =>
    wellFormed i && ballotOk g i && h.admits (classOf ((encode i).headD 0))
      && h.litCount j + 1 == (encode i).length
      && (!i.endsClause || j + (encode i).length == h.slots)

/-- The registers an instruction names, in the order D, A, B, C. -/
def Uses.named (u : Uses) : List Nat := u.vw ++ (u.run.map (·.1)).toList ++ u.vr

/-- SETS, TLBINV and PRES are for supervisor launches (R393). -/
def privileged : Instr → Bool
  | .sets _ | .tlbinv _ | .pres _ => true
  | _ => false

/-- A transient result of a later instruction stands before the file in every lane that a producer wrote (R162). -/
def Group.hides (g : Group) (p : Producer) (r : Nat) : Bool :=
  g.lanes.all fun x => !p.lanes.getLsbD x || g.bypass.any fun b =>
    decide (p.idx < b.idx) && decide (g.issued ≤ b.idx + 3) && (b.vals.lookup (vkey r x)).isSome

/-- What an instruction reads was written by this producer (R134). -/
def Producer.feeds (p : Producer) (g : Group) (u : Uses) : Bool :=
  (u.vr.any fun r => p.vregs.contains r && !g.hides p r) || (u.sr.any p.scals.contains)
    || (u.pr.any p.preds.contains) || (u.emR && p.em)

/-- The runner slot of a register for a group: a wave has none (R223, R376). -/
def slotFor (l : Launch) (g : Group) (reg : Nat) : Option Nat := if isWave g.id then none else l.slotOf reg

/-- The first breach of rules 5 to 8 of R132: the cause and %tval. -/
def decodeFault (l : Launch) (g : Group) (hw : Word) (j : Nat) (i : Instr) (u : Uses) : Option (Nat × Word) :=
  let word := (encode i).headD 0
  if !legalAt g hw j i then some (Cause.illegal, word)
  else match u.named.find? fun r => decide (g.n ≤ r) with
    | some r => some (Cause.window, BitVec.ofNat 64 r)
    | none =>
      match ((u.run.map (·.1)).toList ++ u.pub.toList).find? fun r => (slotFor l g r).isNone with
      | some r => some (Cause.runnerUndeclared, BitVec.ofNat 64 r)
      | none =>
        if privileged i && !l.supervisor then some (Cause.privilege, word)
        else if l.stallck then
          (g.producers.find? fun p => p.feeds g u && decide (g.dist - p.dist < p.lat)).map fun p =>
            (Cause.stallShort, BitVec.ofNat 64 p.addr)
        else none

/-! ### Waits before issue -/

/-- A result under way that the instruction names (R136). -/
def Pend.hits (p : Pend) (u : Uses) : Bool :=
  ((u.vr ++ u.vw).any p.vregs.contains) || ((u.sr ++ u.sw).any p.scals.contains)

/-- A result that is written to a vector register when it comes, and so to its window (R154, R257). -/
def Pend.lands (p : Pend) : Bool := !p.vregs.isEmpty

/-- A result that may raise flags when it comes (R190). -/
def Pend.flags? (p : Pend) : Bool :=
  match p.kind with
  | .load | .atomic | .drain _ => true
  | _ => false

/-- A result under way that an instruction needs written before it, or its flags raised (R190, R257). -/
def Pend.before (p : Pend) (u : Uses) : Bool := (u.settle && p.lands) || (u.flags && p.flags?)

/-- A result under way of the instruction at which a group stands (R136). -/
def Group.pendOf (g : Group) (n : Nat) (k : PendKind) (vregs scals : List Nat) (vals : Sparse Lane) (svals : Sparse Word)
    (fl : Flags) (fail : Option Failure) (chans : List (Nat × Nat) := []) (peer : Option (Addr × Addr) := none) : Pend :=
  { n := n, idx := g.issued, lanes := g.em, kind := k, addr := g.pos.addr, vregs := vregs, scals := scals, vals := vals,
    svals := svals, flags := fl, fail := fail, chans := chans, peer := peer }

/-- The instruction, or the clause, that waits so issues again when the wait is over; the other waits follow an effect,
or a page walk. -/
def Wait.again : Wait → Bool
  | .barrier .. | .yieldb .. | .holding _ | .filled _ | .walk .. | .spillWalk _ | .xlate _ => false
  | _ => true

/-- What a group waits for on a result of this kind (R148). -/
def PendKind.wait : PendKind → Wait
  | .reply _ => .reply
  | .xswap => .partner
  | _ => .result

/-- A wait for another party takes the group out of the active set; one for its own results does not
(R148). -/
def Wait.parks : Wait → Bool
  | .result | .fence | .walk .. | .spillWalk _ | .tile _ | .filled _ => false
  | _ => true

/-- A result numbered so is of the code that the group runs: in a handler, the handler's own (R285). -/
def Group.own (g : Group) (n : Nat) : Bool := g.aside.all fun a => decide (a.next ≤ n)

/-- The pending failures whose traps may be taken: those that were pending when the group entered its handler wait for
its return (R285). -/
def Group.dues (g : Group) : List Deferred := g.deferred.filter fun d => g.own d.n

/-- What an instruction reads is a destination of a failed one (R285). -/
def Deferred.feeds (d : Deferred) (u : Uses) : Bool := (u.vr.any d.vregs.contains) || (u.sr.any d.scals.contains)

/-- The pending failure that an instruction meets: the first in the order of the failed instructions, when it reads
a destination of any (R285). -/
def dueAt (g : Group) (u : Uses) : Option Deferred := if g.dues.any fun d => d.feeds u then g.dues.head? else none

/-- An instruction before the failed one has failed as well, and its response has not come (R285). -/
def Group.olderFails (g : Group) (d : Deferred) : Bool :=
  g.pend.any fun p => p.fail.isSome && g.own p.n && decide (p.n < d.n)

/-- A lane that is behind waits for a publish that a lane in front has still to make (R228, R235). -/
def Group.waitsAhead (g : Group) (l : Launch) (lane : Nat) : Bool :=
  match (g.backlog.find? fun w => w.lanes.getLsbD lane).map fun w => decode w.word with
  | some (.ok i) => match (usesOf l.layouts g i).run with
    | some (reg, k) => match slotFor l g reg with
      | some slot => decide (k ≤ lane) && g.live.getLsbD (lane - k) && !g.lagging.getLsbD (lane - k)
          && decide (Sparse.get 0 g.pubs (pubKey (lane - k) slot) ≤ Sparse.get 0 g.reads (readKey lane slot k))
      | none => false
    | none => false
  | _ => false

/-- The lanes that are behind come to an instruction before it issues: where it needs them (R236), and where it orders
memory (R243, R248, R258) unless one of them waits for a lane in front, for which no item may wait on a later one
(R239; log 13). -/
def Group.gathers (g : Group) (l : Launch) (u : Uses) : Bool :=
  u.whole || ((u.settle || u.order) && !g.lanes.any (g.waitsAhead l))

/-- The instruction has to wait before it can issue: for a result, for operands that an ungranted MMA
holds (R329), for a failure that comes first (R285), or for lanes that are behind (R235, R236). -/
def mustWait (l : Launch) (g : Group) (h : Head) (u : Uses) : Option Wait :=
  match g.pend.find? fun p => p.hits u || p.before u with
  | some p => some p.kind.wait
  | none =>
    if (dueAt g u).any g.olderFails || (u.vw.any fun r => g.reserved.any fun x => x.2.contains r) then
      some .result
    else if g.backlog.isEmpty then none
    else
      let lag := g.lagging
      let low := match lowest g.lanes g.em with
        | some l => lag.getLsbD l
        | none => false
      if g.gathers l u || (g.em != 0 && g.em &&& ~~~lag == 0) || (!u.lanes && h.guard.isSome && low) then some .runner
      else none

/-- The core clock at which the group may issue an instruction (R133, R134). -/
def Group.startAt (g : Group) (u : Uses) : Nat :=
  g.producers.foldl (fun t p => if p.feeds g u then max t p.ready else t) g.readyAt

/-- A publish that stalls again has stalled since it first did (R233). -/
def Wait.goingOn (w : Wait) (old : Option Wait) : Wait :=
  match w, old with
  | .publish k n _, some (.publish _ _ t) => .publish k n t
  | w, _ => w

/-- The group waits. One that parks while it is to stop, stops there (R395). -/
def Group.await (g : Group) (clock : Nat) (w : Wait) : Group :=
  { g with
    wait := some (w.goingOn g.wait)
    missAt := none
    active := g.active && !w.parks
    since := if w.parks then clock else g.since
    readySince := none
    stopped := g.stopped || (w.parks && g.stopAt.isSome) }

/-! ### Deferred traps (R285) -/

/-- The first pending failure is taken: its trap, with the resume point where the group stands. -/
def State.takeDeferred (s : State) (g : Group) (d : Deferred) (resume : Pos) : State :=
  (s.setGroup { g with deferred := g.deferred.erase d }).takeTrap g.id d.fail.cause (BitVec.ofNat 64 d.addr)
    d.fail.tval resume

/-! ### Poisoned registers (R416) -/

/-- The lanes whose registers an instruction reads. -/
def readLanes (i : Instr) (h : Head) (u : Uses) (g : Group) : List Nat :=
  match i with
  | .vget o => [(readY g o.y).toNat % g.width]
  | .shfl _ | .bitunpk _ => g.lanes
  | _ => if u.lanes then g.executing h else g.lanes

/-- The local address of the first poisoned word of the file that an instruction reads. -/
def poisonedRead (i : Instr) (h : Head) (u : Uses) (g : Group) : Option Word :=
  (g.badWord fun r x => u.vr.contains r && (readLanes i h u g).contains x && (g.bypassed g.issued r x).isNone).map
    fun w => BitVec.ofNat 64 (winBase g.id + 8 * w)

/-! ### After an instruction has issued -/

/-- The place after an instruction of `len` words in slot `j` (R106, R112). -/
def nextPlace (hdr j : Nat) (hw : Word) (len : Nat) : Pos :=
  let slots := ((Header.ofWord hw).map Header.slots).getD 0
  if j + len < slots then .slot hdr (j + len) hw
  else .header (hdr + 8 * (slots + 1)) (some (slotAddr hdr j))

/-- The clause after this one. -/
def nextClause (hdr j : Nat) (hw : Word) : Pos :=
  .header (hdr + 8 * (((Header.ofWord hw).map Header.slots).getD 0 + 1)) (some (slotAddr hdr j))

/-- A place at which a group that has left its clause goes on (R113). -/
def Pos.resume : Pos → Pos
  | .slot h j _ => .back h j
  | p => p

/-- What is left of an earlier producer once an instruction has written these lanes: a register, predicate or mask that
the later instruction has wholly replaced is no longer its (R134). A transient result replaces nothing in the file. -/
def Producer.replaced (p : Producer) (u : Uses) (wrote : Mask) : Producer :=
  let whole := p.lanes &&& ~~~wrote == 0
  { p with vregs := if whole && !u.tr then p.vregs.filter fun r => !u.vw.contains r else p.vregs
           scals := p.scals.filter fun r => !u.sw.contains r
           preds := if whole then p.preds.filter fun r => !u.pw.contains r else p.preds
           em := p.em && !u.emW }

/-- The fixed-latency results of an instruction, beside those of earlier ones that it has not replaced (R134). -/
def Group.produce (g : Group) (u : Uses) (addr clock : Nat) (wrote : Mask) : List Producer :=
  let old := g.producers.map fun p => p.replaced u wrote
  if u.lat = 0 then old
  else old ++ [⟨addr, g.issued, wrote, g.dist, u.lat, clock + u.lat, u.vw, u.sw, u.pw, u.emW⟩]

/-- Producers that no later instruction can wait on. -/
def Group.prune (g : Group) (clock : Nat) (ps : List Producer) : List Producer :=
  ps.filter fun p => decide (clock < p.ready) || decide (g.dist < p.dist + p.lat)

/-- The instruction is counted (R133, R162). `wrote`: the lanes in which it has written. -/
def Group.count (g : Group) (clock : Nat) (h : Head) (u : Uses) (addr : Addr) (wrote : Mask) (vals : Sparse Lane) :
    Group :=
  let entries := g.bypass ++ [⟨g.issued, addr, u.tr, vals⟩]
  let g' := { g with
    issued := g.issued + 1
    dist := g.dist + 1 + h.stall.toNat
    readyAt := clock + 1 + h.stall.toNat
    last := addr
    wait := none
    readySince := none
    spillOk := false
    bypass := if g.backlog.isEmpty then entries.filter fun b => decide (g.issued < b.idx + 3) else entries }
  { g' with producers := g'.prune clock (if wrote = 0 then g.producers else g.produce u addr clock wrote) }

/-- The group goes on where the instruction sends it. -/
def State.follow (s : State) (gid : GroupId) (hdr j : Nat) (hw : Word) (len : Nat) : Ctl → State
  | .next => s.onGroup gid fun g => { g with pos := nextPlace hdr j hw len }
  | .clause => s.onGroup gid fun g => { g with pos := nextClause hdr j hw }
  | .goto a => s.onGroup gid fun g => { g with pos := .header a (some (slotAddr hdr j)) }
  | .at_ p => s.onGroup gid fun g => { g with pos := p }
  | .park w => s.onGroup gid fun g => Group.await { g with pos := nextPlace hdr j hw len } s.clock w
  | .trapNext c tv =>
    let p := nextPlace hdr j hw len
    (s.onGroup gid fun g => { g with pos := p }).takeTrap gid c (BitVec.ofNat 64 p.addr) tv p.resume
  | .done => s

/-- The core has issued now (R156). -/
def State.noteIssue (s : State) (core : Nat) : State := { s with coreIssue := Sparse.set 0 s.coreIssue core s.clock }

/-- The lanes in which an instruction writes its results: a lane-by-lane one that executes in no lane is skipped, and so
is one that writes the lanes of an empty `em` (R9, R134). -/
def writeLanes (i : Instr) (h : Head) (u : Uses) (g : Group) : Mask :=
  match i with
  | .vput o => BitVec.twoPow 64 ((readY g o.y).toNat % g.width)
  | .ssetp _ | .gets _ => if u.sw.isEmpty then g.em else g.fullMask
  | .plog _ => if u.emW then g.fullMask else g.em
  | _ => if u.lanes then maskOf (g.executing h) fun _ => true else g.fullMask

/-- The outcome of an instruction at a slot. -/
def State.settle (s : State) (g : Group) (h : Head) (u : Uses) (wrote : Mask) (hdr j : Nat) (hw : Word) (len : Nat) :
    Eff → State
  | .go s' c vals =>
    ((s'.onGroup g.id fun x => x.count s.clock h u (slotAddr hdr j) wrote vals).follow g.id hdr j hw len c).noteIssue
      g.core
  | .trap c tv => s.takeTrap g.id c (BitVec.ofNat 64 (slotAddr hdr j)) tv (.back hdr j)
  | .trapIn s' c tv => s'.takeTrap g.id c (BitVec.ofNat 64 (slotAddr hdr j)) tv (.back hdr j)
  | .report d => s.takeDeferred g d (.back hdr j)
  | .wait w => s.setGroup (g.await s.clock w)

/-- The scalar that says which registers an instruction names: DRAIN's row register (R350). -/
def sizedBy : Instr → List Nat
  | .drain o => [o.r.toNat]
  | _ => []

/-- The registers that an instruction names hang on a scalar whose result is under way (R136). -/
def sizePending (g : Group) (i : Instr) : Bool := g.pend.any fun p => (sizedBy i).any p.scals.contains

/-- One instruction of a group that stands at a slot. -/
def issueAt (i : Instr) (h : Head) (body : Body) (s : State) (g : Group) (l : Launch) (hdr j : Nat) (hw : Word) :
    State :=
  let u := (usesOf l.layouts g i).guarded h
  let len := (encode i).length
  if g.stopsBy (max s.clock (g.startAt u)) then s.stopNow g
  else if sizePending g i then s.setGroup (g.await s.clock .result)
  else match decodeFault l g hw j i u with
  | some (c, tv) => s.takeTrap g.id c (BitVec.ofNat 64 (slotAddr hdr j)) tv (.back hdr j)
  | none =>
    match mustWait l g h u with
    | some w => s.setGroup (g.await s.clock w)
    | none =>
      let s := s.advance (g.startAt u)
      let g := (s.group? g.id).getD g
      if !u.lanes && !g.guardHolds h then
        ((s.setGroup (g.count s.clock h u (slotAddr hdr j) 0 [])).follow g.id hdr j hw len
          (if i.endsClause then .clause else .next)).noteIssue g.core
      else
        match dueAt g u with
        | some d => s.takeDeferred g d (.back hdr j)
        | none => match poisonedRead i h u g with
          | some a => s.takeTrap g.id Cause.memUncorrectable (BitVec.ofNat 64 (slotAddr hdr j)) a (.back hdr j)
          | none => s.settle g h u (writeLanes i h u g) hdr j hw len (body s g l)

/-- The group may issue: it holds an active place and has not halted, stopped or ended, and no page walk is made for
it (R264, R291); a barrier at which it has arrived releases it by itself (R146, R363). -/
def Group.runs (g : Group) : Bool :=
  g.active && g.resident && !g.halted && !g.stopped && !g.done && match g.wait with
    | some (.barrier ..) | some (.walk ..) | some (.spillWalk _) => false
    | _ => true

/-- One instruction of the group that issues: nothing happens when it does not stand at a slot or may not
issue. -/
def issue (i : Instr) (h : Head) (body : Body) (s : State) : State :=
  match s.group? s.cur with
  | none => s
  | some g =>
    match s.launch? (lidOf g.id), g.pos with
    | some l, .slot hdr j hw =>
      if g.runs then issueAt i h body s g l hdr j hw else s
    | _, _ => s

/-! ### Instructions that act lane by lane -/

/-- What the lanes wrote, committed: registers or transient values, predicates and flags (R9, R32, R162). -/
def Group.commit (g : Group) (tr : Bool) (outs : List (Nat × LaneOut)) : Group × Sparse Lane :=
  let regs := outs.flatMap fun o => o.2.regs.map fun r => (vkey r.1 o.1, r.2)
  let g := g.raise (Flags.all (outs.map fun o => o.2.flags))
  let g := outs.foldl (fun (g : Group) o => match o.2.pred with
    | some (p, b) => g.setPred p (if b then g.pred p ||| BitVec.twoPow 64 o.1 else g.pred p &&& ~~~BitVec.twoPow 64 o.1)
    | none => g) g
  if tr then (g, regs) else (g.writeAll regs, [])

/-- Lanes that have still to do this instruction (R235). -/
def Group.enqueue (g : Group) (addr : Addr) (word : List Word) (lanes : List Nat) : Group :=
  if lanes.isEmpty then g
  else { g with backlog := g.backlog ++ [⟨g.issued, addr, word, g.sregs, maskOf lanes fun _ => true, none, false⟩] }

/-- What the lanes of a runner instruction have come to so far: the state with their publishes, their
results, and the lanes that are behind. -/
structure LaneRun where
  s : State
  outs : List (Nat × LaneOut)
  queued : List Nat

/-- One lane of a runner instruction: it waits for its value, or reads, computes and publishes (R224 to
R228). No lane comes to an instruction before the lanes below it (R235). -/
def runLane (l : Launch) (g : Group) (h : Head) (u : Uses) (f : LaneFn) (a : Except PubStop LaneRun) (lane : Nat) :
    Except PubStop LaneRun :=
  match a with
  | .error e => .error e
  | .ok r =>
    if g.lagging.getLsbD lane || !r.queued.isEmpty then .ok { r with queued := r.queued ++ [lane] }
    else if !g.guardIn h lane then .ok r
    else
      let x := r.s.group? g.id |>.getD g
      let l' := r.s.launch? l.lid |>.getD l
      let read := match u.run with
        | none => some (0, r.s)
        | some (reg, k) => match slotFor l g reg with
          | some slot => if 2 ^ 32 ≤ Sparse.get 0 x.reads (readKey lane slot k) + 1 then none
              else r.s.runnerRead l' x lane slot k
          | none => none
      match read with
      | none => .ok { r with queued := r.queued ++ [lane] }
      | some (v, s') =>
        let o := f g g.issued lane v
        match u.pub.bind (slotFor l g) with
        | none => .ok ⟨s', r.outs ++ [(lane, o)], r.queued⟩
        | some slot =>
          match s'.publish l' x lane slot ((o.regs.head?.map (·.2)).getD o.val) with
          | .error e => .error e
          | .ok s'' => .ok ⟨s'', r.outs ++ [(lane, o)], r.queued⟩

/-- The lanes of `em` that are not behind and execute make their 2^32-th read of one slot and distance (R227). -/
def readLimit (l : Launch) (g : Group) (h : Head) (u : Uses) : Bool :=
  match u.run with
  | none => false
  | some (reg, k) => match slotFor l g reg with
    | none => false
    | some slot => (g.executing h).any fun lane =>
        !g.lagging.getLsbD lane && decide (2 ^ 32 ≤ Sparse.get 0 g.reads (readKey lane slot k) + 1)

/-- The lanes of `em`. -/
def Group.emLanes (g : Group) : List Nat := g.lanes.filter fun x => g.em.getLsbD x

/-- Lane by lane, in increasing order, with the runner or with lanes that are behind (R235): the first lane that
has to wait keeps every lane above it. -/
def runnerLanes (i : Instr) (h : Head) (u : Uses) (f : LaneFn) (addr : Addr) : Body := fun s g l =>
  if readLimit l g h u then .trap Cause.runnerSpill 0
  else match g.emLanes.foldl (runLane l g h u f) (.ok ⟨s, [], []⟩) with
    | .error (.trap c tv) => .trap c tv
    | .error (.wait w) => .wait (w.from l g)
    | .ok r =>
      if decide (r.queued = g.emLanes) && !r.queued.isEmpty then .wait .runner
      else
        let x := (r.s.group? g.id).getD g
        let c := x.commit u.tr r.outs
        .go (r.s.setGroup (c.1.enqueue addr (encode i) r.queued)) .next c.2

/-- The body of an instruction that acts lane by lane on registers (R9). A lane that is behind, or whose
runner read is not satisfied, does it later. -/
def perLane (i : Instr) (h : Head) (f : LaneFn) : Body := fun s g l =>
  let u := usesOf l.layouts g i
  if u.run.isNone && u.pub.isNone && g.backlog.isEmpty then
    let c := g.commit u.tr ((g.executing h).map fun lane => (lane, f g g.issued lane 0))
    .go (s.setGroup c.1) .next c.2
  else runnerLanes i h u f g.pos.addr s g l

/-- The same for an instruction that acts lane by lane on memory: the lanes that are up act now, the others
later (R235). -/
def skewed (i : Instr) (body : Body) : Body := fun s g l =>
  let behind := g.lanes.filter fun lane => g.em.getLsbD lane && g.lagging.getLsbD lane
  if behind.isEmpty then body s g l
  else
    let up := { g with em := g.em &&& ~~~g.lagging }
    match body (s.setGroup up) up l with
    | .go s' c vals =>
      .go (s'.onGroup g.id fun x => Group.enqueue { x with em := g.em } g.pos.addr (encode i) behind) c vals
    | .trapIn s' c tv => .trapIn (s'.onGroup g.id fun x => { x with em := g.em }) c tv
    | e => e

end Sys2Proof.Machine
end

