-- ==== Sys2Proof/Machine/Clause.lean ====
section
/-! DEFINITION. Fetching the words of code, and entering a clause at its header or at a slot
(R106 to R113, R164, R391). -/

namespace Sys2Proof.Machine

/-! ### Fetch -/

/-- What keeps a fetch from its word (R112, R391). -/
inductive FetchStop where
  | walk (va : Addr)
  | protect (va : Addr)
  | bad (va pa : Addr)
  deriving DecidableEq, Repr

/-- One word of code (R112, R114): read below L1. -/
def State.fetch (s : State) (core : Nat) (va : Addr) : Except FetchStop (State × Word) :=
  if 2 ^ 57 ≤ va then .error (.protect va)
  else match s.reach core va .exec with
    | .miss => .error (.walk va)
    | .protect | .noMemory => .error (.protect va)
    | .at_ pa _ =>
      if s.isPeer pa then
        if s.peerOk pa then .ok (s.drawn, BitVec.ofNat 64 (ofBytes (s.peerBytes pa 8))) else .error (.bad va pa)
      else if s.badWord pa then .error (.bad va pa)
      else .ok (s, BitVec.ofNat 64 (ofBytes (s.memRead pa 8)))

/-- Several words in a row. -/
def State.fetchAll (s : State) (core : Nat) (va : Addr) : Nat → Except FetchStop (State × List Word)
  | 0 => .ok (s, [])
  | n + 1 =>
    match s.fetch core va with
    | .error e => .error e
    | .ok (s, w) => match s.fetchAll core (va + 8) n with
      | .error e => .error e
      | .ok (s, ws) => .ok (s, w :: ws)

/-- The place in a clause, or its header, whose word lies at an address (R106). -/
def fetchedAt (hdr va : Addr) : Pos := if va = hdr then .header hdr none else .back hdr ((va - hdr) / 8 - 1)

/-- The group meets a fetch that fails: it waits for a walk, or it traps, and %epc and the resume point are the address
fetched, be it that of a literal's slot or of a header that is read again (R132, R384). -/
def State.fetchFails (s : State) (g : Group) (hdr : Addr) : FetchStop → State
  | .walk va => s.setGroup (g.await s.clock (.walk [va] true false))
  | .protect va => s.takeTrap g.id Cause.protection (BitVec.ofNat 64 va) (BitVec.ofNat 64 va) (fetchedAt hdr va)
  | .bad va pa =>
    (if s.isPeer pa then s.drawn.journalPeer pa else s.journalBad pa (s.inObjPage g.core va)).takeTrap g.id
      Cause.memUncorrectable (BitVec.ofNat 64 va) (BitVec.ofNat 64 va) (fetchedAt hdr va)

/-- The instruction of a slot with its literals (R110). -/
def State.fetchSlot (s : State) (core hdr j : Nat) (hw : Word) : Except FetchStop (State × List Word) :=
  s.fetchAll core (slotAddr hdr j) (((Header.ofWord hw).map fun h => h.litCount j).getD 0 + 1)

/-! ### Waiting on batches (R109, R260, R300) -/

/-- The failure that an acquiring wait of these classes meets, and the group once it is consumed (R384): a
failed peer store first (R296), then the batches in the order of the classes. -/
def Group.waitFailure (g : Group) : List Cls → Option (Failure × Group)
  | [] => none
  | c :: t =>
    match (g.batches c).failure with
    | some f =>
      let ops := (g.batches c).consumed
      some (f, { g.setBatches c (g.batches c).consume with
        passFails := g.passFails.filter fun x => !ops.contains x.op })
    | none => g.waitFailure t

/-- A failed peer store is reported at the next wait of any class (R296). -/
def Group.lostStore (g : Group) : Option (Failure × Group) :=
  match g.lost with
  | [] => none
  | a :: t => some (⟨Cause.memUncorrectable, a.2.2⟩, { g with lost := t })

/-- The completed batches of these classes are acquired, with the flags they raised (R260, R353). -/
def Group.acquireBatches (g : Group) (cs : List Cls) : Group :=
  cs.foldl (fun g c => (g.raise (g.batches c).flags).setBatches c (g.batches c).acquire) g

/-! ### Clause entry -/

/-- The four classes, in the order of their codes. -/
def allClasses : List Cls := [.cp, .mx, .cb, .rm]

/-- The classes whose threshold the header sets (R109). -/
def headerWaits (h : Header) : List Cls := allClasses.filter fun c => decide (h.threshold c < 7)

/-- %sig after a clause header (R164). -/
def sigEnter (sig : BitVec 32) (hw : Word) (path em : Mask) : BitVec 32 :=
  Crc.word (Crc.word sig hw) (path &&& ~~~em)

/-- The instructions of a clause that can be read now (R147). -/
def State.clauseInstrs (s : State) (core : Nat) (hdr : Addr) (hw : Word) (h : Header) : List Instr :=
  (List.range h.slots).filterMap fun j =>
    if h.literal j then none
    else match s.fetchSlot core hdr j hw with
      | .error _ => none
      | .ok (_, ws) => match decode ws with
        | .ok i => some i
        | .error _ => none

/-- An instruction of the clause reads a result that is under way (R147). -/
def State.clauseReads (s : State) (l : Launch) (g : Group) (hdr : Addr) (hw : Word) (h : Header) : Bool :=
  !g.pend.isEmpty && (s.clauseInstrs g.core hdr hw h).any fun i =>
    let u := usesOf l.layouts g i
    g.pend.any fun p => p.hits { u with vw := [], sw := [] }

/-- The header has been read, is one and is well formed: thresholds, then the signature, then slot 0
(R109, R112, R164). -/
def State.enterClause (s : State) (g : Group) (l : Launch) (a : Addr) (hw : Word) (h : Header) : State :=
  let short := (headerWaits h).filter fun c => decide (h.threshold c < (g.batches c).incomplete)
  if !short.isEmpty then s.setGroup (g.await s.clock (.thresholds short))
  else
    let failed := if (headerWaits h).isEmpty then none else match g.lostStore with
      | some x => some x
      | none => g.waitFailure (headerWaits h)
    match failed with
    | some (f, g') => (s.setGroup g').takeTrap g.id f.cause (BitVec.ofNat 64 a) f.tval (.header a none)
    | none =>
      if s.clauseReads l g a hw h then s.setGroup (g.await s.clock .operands)
      else
        let s := if (headerWaits h).isEmpty then s else s.acquire g.core
        s.setGroup { g.acquireBatches (headerWaits h) with
          sig := sigEnter g.sig hw g.path g.em, pos := .slot a 0 hw, wait := none }

/-- The group enters at a header (R112). -/
def State.enterHeader (s : State) (g : Group) (l : Launch) (a : Addr) (xfer : Option Addr) : State :=
  let here := BitVec.ofNat 64 a
  let from_ := BitVec.ofNat 64 (xfer.getD a)
  if a % 8 ≠ 0 then s.takeTrap g.id Cause.misaligned from_ here (.header a none)
  else match s.fetch g.core a with
    | .error e => s.fetchFails g a e
    | .ok (s, hw) => match Header.ofWord hw with
      | none => s.takeTrap g.id Cause.clauseTarget from_ here (.header a none)
      | some h =>
        if !h.good then s.takeTrap g.id Cause.illegal here hw (.header a none)
        else s.enterClause g l a hw h

/-- The group comes back to a slot (R113): no thresholds and no signature. A header that now breaks R108 is reported at
the slot's address, as one that marks the slot as a literal is: DEDUCED (log 71). -/
def State.enterBack (s : State) (g : Group) (hdr j : Nat) : State :=
  let here := BitVec.ofNat 64 (slotAddr hdr j)
  match s.fetch g.core hdr with
  | .error e => s.fetchFails g hdr e
  | .ok (s, hw) => match Header.ofWord hw with
    | none => s.takeTrap g.id Cause.clauseTarget here hw (.back hdr j)
    | some h =>
      if !h.good || h.literal j || decide (h.slots ≤ j) then s.takeTrap g.id Cause.illegal here hw (.back hdr j)
      else s.setGroup { g with pos := .slot hdr j hw, wait := none }

/-- The group goes on after the instruction of a slot and its literals, by the header as it is read now, or at the
next clause when that was the last instruction slot (R402). -/
def State.enterAfter (s : State) (g : Group) (hdr j : Nat) (xfer : Addr) : State :=
  match s.fetch g.core hdr with
  | .error e => s.fetchFails g hdr e
  | .ok (s', hw) => match Header.ofWord hw with
    | none => s'.takeTrap g.id Cause.clauseTarget (BitVec.ofNat 64 (slotAddr hdr (j + 1))) hw (.back hdr (j + 1))
    | some h =>
      let k := j + h.litCount j + 1
      if k < h.slots then s.enterBack g hdr k
      else s'.setGroup { g with pos := .header (hdr + 8 * (h.slots + 1)) (some xfer), wait := none }

/-- CLAUSE_ENTRY: a group at a clause boundary takes a pending deferred trap, leaves the active set when it
has to, or enters (R112, R113, R147, R285). -/
def State.clauseEntry (s : State) (gid : GroupId) : State :=
  match s.group? gid, s.launch? (lidOf gid) with
  | some g, some l =>
    if !g.runs || g.live == 0 then s
    else
      if g.stopsBy (max s.clock g.readyAt) then s.stopNow g
      else
      let s := s.advance g.readyAt
      let g := (s.group? gid).getD g
      match g.pos with
      | .slot .. => s
      | .back hdr j => s.enterBack g hdr j
      | .after hdr j xfer => s.enterAfter g hdr j xfer
      | .header a xfer =>
        match g.dues.head? with
        | some d => if g.olderFails d then s.setGroup (g.await s.clock .result) else s.takeDeferred g d (.header a xfer)
        | none =>
          if g.leave then s.setGroup { g with active := false, leave := false, since := s.clock }
          else if g.em != 0 && g.em &&& ~~~g.lagging == 0 then s.setGroup (g.await s.clock .runner)
          else s.enterHeader g l a xfer
  | _, _ => s

end Sys2Proof.Machine
end

