-- ==== Sys2Proof/Machine/Int.lean ====
section
/-! DEFINITION. The vector integer and address instructions of class 0 (R168 to R184). For each
instruction: what one lane of it does, and its meaning. -/

namespace Sys2Proof.Machine

/-- The outcome of a meaning: every one ends in a next state. -/
abbrev Out := Host.Outcome State Fault Refusal

/-- A lane that writes one value (R24, R168). -/
def put (wide : Bool) (d : VDst) (x : Nat) (fl : Flags := 0) : LaneOut :=
  { regs := putReg wide d.reg.toNat x, flags := fl }

/-- A lane that writes one predicate (R178). -/
def putP (p : BitVec 3) (b : Bool) (fl : Flags := 0) : LaneOut := { pred := some (p.toNat, b), flags := fl }

/-! ### Shapes -/

/-- Exact arithmetic on two sources, narrowed once (R171). -/
def intLane2 (f : Int → Int → Int) (o : V2) : LaneFn := fun g i lane rv =>
  put o.t.wide o.d (extend o.t (narrow o.t o.sat (f (intOf o.t (readA g i o.t.wide o.a lane rv))
    (intOf o.t (readB g i o.t.wide o.b lane)))))

/-- The same on three sources. -/
def intLane3 (f : Int → Int → Int → Int) (o : V3) : LaneFn := fun g i lane rv =>
  put o.t.wide o.d (extend o.t (narrow o.t o.sat (f (intOf o.t (readA g i o.t.wide o.a lane rv))
    (intOf o.t (readB g i o.t.wide o.b lane)) (intOf o.t (readC g i o.t.wide o.c lane)))))

/-- The same on one source. -/
def intLane1 (f : Int → Int) (o : V1) : LaneFn := fun g i lane rv =>
  put o.t.wide o.d (extend o.t (narrow o.t o.sat (f (intOf o.t (readA g i o.t.wide o.a lane rv)))))

/-- The VI form with a sign-extended immediate (R120, R170). -/
def intLaneImm (f : Int → Int → Int) (o : VImm) : LaneFn := fun g i lane rv =>
  put o.t.wide o.d (extend o.t (narrow o.t o.sat (f (intOf o.t (readA g i o.t.wide o.a lane rv))
    (intOf o.t (truncTo (Ty.bits o.t) o.imm.toInt)))))

/-- Raw bits of width w on two sources; the second one as `read` reads it (R172, R173). -/
def rawLane2 (f : Nat → Nat → Nat → Nat) (o : V2) : LaneFn := fun g i lane rv =>
  put o.t.wide o.d (f (Ty.bits o.t) (readA g i o.t.wide o.a lane rv) (readB g i o.t.wide o.b lane))

/-- The VI form with a zero-extended immediate (R120). -/
def rawLaneImm (f : Nat → Nat → Nat → Nat) (o : VImm) : LaneFn := fun g i lane rv =>
  put o.t.wide o.d (f (Ty.bits o.t) (readA g i o.t.wide o.a lane rv) o.imm.toNat)

/-- Raw bits of width w on one source (R174). -/
def rawLane1 (f : Nat → Nat → Nat) (o : V1) : LaneFn := fun g i lane rv =>
  put o.t.wide o.d (f (Ty.bits o.t) (readA g i o.t.wide o.a lane rv))

/-! ### The operations -/

/-- R26: the quotient of a division by 0 is all ones. -/
def idivInt (a b : Int) : Int := if b = 0 then -1 else Int.tdiv a b

/-- R26: the remainder of a division by 0 is the dividend. -/
def iremInt (a b : Int) : Int := if b = 0 then a else Int.tmod a b

/-- ICLAMP (R171). -/
def clampInt (a b c : Int) : Int := min (max a b) c

/-- The shift amount of R173: bits 31:0 of B. -/
def amount (b : Nat) : Nat := b % 2 ^ 32

def shlNat (w a b : Nat) : Nat := if w ≤ amount b then 0 else a * 2 ^ amount b % 2 ^ w

def shrNat (w a b : Nat) : Nat := if w ≤ amount b then 0 else a / 2 ^ amount b

/-- R173: the sign fills what SAR shifts in. -/
def sarNat (w a b : Nat) : Nat :=
  let s : Int := if 2 ^ (w - 1) ≤ a then (a : Int) - (2 ^ w : Nat) else a
  if w ≤ amount b then (if s < 0 then 2 ^ w - 1 else 0) else truncTo w (s / (2 ^ amount b : Nat))

def rotNat (w a b : Nat) : Nat :=
  let k := amount b % w
  (a * 2 ^ k % 2 ^ w) ||| (a / 2 ^ (w - k))

def andnNat (w a b : Nat) : Nat := Nat.land a (2 ^ w - 1 - b % 2 ^ w)

def popcNat (w a : Nat) : Nat := ((List.range w).filter a.testBit).length

/-- Zero bits above the highest one bit (R174). -/
def clzNat (w a : Nat) : Nat := if a = 0 then w else w - 1 - Nat.log2 a

/-- Zero bits below the lowest one bit (R174). -/
def ctzNat (w a : Nat) : Nat := (((List.range w).find? a.testBit).getD w)

def brevNat (w a : Nat) : Nat :=
  ((List.range w).filter a.testBit).foldl (fun x i => x + 2 ^ (w - 1 - i)) 0

/-- BFX (R175): B holds the position in bits 7:0 and the length in bits 15:8. -/
def bfxInt (t : Ty) (a : Nat) (b : Nat) : Nat :=
  let w := Ty.bits t
  let p := b % 256
  let n := min (b / 256 % 256) w
  let f := (intOf t a / (2 ^ p : Nat)) % (2 ^ n : Nat)
  truncTo w (if t.signed && 0 < n && decide ((2 ^ (n - 1) : Nat) ≤ f) then f - (2 ^ n : Nat) else f)

/-- BFI (R176). -/
def bfiNat (w a b c : Nat) : Nat :=
  let p := b % 256
  let n := min (b / 256 % 256) w
  let m := (2 ^ n - 1) * 2 ^ p % 2 ^ w
  Nat.lor (Nat.land c (2 ^ w - 1 - m)) (Nat.land (a * 2 ^ p) m)

/-- PERMB (R177). -/
def permbNat (a b c : Nat) : Nat :=
  let q := a % 2 ^ 32 + b % 2 ^ 32 * 2 ^ 32
  ofBytes ((List.range 4).map fun k =>
    let s := c / 2 ^ (4 * k) % 16
    if 8 ≤ s then 0 else BitVec.ofNat 8 (q / 2 ^ (8 * s)))

/-- The comparisons of R178. -/
def cmpInt (c : Cmp) (a b : Int) : Bool :=
  match c with
  | .eq => decide (a = b)
  | .ne => decide (a ≠ b)
  | .lt => decide (a < b)
  | .le => decide (a ≤ b)
  | .gt => decide (b < a)
  | .ge => decide (b ≤ a)
  | .nan | .num => false

/-- The modulus of a modular instruction: a channel's, or an operand of which 0 stands for 2^32 (R184). -/
def modOf (m : ModSel) (operand : Nat) : Nat :=
  match m with
  | .chan i => Rns.modulus i.toNat
  | .operand => if operand % 2 ^ 32 = 0 then 2 ^ 32 else operand % 2 ^ 32

/-- A predicate of a lane, inverted or not. -/
def predIn (g : Group) (p : BitVec 3) (inv : Bool) (lane : Nat) : Bool := (g.pred p.toNat).getLsbD lane != inv

/-! ### What one lane of each instruction does -/

def laneIadd : V2 → LaneFn := intLane2 (· + ·)
def laneIsub : V2 → LaneFn := intLane2 (· - ·)
def laneImul : V2 → LaneFn := intLane2 (· * ·)
/-- The high half of the product (R171). -/
def laneImulh (o : V2) : LaneFn := intLane2 (fun a b => a * b / (2 ^ Ty.bits o.t : Nat)) o
def laneImad : V3 → LaneFn := intLane3 fun a b c => a * b + c
def laneIdiv : V2 → LaneFn := intLane2 idivInt
def laneIrem : V2 → LaneFn := intLane2 iremInt
def laneImin : V2 → LaneFn := intLane2 fun a b => min a b
def laneImax : V2 → LaneFn := intLane2 fun a b => max a b
def laneIabs : V1 → LaneFn := intLane1 fun a => if a < 0 then -a else a
def laneIneg : V1 → LaneFn := intLane1 fun a => -a
def laneIclamp : V3 → LaneFn := intLane3 clampInt
def laneAnd : V2 → LaneFn := rawLane2 fun _ a b => Nat.land a b
def laneOr : V2 → LaneFn := rawLane2 fun _ a b => Nat.lor a b
def laneXor : V2 → LaneFn := rawLane2 fun _ a b => Nat.xor a b
def laneAndn : V2 → LaneFn := rawLane2 andnNat
def laneShl : V2 → LaneFn := rawLane2 shlNat
def laneShr : V2 → LaneFn := rawLane2 shrNat
def laneSar : V2 → LaneFn := rawLane2 sarNat
def laneRot : V2 → LaneFn := rawLane2 rotNat
def lanePopc : V1 → LaneFn := rawLane1 popcNat
def laneClz : V1 → LaneFn := rawLane1 clzNat
def laneCtz : V1 → LaneFn := rawLane1 ctzNat
def laneBrev : V1 → LaneFn := rawLane1 brevNat

/-- BFX (R175). A vector operand B is one register of any number, whatever the type: DEDUCED (log 28). -/
def laneBfx (o : V2) : LaneFn := fun g i lane rv =>
  put o.t.wide o.d (bfxInt o.t (readA g i o.t.wide o.a lane rv) (readB g i false o.b lane))

/-- BFI (R176). A vector operand B is one register of any number, whatever the type: DEDUCED (log 28). -/
def laneBfi (o : V3) : LaneFn := fun g i lane rv =>
  put o.t.wide o.d (bfiNat (Ty.bits o.t) (readA g i o.t.wide o.a lane rv) (readB g i false o.b lane)
    (readC g i o.t.wide o.c lane))

def lanePermb (o : V3) : LaneFn := fun g i lane rv =>
  put false o.d (permbNat (readA g i false o.a lane rv) (readB g i false o.b lane) (readC g i false o.c lane))

def laneIsetp (o : VCmp) : LaneFn := fun g i lane rv =>
  putP o.p (cmpInt o.cmp (intOf o.t (readA g i o.t.wide o.a lane rv)) (intOf o.t (readB g i o.t.wide o.b lane)))

/-- SEL (R179). -/
def laneSel (o : VSel) : LaneFn := fun g i lane rv =>
  put o.t.wide o.d (if predIn g o.p o.inv lane then readA g i o.t.wide o.a lane rv
    else readB g i o.t.wide o.b lane)

/-- MOV (R180). -/
def laneMov (o : VMov) : LaneFn := fun g i lane rv =>
  put o.t.wide o.d (match o.src with
    | .lit w => cut o.t.wide w
    | .scal r => cut o.t.wide (g.sreg r.toNat)
    | .vec a => readA g i o.t.wide a lane rv)

/-- MOVI (R181). -/
def laneMovi (o : VMovi) : LaneFn := fun _ _ _ _ => put o.t.wide o.d o.imm.toNat

/-- CVTI (R182). -/
def laneCvti (o : VCvti) : LaneFn := fun g i lane rv =>
  put o.td.wide o.d (extend o.td (narrow o.td o.sat (intOf o.ts (readA g i o.ts.wide o.a lane rv))))

/-- LEA (R183). A vector operand B is one register of any number, whatever the type: DEDUCED (log 28). -/
def laneLea (o : VLea) : LaneFn := fun g i lane rv =>
  put o.t.wide o.d (truncTo (Ty.bits o.t) ((readA g i o.t.wide o.a lane rv : Int)
    + intOf .s32 (readB g i false o.b lane) * (2 ^ o.k.toNat : Nat)))

/-- MODRED (R184). -/
def laneModred (o : VModRed) : LaneFn := fun g i lane rv =>
  put false o.d (Rns.residue (intOf o.t (readA g i o.t.wide o.a lane rv))
    (modOf o.m (match o.b with
      | some b => readB g i false b lane
      | none => 0)))

/-- The modulus of MODADD and MODMUL. -/
def modC (o : VMod) (g : Group) (i lane : Nat) : Nat :=
  modOf o.m (match o.c with
    | some c => readC g i false c lane
    | none => 0)

def laneModadd (o : VMod) : LaneFn := fun g i lane rv =>
  let m := modC o g i lane
  put false o.d ((Rns.residue (intOf o.t (readA g i false o.a lane rv)) m
    + Rns.residue (intOf o.t (readB g i false o.b lane)) m) % m)

def laneModmul (o : VMod) : LaneFn := fun g i lane rv =>
  let m := modC o g i lane
  put false o.d (Rns.residue (intOf o.t (readA g i false o.a lane rv)) m
    * Rns.residue (intOf o.t (readB g i false o.b lane)) m % m)

def laneIaddVI : VImm → LaneFn := intLaneImm (· + ·)
def laneIsubVI : VImm → LaneFn := intLaneImm (· - ·)
def laneImulVI : VImm → LaneFn := intLaneImm (· * ·)
def laneIminVI : VImm → LaneFn := intLaneImm fun a b => min a b
def laneImaxVI : VImm → LaneFn := intLaneImm fun a b => max a b
def laneAndVI : VImm → LaneFn := rawLaneImm fun _ a b => Nat.land a b
def laneOrVI : VImm → LaneFn := rawLaneImm fun _ a b => Nat.lor a b
def laneXorVI : VImm → LaneFn := rawLaneImm fun _ a b => Nat.xor a b
def laneAndnVI : VImm → LaneFn := rawLaneImm andnNat
def laneShlVI : VImm → LaneFn := rawLaneImm shlNat
def laneShrVI : VImm → LaneFn := rawLaneImm shrNat
def laneSarVI : VImm → LaneFn := rawLaneImm sarNat
def laneRotVI : VImm → LaneFn := rawLaneImm rotNat

def laneBfxVI (o : VImm) : LaneFn := fun g i lane rv =>
  put o.t.wide o.d (bfxInt o.t (readA g i o.t.wide o.a lane rv) o.imm.toNat)

def laneIsetpVI (o : VCmpImm) : LaneFn := fun g i lane rv =>
  putP o.p (cmpInt o.cmp (intOf o.t (readA g i o.t.wide o.a lane rv))
    (intOf o.t (truncTo (Ty.bits o.t) o.imm.toInt)))

def laneModredVI (o : VModImm) : LaneFn := fun g i lane rv =>
  put false o.d (Rns.residue (intOf o.t (readA g i o.t.wide o.a lane rv)) (modOf o.m o.imm.toNat))

def laneModaddVI (o : VModImm) : LaneFn := fun g i lane rv =>
  let m := modOf o.m 0
  put false o.d ((Rns.residue (intOf o.t (readA g i false o.a lane rv)) m + Rns.residue o.imm.toNat m) % m)

def laneModmulVI (o : VModImm) : LaneFn := fun g i lane rv =>
  let m := modOf o.m 0
  put false o.d (Rns.residue (intOf o.t (readA g i false o.a lane rv)) m * Rns.residue o.imm.toNat m % m)

/-! ### Meanings -/

/-- An instruction that acts lane by lane on registers. -/
def laneInstr (i : Instr) (h : Head) (f : LaneFn) (s : State) : Out := .next (issue i h (perLane i h f) s)

def execIadd (o : V2) (s : State) : Out := laneInstr (.iadd o) o.h (laneIadd o) s
def execIsub (o : V2) (s : State) : Out := laneInstr (.isub o) o.h (laneIsub o) s
def execImul (o : V2) (s : State) : Out := laneInstr (.imul o) o.h (laneImul o) s
def execImulh (o : V2) (s : State) : Out := laneInstr (.imulh o) o.h (laneImulh o) s
def execImad (o : V3) (s : State) : Out := laneInstr (.imad o) o.h (laneImad o) s
def execIdiv (o : V2) (s : State) : Out := laneInstr (.idiv o) o.h (laneIdiv o) s
def execIrem (o : V2) (s : State) : Out := laneInstr (.irem o) o.h (laneIrem o) s
def execImin (o : V2) (s : State) : Out := laneInstr (.imin o) o.h (laneImin o) s
def execImax (o : V2) (s : State) : Out := laneInstr (.imax o) o.h (laneImax o) s
def execIabs (o : V1) (s : State) : Out := laneInstr (.iabs o) o.h (laneIabs o) s
def execIneg (o : V1) (s : State) : Out := laneInstr (.ineg o) o.h (laneIneg o) s
def execIclamp (o : V3) (s : State) : Out := laneInstr (.iclamp o) o.h (laneIclamp o) s
def execAnd (o : V2) (s : State) : Out := laneInstr (.and o) o.h (laneAnd o) s
def execOr (o : V2) (s : State) : Out := laneInstr (.or o) o.h (laneOr o) s
def execXor (o : V2) (s : State) : Out := laneInstr (.xor o) o.h (laneXor o) s
def execAndn (o : V2) (s : State) : Out := laneInstr (.andn o) o.h (laneAndn o) s
def execShl (o : V2) (s : State) : Out := laneInstr (.shl o) o.h (laneShl o) s
def execShr (o : V2) (s : State) : Out := laneInstr (.shr o) o.h (laneShr o) s
def execSar (o : V2) (s : State) : Out := laneInstr (.sar o) o.h (laneSar o) s
def execRot (o : V2) (s : State) : Out := laneInstr (.rot o) o.h (laneRot o) s
def execPopc (o : V1) (s : State) : Out := laneInstr (.popc o) o.h (lanePopc o) s
def execClz (o : V1) (s : State) : Out := laneInstr (.clz o) o.h (laneClz o) s
def execCtz (o : V1) (s : State) : Out := laneInstr (.ctz o) o.h (laneCtz o) s
def execBrev (o : V1) (s : State) : Out := laneInstr (.brev o) o.h (laneBrev o) s
def execBfx (o : V2) (s : State) : Out := laneInstr (.bfx o) o.h (laneBfx o) s
def execBfi (o : V3) (s : State) : Out := laneInstr (.bfi o) o.h (laneBfi o) s
def execPermb (o : V3) (s : State) : Out := laneInstr (.permb o) o.h (lanePermb o) s
def execIsetp (o : VCmp) (s : State) : Out := laneInstr (.isetp o) o.h (laneIsetp o) s
def execSel (o : VSel) (s : State) : Out := laneInstr (.sel o) o.h (laneSel o) s
def execMov (o : VMov) (s : State) : Out := laneInstr (.mov o) o.h (laneMov o) s
def execMovi (o : VMovi) (s : State) : Out := laneInstr (.movi o) o.h (laneMovi o) s
def execCvti (o : VCvti) (s : State) : Out := laneInstr (.cvti o) o.h (laneCvti o) s
def execLea (o : VLea) (s : State) : Out := laneInstr (.lea o) o.h (laneLea o) s
def execModred (o : VModRed) (s : State) : Out := laneInstr (.modred o) o.h (laneModred o) s
def execModadd (o : VMod) (s : State) : Out := laneInstr (.modadd o) o.h (laneModadd o) s
def execModmul (o : VMod) (s : State) : Out := laneInstr (.modmul o) o.h (laneModmul o) s
def execIaddVI (o : VImm) (s : State) : Out := laneInstr (.iaddVI o) o.h (laneIaddVI o) s
def execIsubVI (o : VImm) (s : State) : Out := laneInstr (.isubVI o) o.h (laneIsubVI o) s
def execImulVI (o : VImm) (s : State) : Out := laneInstr (.imulVI o) o.h (laneImulVI o) s
def execIminVI (o : VImm) (s : State) : Out := laneInstr (.iminVI o) o.h (laneIminVI o) s
def execImaxVI (o : VImm) (s : State) : Out := laneInstr (.imaxVI o) o.h (laneImaxVI o) s
def execAndVI (o : VImm) (s : State) : Out := laneInstr (.andVI o) o.h (laneAndVI o) s
def execOrVI (o : VImm) (s : State) : Out := laneInstr (.orVI o) o.h (laneOrVI o) s
def execXorVI (o : VImm) (s : State) : Out := laneInstr (.xorVI o) o.h (laneXorVI o) s
def execAndnVI (o : VImm) (s : State) : Out := laneInstr (.andnVI o) o.h (laneAndnVI o) s
def execShlVI (o : VImm) (s : State) : Out := laneInstr (.shlVI o) o.h (laneShlVI o) s
def execShrVI (o : VImm) (s : State) : Out := laneInstr (.shrVI o) o.h (laneShrVI o) s
def execSarVI (o : VImm) (s : State) : Out := laneInstr (.sarVI o) o.h (laneSarVI o) s
def execRotVI (o : VImm) (s : State) : Out := laneInstr (.rotVI o) o.h (laneRotVI o) s
def execBfxVI (o : VImm) (s : State) : Out := laneInstr (.bfxVI o) o.h (laneBfxVI o) s
def execIsetpVI (o : VCmpImm) (s : State) : Out := laneInstr (.isetpVI o) o.h (laneIsetpVI o) s
def execModredVI (o : VModImm) (s : State) : Out := laneInstr (.modredVI o) o.h (laneModredVI o) s
def execModaddVI (o : VModImm) (s : State) : Out := laneInstr (.modaddVI o) o.h (laneModaddVI o) s
def execModmulVI (o : VModImm) (s : State) : Out := laneInstr (.modmulVI o) o.h (laneModmulVI o) s

end Sys2Proof.Machine
end

