-- ==== Sys2Proof/Machine/FloatInstr.lean ====
section
/-! DEFINITION. Floating-point, conversion, packed-dot and decoding instructions of class 1
(R199 to R213). -/

namespace Sys2Proof.Machine

/-! ### Shapes -/

/-- Two sources and a rounding mode (R201). -/
def fltLane2 (f : FFmt → RMode → Nat → Nat → Nat × Flags) (o : F2) : LaneFn := fun g i lane rv =>
  let r := f (fmtOf o.t) o.rm (readA g i o.t.wide o.a lane rv) (readB g i o.t.wide o.b lane)
  put o.t.wide o.d r.1 r.2

/-- One source and a rounding mode (R204, R206). -/
def fltLane1 (f : FFmt → RMode → Nat → Nat × Flags) (o : F1) : LaneFn := fun g i lane rv =>
  let r := f (fmtOf o.t) o.rm (readA g i o.t.wide o.a lane rv)
  put o.t.wide o.d r.1 r.2

/-! ### Conversions -/

/-- The exact value of a register in a type (R33). -/
def numOf (t : Ty) (x : Nat) : Num := if t.isAnyFloat then unpack (fmtOf t) (x % 2 ^ Ty.bits t) else Num.ofInt (intOf t x)

/-- `convert(x, t, mode)` as register bits, with the flags of R33. -/
def convertTo (t : Ty) (mode : RMode) (x : Num) : Nat × Flags :=
  if t.isAnyFloat then numToFloat (fmtOf t) mode x
  else
    let r := numToInt t mode x
    (extend t (truncTo (Ty.bits t) r.1), r.2)

/-! ### Dot products (R208 to R211) -/

/-- The sum of `n` element products. -/
def dotSum (n : Nat) (ea eb : Nat → Int) : Int := ((List.range n).map fun k => ea k * eb k).sum

/-- Wrapped or saturated to 32 bits. -/
def dotPut (d : VDst) (rt : Ty) (sat : Bool) (x : Int) : LaneOut := put false d (narrow rt sat x)

/-- The books of the group's pod (R210). -/
def Group.podBook (_g : Group) (s : State) (b : BitVec 2) : Book := s.book (podOf _g.core) b.toNat

/-- Byte `k` of a register through a book (R35). -/
def bookElem (b : Book) (x k : Nat) : Int := b.entry (x / 2 ^ (8 * k) % 256)

/-- BDOT's elements in a register (R211). -/
def bdotCount : Ty → Nat
  | .s4 => 8
  | .s8 => 4
  | _ => 2

/-- BDOT on values (R211). -/
def bdot (mode : RMode) (p : Int) (c acc : Nat) : Nat × Flags :=
  let ea := c % 256
  let eb := c / 256 % 256
  if ea = 255 ∨ eb = 255 then (FFmt.nan FFmt.f32, .nv)
  else match unpack FFmt.f32 acc with
    | .nan sn => (FFmt.nan FFmt.f32, Flags.when sn .nv)
    | a => finish FFmt.f32 mode [] (addNum mode a (.fin (p < 0) p.natAbs ((ea + eb : Int) - 254)))

/-! ### What one lane does -/

def laneFadd : F2 → LaneFn := fltLane2 fadd
def laneFsub : F2 → LaneFn := fltLane2 fsub
def laneFmul : F2 → LaneFn := fltLane2 fmul
def laneFmin : F2 → LaneFn := fltLane2 fun f _ a b => fminmax f false a b
def laneFmax : F2 → LaneFn := fltLane2 fun f _ a b => fminmax f true a b
def laneFdiv : F2 → LaneFn := fltLane2 fdiv

def laneFfma (o : F3) : LaneFn := fun g i lane rv =>
  let r := ffma (fmtOf o.t) o.rm (readA g i o.t.wide o.a lane rv) (readB g i o.t.wide o.b lane)
    (readC g i o.t.wide o.c lane)
  put o.t.wide o.d r.1 r.2

def laneFsetp (o : VCmp) : LaneFn := fun g i lane rv =>
  let r := fcompare (fmtOf o.t) o.cmp (readA g i o.t.wide o.a lane rv) (readB g i o.t.wide o.b lane)
  putP o.p r.1 r.2

def laneFsqrt : F1 → LaneFn := fltLane1 fsqrt
def laneFrcp : F1 → LaneFn := fltLane1 frcp
def laneFexp2 : F1 → LaneFn := fltLane1 fexp2
def laneFlog2 : F1 → LaneFn := fltLane1 flog2
def laneFround : F1 → LaneFn := fltLane1 fround

def laneFcvt (o : VFcvt) : LaneFn := fun g i lane rv =>
  let r := convertTo o.td o.rm (numOf o.ts (readA g i o.ts.wide o.a lane rv))
  put o.td.wide o.d r.1 r.2

def laneFclass (o : V1) : LaneFn := fun g i lane rv =>
  put false o.d (2 ^ fclass (fmtOf o.t) (readA g i o.t.wide o.a lane rv % 2 ^ Ty.bits o.t))

/-- DOT4: the result is n32 for n8 elements, else s32 (R208). -/
def laneDot4 (o : V3) : LaneFn := fun g i lane rv =>
  let a := readA g i false o.a lane rv
  let b := readB g i false o.b lane
  let rt := if o.t = .n8 then Ty.n32 else Ty.s32
  dotPut o.d rt o.sat (intOf rt (readC g i false o.c lane) + dotSum 4 (elem o.t a) (elem o.t b))

def laneDot8 (o : V3) : LaneFn := fun g i lane rv =>
  let a := readA g i false o.a lane rv
  let b := readB g i false o.b lane
  dotPut o.d .s32 o.sat (intOf .s32 (readC g i false o.c lane) + dotSum 8 (elem .s4 a) (elem .s4 b))

def laneDotc4 (bk : Book) (o : VDotc) : LaneFn := fun g i lane rv =>
  let a := readA g i false o.a lane rv
  let b := readB g i false o.b lane
  dotPut o.d .s32 o.sat (intOf .s32 (readC g i false o.c lane) + dotSum 4 (bookElem bk a) (bookElem bk b))

def laneBdot (o : F3) : LaneFn := fun g i lane rv =>
  let a := readA g i false o.a lane rv
  let b := readB g i false o.b lane
  let r := bdot o.rm (dotSum (bdotCount o.t) (elem o.t a) (elem o.t b)) (readC g i false o.c lane)
    (readReg g i false o.d.reg.toNat lane)
  put false o.d r.1 r.2

/-- CDEC (R212). -/
def laneCdec (bk : Book) (o : VCdec) : LaneFn := fun g i lane rv =>
  let a := readA g i false o.a lane rv
  match o.form with
  | .s16 => put true o.d (((List.range 4).map fun k => truncTo 16 (bookElem bk a k) * 2 ^ (16 * k)).sum)
  | .s32 k => put false o.d (truncTo 32 (bookElem bk a k.toNat))

/-- The stream of BITUNPK: one register across the group, lowest lane first (R213). -/
def streamOf (g : Group) (i : Nat) (a : BitVec 8) : Nat :=
  (g.lanes.map fun l => readReg g i false a.toNat l * 2 ^ (32 * l)).sum

def laneBitunpk (o : VUnpk) : LaneFn := fun g i lane _ =>
  let pos := readB g i false o.b lane
  let n := min (readC g i false o.c lane % 64) 32
  let x : Int := streamOf g i o.a / 2 ^ pos % 2 ^ n
  put false o.d (truncTo 32 (if o.signed && 0 < n && decide ((2 ^ (n - 1) : Nat) ≤ x) then x - (2 ^ n : Nat) else x))

/-! ### Meanings -/

/-- A lane instruction that reads a book of its pod (R210). -/
def bookInstr (i : Instr) (h : Head) (b : BitVec 2) (f : Book → LaneFn) (s : State) : Out :=
  .next (issue i h (fun s g l => perLane i h (f (g.podBook s b)) s g l) s)

def execFadd (o : F2) (s : State) : Out := laneInstr (.fadd o) o.h (laneFadd o) s
def execFsub (o : F2) (s : State) : Out := laneInstr (.fsub o) o.h (laneFsub o) s
def execFmul (o : F2) (s : State) : Out := laneInstr (.fmul o) o.h (laneFmul o) s
def execFfma (o : F3) (s : State) : Out := laneInstr (.ffma o) o.h (laneFfma o) s
def execFmin (o : F2) (s : State) : Out := laneInstr (.fmin o) o.h (laneFmin o) s
def execFmax (o : F2) (s : State) : Out := laneInstr (.fmax o) o.h (laneFmax o) s
def execFsetp (o : VCmp) (s : State) : Out := laneInstr (.fsetp o) o.h (laneFsetp o) s
def execFdiv (o : F2) (s : State) : Out := laneInstr (.fdiv o) o.h (laneFdiv o) s
def execFsqrt (o : F1) (s : State) : Out := laneInstr (.fsqrt o) o.h (laneFsqrt o) s
def execFrcp (o : F1) (s : State) : Out := laneInstr (.frcp o) o.h (laneFrcp o) s
def execFexp2 (o : F1) (s : State) : Out := laneInstr (.fexp2 o) o.h (laneFexp2 o) s
def execFlog2 (o : F1) (s : State) : Out := laneInstr (.flog2 o) o.h (laneFlog2 o) s
def execFcvt (o : VFcvt) (s : State) : Out := laneInstr (.fcvt o) o.h (laneFcvt o) s
def execFround (o : F1) (s : State) : Out := laneInstr (.fround o) o.h (laneFround o) s
def execFclass (o : V1) (s : State) : Out := laneInstr (.fclass o) o.h (laneFclass o) s
def execDot4 (o : V3) (s : State) : Out := laneInstr (.dot4 o) o.h (laneDot4 o) s
def execDot8 (o : V3) (s : State) : Out := laneInstr (.dot8 o) o.h (laneDot8 o) s
def execDotc4 (o : VDotc) (s : State) : Out := bookInstr (.dotc4 o) o.h o.book (fun b => laneDotc4 b o) s
def execBdot (o : F3) (s : State) : Out := laneInstr (.bdot o) o.h (laneBdot o) s
def execCdec (o : VCdec) (s : State) : Out := bookInstr (.cdec o) o.h o.book (fun b => laneCdec b o) s
def execBitunpk (o : VUnpk) (s : State) : Out := laneInstr (.bitunpk o) o.h (laneBitunpk o) s

end Sys2Proof.Machine
end

