-- ==== Sys2Proof/Machine/LaneInstr.lean ====
section
/-! DEFINITION. Instructions across the lanes of a group, and the exchange between groups
(R214 to R222). -/

namespace Sys2Proof.Machine

/-! ### SHFL and VOTE -/

/-- The source lane of SHFL (R215). -/
def shflFrom (mode : ShflMode) (w l c : Nat) : Nat :=
  match mode with
  | .idx => c % w
  | .up => if l < c then l else l - c
  | .down => if w ≤ l + c then l else l + c
  | .xor => if w ≤ Nat.xor l c then l else Nat.xor l c

def laneShfl (o : VShfl) : LaneFn := fun g i lane _ =>
  put o.wide o.d (readReg g i o.wide o.a.toNat (shflFrom o.mode g.width lane (readB g i false o.b lane)))

/-- VOTE over the executing lanes (R216). -/
def laneVote (o : VVote) : LaneFn := fun g _ _ _ =>
  let e := g.executing o.h
  let src := fun l => predIn g o.p o.neg l
  match o.mode with
  | .all p => putP p (e.all src)
  | .any p => putP p (e.any src)
  | .uni p => putP p (e.all src || !e.any src)
  | .ballot d => put (g.width == 64) d (maskOf e src).toNat

/-! ### LRED and LSCAN -/

/-- A value on its way through a network, none where no lane has supplied one. -/
abbrev Cell := Option Nat

/-- One addition, or the operand that is there (R54). -/
def addStep (f : FFmt) (mode : RMode) (a b : Cell) : Cell × Flags :=
  match a, b with
  | none, y => (y, 0)
  | x, none => (x, 0)
  | some x, some y => let r := fadd f mode x y; (some r.1, r.2)

/-- One level of the tree of R54: neighbours are added. -/
def treeLevel (f : FFmt) (mode : RMode) : List Cell → List Cell × Flags
  | a :: b :: t =>
    let r := addStep f mode a b
    let q := treeLevel f mode t
    (r.1 :: q.1, r.2 ||| q.2)
  | l => (l, 0)

/-- The tree of R54, with `k` levels left. -/
def treeSum (f : FFmt) (mode : RMode) : Nat → List Cell → Flags → Cell × Flags
  | 0, l, fl => (l.headD none, fl)
  | k + 1, l, fl => let r := treeLevel f mode l; treeSum f mode k r.1 (fl ||| r.2)

/-- One step of the network of R55 at distance 2^s. -/
def scanLevel (f : FFmt) (mode : RMode) (dist : Nat) (l : List Cell) : List Cell × Flags :=
  let r := (List.range l.length).map fun k =>
    if k < dist then (l.getD k none, (0 : Flags)) else addStep f mode (l.getD (k - dist) none) (l.getD k none)
  (r.map (·.1), Flags.all (r.map (·.2)))

/-- The network of R55, with `k` steps left from step `s`. -/
def scanSum (f : FFmt) (mode : RMode) : Nat → Nat → List Cell → Flags → List Cell × Flags
  | 0, _, l, fl => (l, fl)
  | k + 1, s, l, fl => let r := scanLevel f mode (2 ^ s) l; scanSum f mode k (s + 1) r.1 (fl ||| r.2)

/-- The identity that a lane which does not execute supplies (R217). -/
def redIdentity (op : RedOp) (t : Ty) : Nat :=
  match op with
  | .add | .or | .xor | .fadd | .minidx | .maxidx => 0
  | .and => 2 ^ Ty.bits t - 1
  | .min => if t.isFloat then FFmt.nan (fmtOf t) else truncTo (Ty.bits t) (tyMax t)
  | .max => if t.isFloat then FFmt.nan (fmtOf t) else truncTo (Ty.bits t) (tyMin t)

/-- One combination of two values (R217). -/
def redStep (op : RedOp) (t : Ty) (a b : Nat) : Nat × Flags :=
  match op with
  | .add => (truncTo (Ty.bits t) (intOf t a + intOf t b), 0)
  | .min => if t.isFloat then fminmax (fmtOf t) false a b else (ordMin t a b % 2 ^ Ty.bits t, 0)
  | .max => if t.isFloat then fminmax (fmtOf t) true a b else (ordMax t a b % 2 ^ Ty.bits t, 0)
  | .and => (Nat.land a b, 0)
  | .or => (Nat.lor a b, 0)
  | .xor => (Nat.xor a b, 0)
  | .fadd | .minidx | .maxidx => (a, 0)

/-- The values of lanes, combined from the identity on (R217). -/
def redFold (op : RedOp) (t : Ty) (l : List Nat) : Nat × Flags :=
  l.foldl (fun a x => let r := redStep op t a.1 x; (r.1, a.2 ||| r.2)) (redIdentity op t, 0)

/-- Whether a value wins over the one held so far (R219): below it, or above it. A NaN never wins. -/
def beats (op : RedOp) (t : Ty) (x held : Nat) : Bool :=
  if t.isFloat then
    let a := unpack (fmtOf t) x
    let b := unpack (fmtOf t) held
    !a.isNan && (b.isNan || (if op = .minidx then numBelow a b else numBelow b a))
  else if op = .minidx then decide (intOf t x < intOf t held) else decide (intOf t held < intOf t x)

/-- The extreme value and its lowest lane (R219). -/
def extreme (op : RedOp) (t : Ty) : List (Nat × Nat) → Option (Nat × Nat)
  | [] => none
  | p :: l => match extreme op t l with
    | none => some p
    | some q => if beats op t q.2 p.2 then some q else some p

/-- LRED over the executing lanes (R217, R219). -/
def lredValue (o : VRed) (g : Group) (i : Nat) : Nat × Flags :=
  let e := g.executing o.h
  let val := fun l => readReg g i o.t.wide o.a.toNat l % 2 ^ Ty.bits o.t
  match o.op with
  | .fadd =>
    let r := treeSum (fmtOf o.t) o.rm (logW g.width)
      (g.lanes.map fun l => if e.contains l then some (val l) else none) 0
    (r.1.getD 0, r.2)
  | .minidx | .maxidx =>
    match extreme o.op o.t (e.map fun l => (l, val l)) with
    | none => (0, 0)
    | some (l, v) =>
      let x := if o.t.isFloat && (unpack (fmtOf o.t) v).isNan then FFmt.nan (fmtOf o.t) else extend o.t v
      (x + l * 2 ^ 32, if o.t.isFloat then snanFlag (e.map fun l => unpack (fmtOf o.t) (val l)) else 0)
  | op => let r := redFold op o.t (e.map val); (extend o.t r.1, r.2)

def laneLred (o : VRed) : LaneFn := fun g i _ _ =>
  let r := lredValue o g i
  put (WF.redWide o.op o.t) o.d r.1 r.2

/-- LSCAN in one lane (R218, R55). -/
def laneLscan (o : VScan) : LaneFn := fun g i lane _ =>
  let e := g.executing o.h
  let val := fun l => readReg g i o.t.wide o.a.toNat l % 2 ^ Ty.bits o.t
  match o.op with
  | .fadd =>
    let r := scanSum (fmtOf o.t) o.rm (logW g.width) 0
      (g.lanes.map fun l => if e.contains l then some (val l) else none) 0
    let nz := FFmt.zero (fmtOf o.t) true
    let v := if o.excl then (if lane = 0 then nz else (r.1.getD (lane - 1) none).getD nz)
      else (r.1.getD lane none).getD nz
    put o.t.wide o.d v r.2
  | op =>
    let upto := if o.excl then lane else lane + 1
    let r := redFold op o.t ((e.filter (· < upto)).map val)
    put o.t.wide o.d (extend o.t r.1) (redFold op o.t (e.map val)).2

/-! ### XSWAP (R220 to R222) -/

/-- A team of the launch that no distributor has dispatched yet (R96). -/
def Launch.undispatched (l : Launch) (t : Nat) : Bool :=
  decide (l.sentRanges ≤ l.rangeOf t) && decide (t < l.teamCount)
    || l.ranges.any fun r => decide (r.first ≤ t) && decide (t < r.last)

/-- The partner has not retired, halted or been faulted (R222): a group whose lanes have all exited retires once its
operations are complete (R302, R408). -/
def State.partnerLives (s : State) (l : Launch) (p : GroupId) : Bool :=
  l.undispatched (teamOf p) || (match s.group? p, s.team? l.lid (teamOf p) with
    | some g, some t => !g.halted && !t.faulted
    | _, _ => false)

/-- The values of lanes, keyed by lane × 2 + word. -/
def laneVals (g : Group) (idx : Nat) (wide : Bool) (a : BitVec 8) (lanes : List Nat) : Sparse Lane :=
  lanes.flatMap fun l => (regsOf wide a.toNat).zipIdx.map fun r => (l * 2 + r.2, g.readV idx r.1 l)

/-- Writes values so keyed to registers from `d` on, in the lanes of a mask that are still live. -/
def Group.landVals (g : Group) (d : Nat) (m : Mask) (vals : Sparse Lane) : Group :=
  g.writeAll ((vals.filter fun x => m.getLsbD (x.1 / 2) && g.live.getLsbD (x.1 / 2)).map fun x =>
    (vkey (d + x.1 % 2) (x.1 / 2), x.2))

/-- What XSWAP does once its partner is known to be of the launch (R221, R222). -/
def swapWith (o : VXswap) (s : State) (g : Group) (l : Launch) (p : GroupId) : Eff :=
  let lanes := g.executing o.h
  let m := maskOf lanes fun _ => true
  let vals := laneVals g g.issued o.wide o.a lanes
  match (s.group? p).bind fun y => y.xswap.map fun x => (y, x) with
  | some (y, x) =>
    if x.team = teamOf g.id ∧ x.grp = groupOf g.id then
      if x.wide ≠ o.wide then .go { (s.setGroup y.failXswap).setGroup mismatch with nextOp := s.nextOp + 1 } .next []
      else
        let both := m &&& x.lanes
        let d := ((y.pend.find? fun q => q.n == x.n).bind fun q => q.vregs.head?).getD 0
        let y' := { (y.landVals d both vals) with xswap := none, pend := y.pend.filter fun q => q.n != x.n }
        .go ((s.setGroup y').setGroup (g.landVals o.d.toNat both x.vals)) .next []
    else .go (begin_ m vals) .next []
  | none => if s.partnerLives l p then .go (begin_ m vals) .next []
      else .trap Cause.xswapPartner (g.sreg o.b.toNat)
where
  /-- A TYPE mismatch is found at pairing: the trap of this group is deferred too (R222). -/
  mismatch : Group :=
    g.defer ⟨s.nextOp, g.pos.addr, ⟨Cause.xswapPartner, g.sreg o.b.toNat⟩, regsOf o.wide o.d.toNat, [], g.issued, g.em⟩
  /-- The XSWAP waits for its partner's. -/
  begin_ (m : Mask) (vals : Sparse Lane) : State :=
    { s.setGroup { g with
        xswap := some ⟨s.nextOp, teamOf p, groupOf p, o.wide, m, vals⟩
        pend := g.pend ++ [g.pendOf s.nextOp .xswap (regsOf o.wide o.d.toNat) [] [] [] 0 none] }
      with nextOp := s.nextOp + 1 }

/-- XSWAP (R220). -/
def xswapBody (o : VXswap) : Body := fun s g l =>
  let b := (g.sreg o.b.toNat).toNat
  let t := b % 2 ^ 40
  let k := b / 2 ^ 40 % 32
  let p := GroupId.member l.lid t k
  if isWave g.id then .trap Cause.illegal ((encode (.xswap o)).headD 0)
  else if g.xswap.isSome then .wait .xswapRoom
  else if b / 2 ^ 45 ≠ 0 ∨ l.teamCount ≤ t ∨ l.groupsPer ≤ k ∨ p = g.id then
    .trap Cause.xswapPartner (g.sreg o.b.toNat)
  else if !s.partnerLives l p then .trap Cause.xswapPartner (g.sreg o.b.toNat)
  else swapWith o s g l p

/-! ### Meanings -/

def execShfl (o : VShfl) (s : State) : Out := laneInstr (.shfl o) o.h (laneShfl o) s
def execVote (o : VVote) (s : State) : Out := laneInstr (.vote o) o.h (laneVote o) s
def execLred (o : VRed) (s : State) : Out := laneInstr (.lred o) o.h (laneLred o) s
def execLscan (o : VScan) (s : State) : Out := laneInstr (.lscan o) o.h (laneLscan o) s
def execXswap (o : VXswap) (s : State) : Out := .next (issue (.xswap o) o.h (xswapBody o) s)

end Sys2Proof.Machine
end

