-- ==== Sys2Proof/Machine/Store.lean ====
section
/-! DEFINITION. The store of a core: windows, scratchpads and group slots, whether a team fits, and what is
free (R16, R65 to R68, R153 to R155). -/

namespace Sys2Proof.Machine

/-- 1,916 KiB: a core's store less the urgent and combiner reservations (R68). -/
def storeLimit : Nat := 1961984

/-- Group slots of a core less those of the reservations (R68). -/
def slotLimit : Nat := 58

/-- The bytes of a window (R64). -/
def windowBytes (n w : Nat) : Nat := 4 * n * w

/-- The sums that parts of a list of sizes have, as a set of bits; sizes are whole numbers of 256 bytes. -/
def sumBits (sizes : List Nat) : Nat := sizes.foldl (fun b x => Nat.lor b (b * 2 ^ (x / 256))) 1

/-- The sizes can be divided so that one part takes at most `a` bytes and the other at most `b` (R68, R155). -/
def divides (sizes : List Nat) (a b : Nat) : Bool :=
  let bits := sumBits sizes
  (List.range (a / 256 + 1)).any fun k => bits.testBit k && decide (sizes.sum ≤ b + 256 * k)

/-- Windows and a scratchpad fit a core, or a core pair with the scratchpad at home (R68, R155). -/
def storeFits (sizes : List Nat) (scratch : Nat) (pair : Bool) : Bool :=
  if pair then decide (scratch ≤ storeLimit) && divides sizes (storeLimit - scratch) storeLimit
  else decide (sizes.sum + scratch ≤ storeLimit)

/-- A team of a launch fits an empty core or pair (R68). -/
def Launch.teamFits (l : Launch) : Bool :=
  storeFits (List.replicate l.groupsPer (windowBytes l.window l.width)) l.scratchSize l.pair
    && decide (l.groupsPer ≤ slotLimit * (if l.pair then 2 else 1))

/-- A team of an urgent launch fits a core's reservation (R68). -/
def Launch.urgentFits (l : Launch) : Bool :=
  decide (l.groupsPer ≤ 4) && decide (l.groupsPer * windowBytes l.window l.width ≤ 65536)
    && decide (l.scratchSize ≤ 65536)

/-! ### What a core holds -/

/-- The resident groups of a core. -/
def State.onCore (s : State) (core : Nat) : List Group := s.groups.filter fun g => g.resident && g.core == core

/-- A group that lies in an urgent reservation (R68, R105). -/
def State.inReservation (s : State) (g : Group) : Bool :=
  isWave g.id || ((s.team? (lidOf g.id) (teamOf g.id)).map (·.urgent)).getD false

/-- The window of a resident group, in bytes. -/
def Group.bytes (g : Group) : Nat := windowBytes g.n g.width

/-- The ordinary store in use on a core: windows, and the scratchpads of teams at home there. A team in
the urgent reservation counts only beyond the reservation (log 21). -/
def State.storeUsed (s : State) (core : Nat) : Nat :=
  let gs := s.onCore core
  let plain := ((gs.filter fun g => !s.inReservation g).map Group.bytes).sum
  let urgentWin := ((gs.filter fun g => !isWave g.id && s.inReservation g).map Group.bytes).sum
  let scratch := (s.launches.map fun l =>
    ((l.teams.filter fun t => t.core == core && t.resident && !t.urgent).map fun _ => l.scratchSize).sum).sum
  plain + scratch + (urgentWin - 65536)

/-- Group slots of the ordinary part of a core in use. -/
def State.slotsUsed (s : State) (core : Nat) : Nat :=
  ((s.onCore core).filter fun g => !s.inReservation g).length

def State.storeFree (s : State) (core : Nat) : Nat := storeLimit - s.storeUsed core

/-- Groups of a core that are blocked in WGROW. -/
def State.blockedGrow (s : State) (core : Nat) : List Group :=
  (s.onCore core).filter fun g => match g.wait with
    | some (.store _) => true
    | _ => false

/-- The store that groups of a core, blocked in WGROW, still want: what is released goes to them first (R155, R167). -/
def State.storeWanted (s : State) (core : Nat) : Nat :=
  ((s.blockedGrow core).map fun g => match g.wait with
    | some (.store n) => windowBytes n g.width - g.bytes
    | _ => 0).sum

/-- The store of a core for groups that are to come to it. -/
def State.storeSpare (s : State) (core : Nat) : Nat := s.storeFree core - s.storeWanted core

/-- Group slots of the ordinary part of a core that are free. -/
def State.slotsFree (s : State) (core : Nat) : Nat := slotLimit - s.slotsUsed core

/-- Windows and a scratchpad fit what is free on a core. -/
def State.roomFor (s : State) (core : Nat) (sizes : List Nat) (scratch : Nat) : Bool :=
  decide (sizes.sum + scratch ≤ s.storeSpare core) && decide (sizes.length ≤ s.slotsFree core)

/-- The other core of a pair (R15). -/
def partner (core : Nat) : Nat := Nat.xor core 1

/-! ### Rank of groups (R149) -/

/-- A group's rank as numbers, least first: urgent, priority, wave, age, team, group (R149). -/
def State.rank (s : State) (g : Group) : List Nat :=
  match s.launch? (lidOf g.id) with
  | none => []
  | some l =>
    [if l.urgent then 0 else 1, 7 - l.prio, if isWave g.id then 0 else 1,
      if isWave g.id then g.born else l.age, if isWave g.id then 0 else teamOf g.id,
      if isWave g.id then 0 else groupOf g.id]

/-- A list of numbers lies before another. -/
def before : List Nat → List Nat → Bool
  | [], [] => false
  | [], _ => true
  | _, [] => false
  | a :: s, b :: t => decide (a < b) || (decide (a = b) && before s t)

/-- The highest-ranking of some groups. -/
def State.highest (s : State) (l : List Group) : Option Group :=
  l.foldl (fun a g => match a with
    | none => some g
    | some h => if before (s.rank g) (s.rank h) then some g else some h) none

/-- The lowest-ranking of some groups. -/
def State.lowestRank (s : State) (l : List Group) : Option Group :=
  l.foldl (fun a g => match a with
    | none => some g
    | some h => if before (s.rank h) (s.rank g) then some g else some h) none

/-- A group's age: its launch's, then its team, then its place in the team (R149). -/
def State.ageOf (s : State) (g : Group) : List Nat :=
  [((s.launch? (lidOf g.id)).map (·.age)).getD 0, teamOf g.id, groupOf g.id]

/-- The oldest of some groups. -/
def State.oldest (s : State) (l : List Group) : Option Group :=
  l.foldl (fun a g => match a with
    | none => some g
    | some h => if before (s.ageOf g) (s.ageOf h) then some g else some h) none

/-- The youngest of some groups. -/
def State.youngest (s : State) (l : List Group) : Option Group :=
  l.foldl (fun a g => match a with
    | none => some g
    | some h => if before (s.ageOf h) (s.ageOf g) then some g else some h) none

/-! ### WGROW's store (R155) -/

/-- The window sizes of a team, with its blocked requests and one more (R155). -/
def State.teamSizes (s : State) (g : Group) (n : Nat) : List Nat :=
  (s.groups.filter fun x => lidOf x.id == lidOf g.id && teamOf x.id == teamOf g.id && !isWave x.id).map fun x =>
    if x.id = g.id then windowBytes n g.width
    else match x.wait with
      | some (.store m) => windowBytes m x.width
      | _ => x.bytes

/-- An older group of the core is blocked in WGROW (R155). -/
def State.olderBlocked (s : State) (g : Group) : Bool :=
  (s.blockedGrow g.core).any fun x => x.id != g.id && before (s.ageOf x) (s.ageOf g)

/-- The group's core has room for its window to become `n` registers. -/
def State.growFits (s : State) (g : Group) (n : Nat) : Bool :=
  decide (windowBytes n g.width ≤ s.storeFree g.core + g.bytes)

end Sys2Proof.Machine
end

