-- ==== Sys2Proof/Machine/Scalar.lean ====
section
/-! DEFINITION. Scalar and predicate instructions, and those that change the window (R185 to R190, R198,
R155, R226). -/

namespace Sys2Proof.Machine

/-! ### Values -/

/-- Shifts of a scalar (R185). -/
def sshlWord (a y : Word) : Word := if 64 ≤ y.toNat then 0 else a <<< y.toNat

def sshrWord (arith : Bool) (a y : Word) : Word :=
  if arith then a.sshiftRight (min y.toNat 64) else if 64 ≤ y.toNat then 0 else a >>> y.toNat

/-- The comparison of SSETP (R187). -/
def cmpWord (c : Cmp) (signed : Bool) (a b : Word) : Bool :=
  if signed then cmpInt c a.toInt b.toInt else cmpInt c a.toNat b.toNat

/-- A special register that belongs to the group (R128, R190). -/
def specialOf (s : State) (g : Group) (x : Special) : Word :=
  match x with
  | .item | .lane => 0
  | .width => BitVec.ofNat 64 g.width
  | .group => BitVec.ofNat 64 (groupOf g.id)
  | .team => BitVec.ofNat 64 (teamOf g.id)
  | .pod => BitVec.ofNat 64 (podOf g.core)
  | .core => BitVec.ofNat 64 g.core
  | .tower => BitVec.ofNat 64 (towerOf g.core)
  | .launch => BitVec.ofNat 64 (lidOf g.id)
  | .winbase => BitVec.ofNat 64 (0x40000000 + 0x10000 * if isWave g.id then 0 else groupOf g.id)
  | .sig => g.sig.setWidth 64
  | .fflags => Flags.toWord g.fflags
  | .clock => BitVec.ofNat 64 s.clock
  | .cause => g.cause
  | .epc => g.epc
  | .tval => g.tval

/-- The lane that VGET and VPUT name (R189). -/
def xferLane (g : Group) (y : SSrc) : Nat := (readY g y).toNat % g.width

/-- What VGET reads (R189). -/
def vgetWord (o : SVget) (g : Group) : Word :=
  let x := readReg g g.issued (o.t == .n64) o.a.toNat (xferLane g o.y)
  match o.t with
  | .b32 | .n64 => BitVec.ofNat 64 x
  | .s32 => BitVec.ofInt 64 (intOf .s32 x)

/-- The bit of a source of PLOG in a lane (R188). -/
def plogBit (g : Group) (p : PReg) (lane : Nat) : Bool :=
  match p with
  | .p r => (g.pred r.toNat).getLsbD lane
  | .em => g.em.getLsbD lane

/-- The result of PLOG in a lane: bit 2 × a + b of the table. -/
def plogValue (o : SPlog) (g : Group) (lane : Nat) : Bool :=
  o.lut.getLsbD ((if plogBit g o.a lane then 2 else 0) + if plogBit g o.b lane then 1 else 0)

/-! ### Bodies -/

/-- An instruction whose effect is on its group alone. -/
def groupBody (f : State → Group → Group) : Body := fun s g _ => .group s (f s g)

/-- The same instruction without a guard: the guard has already been taken for the whole group. -/
def noGuard (h : Head) : Head := { h with guard := none }

def laneSsetp (o : SSetp) : LaneFn := fun g _ _ _ => putP o.p (cmpWord o.cmp o.signed (readS g o.a) (readY g o.y))

/-- GETS of %item and %lane (R190). -/
def laneGets (o : SGets) : LaneFn := fun g _ lane _ =>
  match o.src with
  | .item => { regs := putReg true o.d.toNat (g.item lane) }
  | _ => { regs := putReg false o.d.toNat lane }

def lanePlog (o : SPlog) (p : BitVec 3) : LaneFn := fun g _ lane _ => putP p (plogValue o g lane)

/-- PUB publishes what an instruction would read here, and writes nothing (R226). -/
def lanePub (o : CPub) : LaneFn := fun g i lane _ => { val := g.readV i o.d.toNat lane }

/-- GETS (R190). -/
def getsBody (o : SGets) : Body := fun s g l =>
  match o.src with
  | .item | .lane => perLane (.gets o) (noGuard o.h) (laneGets o) s g l
  | x =>
    let g' := g.setSreg o.d.toNat (specialOf s g x)
    .group s (if o.clr then { g' with fflags := 0 } else g')

/-- PLOG (R188): an `em` destination takes its mask from every lane of the path. -/
def plogBody (o : SPlog) : Body := fun s g l =>
  match o.d with
  | .p p => perLane (.plog o) (noGuard o.h) (lanePlog o p) s g l
  | .em => .group s (g.setEm (maskOf g.lanes fun x => g.path.getLsbD x && plogValue o g x))

/-- VPUT writes its lane whatever `em` holds (R189). -/
def vputGroup (o : SVput) (g : Group) : Group :=
  g.writeAll ((putReg o.wide o.d.toNat (readS g o.a).toNat).map fun r => (vkey r.1 (xferLane g o.y), r.2))

/-- A window size that WGROW and WSHRINK refuse (R198). -/
def badSize (n : Nat) : Bool := decide (n % 4 ≠ 0) || decide (n < 4) || decide (256 < n)

/-- WGROW: the store that it takes comes from the L1 (R153, R155, R198). -/
def wgrowBody (o : SWin) : Body := fun s g l =>
  let y := readY g o.n
  let n := y.toNat
  if isWave g.id || badSize n then .trap Cause.window y
  else if n ≤ g.n then .group s g
  else if !storeFits (s.teamSizes g n) l.scratchSize l.pair then .trap Cause.window y
  else if s.growFits g n && !s.olderBlocked g then
    .group ((s.onGroup g.id fun x => { x with n := n }).fitL1 g.core) { g with n := n }
  else .wait (.store n)

/-- The window becomes smaller: dropped registers are lost, and transient results held for them
(R155, R198). -/
def Group.shrink (g : Group) (n : Nat) : Group :=
  { g.supersede (fun k => decide (n * 64 ≤ k)) with
    n := n
    vregs := Sparse.keep (fun k => decide (k < n * 64)) g.vregs
    bad := g.bad.filter fun k => decide (2 * k < n * g.width) }

/-- WSHRINK (R198). -/
def wshrinkBody (o : SWin) : Body := fun s g l =>
  let y := readY g o.n
  let n := y.toNat
  if isWave g.id || badSize n then .trap Cause.window y
  else if g.n ≤ n then .group s g
  else if l.runner && (List.range l.nslot).any fun k => decide (n ≤ l.rreg k) then .trap Cause.window y
  else if g.pend.any fun p => p.vregs.any fun r => decide (n ≤ r) then .wait .result
  else .group s (g.shrink n)

/-! ### Meanings -/

/-- An instruction that acts once for its group. -/
def groupInstr (i : Instr) (h : Head) (f : State → Group → Group) (s : State) : Out :=
  .next (issue i h (groupBody f) s)

def execSadd (o : S2) (s : State) : Out :=
  groupInstr (.sadd o) o.h (fun _ g => writeS g o.d (readS g o.a + readY g o.y)) s
def execSsub (o : S2) (s : State) : Out :=
  groupInstr (.ssub o) o.h (fun _ g => writeS g o.d (readS g o.a - readY g o.y)) s
def execSmul (o : S2) (s : State) : Out :=
  groupInstr (.smul o) o.h (fun _ g => writeS g o.d (readS g o.a * readY g o.y)) s
def execSand (o : S2) (s : State) : Out :=
  groupInstr (.sand o) o.h (fun _ g => writeS g o.d (readS g o.a &&& readY g o.y)) s
def execSor (o : S2) (s : State) : Out :=
  groupInstr (.sor o) o.h (fun _ g => writeS g o.d (readS g o.a ||| readY g o.y)) s
def execSxor (o : S2) (s : State) : Out :=
  groupInstr (.sxor o) o.h (fun _ g => writeS g o.d (readS g o.a ^^^ readY g o.y)) s
def execSshl (o : S2) (s : State) : Out :=
  groupInstr (.sshl o) o.h (fun _ g => writeS g o.d (sshlWord (readS g o.a) (readY g o.y))) s
def execSshr (o : SShr) (s : State) : Out :=
  groupInstr (.sshr o) o.h (fun _ g => writeS g o.d (sshrWord o.arith (readS g o.a) (readY g o.y))) s
def execSmov (o : SMov) (s : State) : Out := groupInstr (.smov o) o.h (fun _ g => writeS g o.d (readS g o.a)) s
def execSmovl (o : SMovl) (s : State) : Out := groupInstr (.smovl o) o.h (fun _ g => writeS g o.d o.lit) s
def execSsetp (o : SSetp) (s : State) : Out :=
  .next (issue (.ssetp o) o.h (perLane (.ssetp o) (noGuard o.h) (laneSsetp o)) s)
def execVget (o : SVget) (s : State) : Out :=
  groupInstr (.vget o) o.h (fun _ g => writeS g o.d (vgetWord o g)) s
def execVput (o : SVput) (s : State) : Out := groupInstr (.vput o) o.h (fun _ g => vputGroup o g) s
def execGets (o : SGets) (s : State) : Out := .next (issue (.gets o) o.h (getsBody o) s)
def execPlog (o : SPlog) (s : State) : Out := .next (issue (.plog o) o.h (plogBody o) s)
def execWgrow (o : SWin) (s : State) : Out := .next (issue (.wgrow o) o.h (wgrowBody o) s)
def execWshrink (o : SWin) (s : State) : Out := .next (issue (.wshrink o) o.h (wshrinkBody o) s)
def execPub (o : CPub) (s : State) : Out := laneInstr (.pub o) o.h (lanePub o) s

end Sys2Proof.Machine
end

