-- ==== Sys2Proof/Machine/Control.lean ====
section
/-! DEFINITION. Control transfer, divergence, exits and safe points (R158 to R166, R191 to R197). -/

namespace Sys2Proof.Machine

/-- A target: words from the header of the clause that holds the instruction (R122, R191). -/
def targetOf (hdr : Addr) (ofs : Int) : Addr := (((hdr : Int) + 8 * ofs) % (2 ^ 64 : Nat)).toNat

/-- The header address, slot and header word where a group stands. -/
def Group.at_ (g : Group) : Addr × Nat × Word :=
  match g.pos with
  | .slot h j w => (h, j, w)
  | .back h j => (h, j, 0)
  | .after h j _ => (h, j + 1, 0)
  | .header a _ => (a, 0, 0)

/-- The address of the instruction at which a group stands. -/
def Group.here (g : Group) : Addr := g.pos.addr

/-- The address of the clause after the one the group is in. -/
def Group.nextHdr (g : Group) : Addr := (nextClause g.at_.1 g.at_.2.1 g.at_.2.2).addr

/-! ### Divergence (R159 to R161, R165) -/

/-- The scalars after the merge of an entry whose taken path is running (R161). -/
def mergeScalars (d : DivEntry) (cur : Sparse Word) : Sparse Word :=
  (List.range 64).foldl (fun m r =>
    if d.wF.contains r && (!d.written.contains r || d.lowF) then Sparse.set 0 m r (Sparse.get 0 d.sF r) else m) cur

/-- An entry merges: the scalars, the signature and the masks (R159, R161, R165). -/
def Group.merge (g : Group) (d : DivEntry) (rest : List DivEntry) : Group :=
  let noted := d.wF.foldl insertNat d.written
  { g with
    sregs := if d.taken then mergeScalars d g.sregs else g.sregs
    sig := Crc.word d.sig0 (BitVec.ofNat 64 d.join)
    em := d.e
    path := d.e
    stack := match rest with
      | [] => []
      | p :: t => { p with written := noted.foldl insertNat p.written } :: t }

/-- The fall-through path gives way to the taken one (R159). -/
def Group.takePath (g : Group) (d : DivEntry) (rest : List DivEntry) : Group :=
  { g with
    sregs := d.snap
    sig := d.sig0
    em := d.t
    path := d.t
    stack := { d with taken := true, sF := g.sregs, wF := d.written, written := [] } :: rest }

/-- The top entry's path has reached its end: the group, and the address it goes on at (R159, R160). An
entry left without lanes is popped in the same way, and the rule applies to the entry below. -/
def Group.endPath : Nat → Group → Group × Addr
  | 0, g => (g, g.nextHdr)
  | k + 1, g =>
    match g.stack with
    | [] => (g, g.nextHdr)
    | d :: rest =>
      if !d.taken && d.t != 0 then (g.takePath d rest, d.target)
      else if d.e == 0 && !rest.isEmpty then (g.merge d rest).endPath k
      else (g.merge d rest, d.join + 8)

/-- A scalar result under way lands on the path of its instruction (R136, R161). -/
def Group.scalarsPending (g : Group) : Bool := g.pend.any fun p => !p.scals.isEmpty

/-- BRD (R159). Its guard failing, its condition holds in no lane. -/
def brdBody (o : CBrd) : Body := fun s g _ =>
  let (hdr, _, _) := g.at_
  let join := targetOf hdr o.join.toInt
  if 16 ≤ g.stack.length then .trap Cause.divergenceDepth (BitVec.ofNat 64 join)
  else if g.scalarsPending then .wait .result
  else
    let cond := if g.guardHolds o.h then (g.pred o.p.toNat) ^^^ (if o.inv then BitVec.allOnes 64 else 0) else 0
    let t := g.em &&& cond
    let f := g.em &&& ~~~t
    let low := match lowest g.lanes g.em with
      | some l => f.getLsbD l
      | none => false
    let d : DivEntry := ⟨g.em, t, join, targetOf hdr o.tgt.toInt, g.sregs, g.sig, f == 0, low, [], [], []⟩
    if f != 0 then .group s { g with stack := d :: g.stack, em := f, path := f } .clause
    else .group s { g with stack := d :: g.stack, em := t, path := t } (.goto d.target)

/-- A JOIN that merges two non-empty paths, with lanes that are behind (R236). -/
def Group.mergeWaits (g : Group) : Bool :=
  !g.backlog.isEmpty && (g.stack.head?.map fun d => d.t != 0 && d.e &&& ~~~d.t != 0).getD false

/-- JOIN (R159). One that merges two non-empty paths waits for lanes that are behind (R236). -/
def joinBody : Body := fun s g _ =>
  match g.stack with
  | [] => .trap Cause.illegal 0
  | d :: rest =>
    if d.join ≠ g.here then .trap Cause.illegal (BitVec.ofNat 64 d.join)
    else if g.scalarsPending then .wait .result
    else if g.mergeWaits then .wait .runner
    else if !d.taken && d.t != 0 then .group s (g.takePath d rest) (.goto d.target)
    else .group s (g.merge d rest) .clause

/-! ### EXIT (R194, R158, R160) -/

/-- Lanes leave every mask of the group, and what is under way to their registers is discarded. -/
def Group.dropLanes (g : Group) (m : Mask) : Group :=
  { g with
    live := g.live &&& ~~~m
    em := g.em &&& ~~~m
    path := g.path &&& ~~~m
    stack := g.stack.map fun d => { d with e := d.e &&& ~~~m, t := d.t &&& ~~~m }
    pend := g.pend.map fun p => { p with vals := p.vals.filter fun x => !m.getLsbD (x.1 % 64) }
    backlog := (g.backlog.map fun w => { w with lanes := w.lanes &&& ~~~m }).filter fun w => w.lanes != 0 }

/-- The lanes that an EXIT selects among those of `em` (R194). -/
def exitLanes (o : CExit) (g : Group) : List Nat :=
  g.lanes.filter fun l => g.em.getLsbD l && match o.sel with
    | none => true
    | some x => predIn g x.p x.inv l

/-- The group has no lane left: it has come to its end (R194, R378). -/
def Group.ended (g : Group) : Group := { g with active := false, wait := none, done := isWave g.id }

/-- One reply on its way to its caller: lane, value and status (R373). -/
def State.answer (s : State) (r : Request) (v : Lane) (status : Nat) : State := s.onOp r.op fun x =>
  { x with kind := match x.kind with
      | .ocall sent d coming w => .ocall sent d (coming ++ [(r.lane, v, status)]) w
      | k => k }

/-- A wave has ended: its requests receive OK and the values that its lanes gave, and its object may start
the next one (R378). -/
def State.endWave (s : State) (gid : GroupId) : State :=
  match gid with
  | .member .. => s
  | .wave lid obj => match s.group? gid, s.object? lid obj with
    | some g, some o =>
      let s := ((o.wave.getD []).zipIdx).foldl (fun s x => s.answer x.1 (Sparse.get 0 g.replies x.2) 0) s
      s.onObject lid obj fun o => { o with wave := none }
    | _, _ => s

/-- A load or an atomic of the code that the group runs has failed, and its response has not come. -/
def Group.failing (g : Group) : Bool := g.pend.any fun p => p.fail.isSome && g.own p.n

/-- The lanes retire, and the group goes on: at the next clause, at the end of its path, or not at all. A
path that ends takes the group out of the active set (R147). The group halts when final values cannot be
spilled (R234). A failure is reported before the last lanes exit: the exit waits for its response (R285). -/
def exitBody (o : CExit) : Body := fun s g l =>
  let sel := exitLanes o g
  let behind := g.lanes.filter fun k => g.em.getLsbD k && g.lagging.getLsbD k
  let now := sel.filter fun k => !behind.contains k
  let m := maskOf now fun _ => true
  let last := g.live &&& ~~~m == 0
  match (if last then g.dues.head? else none) with
  | some d => if g.olderFails d then .wait .result else .report d
  | none =>
    if (last && g.failing) || (g.em &&& ~~~m == 0 && !g.stack.isEmpty && g.scalarsPending) then .wait .result
    else match s.retireLanes g.id now with
    | .error (.wait w) => .wait (w.from l g)
    | .error (.trap c tv) =>
      .go ((s.setGroup ((g.dropLanes m).enqueue g.here (encode (.exit o)) behind)).haltGroup g.id 7 c false
        (BitVec.ofNat 64 g.here) tv) .done []
    | .ok r =>
      let x := ((r.group? g.id).getD g).dropLanes m
      let x := x.enqueue g.here (encode (.exit o)) behind
      if x.live == 0 then .go ((r.setGroup x.ended).endWave g.id) .done []
      else if x.em == 0 && !now.isEmpty then
        let e := x.endPath 17
        .go (r.setGroup { e.1 with active := false, since := s.clock }) (.goto e.2) []
      else .go (r.setGroup x) .clause []

/-! ### Transfers (R192) -/

def braBody (o : CBra) : Body := fun s g _ => .group s g (.goto (targetOf g.at_.1 o.tgt.toInt))

/-- CALL reads its destination before it writes the link (R192). -/
def callBody (o : CCall) : Body := fun s g _ =>
  let dest := match o.dest with
    | .label t => targetOf g.at_.1 t.toInt
    | .reg t => (g.sreg t.toNat).toNat
  .group s (g.setSreg o.link.toNat (BitVec.ofNat 64 g.nextHdr)) (.goto dest)

def retBody (o : CRet) : Body := fun s g _ => .group s g (.goto (g.sreg o.s.toNat).toNat)

def briBody (o : CBri) : Body := fun s g _ =>
  let i := (g.sreg o.s.toNat).toNat
  .group s g (if i < o.n.toNat then .goto (targetOf g.at_.1 (o.tgt.toInt + 2 * i)) else .clause)

def loopBody (o : CLoop) : Body := fun s g _ =>
  let x := g.sreg o.s.toNat - 1
  .group s (g.setSreg o.s.toNat x) (if x != 0 then .goto (targetOf g.at_.1 o.tgt.toInt) else .clause)

/-! ### Safe points, signatures, yield (R163, R166, R195, R196) -/

/-- SAFE: it traps within three instructions of a transient write, whatever its guard and `em` hold; with
a stop pending and its guard holding, the group stops after it. -/
def safeBody (o : CSafe) : Body := fun s g _ =>
  match (g.bypass.filter fun b => b.marked && decide (g.issued ≤ b.idx + 3)).getLast? with
  | some b => .trap Cause.transientWindow (BitVec.ofNat 64 b.addr)
  | none =>
    if g.stopAt.isSome && g.guardHolds o.h then
      let (hdr, j, hw) := g.at_
      .group s { g with stopped := true, safe := some (o.vmask, o.smask), active := false }
        (.at_ (nextPlace hdr j hw 3).resume)
    else .group s g

/-- SIGCHK (R166). -/
def sigchkBody (o : CSig) : Body := fun s g _ =>
  if g.sig = o.imm then .group s { g with sig := 0 } else .trap Cause.signature (o.imm ++ g.sig)

/-- YIELD: the group leaves the active set, ready at once (R195). -/
def yieldBody : Body := fun s g _ => .group s { g with active := false, since := s.clock } .clause

/-! ### Meanings -/

def execBra (o : CBra) (s : State) : Out := .next (issue (.bra o) o.h (braBody o) s)
def execBrd (o : CBrd) (s : State) : Out := .next (issue (.brd o) o.h (brdBody o) s)
def execJoin (o : Bare) (s : State) : Out := .next (issue (.join o) o.h joinBody s)
def execCall (o : CCall) (s : State) : Out := .next (issue (.call o) o.h (callBody o) s)
def execRet (o : CRet) (s : State) : Out := .next (issue (.ret o) o.h (retBody o) s)
def execBri (o : CBri) (s : State) : Out := .next (issue (.bri o) o.h (briBody o) s)
def execLoop (o : CLoop) (s : State) : Out := .next (issue (.loop o) o.h (loopBody o) s)
def execExit (o : CExit) (s : State) : Out := .next (issue (.exit o) o.h (exitBody o) s)
def execNop (o : Bare) (s : State) : Out := groupInstr (.nop o) o.h (fun _ g => g) s
def execSafe (o : CSafe) (s : State) : Out := .next (issue (.safe o) o.h (safeBody o) s)
def execSigchk (o : CSig) (s : State) : Out := .next (issue (.sigchk o) o.h (sigchkBody o) s)
def execYield (o : Bare) (s : State) : Out := .next (issue (.yield o) o.h yieldBody s)

end Sys2Proof.Machine
end

