-- ==== Sys2Proof/Machine/Layout.lean ====
section
/-! DEFINITION. Layout records: their fields, when one is well formed, where an element lies, and the value
that its encoding holds (R36, R71 to R77, R273, R274). -/

namespace Sys2Proof.Machine

/-- A field of a layout record (R71). -/
def recField (r : BitVec 320) (lo len : Nat) : Nat := r.toNat / 2 ^ lo % 2 ^ len

namespace Rec

def kind (r : BitVec 320) : Nat := recField r 0 4
def rank (r : BitVec 320) : Nat := recField r 4 3
def enc (r : BitVec 320) : Nat := recField r 7 5
def book (r : BitVec 320) : Nat := recField r 12 2
def ilv (r : BitVec 320) : Nat := recField r 14 2
def padBits (r : BitVec 320) : Nat := recField r 32 32
/-- SOFS, a signed byte offset. -/
def sofs (r : BitVec 320) : Int := (BitVec.ofNat 48 (recField r 256 48)).toInt
/-- The byte stride of dimension 1 to 4. -/
def stride (r : BitVec 320) (d : Nat) : Nat := recField r (64 + 40 * (d - 1)) 40

/-- The width of an encoding in bits (R72). -/
def width : Nat → Nat
  | 0 | 14 => 4
  | 1 | 5 | 13 | 15 => 8
  | 2 | 6 | 10 | 16 => 16
  | 3 | 7 | 9 | 11 => 32
  | _ => 64

/-- The dimensions above 0 and below RANK. -/
def outer (r : BitVec 320) : List Nat := ((List.range 4).map (· + 1)).filter fun d => decide (d < rank r)

/-- KIND and ENC agree (R73). -/
def kindOk (r : BitVec 320) : Bool :=
  match kind r with
  | 1 => decide (enc r ≤ 13)
  | 2 => decide (14 ≤ enc r) && decide (enc r ≤ 16)
  | 3 => enc r == 17 && rank r == 2 && ilv r == 0 && [1, 2, 3, 4].all (fun d => stride r d == 0) && sofs r == 0
  | _ => false

/-- A well-formed record (R73). -/
def good (r : BitVec 320) : Bool :=
  kindOk r && decide (1 ≤ rank r) && decide (rank r ≤ 5) && (ilv r == 0 || rank r != 1)
    && (kind r == 3 || (outer r).all fun d =>
        stride r d % (if kind r = 2 then 4 * width (enc r) else max 1 (width (enc r) / 8)) == 0)
    && ([1, 2, 3, 4].all fun d => decide (d < rank r) || stride r d == 0)
    && (kind r == 2 || sofs r == 0)
    && recField r 304 16 == 0 && recField r 224 32 == 0 && recField r 16 16 == 0

/-- Index `d` of an element; absent ones are 0. -/
def at_ (i : List Nat) (d : Nat) : Nat := i.getD d 0

/-- The place of an element in its vectors, in elements (R74). -/
def offset (r : BitVec 320) (i : List Nat) : Nat :=
  let g := 2 ^ ilv r
  at_ i 0 % 32 + 32 * (at_ i 1 % g + g * (at_ i 0 / 32))

/-- The bytes of the outer dimensions (R74). -/
def outerBytes (r : BitVec 320) (i : List Nat) : Nat :=
  at_ i 1 / 2 ^ ilv r * stride r 1 + at_ i 2 * stride r 2 + at_ i 3 * stride r 3 + at_ i 4 * stride r 4

/-- The bit address of an element of kind 1 or 2 (R74). -/
def bitAddr (r : BitVec 320) (base : Nat) (i : List Nat) : Nat :=
  8 * (base + outerBytes r i) + width (enc r) * offset r i

/-- The address of the scale byte of an element's block (R75). -/
def scaleAddr (r : BitVec 320) (base : Nat) (i : List Nat) : Int :=
  let g := 2 ^ ilv r
  let b := 4 * width (enc r)
  (base : Int) + sofs r + (at_ i 1 % g + g * (at_ i 0 / 32) : Nat)
    + (at_ i 1 / g * stride r 1 / b + (at_ i 2 * stride r 2 + at_ i 3 * stride r 3 + at_ i 4 * stride r 4) / b : Nat)

/-- How many indices an element has: row, column and channel in kind 3 (R272). -/
def dims (r : BitVec 320) : Nat := if kind r = 3 then 3 else rank r

/-- The extents of a record: 128, 128 and ten channels in kind 3 (R77, R275). -/
def extents (r : BitVec 320) (e : List Nat) : List Nat := if kind r = 3 then [128, 128, 10] else e.take (rank r)

/-- An element is in range (R76). -/
def inRange (r : BitVec 320) (e i : List Nat) : Bool :=
  (List.range (dims r)).all fun d => decide (i.getD d 0 < (extents r e).getD d 0)

/-- The block of an element holds an element in range: its first one is (R76). -/
def blockInRange (r : BitVec 320) (e i : List Nat) : Bool :=
  inRange r e ((i.getD 0 0 / 32 * 32) :: i.drop 1)

/-- The integer or float type of encodings 0 to 12 (R72). -/
def ty : Nat → Ty
  | 0 => .s4 | 1 => .s8 | 2 => .s16 | 3 => .s32 | 4 => .s64
  | 5 => .n8 | 6 => .n16 | 7 => .n32 | 8 => .n64 | 9 => .b32
  | 10 => .bf16 | 11 => .f32 | 12 => .f64
  | 14 => .s4 | 15 => .s8 | 16 => .s16
  | _ => .n32

/-- The encodings whose values are integers. -/
def isInt (e : Nat) : Bool := decide (e ≤ 8) || e == 13 || e == 17

/-- The exact value of element bits (R35, R38, R39, R51, R273): `scale` for a block-scaled one, `ch` the
channel of a residue. A scale of 255 is no value: a NaN that raises NV. -/
def value (enc : Nat) (b : Book) (bits scale ch : Nat) : Num :=
  if enc ≤ 8 then Num.ofInt (intOf (ty enc) bits)
  else if enc = 13 then Num.ofInt (b.entry (bits % 256))
  else if enc = 17 then Num.ofInt (Rns.planeLoad ch bits)
  else if 14 ≤ enc then
    if scale = 255 then .nan true
    else (Num.ofInt (intOf (ty enc) bits)).scale ((scale : Int) - 127)
  else unpack (fmtOf (ty enc)) (bits % 2 ^ width enc)

/-- PAD as the bits of an element, and its value (R76). An f64 pad is the f32 value PAD. -/
def padElem (r : BitVec 320) : Nat :=
  match enc r with
  | 4 => truncTo 64 (intOf .s32 (padBits r))
  | 8 => padBits r
  | 12 => (numToFloat FFmt.f64 .rne (unpack FFmt.f32 (padBits r))).1
  | e => padBits r % 2 ^ min 32 (width e)

end Rec

/-! ### Conversions through a record -/

/-- A TYPE that an access through a record of this encoding takes (R273). -/
def recTypeOk (t : Ty) (enc : Nat) : Bool :=
  if t = .b32 then enc == 9 || enc == 11 else enc != 9

/-- An element's value in TYPE, with its flags (R273). An exact real that is converted to an integer TYPE raises NX or NV
as R33 has a float do, since neither rule gives its flags: DEDUCED (log 120). -/
def loadAs (t : Ty) (enc : Nat) (bits : Nat) (x : Num) : Nat × Flags :=
  if t = .b32 then (bits % 2 ^ 32, 0)
  else if Rec.isInt enc && !t.isAnyFloat then (extend t (truncTo (Ty.bits t) (satTo t (x.atExp 0))), 0)
  else convertTo t .rne x

/-- `2x ≤ n`, for the ties of R36. -/
def notAbove (x : Num) (n : Int) : Bool := !numLt (Num.ofInt n) (x.scale 1)

/-- `quantise(x, book)` (R36): a NaN is code 0. -/
def quantise (x : Num) (b : Book) : Nat :=
  if x.isNan then 0
  else if notAbove x (2 * b.entry 0) then 0
  else if !numLt x (Num.ofInt (b.entry 255)) then 255
  else
    let k := (((List.range 255).filter fun k => !numLt x (Num.ofInt (b.entry k))).getLast?).getD 0
    if notAbove x (b.entry k + b.entry (k + 1)) then k else k + 1

/-- A register in TYPE as the bits of an element, with its flags (R274). -/
def storeAs (t : Ty) (enc : Nat) (b : Book) (ch reg : Nat) : Nat × Flags :=
  if enc = 9 ∨ t = .b32 then (reg % 2 ^ 32, 0)
  else if enc = 17 then (Rns.residue (reg % 2 ^ 32 : Nat) (Rns.modulus ch), 0)
  else
    let x := numOf t reg
    if enc = 13 then (quantise x b, Flags.when x.isNan .nv)
    else if enc ≤ 8 then
      if t.isAnyFloat then
        let r := numToInt (Rec.ty enc) .rne x
        (truncTo (Rec.width enc) r.1, r.2)
      else (truncTo (Rec.width enc) (satTo (Rec.ty enc) (intOf t reg)), 0)
    else
      let r := numToFloat (fmtOf (Rec.ty enc)) .rne x
      (r.1, r.2)

end Sys2Proof.Machine
end

