-- ==== Sys2Proof/Machine/Mem.lean ====
section
/-! DEFINITION. The memory instructions (R266 to R285, R296): addresses and their checks, loads and stores
with and without a layout record, atomics, fences, cache hints, FETCH and POST. -/

namespace Sys2Proof.Machine

/-! ### Addresses (R267, R268) -/

/-- One access of a lane: its address and its width in bytes. -/
structure Access where
  lane : Nat
  addr : Nat
  len : Nat
  deriving DecidableEq, Repr

/-- The address of a lane without a record (R267). -/
def plainAddr (g : Group) (idx : Nat) (m : MPlain) (width lane : Nat) : Nat :=
  let off : Int := match m.off with
    | .ofs o => o.toInt * width
    | .lit w => w.toInt
  let ix : Int := match m.idx with
    | some (v, sh) => (g.readV idx v.toNat lane).toInt * (2 ^ sh.toNat : Nat)
    | none => 0
  truncTo 64 ((g.sreg m.sb.toNat).toInt + ix + off)

/-- Why a set of accesses does not proceed (R268). -/
inductive Refused where
  | trap (cause : Nat) (va : Nat)
  /-- The physical address names no memory (R286). -/
  | noMemory
  | walk (vas : List Nat) (w : Bool)
  deriving DecidableEq, Repr

/-- One address of each 64 KiB, in order: the pages that have to be walked for (R291). -/
def pagesOf (l : List Nat) : List Nat :=
  l.foldl (fun m a => if m.any fun b => b / 65536 == a / 65536 then m else m ++ [a]) []

/-- The checks of R268 on the global accesses of a unit, cause by cause. `base`: a base that is not aligned as its
record needs (R77). -/
def State.checkGlobal (s : State) (u : Nat) (r : Right) (l : List Access) (base : Option Nat := none) : Option Refused :=
  match l.find? fun a => decide (2 ^ 57 ≤ a.addr) with
  | some a => some (.trap Cause.protection a.addr)
  | none => match base, l.find? fun a => decide (a.addr % a.len ≠ 0) with
    | some b, _ => some (.trap Cause.misaligned b)
    | none, some a => some (.trap Cause.misaligned a.addr)
    | none, none => match l.filter fun a => s.reach u a.addr r == .miss with
      | a :: t => some (.walk (pagesOf ((a :: t).map (·.addr))) r.isWrite)
      | [] => match l.find? fun a => s.reach u a.addr r == .protect || s.reach u a.addr r == .noMemory with
        | some a => some (if s.reach u a.addr r = .noMemory then .noMemory else .trap Cause.protection a.addr)
        | none => none

/-- The checks of R268 on local accesses: the address has to lie in a region, then to be aligned. Regions are
whole numbers of 256 bytes, so an aligned access from inside one stays there. -/
def State.checkLocal (s : State) (g : GroupId) (l : List Access) (base : Option Nat := none) : Option Refused :=
  match l.find? fun a => (s.localAt g a.addr 1).isNone || decide (2 ^ 32 ≤ a.addr) with
  | some a => some (.trap Cause.protection a.addr)
  | none => match base, l.find? fun a => decide (a.addr % a.len ≠ 0) with
    | some b, _ => some (.trap Cause.misaligned b)
    | none, some a => some (.trap Cause.misaligned a.addr)
    | none, none => none

/-- A refused access as the outcome of its instruction; %tval is the instruction word for an address that names no
memory, and else the address (R268, R385). -/
def Refused.eff (word : Word) : Refused → Eff
  | .trap c va => .trap c (BitVec.ofNat 64 va)
  | .noMemory => .trap Cause.protection word
  | .walk vas w => .wait (.walk vas false w)

/-- The physical address and page entry of a checked access of a unit. -/
def State.physOf (s : State) (u va : Nat) : Nat × Word :=
  match s.known u va with
  | some t => (t.phys va, t.pte)
  | none => (0, 0)

/-- An access that L1 may serve: a wave's are performed at the home, whatever their policy (R262), and so are those
through a record to a peer (R296). `away`: the access goes through a record, to a peer. -/
def useL1 (g : Group) (pol : Pol) (pte : Word) (away : Bool := false) : Bool := inL1 pol pte && !isWave g.id && !away

/-! ### Data -/

/-- How far from the cores an access lets dirty data of its sectors lie: a `.nocache` access and an uncached page leave
them in memory, a page of CLVL 2 in the MSC, and any other in the home L2 slice (R240, R290). -/
def farthest (pol : Pol) (pte : Word) : Nat :=
  if pol = .nocache ∨ pteClvl pte = 3 then 0 else if pteClvl pte = 2 then 1 else 2

/-- The core's L1 serves an access: it may, and holds every byte (R240). -/
def State.l1Serves (s : State) (g : Group) (pol : Pol) (rc : Bool) (p : Nat × Word) (len : Nat) : Bool :=
  useL1 g pol p.2 (rc && s.isPeer p.1) && (State.span p.1 len).all (s.l1Holds g.core)

/-- The HBM4 channels that accesses need: those of the part's own sectors that neither L1 nor a level below it holds
(R419, R421). -/
def State.accessChans (s : State) (g : Group) (loc : Bool) (pol : Pol) (rc : Bool) (l : List Access) : List (Nat × Nat) :=
  (if loc then [] else l.flatMap fun a =>
    let p := s.physOf g.core a.addr
    if !s.isOwn p.1 || s.l1Serves g pol rc p a.len then [] else s.chansOf (farthest pol p.2) [p.1]).eraseDups

/-- The first access that goes to a peer, by virtual and physical address (R296, R426). -/
def State.peerAccess (s : State) (g : Group) (loc : Bool) (pol : Pol) (rc : Bool) (l : List Access) : Option (Addr × Addr) :=
  if loc then none
  else (l.find? fun a =>
    let p := s.physOf g.core a.addr
    s.isPeer p.1 && !s.l1Serves g pol rc p a.len).map fun a => (a.addr, (s.physOf g.core a.addr).1)

/-- Reads one checked access; none when its data are uncorrectable. `rc`: it goes through a layout record. -/
def State.readAt (s : State) (g : Group) (loc : Bool) (pol : Pol) (rc : Bool) (a : Access) : State × Option (List Byte) :=
  if loc then match s.localAt g.id a.addr a.len with
    | some w => (s, some (s.localRead g.id w a.len))
    | none => (s, some [])
  else
    let p := s.physOf g.core a.addr
    s.gread g.core (useL1 g pol p.2 (rc && s.isPeer p.1)) p.1 a.len (pteObj p.2) (farthest pol p.2)

/-- A local access reaches a register of the group's own window whose result is under way: it keeps its place behind
it (R154, R243). -/
def State.windowPending (s : State) (g : Group) (loc : Bool) (l : List Access) : Bool :=
  loc && l.any fun a => match s.localAt g.id a.addr a.len with
    | some (.window o ofs) => decide (o = g.id) && (State.span (ofs / 4) ((a.len + 3) / 4)).any fun w =>
        g.pend.any fun p => p.vregs.contains (w / g.width)
    | _ => false

/-- Reads accesses one after another, up to the first that fails (R285). -/
def State.readEach (s : State) (g : Group) (loc : Bool) (pol : Pol) (rc : Bool) :
    List Access → State × Except Nat (List (Access × Nat))
  | [] => (s, .ok [])
  | a :: t =>
    match s.readAt g loc pol rc a with
    | (s, none) => (s, .error a.addr)
    | (s, some bs) => match s.readEach g loc pol rc t with
      | (s, .error e) => (s, .error e)
      | (s, .ok r) => (s, .ok ((a, ofBytes bs) :: r))

/-- The accesses of an instruction, read; the lanes share one draw of a peer's free values (R242). -/
def State.readAll (s : State) (g : Group) (loc : Bool) (pol : Pol) (rc : Bool) (l : List Access) :
    State × Except Nat (List (Access × Nat)) :=
  let r := s.readEach g loc pol rc l
  (if !loc && l.any (fun a => s.isPeer (s.physOf g.core a.addr).1) then r.1.drawn else r.1, r.2)

/-- Writes one checked access. -/
def State.writeAt (s : State) (g : Group) (loc : Bool) (pol : Pol) (rc : Bool) (a : Access) (x : Nat) : State :=
  if loc then match s.localAt g.id a.addr a.len with
    | some w => s.localWrite g.id w (leBytes a.len x)
    | none => s
  else
    let p := s.physOf g.core a.addr
    s.gwrite g.core (useL1 g pol p.2 (rc && s.isPeer p.1)) (pteWt p.2) p.1 (leBytes a.len x) (pteObj p.2)
      (farthest pol p.2)

/-- The byte that a record store of half of it keeps: as it stands where the store is performed, behind the group's own
earlier stores (R240, R243, R274, R296). -/
def State.peekByte (s : State) (g : Group) (loc : Bool) (pol : Pol) (va : Nat) : Nat :=
  if loc then match s.localAt g.id va 1 with
    | some w => (s.localByte g.id w).toNat
    | none => 0
  else
    let p := s.physOf g.core va
    if s.isPeer p.1 then (Config.peerByte s.free p.1).toNat
    else if useL1 g pol p.2 || (Sparse.get none (s.l1Of g.core) p.1).any Cached.dirty then (s.l1Get g.core p.1).toNat
    else (s.memGet p.1).toNat

/-- The writes of an instruction that no one has acknowledged yet (R279, R296): one for the part's own memory, with the
channels that it needs, and one for each lane that writes to a peer. -/
def State.addAcks (s : State) (g : Group) (l : List Access) (chans : List (Nat × Nat)) : State :=
  let peers := l.filterMap fun a =>
    let pa := (s.physOf g.core a.addr).1
    if s.isPeer pa then some (a.addr, some pa) else none
  let own := if l.any (fun a => !s.isPeer (s.physOf g.core a.addr).1) then [((l.head?.map (·.addr)).getD 0, none)] else []
  let all := own ++ peers
  { s.onGroup g.id fun x => { x with
      acks := x.acks ++ all.zipIdx.map fun p => ⟨s.nextOp + p.2, s.nextOp, p.1.1, p.1.2, if p.1.2.isNone then chans else []⟩ } with
    nextOp := s.nextOp + all.length }

/-- A result under way for a group (R136), with the channels and the peer on which it waits. -/
def State.addPend (s : State) (g : Group) (k : PendKind) (vregs scals : List Nat) (vals : Sparse Lane)
    (svals : Sparse Word) (fl : Flags) (fail : Option Failure) (chans : List (Nat × Nat) := [])
    (peer : Option (Addr × Addr) := none) : State :=
  { s.onGroup g.id fun x => { x with
      pend := x.pend ++ [g.pendOf s.nextOp k vregs scals vals svals fl fail chans peer] } with
    nextOp := s.nextOp + 1 }

/-- An uncorrectable access (R285, R385). -/
def badData (va : Nat) : Failure := ⟨Cause.memUncorrectable, BitVec.ofNat 64 va⟩

/-- Values for registers from `d` on, by lane. -/
def regVals (wide : Bool) (d lane x : Nat) : Sparse Lane := (putReg wide d x).map fun r => (vkey r.1 lane, r.2)

/-! ### Plain loads and stores (R270, R271) -/

/-- The width of a type in bytes. -/
def Ty_bytes (t : Ty) : Nat := Ty.bits t / 8

def plainAccesses (g : Group) (lanes : List Nat) (m : MPlain) (len : Nat) : List Access :=
  lanes.map fun l => ⟨l, plainAddr g g.issued m len l, len⟩

/-- A local read that meets a poisoned word traps with the word's address (R416). -/
def State.checkWords (s : State) (g : GroupId) (l : List Access) : Option Refused :=
  (l.find? fun a => s.localBad g a.addr a.len).map fun a => .trap Cause.memUncorrectable (a.addr / 8 * 8)

def checkAll (s : State) (g : Group) (loc : Bool) (r : Right) (l : List Access) (base : Option Nat := none) :
    Option Refused :=
  if loc then match s.checkLocal g.id l base with
    | some e => some e
    | none => if r = .write then none else s.checkWords g.id l
  else s.checkGlobal g.core r l base

/-- What a load comes to once it has read, by what its accesses gave or the one that failed: its data are on their way
to its registers, or its trap is (R136, R285). `s` is the part before it. -/
def sendLoad (s : State) (g : Group) (loc : Bool) (pol : Pol) (rc wide : Bool) (d : Nat) (l : List Access)
    (read : State × Except Nat (List (Access × Nat))) (outs : List Nat → List (Nat × Nat) × Flags) : Eff :=
  let chans := s.accessChans g loc pol rc l
  let peer := s.peerAccess g loc pol rc l
  match read with
  | (t, .error va) => .go (t.addPend g .load (regsOf wide d) [] [] [] 0 (some (badData va)) chans peer) .next []
  | (t, .ok xs) =>
    let o := outs (xs.map (·.2))
    .go (t.addPend g .load (regsOf wide d) [] (o.1.flatMap fun x => regVals wide d x.1 x.2) [] o.2 none chans peer) .next []

def loadPlain (loc : Bool) (h : Head) (t : Ty) (pol : Pol) (d : BitVec 8) (m : MPlain) (word : Word) : Body := fun s g _ =>
  let l := plainAccesses g (g.executing h) m (Ty_bytes t)
  match checkAll s g loc .read l with
  | some e => e.eff word
  | none =>
    if s.windowPending g loc l then .wait .result
    else if l.isEmpty then .go s .next []
    else sendLoad s g loc pol false t.wide d.toNat l (s.readAll g loc pol false l) fun xs =>
      ((l.map (·.lane)).zip (xs.map (extend t)), 0)

/-- Writes the lanes' values in increasing lane order (R242). -/
def State.writeLanes (s : State) (g : Group) (loc : Bool) (pol : Pol) (l : List (Access × Nat)) : State :=
  l.foldl (fun s x => s.writeAt g loc pol false x.1 x.2) s

/-- The bytes that a store has written at their home, for the poison that they clear (R416). -/
def State.homeBytes (s : State) (g : Group) (pol : Pol) (l : List Access) : List Nat :=
  l.flatMap fun a =>
    let p := s.physOf g.core a.addr
    if s.isPeer p.1 || (useL1 g pol p.2 && !pteWt p.2) then [] else State.span p.1 a.len

/-- What follows from a store that has written: poison that it covers is cleared, and a global store is counted
until it is acknowledged (R279, R416). `s` is the part before it, and `whole` the accesses that wrote whole bytes. -/
def afterStore (s s1 : State) (g : Group) (loc : Bool) (pol : Pol) (rc : Bool) (l whole : List Access) : State :=
  if loc then s1.healLocal g.id (whole.flatMap fun a => State.span a.addr a.len)
  else if l.isEmpty then s1
  else
    let bytes := whole.flatMap fun a => State.span (s.physOf g.core a.addr).1 a.len
    ((s1.clearCovered (s.homeBytes g pol whole)).l1Heal g.core bytes).addAcks g l (s.accessChans g loc pol rc l)

/-- A store that has passed its checks. -/
def performStore (s : State) (g : Group) (loc : Bool) (pol : Pol) (l : List (Access × Nat)) (fl : Flags) : Eff :=
  let s2 := afterStore s (s.writeLanes g loc pol l) g loc pol false (l.map (·.1)) (l.map (·.1))
  .go (s2.onGroup g.id fun x => x.raise fl) .next []

def storePlain (loc : Bool) (h : Head) (t : Ty) (pol : Pol) (d : BitVec 8) (m : MPlain) (word : Word) : Body := fun s g _ =>
  let l := plainAccesses g (g.executing h) m (Ty_bytes t)
  match checkAll s g loc .write l with
  | some e => e.eff word
  | none =>
    if s.windowPending g loc l then .wait .result
    else performStore s g loc pol (l.map fun a => (a, readReg g g.issued t.wide d.toNat a.lane)) 0

/-! ### Through a layout record (R272 to R275) -/

/-- The extents that the scalars after SB give (R272). -/
def recExtents (g : Group) (r : BitVec 320) (sb : Nat) : List Nat :=
  (List.range (Rec.rank r)).map fun d => (g.sreg (sb + 1 + d / 2)).toNat / 2 ^ (32 * (d % 2)) % 2 ^ 32

/-- The indices of a lane (R272). -/
def recIndices (g : Group) (r : BitVec 320) (vx lane : Nat) : List Nat :=
  (List.range (Rec.dims r)).map fun d => (g.readV g.issued (vx + d) lane).toNat

/-- The scalars that the record needs lie in the file (R272). -/
def recScalars (r : BitVec 320) (sb : Nat) : Bool :=
  Rec.kind r == 3 || decide (sb + (Rec.rank r + 1) / 2 ≤ 63)

/-- The access of an element, and the place of its bits in it: half a byte for s4 (R74, R77). -/
def recAccess (r : BitVec 320) (base lane : Nat) (i : List Nat) : Access × Nat :=
  if Rec.kind r = 3 then
    let ch := i.getD 2 0
    (⟨lane, base + Rns.planeOffset ch (128 * i.getD 0 0 + i.getD 1 0), Rns.planeWidth ch⟩, 0)
  else
    let b := Rec.bitAddr r base i
    (⟨lane, b / 8, max 1 (Rec.width (Rec.enc r) / 8)⟩, b % 8)

/-- The access of a scale byte (R75). -/
def scaleAccess (r : BitVec 320) (base lane : Nat) (i : List Nat) : Access := ⟨lane, truncTo 64 (Rec.scaleAddr r base i), 1⟩

/-- A record that an access names and cannot use (R272, R273, R274). -/
def recBad (r : BitVec 320) (t : Ty) (sb : Nat) (store : Bool) : Bool :=
  !Rec.good r || !recTypeOk t (Rec.enc r) || !recScalars r sb || (store && Rec.kind r == 2)

/-- The base of an access that is not aligned as kind 3 needs it, when some lane makes the access (R77). It is
MISALIGNED, in the order of R268, before any lane's own address is, and %tval holds the base (DEDUCED, log 100). -/
def planeMisaligned (r : BitVec 320) (base : Nat) (l : List Access) : Option Nat :=
  if Rec.kind r == 3 && decide (base % 128 ≠ 0) && !l.isEmpty then some base else none

/-- What a lane of a record access does. -/
inductive RecLane where
  | element (a : Access) (bit : Nat) (i : List Nat)
  | pad (scaled : Bool) (i : List Nat)
  deriving DecidableEq, Repr

/-- A lane's part of a record access (R275): its element, or the pad, with a stored scale or without. -/
def recLane (r : BitVec 320) (g : Group) (base sb vx lane : Nat) : RecLane :=
  let i := recIndices g r vx lane
  let e := recExtents g r sb
  if Rec.inRange r e i then let a := recAccess r base lane i; .element a.1 a.2 i
  else .pad (Rec.kind r == 2 && Rec.blockInRange r e i) i

/-- The accesses of a lane of a load: the element and the scale byte of its block (R272, R275). -/
def recReads (r : BitVec 320) (base lane : Nat) : RecLane → List Access
  | .element a _ i => if Rec.kind r = 2 then [a, scaleAccess r base lane i] else [a]
  | .pad scaled i => if scaled then [scaleAccess r base lane i] else []

/-- The value that a lane of a load receives, from what its accesses read (R273, R275). -/
def recLoaded (r : BitVec 320) (b : Book) (t : Ty) (p : RecLane) (read : List Nat) : Nat × Flags :=
  let enc := Rec.enc r
  match p with
  | .element _ bit i =>
    let raw := read.getD 0 0 / 2 ^ bit
    let bits := if enc = 17 then raw else raw % 2 ^ Rec.width enc
    loadAs t enc bits (Rec.value enc b bits (read.getD 1 0) (i.getD 2 0))
  | .pad scaled i =>
    let bits := Rec.padElem r
    ((loadAs t enc bits (Rec.value enc b bits (if scaled then read.getD 0 0 else 127) (i.getD 2 0))).1, 0)

/-- Splits what was read among the lanes, in order. -/
def splitReads : List (Nat × RecLane × Nat) → List Nat → List (Nat × RecLane × List Nat)
  | [], _ => []
  | (l, p, n) :: t, xs => (l, p, xs.take n) :: splitReads t (xs.drop n)

def loadRecord (loc : Bool) (h : Head) (t : Ty) (pol : Pol) (d : BitVec 8) (lay sb : BitVec 6) (vx : BitVec 8)
    (word : Word) : Body := fun s g l =>
  let r := l.layouts.getD lay.toNat 0
  let base := (g.sreg sb.toNat).toNat
  if recBad r t sb.toNat false then .trap Cause.illegal word
  else
    let parts := (g.executing h).map fun lane => (lane, recLane r g base sb.toNat vx.toNat lane)
    let acc := parts.flatMap fun p => recReads r base p.1 p.2
    match checkAll s g loc .read acc (planeMisaligned r base acc) with
      | some e => e.eff word
      | none =>
        if s.windowPending g loc acc then .wait .result
        else if parts.isEmpty then .go s .next []
        else sendLoad s g loc pol true t.wide d.toNat acc (s.readAll g loc pol true acc) fun xs =>
          let b := g.podBook s (BitVec.ofNat 2 (Rec.book r))
          let outs := (splitReads (parts.map fun p => (p.1, p.2, (recReads r base p.1 p.2).length)) xs).map
            fun x => (x.1, recLoaded r b t x.2.1 x.2.2)
          (outs.map fun o => (o.1, o.2.1), Flags.all (outs.map fun o => o.2.2))

/-- One lane of a record store: half a byte keeps the other half (R274). -/
def recStoreLane (g : Group) (loc : Bool) (pol : Pol) (s : State) (x : Access × Nat × Nat × Nat) : State :=
  let (a, bit, w, bits) := x
  if w = 4 then
    let old := s.peekByte g loc pol a.addr
    s.writeAt g loc pol true a (old - old / 2 ^ bit % 16 * 2 ^ bit + bits % 16 * 2 ^ bit)
  else s.writeAt g loc pol true a bits

/-- The accesses of a record store whose bytes it writes whole: of half bytes, those of which both are written. -/
def wholeBytes (w : Nat) (l : List (Access × Nat)) : List Access :=
  (l.filter fun x => w != 4 || l.any fun y => y.1.addr == x.1.addr && y.2 != x.2).map (·.1)

/-- A record store of c8 needs an ordered book, whether or not a lane executes (R37, R274; log 40). -/
def storeRecord (loc : Bool) (h : Head) (t : Ty) (pol : Pol) (d : BitVec 8) (lay sb : BitVec 6) (vx : BitVec 8)
    (word : Word) : Body := fun s g l =>
  let r := l.layouts.getD lay.toNat 0
  let base := (g.sreg sb.toNat).toNat
  let b := g.podBook s (BitVec.ofNat 2 (Rec.book r))
  if recBad r t sb.toNat true || (Rec.enc r == 13 && !b.ordered) then .trap Cause.illegal word
  else
    let parts := (g.executing h).filterMap fun lane => match recLane r g base sb.toNat vx.toNat lane with
      | .element a bit i => some (a, bit, storeAs t (Rec.enc r) b (i.getD 2 0) (readReg g g.issued t.wide d.toNat lane))
      | .pad .. => none
    let acc := parts.map (·.1)
    match checkAll s g loc .write acc (planeMisaligned r base acc) with
      | some e => e.eff word
      | none =>
        if s.windowPending g loc acc then .wait .result
        else
        let w := if Rec.kind r = 3 then 8 else Rec.width (Rec.enc r)
        let s1 := parts.foldl (fun s p => recStoreLane g loc pol s (p.1, p.2.1, w, p.2.2.1)) s
        let s1 := if w = 4 && !loc && acc.any fun a => s.isPeer (s.physOf g.core a.addr).1 then s1.drawn else s1
        .go ((afterStore s s1 g loc pol true acc (wholeBytes w (parts.map fun p => (p.1, p.2.1)))).onGroup g.id fun x =>
          x.raise (Flags.all (parts.map fun p => p.2.2.2))) .next []

/-- LD and LDS. -/
def loadBody (loc : Bool) (h : Head) (t : Ty) (pol : Pol) (d : BitVec 8) (a : MAddr) (word : Word) : Body :=
  match a with
  | .plain m => loadPlain loc h t pol d m word
  | .record lay sb vx => loadRecord loc h t pol d lay sb vx word

/-- ST and STS. -/
def storeBody (loc : Bool) (h : Head) (t : Ty) (pol : Pol) (d : BitVec 8) (a : MAddr) (word : Word) : Body :=
  match a with
  | .plain m => storePlain loc h t pol d m word
  | .record lay sb vx => storeRecord loc h t pol d lay sb vx word

/-! ### Atomics (R276 to R278) -/

/-- The operands of an atomic in a lane: v, or v1 and v2 of a compare and swap. -/
def atomOperands (g : Group) (op : AtomOp) (d lane : Nat) : Nat × Nat :=
  let wide := decide (atomWidth op = 8)
  match op with
  | .cas _ => (readReg g g.issued wide d lane, readReg g g.issued wide (d + if wide then 2 else 1) lane)
  | _ => (readReg g g.issued wide d lane, 0)

/-- One lane's atomic, at its place; the old value. -/
def atomLane (g : Group) (op : AtomOp) (loc : Bool) (d : Nat) (s : State) (a : Access) : State × Nat :=
  let v := atomOperands g op d a.lane
  if loc then match s.localAt g.id a.addr a.len with
    | some w =>
      let old := ofBytes (s.localRead g.id w a.len)
      (s.localWrite g.id w (leBytes a.len (atomNew op old v.1 v.2)), old)
    | none => (s, 0)
  else
    let p := s.physOf g.core a.addr
    if s.isPeer p.1 then (s.drawn.flushSectors g.core p.1 a.len, ofBytes (s.peerBytes p.1 a.len))
    else match (s.flushSectors g.core p.1 a.len).atomicAt p.1 op v.1 v.2 (pteObj p.2) with
      | (s, some old) => (s, old)
      | (s, none) => (s, 0)

/-- Lanes in increasing order (R242). -/
def atomLanes (g : Group) (op : AtomOp) (loc : Bool) (d : Nat) (l : List Access) (s : State) :
    State × List (Nat × Nat) :=
  l.foldl (fun a x => let r := atomLane g op loc d a.1 x; (r.1, a.2 ++ [(x.lane, r.2)])) (s, [])

/-- The first access that cannot be performed: uncorrectable, or failed by a peer (R285, R296). -/
def atomFails (s : State) (g : Group) (loc : Bool) : List Access → State × Option Nat
  | [] => (s, none)
  | a :: t =>
    if loc then (s, none)
    else
      let p := s.physOf g.core a.addr
      let pa := p.1
      if s.isPeer pa then
        if s.peerOk pa then atomFails s.drawn g loc t else (s.drawn.journalPeer pa, some a.addr)
      else
        let s := s.flushSectors g.core pa a.len
        if s.poisonedSpan pa a.len then (s.journalBad pa (pteObj p.2), some a.addr) else atomFails s g loc t

/-- ATOM returns the old values; RED returns nothing, and a peer acknowledges it (R276, R296). -/
def atomBody (ret : Bool) (o : MAtom) : Body := fun s g _ =>
  let l := plainAccesses g (g.executing o.h) o.addr (atomWidth o.op)
  match checkAll s g o.loc .both l with
  | some e => e.eff ((encode (if ret then .atom o else .red o)).headD 0)
  | none =>
    if s.windowPending g o.loc l then .wait .result
    else if l.isEmpty then .go s .next []
    else
      let peer := fun (a : Access) => !o.loc && s.isPeer (s.physOf g.core a.addr).1
      let own := if ret then l else l.filter fun a => !peer a
      let chans := s.accessChans g o.loc .bypass false own
      let peer := s.peerAccess g o.loc .bypass false own
      match atomFails s g o.loc own with
      | (s, some va) =>
        .go (s.addPend g .atomic (if ret then (atomRegs o.d o.op).2 else []) [] [] [] 0 (some (badData va)) chans peer)
          .next []
      | (s, none) =>
        let r := atomLanes g o.op o.loc o.d.toNat own s
        if ret then
          .go (r.1.addPend g .atomic (atomRegs o.d o.op).2 []
            (r.2.flatMap fun x => regVals (atomWidth o.op == 8) o.d.toNat x.1 x.2) [] 0 none chans peer) .next []
        else .go (if o.loc then r.1 else r.1.addAcks g l chans) .next []

/-! ### Fences and cache hints (R247, R279 to R281) -/

/-- Data that a core's L1 has still to write back need a channel that serves no access (R421). -/
def State.dirtyHeld (s : State) (core : Nat) : Bool :=
  (s.l1Of core).any fun c => c.2.any Cached.dirty && s.isOwn c.1 && s.needsStack 2 c.1 && s.heldAt c.1

/-- The writes of a group that come before a release are not all performed: some are not acknowledged, or the core's
data cannot be written back yet (R247, R421). -/
def State.unperformed (s : State) (g : Group) : Bool := !g.acks.isEmpty || s.dirtyHeld g.core

/-- FENCE: with no executing lane nothing. A release waits for the group's writes, reports a failed peer
store at device scope or above, and writes the core's data back; an acquire lets go of clean data. -/
def fenceBody (o : MFence) : Body := fun s g _ =>
  if (g.executing o.h).isEmpty || o.scope == .group then .go s .next []
  else
    let rel := o.kind != .acq
    let acq := o.kind != .rel
    let wide := o.scope == .device || o.scope == .system
    if rel && s.unperformed g then .wait .fence
    else match (if rel && wide then g.lostStore else none) with
      | some (f, g') => .trapIn (s.setGroup g') f.cause f.tval
      | none =>
        let s := if rel then s.release g.core else s
        .go (if acq then s.acquire g.core else s) .next []

/-- PREF brings data nearer and changes no value: it never faults (R280). -/
def prefBody : Body := fun s _ _ => .go s .next []

/-- The line of an address. -/
def inLine (pa k : Nat) : Bool := k / 128 == pa / 128

/-- CFLUSH and CINV: the dirty bytes of each lane's line are written back; CINV drops the copy. CFLUSH.mem writes the
line back to HBM4, and CINV.l2 from the home L2 slice (R281). -/
def lineBody (drop : Bool) (o : MLine) : Body := fun s g _ =>
  let l := plainAccesses g (g.executing o.h) o.addr 1
  match s.checkGlobal g.core .none_ l with
  | some e => e.eff ((encode (if drop then .cinv o else .cflush o)).headD 0)
  | none =>
    let s1 := l.foldl (fun (s : State) a =>
      let pa := (s.physOf g.core a.addr).1
      let s := s.writeBack g.core (inLine pa)
      let s := if drop then s.dropClean g.core (inLine pa) else s
      if o.deep && !s.isPeer pa then
        s.onSectors (fun k => k / 4 == pa / 128) fun k x => if drop then x.leaveL2 else x.cleaned (s.heldAt (32 * k))
      else s) s
    let own := l.filter fun a => !s.isPeer (s.physOf g.core a.addr).1
    let chans := if o.deep && !drop then own.map fun a =>
        let pa := (s.physOf g.core a.addr).1
        (stackOf pa, channelOf pa)
      else []
    .go (if own.isEmpty then s1 else s1.addAcks g own chans.eraseDups) .next []

/-! ### FETCH and POST (R282, R283) -/

/-- The global address of a line transfer. -/
def xferAddr (g : Group) (o : MXfer) : Nat :=
  let off : Int := match o.off with
    | .ofs k => k.toInt * 128
    | .lit w => w.toInt
  truncTo 64 ((g.sreg o.sb.toNat).toInt + off)

/-- The scratchpad line lies within S; a window is no scratchpad (R282). -/
def State.scratchAt (s : State) (g : GroupId) (a len : Nat) : Bool :=
  match s.localAt g a len with
  | some (.scratch _) => true
  | _ => false

/-- The local address of the first poisoned word among these bytes (R416). -/
def State.firstBad (s : State) (g : GroupId) (a len : Nat) : Nat :=
  (((List.range (len / 8)).map fun k => a + 8 * k).find? fun w => s.localBad g w 8).getD a

/-- FETCH and POST: they take a reply slot and join the open RM batch. POST reads the scratchpad: a poisoned word traps
(R416). -/
def xferBody (post : Bool) (o : MXfer) : Body := fun s g _ =>
  let a := xferAddr g o
  let d := (g.sreg o.d.toNat).toNat
  if 2 ^ 57 ≤ a then .trap Cause.protection (BitVec.ofNat 64 a)
  else if 2 ^ 32 ≤ d || !s.scratchAt g.id d 128 then .trap Cause.protection (BitVec.ofNat 64 d)
  else if a % 128 ≠ 0 then .trap Cause.misaligned (BitVec.ofNat 64 a)
  else if d % 128 ≠ 0 then .trap Cause.misaligned (BitVec.ofNat 64 d)
  else match s.reach g.core a (if post then .write else .read) with
    | .miss => .wait (.walk [a] false post)
    | .noMemory => .trap Cause.protection ((encode (if post then .post o else .fetch o)).headD 0)
    | .protect => .trap Cause.protection (BitVec.ofNat 64 a)
    | .at_ pa _ =>
      if post && s.localBad g.id d 128 then
        .trap Cause.memUncorrectable (BitVec.ofNat 64 (s.firstBad g.id d 128))
      else if 8 ≤ g.slots.length then .wait .replySlot
      else
        let s := s.release g.core
        let n := s.nextOp
        .go { s.onGroup g.id fun x => { x with slots := x.slots ++ [n], rm := x.rm.join n } with
            nextOp := n + 1
            ops := s.ops ++ [⟨n, g.id, some .rm, g.here, if post then .post a pa d else .fetch a pa d, none, none⟩] }
          .next []

/-! ### Meanings -/

def execLd (o : MAcc) (s : State) : Out :=
  .next (issue (.ld o) o.h (skewed (.ld o) (loadBody false o.h o.t o.pol o.d o.addr ((encode (.ld o)).headD 0))) s)
def execSt (o : MAcc) (s : State) : Out :=
  .next (issue (.st o) o.h (skewed (.st o) (storeBody false o.h o.t o.pol o.d o.addr ((encode (.st o)).headD 0))) s)
def execLds (o : MLoc) (s : State) : Out :=
  .next (issue (.lds o) o.h (skewed (.lds o) (loadBody true o.h o.t .dflt o.d o.addr ((encode (.lds o)).headD 0))) s)
def execSts (o : MLoc) (s : State) : Out :=
  .next (issue (.sts o) o.h (skewed (.sts o) (storeBody true o.h o.t .dflt o.d o.addr ((encode (.sts o)).headD 0))) s)
def execAtom (o : MAtom) (s : State) : Out := .next (issue (.atom o) o.h (skewed (.atom o) (atomBody true o)) s)
def execRed (o : MAtom) (s : State) : Out := .next (issue (.red o) o.h (skewed (.red o) (atomBody false o)) s)
def execFence (o : MFence) (s : State) : Out := .next (issue (.fence o) o.h (skewed (.fence o) (fenceBody o)) s)
def execPref (o : MPref) (s : State) : Out := .next (issue (.pref o) o.h prefBody s)
def execCflush (o : MLine) (s : State) : Out := .next (issue (.cflush o) o.h (lineBody false o) s)
def execCinv (o : MLine) (s : State) : Out := .next (issue (.cinv o) o.h (lineBody true o) s)
def execFetch (o : MXfer) (s : State) : Out := .next (issue (.fetch o) o.h (xferBody false o) s)
def execPost (o : MXfer) (s : State) : Out := .next (issue (.post o) o.h (xferBody true o) s)

end Sys2Proof.Machine
end

