-- ==== Sys2Proof/Machine/Copy.lean ====
section
/-! DEFINITION. Batches, the instructions of the copy engine and the landing slots (R297 to R304, R311 to
R315, R319). -/

namespace Sys2Proof.Machine

/-! ### Batches (R297 to R301) -/

/-- The open batch is closed and takes its place in the queue (R298). -/
def Batches.seal (b : Batches) : Batches := ⟨Batch.empty, b.closed ++ [b.opened], b.seals + 1⟩

/-- SEAL (R298). -/
def sealBody (o : PSeal) : Body := fun s g _ =>
  if 15 ≤ (g.batches o.cls).incomplete then .wait (.sealRoom o.cls)
  else .group s (g.setBatches o.cls (g.batches o.cls).seal)

/-- What WAITB and YIELDB do once their condition holds: a failure is reported, or the batches are acquired
(R260, R296, R300). -/
def acquireEff (s : State) (g : Group) (c : Cls) (ctl : Ctl) : Eff :=
  match (match g.lostStore with
    | some x => some x
    | none => g.waitFailure [c]) with
  | some (f, g') => .trapIn (s.setGroup g') f.cause f.tval
  | none => .group (s.acquire g.core) (g.acquireBatches [c]) ctl

/-- WAITB (R300). -/
def waitbBody (o : PWait) : Body := fun s g _ =>
  if o.n.toNat < (g.batches o.cls).incomplete then .wait (.batch o.cls o.n.toNat)
  else acquireEff s g o.cls .next

/-- YIELDB (R301): the group leaves the active set, and goes on at the label when the condition holds. -/
def yieldbBody (o : PYieldb) : Body := fun s g _ =>
  let target := targetOf g.at_.1 o.tgt.toInt
  let w := Wait.yieldb o.cls o.n.toNat g.here target
  if o.n.toNat < (g.batches o.cls).incomplete then .wait w
  else acquireEff s (if g.wait = some w then g else { g with active := false, since := s.clock }) o.cls (.goto target)

/-! ### Issuing copies (R302 to R304, R315, R319) -/

/-- Five packed 32-bit numbers from a scalar on (R272, R304). -/
def packed (g : Group) (r : Nat) : List Nat :=
  (List.range 5).map fun d => (g.sreg (r + d / 2)).toNat / 2 ^ (32 * (d % 2)) % 2 ^ 32

/-- What CPY and CPYM read at issue (R304). -/
def copyArgs (g : Group) (srcLocal dstLocal : Bool) (srec drec sa sb sc : BitVec 6) : CopyArgs :=
  { srcLocal := srcLocal, dstLocal := dstLocal
    src := ⟨srec.toNat, g.sreg sa.toNat, packed g (sa.toNat + 1)⟩
    dst := ⟨drec.toNat, g.sreg sb.toNat, packed g (sb.toNat + 1)⟩
    done := g.sreg sc.toNat
    perm := g.sreg (sc.toNat + 1)
    org := (packed g (sc.toNat + 2)).map fun x => (BitVec.ofNat 32 x).toInt
    seq := g.cp.seals }

/-- Operations of class CP issued and not complete (R302). -/
def State.copiesOf (s : State) (g : GroupId) : Nat :=
  (s.ops.filter fun o => decide (o.gid = g ∧ o.cls = some .cp)).length

/-- An operation of an engine is issued: it joins the open batch, and what the group has written goes
before it (R258, R297). -/
def State.addOp (s : State) (g : Group) (c : Cls) (k : OpKind) : State :=
  let s := s.release g.core
  { s.onGroup g.id fun x => x.setBatches c ((x.batches c).join s.nextOp) with
    nextOp := s.nextOp + 1
    ops := s.ops ++ [⟨s.nextOp, g.id, some c, g.here, k, none, none⟩] }

/-- A copy or book load is issued, its record address having been checked (R302, R304). -/
def startCopy (s : State) (g : Group) (done : Word) (k : OpKind) (word : Word) : Eff :=
  match (if done = 0 then none else s.checkGlobal g.core .write [⟨0, done.toNat, 64⟩]) with
  | some e => e.eff word
  | none => if 64 ≤ s.copiesOf g.id then .wait .copyRoom else .go (s.addOp g .cp k) .next []

/-- CPY (R303, R304). -/
def cpyBody (o : PCpy) : Body := fun s g _ =>
  let word := (encode (.cpy o)).headD 0
  let a := copyArgs g (o.dir == .l2g) (o.dir == .g2l) o.srec o.drec o.sa o.sb o.sc
  if pastScalars o.sa 4 || pastScalars o.sb 4 || pastScalars o.sc 5 then .trap Cause.illegal word
  else startCopy s g a.done (.cpy a) word

/-- CPYM (R315). A wave belongs to no team whose slots it could reach (R376). -/
def cpymBody (o : PCpym) : Body := fun s g _ =>
  let word := (encode (.cpym o)).headD 0
  if isWave g.id || pastScalars o.sa 4 || pastScalars o.sb 4 || pastScalars o.sc 6 then .trap Cause.illegal word
  else
    let a := copyArgs g o.loc true o.srec o.drec o.sa o.sb o.sc
    startCopy s g a.done (.cpym a o.slot.toNat (g.sreg (o.sc.toNat + 5)) none) word

/-- CBLD (R319). -/
def cbldBody (o : PCbld) : Body := fun s g _ =>
  let image := g.sreg o.sa.toNat
  let done := g.sreg o.sc.toNat
  if image.toNat % 64 ≠ 0 then .trap Cause.misaligned image
  else startCopy s g done (.cbld o.book.toNat image done g.cp.seals) ((encode (.cbld o)).headD 0)

/-- CSTAT (R311): the eight words are on their way, or the failure that their first reader meets. -/
def cstatBody (o : PCstat) : Body := fun s g _ =>
  let va := (g.sreg o.sa.toNat).toNat
  let word := (encode (.cstat o)).headD 0
  if pastScalars o.sb 8 then .trap Cause.illegal word
  else match s.checkGlobal g.core .read [⟨0, va, 64⟩] with
  | some e => e.eff word
  | none =>
    let scals := block o.sb 8
    let p := s.physOf g.core va
    let l : List Access := [⟨0, va, 64⟩]
    let chans := s.accessChans g false .bypass false l
    let peer := s.peerAccess g false .bypass false l
    let r := s.gread g.core false p.1 64 (pteObj p.2)
    let t := if s.isPeer p.1 then r.1.drawn else r.1
    match r.2 with
    | none => .go (t.addPend g .scalar [] scals [] [] 0 (some (badData va)) chans peer) .next []
    | some bs =>
      let words := (List.range 8).map fun k => BitVec.ofNat 64 (ofBytes ((bs.drop (8 * k)).take 8))
      .go (t.addPend g .scalar [] scals [] (scals.zip words) 0 none chans peer) .next []

/-! ### Landing slots (R312 to R314) -/

/-- A landing slot of a team. -/
def Team.land (t : Team) (n : Nat) : Land := Sparse.get Land.idle t.lands n

def Team.setLand (t : Team) (n : Nat) (x : Land) : Team := { t with lands := Sparse.set Land.idle t.lands n x }

/-- LAND arms a slot, LAND.off disarms it (R312, R313). -/
def landBody (o : PLand) : Body := fun s g l =>
  let word := (encode (.land o)).headD 0
  if isWave g.id then .trap Cause.illegal word
  else
    let put := fun (f : Land → Land) => Eff.go
      (s.onTeam l.lid (teamOf g.id) fun t => t.setLand o.slot.toNat (f (t.land o.slot.toNat))) .next []
    match o.args with
    | none => put fun x => { Land.idle with gen := x.gen + 1 }
    | some a =>
      let base := (g.sreg a.sa.toNat).toNat
      let len := (g.sreg a.sb.toNat).toNat
      let want := (g.sreg a.sc.toNat).toNat
      if base % 32 ≠ 0 ∨ len % 32 ≠ 0 then .trap Cause.misaligned (g.sreg a.sa.toNat)
      else if 2 ^ 32 ≤ base ∨ l.scratchSize < base + len then .trap Cause.protection (g.sreg a.sa.toNat)
      else if len = 0 ∨ want = 0 ∨ 65535 < want then .trap Cause.illegal word
      else put fun x => ⟨.armed, base, len, want, 0, 0, x.gen + 1⟩

/-- LANDW (R312, R314). Its clause ends, and the group leaves the active set (R147). -/
def landwBody (o : PLandw) : Body := fun s g l =>
  let slot := o.slot.toNat
  if isWave g.id then .trap Cause.illegal ((encode (.landw o)).headD 0)
  else
    let st : LandState := ((s.team? l.lid (teamOf g.id)).map fun t => (t.land slot).st).getD .idle
    if g.wait = some (.filled slot) ∨ st = .filled then .group (s.acquire g.core) { g with active := false, since := s.clock } .clause
    else if st = .armed then .wait (.landing slot)
    else .trap Cause.illegal (BitVec.ofNat 64 slot)

/-! ### Meanings -/

def execCpy (o : PCpy) (s : State) : Out := .next (issue (.cpy o) o.h (cpyBody o) s)
def execCpym (o : PCpym) (s : State) : Out := .next (issue (.cpym o) o.h (cpymBody o) s)
def execLand (o : PLand) (s : State) : Out := .next (issue (.land o) o.h (landBody o) s)
def execLandw (o : PLandw) (s : State) : Out := .next (issue (.landw o) o.h (landwBody o) s)
def execSealb (o : PSeal) (s : State) : Out := .next (issue (.sealb o) o.h (sealBody o) s)
def execWaitb (o : PWait) (s : State) : Out := .next (issue (.waitb o) o.h (waitbBody o) s)
def execYieldb (o : PYieldb) (s : State) : Out := .next (issue (.yieldb o) o.h (yieldbBody o) s)
def execCstat (o : PCstat) (s : State) : Out := .next (issue (.cstat o) o.h (cstatBody o) s)
def execCbld (o : PCbld) (s : State) : Out := .next (issue (.cbld o) o.h (cbldBody o) s)

end Sys2Proof.Machine
end

