-- ==== Sys2Proof/Machine/CopyEngine.lean ====
section
/-! DEFINITION. The copy engine: the checks of a copy, what it reads, converts and writes, its completion
record, and multicast arrivals (R259, R305 to R310, R316 to R319). -/

namespace Sys2Proof.Machine

/-! ### Engine accesses -/

/-- Bytes of an engine access: address and length. -/
abbrev Bytes := Nat × Nat

/-- What keeps an engine from its work: a status of R310, or a translation that it has still to find. -/
inductive CopyStop where
  | status (n : Nat)
  | walk (va : Nat) (w : Bool)
  deriving DecidableEq, Repr

namespace Status

def ok : Nat := 0
def layout : Nat := 1
def convert : Nat := 2
def bookOrder : Nat := 3
def overlap : Nat := 4
def protection : Nat := 5
def uncorrectable : Nat := 6
def target : Nat := 7
def misaligned : Nat := 8

end Status

/-- One piece of an engine access lies in the scratchpad of the team, or its page gives the right (R307). -/
def State.pieceStop (s : State) (g : GroupId) (loc : Bool) (r : Right) (b : Bytes) : Option CopyStop :=
  if loc then (if 2 ^ 32 ≤ b.1 || !s.scratchAt g b.1 b.2 then some (.status Status.protection) else none)
  else match s.reach (s.engineUnit g) b.1 r with
    | .at_ .. => none
    | .protect | .noMemory => some (.status Status.protection)
    | .miss => some (.walk b.1 r.isWrite)

/-- The check of R307 on all the bytes of one side. -/
def State.bytesStop (s : State) (g : GroupId) (loc : Bool) (r : Right) (l : List Bytes) : Option CopyStop :=
  if !loc && l.any (fun b => decide (2 ^ 57 < b.1 + b.2)) then some (.status Status.protection)
  else l.findSome? (s.pieceStop g loc r)

/-- The physical address of an engine access. -/
def State.enginePa (s : State) (g : GroupId) (va : Nat) : Nat := (s.physOf (s.engineUnit g) va).1

/-- The bytes of an access lie on a peer. -/
def State.onPeer (s : State) (g : GroupId) (loc : Bool) (b : Bytes) : Bool := !loc && s.isPeer (s.enginePa g b.1)

/-- What an engine reads at the home of some bytes; none when they are uncorrectable, or a peer's access fails
(R308). One operation draws one free value (log 10). -/
def State.engineRead (s : State) (g : GroupId) (loc : Bool) (b : Bytes) : Option Nat :=
  if loc then (s.localAt g b.1 b.2).bind fun w =>
    if s.localBad g b.1 b.2 then none else some (ofBytes (s.localRead g w b.2))
  else
    let pa := s.enginePa g b.1
    if s.isPeer pa then (if s.peerOk pa then some (ofBytes (s.peerBytes pa b.2)) else none)
    else if s.poisonedSpan pa b.2 then none
    else some (ofBytes (s.memRead pa b.2))

/-- The places that the journal names for a piece that has failed: each bad sector or local word, or the piece on a
peer. -/
def State.badPlaces (s : State) (g : GroupId) (loc : Bool) (b : Bytes) : List Nat :=
  let unit := if loc then 8 else 32
  let parts := (List.range ((b.1 + b.2 - 1) / unit + 1 - b.1 / unit)).map fun i => unit * (b.1 / unit + i)
  if s.onPeer g loc b then [b.1]
  else if loc then parts.filter fun a => s.localBad g a 8
  else parts.filter fun a => s.poisoned (s.enginePa g a)

/-- The journal records a place that has failed: of a core store under its team's core, with the local address as
the offset (log 17). -/
def State.journalPlace (s : State) (g : GroupId) (loc : Bool) (a : Nat) : State :=
  if loc then s.journalAdd 5 0 0 (((s.group? g).map (·.core)).getD 0) (BitVec.ofNat 64 (a / 8 * 8))
  else
    let p := s.physOf (s.engineUnit g) a
    if s.isPeer p.1 then s.journalPeer p.1 else s.journalBad p.1 (pteObj p.2)

/-- The journal records the pieces that have failed, each place once (R308). -/
def State.journalPieces (s : State) (g : GroupId) (loc : Bool) (l : List Bytes) : State :=
  ((l.flatMap (s.badPlaces g loc)).eraseDups).foldl (fun t a => t.journalPlace g loc a) s

/-- The failed address of a piece: its first byte that lies in a bad sector or word, or its start on a peer. -/
def State.badStart (s : State) (g : GroupId) (loc : Bool) (b : Bytes) : Nat :=
  max b.1 ((s.badPlaces g loc b).headD b.1)

/-- The sectors of the part's own memory that pieces touch, each by its first byte there. -/
def State.pieceSectors (s : State) (g : GroupId) (loc : Bool) (l : List Bytes) : List Nat :=
  if loc then []
  else once ((l.flatMap fun b =>
    let pa := s.enginePa g b.1
    if s.isOwn pa then (List.range ((pa + b.2 - 1) / 32 + 1 - pa / 32)).map fun i => 32 * (pa / 32 + i) else []))

/-- An engine has made accesses at the homes of pieces (R240). -/
def State.engineTouch (s : State) (g : GroupId) (loc : Bool) (l : List Bytes) (write : Bool) : State :=
  (s.pieceSectors g loc l).foldl (fun s pa => s.touch [pa] ((l.head?.any fun b => s.inObjPage (s.engineUnit g) b.1)) write) s

/-- Some piece lies in a sector that needs a channel which serves no access (R419, R421). -/
def State.piecesHeld (s : State) (g : GroupId) (loc : Bool) (l : List Bytes) : Bool :=
  !s.hbm.isEmpty && (s.chansOf 2 (s.pieceSectors g loc l)).any s.channelHeld

/-- Reads the pieces of a source: what each gives, and the failed address of the first that fails. -/
def State.engineReads (s : State) (g : GroupId) (loc : Bool) (l : List Bytes) : State × List (Option Nat) × Option Nat :=
  let r := l.map (s.engineRead g loc)
  let bad := ((l.zip r).filter fun x => x.2.isNone).map (·.1)
  let s' := (s.engineTouch g loc l false).journalPieces g loc bad
  (if l.any (s.onPeer g loc) then s'.drawn else s', r, bad.head?.map (s.badStart g loc))

/-- The bytes that a put writes to. -/
def Put.bytes (p : Put) : Bytes := (p.bit / 8, max 1 (p.w / 8))

/-- What a put leaves in its bytes, from what they hold: half a byte keeps the other half (R23). -/
def Put.over (p : Put) (old : Nat) : Nat :=
  if p.w = 4 then old - old / 2 ^ (p.bit % 8) % 16 * 2 ^ (p.bit % 8) + p.v % 16 * 2 ^ (p.bit % 8) else p.v

/-- Writes one piece at its place; what a peer holds is not the part's. -/
def State.enginePut (s : State) (g : GroupId) (loc : Bool) (p : Put) : State :=
  let b := p.bytes
  if loc then match s.localAt g b.1 b.2 with
    | some w => s.localWrite g w (leBytes b.2 (p.over (ofBytes (s.localRead g w b.2))))
    | none => s
  else
    let pa := s.enginePa g b.1
    if s.isPeer pa then s
    else s.memWrite pa (leBytes b.2 (p.over (ofBytes (s.memRead pa b.2))))

/-- Writes piece after piece. -/
def State.enginePuts (s : State) (g : GroupId) (loc : Bool) (l : List Put) : State :=
  (l.foldl (fun s p => s.enginePut g loc p) s).engineTouch g loc (l.map Put.bytes) true

/-- The puts whose bytes are written whole: of half bytes, those of which both are put. -/
def wholePuts (l : List Put) : List Put :=
  l.filter fun p => p.w != 4 || l.any fun q => q.bit / 8 == p.bit / 8 && q.bit != p.bit

/-- The physical bytes of the part that the puts cover, for the poison they clear (R416). -/
def State.putBytes (s : State) (g : GroupId) (l : List Put) : List Nat :=
  (wholePuts l).flatMap fun p =>
    let pa := s.enginePa g p.bytes.1
    if s.isPeer pa then [] else State.span pa p.bytes.2

/-- The local bytes that the puts cover whole. -/
def localBytes (l : List Put) : List Nat := (wholePuts l).flatMap fun p => State.span p.bytes.1 p.bytes.2

/-- A put as one put a byte. -/
def Put.split (p : Put) : List Put :=
  if p.w = 4 then [p] else (List.range (p.w / 8)).map fun k => ⟨p.bit + 8 * k, 8, p.v / 2 ^ (8 * k) % 256⟩

/-- The puts of an operation that fails: each byte, or with `.radd` each 32-bit word, holds its former value or the one that
would have been written (R308, R356; log 22). -/
def State.mixed (s : State) (whole : Bool) (l : List Put) : List Put :=
  (if whole then l else l.flatMap Put.split).filter fun p =>
    Config.landed s.free (if whole then p.bytes.1 / 4 * 4 else p.bytes.1)

/-- Writes a box. With a source that failed, or a peer that fails, the destination is a mixture. -/
def State.engineWrite (s : State) (g : GroupId) (loc : Bool) (l : List Put) (bad : Option Nat) (whole : Bool := false) :
    State × Option Nat :=
  let lost := if bad.isSome then []
    else (l.map Put.bytes).filter fun b => s.onPeer g loc b && !s.peerOk (s.enginePa g b.1)
  match (match bad with
    | some a => some a
    | none => lost.head?.map (·.1)) with
  | some a => (((s.journalPieces g loc lost).enginePuts g loc (s.mixed whole l)).drawn, some a)
  | none =>
    let r := s.enginePuts g loc l
    let r := if loc then r.healLocal g (localBytes l) else r.clearCovered (s.putBytes g l)
    (if l.any fun p => s.onPeer g loc p.bytes then r.drawn else r, none)

/-! ### Indices of a box (R305) -/

/-- The indices of a box in linear order, i0 fastest. -/
def boxIndices : List Nat → List (List Nat)
  | [] => [[]]
  | e :: t => (boxIndices t).flatMap fun r => (List.range e).map (· :: r)

/-- perm[d]. -/
def permOf (w : Word) (d : Nat) : Nat := w.toNat / 2 ^ (3 * d) % 8

/-- Entries 0 to r − 1 are a permutation, and the others are zero. -/
def permOk (w : Word) (r : Nat) : Bool :=
  decide (w.toNat < 2 ^ 15) && (List.range r).all (fun k => (List.range r).any fun d => permOf w d == k)
    && (List.range 5).all fun d => decide (d < r) || permOf w d == 0

/-- The source index of a destination index. -/
def sourceIndex (a : CopyArgs) (r : Nat) (i : List Nat) : List Int :=
  (List.range r).map fun k =>
    (i.getD (((List.range r).find? fun d => permOf a.perm d == k).getD 0) 0 : Int) + a.org.getD k 0

/-- An index that may be negative is in range (R76). -/
def inRangeInt (r : BitVec 320) (e : List Nat) (j : List Int) : Bool :=
  (List.range (Rec.rank r)).all fun d =>
    decide (0 ≤ j.getD d 0) && decide (j.getD d 0 < ((Rec.extents r e).getD d 0 : Nat))

/-- The first element of an index's block (R76). -/
def blockFirst : List Int → List Int
  | [] => []
  | j :: t => (j / 32 * 32) :: t

/-- One element of the box: its number, where its source bits and the scale byte they take lie, and where
it is written with its block's scale byte. -/
structure BoxElem where
  lin : Nat
  i : List Nat
  src : Option Nat
  srcScale : Option Nat
  dst : Nat
  dstScale : Option Nat
  deriving DecidableEq, Repr

/-- The element of one destination index. -/
def boxElem (rs rd : BitVec 320) (a : CopyArgs) (x : List Nat × Nat) : BoxElem :=
  let j := sourceIndex a (Rec.rank rd) x.1
  let jn := j.map Int.toNat
  { lin := x.2
    i := x.1
    src := if inRangeInt rs a.src.ext j then some (Rec.bitAddr rs a.src.base.toNat jn) else none
    srcScale := if Rec.kind rs = 2 ∧ inRangeInt rs a.src.ext (blockFirst j) then
        some (truncTo 64 (Rec.scaleAddr rs a.src.base.toNat jn)) else none
    dst := Rec.bitAddr rd a.dst.base.toNat x.1
    dstScale := if Rec.kind rd = 2 then some (truncTo 64 (Rec.scaleAddr rd a.dst.base.toNat x.1)) else none }

/-- The elements of the box in linear order. -/
def boxElems (rs rd : BitVec 320) (a : CopyArgs) : List BoxElem :=
  ((boxIndices (Rec.extents rd a.dst.ext |>.take (Rec.rank rd))).zipIdx).map (boxElem rs rd a)

/-- The bytes of an element. -/
def elemBytes (r : BitVec 320) (bit : Nat) : Bytes := (bit / 8, max 1 (Rec.width (Rec.enc r) / 8))

/-- The lines of a residue-plane image (R49). -/
def imageLines (base : Nat) : List Bytes := (List.range 1536).map fun k => (base + 128 * k, 128)

/-! ### Conversions (R306) -/

/-- The rows of the table of R306. -/
inductive CopyRow where
  | same | number | quantise | expand | fromBlock | toBlock | block | image
  deriving DecidableEq, Repr

/-- The encodings of integers and floats. -/
def plainEnc (e : Nat) : Bool := decide (e ≤ 8) || (decide (10 ≤ e) && decide (e ≤ 12))

/-- The row of a pair of encodings; none ends the copy with CONVERT. -/
def copyRow (es ed : Nat) (a : CopyArgs) : Option CopyRow :=
  if es = 17 ∧ ed = 17 then some .image
  else if es = ed ∧ es ≤ 13 then some .same
  else if plainEnc es && plainEnc ed then some .number
  else if plainEnc es && ed == 13 then some .quantise
  else if es == 13 && plainEnc ed then some .expand
  else if 14 ≤ es ∧ es ≤ 16 ∧ 10 ≤ ed ∧ ed ≤ 12 then some .fromBlock
  else if es = 10 ∧ ed = 16 then some .toBlock
  else if es = ed ∧ 14 ≤ es ∧ es ≤ 16 ∧ permOf a.perm 0 = 0 ∧ a.org.getD 0 0 % 32 = 0 then some .block
  else none

/-- A converted element: its bits, and the record bits that it raises. -/
structure Conv where
  v : Nat
  nonfinite : Bool
  saturated : Bool
  inexact : Bool
  deriving DecidableEq, Repr

/-- A number that is NaN or an infinity. -/
def Num.notFinite : Num → Bool
  | .fin .. => false
  | _ => true

/-- A number to an integer or float encoding (R33, R306). -/
def convNum (ed : Nat) (x : Num) : Conv :=
  if ed ≤ 8 then
    let r := numToInt (Rec.ty ed) .rne x
    ⟨truncTo (Rec.width ed) r.1, x.notFinite, !x.isNan && r.2.getLsbD 4, !x.notFinite && r.2.getLsbD 0⟩
  else
    let r := numToFloat (fmtOf (Rec.ty ed)) .rne x
    ⟨r.1, x.notFinite, false, !x.notFinite && r.2.getLsbD 0⟩

/-- A number to a c8 code (R36, R306; log 44). -/
def convCode (b : Book) (x : Num) : Conv :=
  let c := quantise x b
  ⟨c, x.notFinite, false, !x.isNan && (x.notFinite || !numEq x (Num.ofInt (b.entry c)))⟩

/-- One element of any row but the two that work by blocks. -/
def convElem (row : CopyRow) (es ed : Nat) (sb db : Book) (bits scale : Nat) : Conv :=
  let x := Rec.value es sb bits scale 0
  match row with
  | .same | .block | .image | .toBlock => ⟨bits % 2 ^ Rec.width es, false, false, false⟩
  | .number | .expand | .fromBlock => convNum ed x
  | .quantise => convCode db x

/-- Exponent and significand of a bf16 element, none when it is not finite (R41). -/
def bf16Parts (x : Nat) : Option (Nat × Nat) :=
  let e := x / 2 ^ 7 % 256
  if e = 255 then none else some (max e 1, if e = 0 then x % 128 else 128 + x % 128)

/-- The scale of a block (R41). -/
def blockScale (xs : List Nat) : Nat :=
  (xs.foldl (fun m x => match bf16Parts x with
    | some (e, sig) => if sig = 0 then m else max m e
    | none => m) 0) - 14

/-- The mantissa of an element under a scale (R41). -/
def blockMantissa (scale x : Nat) : Conv :=
  let neg := x / 2 ^ 15 % 2 == 1
  match bf16Parts x with
  | none => ⟨truncTo 16 (if neg then -32768 else 32767), true, false, false⟩
  | some (e, sig) =>
    let q := quantum .rne neg sig ((e : Int) - 7 - scale) false 0
    ⟨truncTo 16 (if neg then -(q.1 : Int) else q.1), false, false, q.2⟩

/-- Elements of one destination block follow one another in linear order. -/
def sameBlock (x y : BoxElem × Nat × Nat) : Bool :=
  x.1.i.headD 0 / 32 == y.1.i.headD 0 / 32 && x.1.i.drop 1 == y.1.i.drop 1

/-- The scale byte of a destination block, from its elements with their bits and scales (R41, R306). -/
def blockScalePut (row : CopyRow) (l : List (BoxElem × Nat × Nat)) : List Put :=
  match l with
  | [] => []
  | (x, _, sc) :: _ => match x.dstScale with
    | none => []
    | some d => [⟨8 * d, 8, match row with
        | .toBlock => blockScale (l.map (·.2.1))
        | _ => if x.srcScale.isSome then sc else 127⟩]

/-- The elements of one destination block, converted. -/
def convBlock (row : CopyRow) (es ed : Nat) (sb db : Book) (l : List (BoxElem × Nat × Nat)) : List (BoxElem × Conv) :=
  match row with
  | .toBlock => let e := blockScale (l.map (·.2.1)); l.map fun x => (x.1, blockMantissa e x.2.1)
  | _ => l.map fun x => (x.1, convElem row es ed sb db x.2.1 x.2.2)

/-- What a box comes to, from the bits and scales of its elements (R305, R306). -/
def convBox (row : CopyRow) (rs rd : BitVec 320) (sb db : Book) (elems : Nat) (l : List (BoxElem × Nat × Nat)) :
    BoxOut :=
  let blocks := l.splitBy sameBlock
  let outs := blocks.flatMap (convBlock row (Rec.enc rs) (Rec.enc rd) sb db)
  { puts := blocks.flatMap (blockScalePut row) ++ outs.map fun o => ⟨o.1.dst, Rec.width (Rec.enc rd), o.2.v⟩
    nonfinite := outs.any fun o => o.2.nonfinite
    saturated := outs.any fun o => o.2.saturated
    inexact := outs.any fun o => o.2.inexact
    first := (outs.find? fun o => o.2.nonfinite || o.2.saturated).map fun o => o.1.lin
    elems := elems }

/-! ### Checks (R307, R316) -/

/-- A check of R307 on the records alone: LAYOUT. -/
def layoutBad (rs rd : BitVec 320) (a : CopyArgs) : Bool :=
  !Rec.good rs || !Rec.good rd || Rec.rank rs != Rec.rank rd || !permOk a.perm (Rec.rank rd)
    || ((Rec.kind rs == 3 || Rec.kind rd == 3)
      && (Rec.kind rs != Rec.kind rd || permOf a.perm 0 != 0 || permOf a.perm 1 != 1 || a.org.any (· != 0)))

/-- The lowest and the highest byte, and one past it, of some accesses (R307). -/
def hull : List Bytes → Option (Nat × Nat)
  | [] => none
  | b :: t => some (t.foldl (fun h x => (min h.1 x.1, max h.2 (x.1 + x.2))) (b.1, b.1 + b.2))

/-- Two hulls overlap. -/
def hullsMeet : Option (Nat × Nat) → Option (Nat × Nat) → Bool
  | some a, some b => decide (a.1 < b.2) && decide (b.1 < a.2)
  | _, _ => false

/-- A copy that may proceed: its row, its elements, and the bytes of both sides. -/
structure CopyPlan where
  row : CopyRow
  rs : BitVec 320
  rd : BitVec 320
  elems : List BoxElem
  src : List Bytes
  dst : List Bytes
  deriving DecidableEq, Repr

/-- An element whose bits do not lie at a multiple of their width, or an image that is not aligned (R74,
R77). -/
def planMisaligned (p : CopyPlan) (a : CopyArgs) : Bool :=
  if p.row = .image then decide (a.src.base.toNat % 128 ≠ 0) || decide (a.dst.base.toNat % 128 ≠ 0)
  else p.elems.any fun e =>
    (match e.src with
      | some b => decide (b % Rec.width (Rec.enc p.rs) ≠ 0)
      | none => false) || decide (e.dst % Rec.width (Rec.enc p.rd) ≠ 0)

/-- The plan of a copy whose records and encodings agree. -/
def copyPlan (row : CopyRow) (rs rd : BitVec 320) (a : CopyArgs) : CopyPlan :=
  if row = .image then ⟨row, rs, rd, [], imageLines a.src.base.toNat, imageLines a.dst.base.toNat⟩
  else
    let es := boxElems rs rd a
    { row := row, rs := rs, rd := rd, elems := es
      src := es.flatMap fun e => (e.src.map (elemBytes rs)).toList ++ (e.srcScale.map fun x => (x, 1)).toList
      dst := es.flatMap fun e => elemBytes rd e.dst :: (e.dstScale.map fun x => (x, 1)).toList }

/-- The bytes of the completion record. -/
def doneBytes (done : Word) : List Bytes := if done = 0 then [] else [(done.toNat, 64)]

/-- The checks of R307 in their order; `multi` for CPYM, whose destination is taken at offset 0 of a region not yet
known (R316; log 45). -/
def State.checkCopy (s : State) (g : GroupId) (pod : Nat) (lays : List (BitVec 320)) (a : CopyArgs) (multi : Bool) :
    Except CopyStop CopyPlan :=
  let rs := lays.getD a.src.lay 0
  let rd := lays.getD a.dst.lay 0
  if layoutBad rs rd a then .error (.status Status.layout)
  else match copyRow (Rec.enc rs) (Rec.enc rd) a with
    | none => .error (.status Status.convert)
    | some row =>
      if row = .quantise ∧ !(s.book pod (Rec.book rd)).ordered then .error (.status Status.bookOrder)
      else
        let p := copyPlan row rs rd a
        let flat : CopyArgs := if multi then { a with dst := { a.dst with base := 0 } } else a
        if planMisaligned (copyPlan row rs rd flat) flat then .error (.status Status.misaligned)
        else if !multi && ((!a.srcLocal && !a.dstLocal && hullsMeet (hull p.src) (hull p.dst))
            || (!a.dstLocal && hullsMeet (hull (doneBytes a.done)) (hull p.dst))) then
          .error (.status Status.overlap)
        else match s.bytesStop g a.srcLocal .read p.src with
          | some e => .error e
          | none => match (if multi then none else s.bytesStop g a.dstLocal .write p.dst) with
            | some e => .error e
            | none => match s.bytesStop g false .write (doneBytes a.done) with
              | some (.walk va w) => .error (.walk va w)
              | _ => .ok p

/-! ### Reading and converting (R305, R308) -/

/-- The elements whose source could be read, with their bits and scales. -/
def readElems (rs : BitVec 320) : List BoxElem → List (Option Nat) → List (BoxElem × Nat × Nat)
  | [], _ => []
  | e :: t, xs =>
    let ys := if e.src.isSome then xs.drop 1 else xs
    let bits := match e.src with
      | some b => (xs.headD none).map fun x => x / 2 ^ (b % 8) % 2 ^ Rec.width (Rec.enc rs)
      | none => some (Rec.padElem rs)
    let scale := if e.srcScale.isSome then ys.headD none else some 127
    let rest := readElems rs t (if e.srcScale.isSome then ys.drop 1 else ys)
    match bits, scale with
    | some b, some c => (e, b, c) :: rest
    | _, _ => rest

/-- The engine reads the source and converts it; the address that failed. -/
def State.readBox (s : State) (g : GroupId) (pod : Nat) (a : CopyArgs) (p : CopyPlan) :
    State × BoxOut × Option Nat :=
  let r := s.engineReads g a.srcLocal p.src
  if p.row = .image then
    let puts := (r.2.1.zip p.dst).filterMap fun x => x.1.map fun v => (⟨8 * x.2.1, 1024, v⟩ : Put)
    (r.1, ⟨puts, false, false, false, none, 16384⟩, r.2.2)
  else
    (r.1, convBox p.row p.rs p.rd (s.book pod (Rec.book p.rs)) (s.book pod (Rec.book p.rd)) p.elems.length
      (readElems p.rs p.elems r.2.1), r.2.2)

/-! ### Completion (R299, R310) -/

/-- The eight words of a completion record. -/
def doneWords (status extra elems first seq : Nat) : List Nat :=
  [status + 2 ^ 8 + extra, if status = Status.ok then elems else 0,
    if status = Status.ok then first else 2 ^ 64 - 1, 0, seq % 2 ^ 64, 0, 0, 0]

/-- Bits 11:9 of a record. -/
def boxBits (b : BoxOut) : Nat :=
  (if b.nonfinite then 2 ^ 9 else 0) + (if b.saturated then 2 ^ 10 else 0) + if b.inexact then 2 ^ 11 else 0

/-- FIRSTBAD. -/
def boxFirst (b : BoxOut) : Nat := b.first.getD (2 ^ 64 - 1)

/-- Writes the completion record, and the failure of one that lies on a failed peer (R308, R310). -/
def State.writeDone (s : State) (g : GroupId) (done : Word) (words : List Nat) : State × Option Nat :=
  if done = 0 then (s, none)
  else match s.reach (s.engineUnit g) done.toNat .write with
    | .at_ pa _ =>
      if s.isPeer pa then
        (if s.peerOk pa then (s.drawn, none) else (s.drawn.journalPeer pa, some done.toNat))
      else (s.homeWrite pa (words.flatMap (leBytes 8)), none)
    | _ => (s, none)

/-- An operation waits for a translation. -/
def State.opWalks (s : State) (n va : Nat) (w : Bool) : State := s.onOp n fun o => { o with walk := some (va, w) }

/-- The operation is complete: its record is written, and its batch holds what failed (R299, R308). Without a
translation for its record the operation is held. -/
def State.endCopy (s : State) (o : Op) (done : Word) (status extra elems first seq : Nat) (bad : Option Nat) : State :=
  if done ≠ 0 ∧ s.reach (s.engineUnit o.gid) done.toNat .write = .miss then s.opWalks o.n done.toNat true
  else
    let r := s.writeDone o.gid done (doneWords status extra elems first seq)
    r.1.finishOp o.n ((match bad with
      | some a => some a
      | none => r.2).map badData)

/-- A walk for the completion record of an operation that nothing is to hold: without a translation it writes
none (R388; log 102). -/
def State.walkDone (s : State) (o : Op) (done : Word) : State × Word :=
  let u := s.engineUnit o.gid
  match s.known u done.toNat with
  | some _ => (s, done)
  | none => match s.walk done.toNat with
    | .leaf t => (s.fillTlb u t, done)
    | .fail _ bad => (match bad with
      | some pa => s.journalBad pa
      | none => s, 0)

/-- An operation ends with PROTECTION, its record's page walked for at once. -/
def State.endDenied (s : State) (o : Op) (done : Word) (extra seq : Nat) : State :=
  let r := s.walkDone o done
  r.1.endCopy o r.2 Status.protection extra 0 0 seq none

/-- The status of an operation whose translation nothing can repair (R308, R388). -/
def State.denyCopy (s : State) (o : Op) : State :=
  match o.kind with
  | .cpy a => s.endDenied o a.done 0 a.seq
  | .cpym a _ t _ => s.endDenied o a.done (t.toNat / 2 ^ 56 * 2 ^ 16) a.seq
  | .cbld _ _ done seq => s.endDenied o done 0 seq
  | _ => s

/-- A matrix pass makes no memory access (R263). -/
def OpKind.isMma : OpKind → Bool
  | .mma => true
  | _ => false

/-- Operations of earlier batches of the class have made their accesses (R259). -/
def State.inTurn (s : State) (o : Op) : Bool :=
  match o.cls, s.group? o.gid with
  | some c, some g =>
    ((g.batches c).closed.takeWhile fun b => !b.ops.contains o.n).all fun b => b.ops.all fun n =>
      ((s.op? n).map fun x => x.kind.isMma).getD false
  | _, _ => true

/-! ### CPY and CBLD whole -/

/-- CPY (R305 to R308). -/
def State.runCpy (s : State) (o : Op) (a : CopyArgs) (pod : Nat) (lays : List (BitVec 320)) : State :=
  match s.checkCopy o.gid pod lays a false with
  | .error (.walk va w) => s.opWalks o.n va w
  | .error (.status n) => s.endCopy o a.done n 0 0 0 a.seq none
  | .ok p =>
    if s.piecesHeld o.gid a.srcLocal p.src || s.piecesHeld o.gid a.dstLocal p.dst
        || s.piecesHeld o.gid false (doneBytes a.done) then s
    else
    let r := s.readBox o.gid pod a p
    let w := r.1.engineWrite o.gid a.dstLocal r.2.1.puts r.2.2
    match w.2 with
    | some va => w.1.endCopy o a.done Status.uncorrectable 0 0 0 a.seq (some va)
    | none => w.1.endCopy o a.done Status.ok (boxBits r.2.1) r.2.1.elems (boxFirst r.2.1) a.seq none

/-- The entries of a book image (R34). -/
def bookOf (bs : List Byte) : Book :=
  let es := (List.range 256).map fun k => (BitVec.ofNat 16 (ofBytes ((bs.drop (2 * k)).take 2))).toInt
  { entries := Sparse.setAll Config.emptyEntry [] (es.zipIdx.map fun x => (x.2, x.1))
    ordered := (es.zip (es.drop 1)).all fun x => decide (x.1 < x.2) }

/-- CBLD (R319). A reader finds the whole old table until this event, and then the whole new one: of the values that
R210 allows each entry meanwhile, one choice of the model (DESIGN CHOICE, log 117). -/
def State.runCbld (s : State) (o : Op) (book : Nat) (image done : Word) (seq pod : Nat) : State :=
  let pieces := (List.range 16).map fun k => (image.toNat + 32 * k, 32)
  match s.bytesStop o.gid false .read pieces, s.bytesStop o.gid false .write (doneBytes done) with
  | some (.walk va w), _ => s.opWalks o.n va w
  | some (.status n), _ => s.endCopy o done n 0 0 0 seq none
  | none, some (.walk va w) => s.opWalks o.n va w
  | none, _ =>
    if s.piecesHeld o.gid false (pieces ++ doneBytes done) then s
    else
    let r := s.engineReads o.gid false pieces
    match r.2.2 with
    | some va => r.1.endCopy o done Status.uncorrectable 0 0 0 seq (some va)
    | none =>
      let b := bookOf (r.2.1.flatMap fun x => leBytes 32 (x.getD 0))
      (r.1.onPod pod fun p => { p with books := Sparse.set Book.empty p.books book b }).endCopy o done Status.ok
        (if b.ordered then 2 ^ 12 else 0) 256 (2 ^ 64 - 1) seq none

/-! ### CPYM (R315 to R318) -/

def targetT0 (t : Word) : Nat := t.toNat % 2 ^ 40
def targetStride (t : Word) : Nat := t.toNat / 2 ^ 40 % 2 ^ 16
def targetMask (t : Word) : Nat := t.toNat / 2 ^ 56

/-- The targets selected, with their teams (R315). -/
def targetsOf (t : Word) : List (Nat × Nat) :=
  ((List.range 8).filter fun k => (targetMask t).testBit k).map fun k => (k, targetT0 t + k * targetStride t)

/-- A targets word that R316 refuses. -/
def targetsBad (l : Launch) (t : Word) : Bool :=
  targetMask t == 0 || targetStride t == 0 || (targetsOf t).any fun x => decide (l.teamCount ≤ x.2)

/-- The pod whose engine carries out an operation. -/
def State.podOfOp (s : State) (o : Op) : Nat := podOf ((s.group? o.gid).map (·.core)|>.getD 0)

/-- The arrivals of one stream that are not released: those that the copy engine of an operation's pod has sent to a
team and that have not met its slot (R295; log 102). -/
def State.streamTo (s : State) (o : Op) (team : Nat) : List Arrival :=
  s.ops.flatMap fun x =>
    if lidOf x.gid = lidOf o.gid ∧ s.podOfOp x = s.podOfOp o then
      match x.kind with
      | .cpym _ _ _ (some (_, l)) => l.filter fun y => y.team == team && y.gen.isNone && y.reason.isNone
      | _ => []
    else []

/-- The engine checks a CPYM and reads its source, once; it sends while fewer than 64 arrivals of each stream are not
released (R295, R316). -/
def State.startCpym (s : State) (o : Op) (a : CopyArgs) (slot : Nat) (t : Word) (pod : Nat) (l : Launch) : State :=
  let sent := targetMask t * 2 ^ 16
  match s.checkCopy o.gid pod l.layouts a true with
  | .error (.walk va w) => s.opWalks o.n va w
  | .error (.status n) => s.endCopy o a.done n sent 0 0 a.seq none
  | .ok p =>
    if targetsBad l t then s.endCopy o a.done Status.target sent 0 0 a.seq none
    else if s.piecesHeld o.gid a.srcLocal p.src then s
    else if !(targetsOf t).all fun y => decide (((s.streamTo o y.2).map (·.seq)).length < 64) then s
    else
      let r := s.readBox o.gid pod a p
      match r.2.2 with
      | some va => r.1.endCopy o a.done Status.uncorrectable sent 0 0 a.seq (some va)
      | none =>
        { r.1.onOp o.n fun x =>
            { x with kind := .cpym a slot t (some (r.2.1, (targetsOf t).map fun y => ⟨y.1, y.2, s.nextOp, none, none⟩)) } with
          nextOp := s.nextOp + 1 }

/-- The bytes that an arrival writes, at its place in a region. -/
def arrivalPuts (b : BoxOut) (base : Nat) : List Put := b.puts.map fun p => { p with bit := p.bit + 8 * base }

/-- REFMASK and REASON (R310). -/
def arrivalBits (l : List Arrival) : Nat :=
  (l.map fun x => (if x.reason.getD 0 = 0 then 0 else 2 ^ (24 + x.k)) + x.reason.getD 0 * 2 ^ (32 + 2 * x.k)).sum

/-- The bytes of an arrival lie in the region and avoid a source in the same scratchpad (R312, R317). -/
def arrivalFits (a : CopyArgs) (own : Bool) (src : List Bytes) (x : Land) (puts : List Put) : Bool :=
  puts.all (fun p => decide (x.base ≤ p.bytes.1) && decide (p.bytes.1 + p.bytes.2 ≤ x.base + x.len))
    && !(a.srcLocal && own && hullsMeet (hull src) (hull (puts.map Put.bytes)))

/-- An arrival's outcome is known. -/
def State.setReason (s : State) (n k reason : Nat) : State :=
  s.onOp n fun o => { o with kind := match o.kind with
    | .cpym a slot t (some (b, l)) =>
      .cpym a slot t (some (b, l.map fun x => if x.k = k then { x with reason := some reason } else x))
    | y => y }

/-- A slot fills: the groups that wait for it go on (R312, R314). -/
def State.fillLand (s : State) (lid t slot : Nat) : State :=
  match s.team? lid t with
  | none => s
  | some tm =>
    let x := tm.land slot
    if x.st = .armed ∧ x.got = x.want ∧ x.wrote = x.want then
      let s := s.onTeam lid t fun tm => tm.setLand slot { x with st := .filled }
      { s with groups := s.groups.map fun g =>
          if (g.id == .member lid t (groupOf g.id) && g.wait == some (.landing slot)) = true then
            { g with wait := some (.filled slot) }
          else g }
    else s

/-- An arrival that has been accepted is written, or dropped when its slot's generation has changed
(R317). -/
def State.writeArrival (s : State) (o : Op) (slot : Nat) (b : BoxOut) (x : Arrival) (gen : Nat) : State :=
  let lid := lidOf o.gid
  match s.team? lid x.team with
  | none => s.setReason o.n x.k 2
  | some tm =>
    let d := tm.land slot
    if d.gen ≠ gen then s.setReason o.n x.k 2
    else
      let s := (s.enginePuts (.member lid x.team 0) true (arrivalPuts b d.base)).healLocal (.member lid x.team 0)
        (localBytes (arrivalPuts b d.base))
      let s := s.onTeam lid x.team fun tm => tm.setLand slot { tm.land slot with wrote := d.wrote + 1 }
      (s.fillLand lid x.team slot).setReason o.n x.k 0

/-- An arrival meets its slot (R312, R317). -/
def State.meetSlot (s : State) (o : Op) (a : CopyArgs) (slot : Nat) (b : BoxOut) (x : Arrival) (src : List Bytes) :
    State :=
  let lid := lidOf o.gid
  match s.team? lid x.team with
  | none => s.setReason o.n x.k 1
  | some tm =>
    let d := tm.land slot
    if d.st ≠ .armed ∨ d.want ≤ d.got then s.setReason o.n x.k 1
    else if !arrivalFits a (decide (teamOf o.gid = x.team)) src d (arrivalPuts b d.base) then s.setReason o.n x.k 3
    else
      let s := s.onTeam lid x.team fun tm => tm.setLand slot { d with got := d.got + 1 }
      s.onOp o.n fun o => { o with kind := match o.kind with
        | .cpym a slot t (some (b, l)) =>
          .cpym a slot t (some (b, l.map fun y => if y.k = x.k then { y with gen := some d.gen } else y))
        | y => y }

/-- The source bytes of a CPYM, for the overlap of R317. -/
def sourceBytes (lays : List (BitVec 320)) (a : CopyArgs) : List Bytes :=
  match copyRow (Rec.enc (lays.getD a.src.lay 0)) (Rec.enc (lays.getD a.dst.lay 0)) a with
  | some row => (copyPlan row (lays.getD a.src.lay 0) (lays.getD a.dst.lay 0) a).src
  | none => []

/-! ### The events -/

/-- COPY_OPERATION_COMPLETE: the operation finishes, when its batch's turn has come and nothing holds it. A
CPYM first reads its source, and then waits for its arrivals. -/
def State.copyComplete (s : State) (n : Nat) : State :=
  match s.op? n with
  | none => s
  | some o => match s.launch? (lidOf o.gid) with
    | none => s
    | some l =>
      if o.fault.isSome || o.walk.isSome || !s.inTurn o then s
      else match o.kind with
        | .cpy a => s.runCpy o a (s.podOfOp o) l.layouts
        | .cbld book image done seq => s.runCbld o book image done seq (s.podOfOp o)
        | .cpym a slot t none => s.startCpym o a slot t (s.podOfOp o) l
        | .cpym a _ t (some (b, arrivals)) =>
          if arrivals.all fun x => x.reason.isSome then
            s.endCopy o a.done Status.ok (boxBits b + targetMask t * 2 ^ 16 + arrivalBits arrivals) b.elems
              (boxFirst b) a.seq none
          else s
        | _ => s

/-- An armed team that is saved, or of which R156 has saved a group, holds its arrivals (R317). -/
def State.holdsArrival (s : State) (lid team slot : Nat) : Bool :=
  match s.team? lid team with
  | some tm => (tm.land slot).st == .armed &&
      (!tm.resident || s.groups.any fun g => lidOf g.id == lid && teamOf g.id == team && !g.resident)
  | none => false

/-- CPYM_ARRIVAL: an arrival is accepted or refused, in the order of its stream (R295); one that was accepted is
written or dropped. -/
def State.cpymArrival (s : State) (n k : Nat) : State :=
  match s.op? n with
  | none => s
  | some o => match o.kind, s.launch? (lidOf o.gid) with
    | .cpym a slot _ (some (b, arrivals)), some l =>
      match arrivals.find? fun x => x.k == k && x.reason.isNone with
      | none => s
      | some x =>
        if s.holdsArrival l.lid x.team slot then s
        else match x.gen with
          | some gen => s.writeArrival o slot b x gen
          | none =>
            if (s.streamTo o x.team).any fun y => decide (y.seq < x.seq) then s
            else s.meetSlot o a slot b x (sourceBytes l.layouts a)
    | _, _ => s

/-! ### Meanings -/

def execCopyOperationComplete (op : Nat) (s : State) : Out := .next (s.copyComplete op)
def execCpymArrival (op k : Nat) (s : State) : Out := .next (s.cpymArrival op k)

end Sys2Proof.Machine
end

