-- ==== Sys2Proof/Machine/Matrix.lean ====
section
/-! DEFINITION. The matrix instructions (R341 to R359): gangs, tokens, and what each instruction checks and
does at issue. What the engine computes stands in MatrixEngine. -/

namespace Sys2Proof.Machine

/-! ### Names -/

/-- A result type as a register type (R341). -/
def resTy : ResTy → Ty
  | .s64 => .s64
  | .s32 => .s32
  | .s16 => .s16
  | .s8 => .s8
  | .f64 => .f64
  | .f32 => .f32
  | .bf16 => .bf16

/-- The code of a result type (R341). -/
def resCode : ResTy → Nat
  | .s64 => 0
  | .s32 => 1
  | .s16 => 2
  | .s8 => 3
  | .f64 => 4
  | .f32 => 5
  | .bf16 => 6

/-- The pod of a group. -/
def Group.pod (g : Group) : Nat := podOf g.core

/-! ### Gangs (R326, R344) -/

/-- Entry `k` of the two scalars of GANG. -/
def gangEntry (w0 w1 : Word) (k : Nat) : Nat := (if k < 3 then w0 else w1).toNat / 2 ^ (11 * (k % 3)) % 2 ^ 11

/-- The member that an entry names. -/
def memberOf (x : Nat) : Member := ⟨x % 32, x / 32 % 4, x / 128 % 4, x / 512 % 4⟩

/-- The entries that name members. -/
def gangMembers (w0 w1 : Word) : List Member :=
  ((List.range 6).map fun k => memberOf (gangEntry w0 w1 k)).filter fun m => m.role != 0

/-- Each slab below `n` is held by exactly one member of the role. -/
def slabsHeld (n : Nat) (l : List Nat) : Bool := (List.range n).all (fun k => l.count k == 1) && l.all (· < n)

/-- A valid gang register with no reserved bit set (R326, R344). -/
def gangOk (self groups : Nat) (w0 w1 : Word) (x : Gang) : Bool :=
  decide (w0.toNat < 2 ^ 33) && decide (w1.toNat < 2 ^ 33)
    && ((List.range 6).all fun k =>
      let m := memberOf (gangEntry w0 w1 k)
      (m.role != 0 || gangEntry w0 w1 k == 0) && (m.role % 2 == 1 || m.aslab == 0) && (2 ≤ m.role || m.bslab == 0))
    && decide (2 ≤ x.members.length) && decide ((x.members.map (·.grp)).Nodup)
    && (x.members.all fun m => decide (m.grp < groups)) && (x.members.any fun m => m.grp == self)
    && slabsHeld x.a ((x.members.filter fun m => m.role % 2 == 1).map (·.aslab))
    && slabsHeld x.b ((x.members.filter fun m => 2 ≤ m.role).map (·.bslab))

/-- GANG (R344). -/
def gangBody (o : XGang) : Body := fun s g l =>
  let w0 := g.sreg o.m.toNat
  let w1 := g.sreg (o.m.toNat + 1)
  let x : Gang := ⟨2 ^ o.a.toNat, 2 ^ o.b.toNat, gangMembers w0 w1⟩
  if isWave g.id || pastScalars o.m 2 || !gangOk (groupOf g.id) l.groupsPer w0 w1 x then .trap Cause.illegal ((encode (.gang o)).headD 0)
  else .group s { g with gang := some x }

/-! ### Tokens and turns (R324, R343) -/

/-- The group holds the tile. -/
def State.holds (s : State) (g : Group) (t : Nat) : Bool := decide ((s.tile g.pod t).holder = .group g.id)

/-- An operation that reads or writes a tile. -/
def OpKind.isTile : OpKind → Bool
  | .drain .. | .drainm .. | .acst .. | .acld .. => true
  | _ => false

/-- The group's earlier tile instruction that has not finished (R343). -/
def State.tileOp (s : State) (g : GroupId) : Option Nat :=
  (s.ops.find? fun o => decide (o.gid = g) && o.kind.isTile).map (·.n)

/-- The trap of a token check (R324, R385). -/
def tokenTrap (t : Nat) : Eff := .trap Cause.token (BitVec.ofNat 64 t)

/-- A tile instruction of the holder: the token check, then its turn, then what it does (R343). -/
def withTile (t : Nat) (s : State) (g : Group) (k : Eff) : Eff :=
  if !s.holds g t then tokenTrap t
  else match s.tileOp g.id with
    | some n => .wait (.tile n)
    | none => k

/-- The engine has stopped: it halts the issuer (R340). -/
def engineHalt (s : State) (g : Group) : Eff :=
  .go (s.haltGroup g.id 6 0 false (BitVec.ofNat 64 g.here) 0 true) .done []

/-- A failed pass of this group into a tile, and the group once it is reported (R330). -/
def Group.passFailure (g : Group) (t : Nat) : Option (Failure × Group) :=
  (g.passFails.find? fun x => x.tile == t).map fun x =>
    (x.fail, { g with passFails := g.passFails.filter fun y => y.op != x.op, mx := g.mx.forget x.op })

/-- A tile with its residues and status as MZERO leaves them (R345). -/
def Tile.cleared (t : Tile) (fmt : AccFmt) (td : ResTy) (e : Nat) : Tile :=
  { t with res := [], fmt := fmt, td := td, e := e, scale := false, ovf := false, ovfpos := 0, clamp := false,
           det := false, ccount := 0 }

/-- Injected faults of a tile lose what they had made wrong (R359). -/
def State.dropInjected (s : State) (pod t : Nat) : State :=
  s.onPod pod fun p => { p with
    injected := p.injected.filter fun x => x.tile != t
    patterns := p.patterns.map fun x => { x with spots := x.spots.filter fun y => y.1 != t } }

/-- MZERO (R345). -/
def mzeroBody (o : XMzero) : Body := fun s g _ =>
  let e := g.sreg o.e.toNat
  let t := o.tile.toNat
  if (s.pod g.pod).stopped then engineHalt s g
  else withTile t s g <|
    if 2 ^ 9 ≤ e.toNat then .trap Cause.illegal ((encode (.mzero o)).headD 0)
    else .go ((s.setTile g.pod t ((s.tile g.pod t).cleared o.fmt o.td e.toNat)).dropInjected g.pod t) .next []

/-- REL (R324, R346). -/
def relBody (o : XTok) : Body := fun s g l =>
  let t := o.tile.toNat
  withTile t s g <| .go (s.setTile g.pod t { s.tile g.pod t with holder := .engine l.lid }) .next []

/-- ACQ (R324, R330, R346). -/
def acqBody (o : XTok) : Body := fun s g l =>
  let t := o.tile.toNat
  match g.passFailure t with
  | some (f, g') => .trapIn (s.setGroup g') f.cause f.tval
  | none =>
    let x := s.tile g.pod t
    let take := Eff.go (s.setTile g.pod t { x with holder := .group g.id }) .next []
    match x.holder with
    | .free => (match s.tileOp g.id with
        | some n => .wait (.tile n)
        | none => take)
    | .engine lid =>
      if lid ≠ l.lid then tokenTrap t
      else match s.tileOp g.id with
        | some n => .wait (.tile n)
        | none => if (s.pod g.pod).passInto t then .wait (.passes t) else take
    | .group _ => if g.wait = some (.holding t) then .go s .next [] else tokenTrap t

/-! ### MMA (R327 to R330, R347) -/

/-- Two arrivals agree (R330). -/
def Arrived.agrees (a b : Arrived) : Bool :=
  decide (a.gang = b.gang ∧ a.ins.ta = b.ins.ta ∧ a.ins.tb = b.ins.tb ∧ a.ins.fmt = b.ins.fmt ∧ a.ins.td = b.ins.td
    ∧ a.ins.tile = b.ins.tile ∧ a.ins.book = b.ins.book ∧ a.ins.trp = b.ins.trp)

/-- A latch waits for this group's arrival (R328). -/
def Latch.expects (x : Latch) (g : GroupId) : Bool :=
  x.lid == lidOf g && x.team == teamOf g && x.lists (groupOf g) && !x.arrived.any fun a => decide (a.gid = g)

/-- An arrival joins the oldest latch that expects its group, or opens one (R328). -/
def joinLatch (a : Arrived) : List Latch → List Latch
  | [] => [⟨teamOf a.gid, lidOf a.gid, [a]⟩]
  | x :: t => if x.expects a.gid then { x with arrived := x.arrived ++ [a] } :: t else x :: joinLatch a t

/-- The member has an MMA that no latch has been granted (R328). -/
def Pod.ungranted (p : Pod) (g : GroupId) : Bool := p.latches.any fun x => x.arrived.any fun a => decide (a.gid = g)

/-- What the member's MMA reads, by register and lane. -/
def fragmentValues (g : Group) (regs : List Nat) : Sparse Lane :=
  regs.flatMap fun r => g.lanes.map fun l => (vkey r l, g.readV g.issued r l)

/-- A group that has halted, has been faulted with its team, or has retired (R330). -/
def State.isGone (s : State) (g : GroupId) : Bool :=
  ((s.group? g).map (·.halted)).getD true || ((s.team? (lidOf g) (teamOf g)).map (·.faulted)).getD true

/-- The arrival is put into the latches; a rendezvous that lists a group that is gone is broken (R328, R330). -/
def State.enterLatch (s : State) (pod : Nat) (a : Arrived) : State :=
  let s := s.onPod pod fun p => { p with latches := joinLatch a p.latches }
  match (a.gang.members.map fun m => GroupId.member (lidOf a.gid) (teamOf a.gid) m.grp).find? s.isGone with
  | some g => s.breakGangs g
  | none => s

/-- The MMA goes to the latches (R328, R330). -/
def arrive (o : XMma) (s : State) (g : Group) (gang : Gang) (regs : List Nat) : Eff :=
  let p := s.pod g.pod
  let a : Arrived := ⟨g.id, s.nextOp, g.here, o, gang, fragmentValues g regs⟩
  if p.ungranted g.id || g.withdrawn.isSome then .wait .latch
  else match p.latches.find? fun x => x.expects g.id with
    | some x =>
      if (x.arrived.head?.map a.agrees).getD true then .go (put_ s a) .next []
      else
        let s := s.onPod g.pod fun p => { p with latches := p.latches.erase x }
        .trapIn (s.withdrawLatch x Cause.gangMismatch) Cause.gangMismatch (BitVec.ofNat 64 g.here)
    | none => if 16 ≤ p.latches.length then .wait .latch else .go (put_ s a) .next []
where
  /-- The operation is issued, its operands reserved, and its arrival noted (R297, R329). -/
  put_ (s : State) (a : Arrived) : State :=
    let s := s.onGroup g.id fun x =>
      { x with mx := x.mx.join a.op, reserved := x.reserved ++ [(a.op, regs)] }
    let s : State := { s with nextOp := s.nextOp + 1, ops := s.ops ++ [⟨a.op, g.id, some .mx, a.addr, .mma, none, none⟩] }
    s.enterLatch g.pod a

/-- MMA: a failed pass first, then its own checks at issue (R330, R347). -/
def mmaBody (o : XMma) : Body := fun s g l =>
  let word := (encode (.mma o)).headD 0
  let t := o.tile.toNat
  if isWave g.id then .trap Cause.illegal word
  else if (s.pod g.pod).stopped then engineHalt s g
  else match g.passFailure t with
    | some (f, g') => .trapIn (s.setGroup g') f.cause f.tval
    | none => match g.gang with
      | none => .trap Cause.illegal word
      | some gang =>
        if o.aux ≠ 0 ∨ (o.book ≠ 0 ∧ o.ta ≠ .c8 ∧ o.tb ≠ .c8) then .trap Cause.illegal word
        else match (mmaRegs g o).find? fun r => decide (g.n ≤ r) with
        | some r => .trap Cause.window (BitVec.ofNat 64 r)
        | none =>
        if (s.tile g.pod t).holder ≠ .engine l.lid then tokenTrap t
        else match g.badWord fun r x => (mmaRegs g o).contains r && (g.bypassed g.issued r x).isNone with
          | some w => .trap Cause.memUncorrectable (BitVec.ofNat 64 (winBase g.id + 8 * w))
          | none => arrive o s g gang (mmaRegs g o)

/-! ### MSCALE, MSTAT, CONT, MINJ (R349, R357 to R359) -/

/-- Every residue of the tile on the channels in use, through a function. -/
def Tile.mapRes (t : Tile) (f : Nat → Nat → Nat) : Tile :=
  { t with res := t.res.foldl (fun m x => Sparse.set 0 m x.1 (f (x.1 % 10) x.2)) t.res }

/-- Multiplied by 2^n in residues, with E lowered (R349). -/
def Tile.scaled (t : Tile) (n : Nat) : Tile :=
  { t.mapRes fun c x => x * (2 ^ n % Rns.modulus c) % Rns.modulus c with e := t.e - n }

/-- MSCALE (R349). -/
def mscaleBody (o : XScale) : Body := fun s g _ =>
  let t := o.tile.toNat
  let x := s.tile g.pod t
  withTile t s g <|
    if x.e < o.n.toNat then .trap Cause.matrixScale (BitVec.ofNat 64 o.n.toNat)
    else .go (s.setTile g.pod t (x.scaled o.n.toNat)) .next []

/-- A bit at a place. -/
def bitAt (b : Bool) (k : Nat) : Nat := if b then 2 ^ k else 0

/-- The status word of a tile (R357). -/
def Tile.status (t : Tile) : Nat :=
  bitAt t.scale 0 + bitAt t.ovf 1 + bitAt t.clamp 2 + bitAt t.det 3 + bitAt (decide (t.fmt = .acc32)) 18
    + resCode t.td * 2 ^ 19 + t.e % 2 ^ 9 * 2 ^ 23 + t.ovfpos % 2 ^ 14 * 2 ^ 32 + t.ccount % 2 ^ 16 * 2 ^ 48

/-- A scalar result of variable latency (R136). -/
def sendScalars (s : State) (g : Group) (l : List (Nat × Word)) : Eff :=
  .go (s.addPend g .scalar [] (l.map (·.1)) [] l 0 none) .next []

/-- MSTAT (R357). -/
def mstatBody (o : XMstat) : Body := fun s g _ =>
  let t := o.tile.toNat
  withTile t s g <| sendScalars s g [(o.d.toNat, BitVec.ofNat 64 (s.tile g.pod t).status)]

/-- The containment register (R358): its low and its high word. -/
def Pod.containment (p : Pod) (pod : Nat) : Nat × Nat :=
  let low := match p.event with
    | none => 0
    | some (cls, chan, tile, pos) =>
      2 ^ 63 + cls * 2 ^ 60 + chan * 2 ^ 56 + tile * 2 ^ 53 + pos / 128 % 128 * 2 ^ 46 + pos % 128 * 2 ^ 39
  (low + (if p.event.isSome then pod % 256 * 2 ^ 31 else 0), min p.total (2 ^ 32 - 1) * 2 ^ 32 + (p.retired.map fun c => 2 ^ (22 + c)).sum)

/-- CONT (R358). -/
def contBody (o : XCont) : Body := fun s g _ =>
  let c := (s.pod g.pod).containment g.pod
  if pastScalars o.d 2 then .trap Cause.illegal ((encode (.cont o)).headD 0)
  else sendScalars s g [(o.d.toNat, BitVec.ofNat 64 c.1), (o.d.toNat + 1, BitVec.ofNat 64 c.2)]

/-- One residue of a tile. -/
def Tile.residue (t : Tile) (pos chan : Nat) : Nat := Sparse.get 0 t.res (pos * 10 + chan)

def Tile.setResidue (t : Tile) (pos chan v : Nat) : Tile := { t with res := Sparse.set 0 t.res (pos * 10 + chan) v }

/-- A residue becomes wrong by a difference, and the fault takes a course (R335 to R337, R359). -/
def State.inject (s : State) (pod t pos c d : Nat) (mode : MinjMode) : State :=
  let tile := s.tile pod t
  let s := s.setTile pod t (tile.setResidue pos c ((tile.residue pos c + d) % Rns.modulus c))
  s.onPod pod fun p => { p with
    injected := (p.injected.filter fun y => !(y.tile == t && y.pos == pos && y.chan == c)) ++ [Injected.mk t pos c mode] }

/-- A fault of the silicon in a residue of a tile: one on a channel that the engine and the tile's format use (R334;
log 30). -/
def State.upset (s : State) (pod t pos c d : Nat) (mode : MinjMode) : State :=
  if !s.power || decide (Config.pods ≤ pod) || decide (8 ≤ t) || decide (16384 ≤ pos)
      || !(Rns.channels (s.tile pod t).fmt).contains c || (s.pod pod).retired.contains c || d % Rns.modulus c == 0 then s
  else s.inject pod t pos c d mode

/-- MINJ (R359). -/
def minjBody (o : XMinj) : Body := fun s g l =>
  let word := (encode (.minj o)).headD 0
  let x := (g.sreg o.r.toNat).toNat
  let t := o.tile.toNat
  let pos := x % 128 * 128 + x / 2 ^ 7 % 128
  let c := x / 2 ^ 14 % 16
  let m := Rns.modulus c
  let tile := s.tile g.pod t
  if !l.diag then .trap Cause.privilege word
  else withTile t s g <|
    if !(Rns.channels tile.fmt).contains c ∨ x / 2 ^ 18 % 512 % m = 0 then .trap Cause.illegal word
    else if (s.pod g.pod).retired.contains c then .go s .next []
    else .go (s.inject g.pod t pos c (x / 2 ^ 18 % 512) o.mode) .next []

/-! ### Drains and residue planes at issue (R350, R353 to R355) -/

/-- Rows and count of a drain (R350). -/
def drainRows (w : Word) : Nat × Nat := (w.toNat % 256, w.toNat / 256 % 256)

/-- A row count of 0, or rows beyond 127. -/
def rowsBad (w : Word) : Bool := (drainRows w).2 == 0 || decide (128 < (drainRows w).1 + (drainRows w).2)

/-- An operation of the engine that reads or writes tiles: it brings registers of its own, or none. -/
def startDrain (s : State) (g : Group) (regs : List Nat) (k : Nat → OpKind) : State :=
  let n := s.nextOp
  { s.onGroup g.id fun x => { x with
      pend := x.pend ++ [g.pendOf n (.drain n) regs [] [] [] 0 none]
      producers := x.producers.map fun p => { p with vregs := p.vregs.filter fun r => !regs.contains r } } with
    nextOp := n + 1
    ops := s.ops ++ [⟨n, g.id, none, g.here, k n, none, none⟩] }

/-- DRAIN (R350): with `.rec` the type is the recorded one, and its registers are checked here. -/
def drainBody (o : XDrain) : Body := fun s g _ =>
  let word := (encode (.drain o)).headD 0
  let t := o.tile.toNat
  let r := g.sreg o.r.toNat
  withTile t s g <|
    let td := o.td.getD (s.tile g.pod t).td
    let regs := drainRegs g td o.d o.r
    if rowsBad r ∨ ((td = .s64 ∨ td = .f64) ∧ o.d.toNat % 2 = 1) then .trap Cause.illegal word
    else match regs.find? fun x => decide (g.n ≤ x) with
      | some x => .trap Cause.window (BitVec.ofNat 64 x)
      | none =>
        if (g.pend.any fun p => regs.any p.vregs.contains) || g.reserved.any fun x => regs.any x.2.contains then
          .wait .result
        else
          let rows := drainRows r
          .go (startDrain s g regs fun _ => .drain ⟨t, rows.1, rows.2, o.rm, o.trp, o.shift.toInt, g.live⟩ td o.d.toNat) .next []

/-- The record that DRAINM can use (R353). -/
def drainmRecord (s : State) (g : Group) (r : BitVec 320) : Bool :=
  Rec.good r && Rec.kind r == 1 && Rec.rank r == 2 && Rec.enc r != 9
    && (Rec.enc r != 13 || (s.book g.pod (Rec.book r)).ordered)

/-- DRAINM (R353). -/
def drainmBody (o : XDrainm) : Body := fun s g l =>
  let word := (encode (.drainm o)).headD 0
  let t := o.tile.toNat
  let r := l.layouts.getD o.lay.toNat 0
  let base := g.sreg o.b.toNat
  let rows := g.sreg (o.b.toNat + 4)
  if pastScalars o.b 5 then .trap Cause.illegal word
  else withTile t s g <|
    if !drainmRecord s g r || rowsBad rows then .trap Cause.illegal word
    else if base.toNat * 8 % Rec.width (Rec.enc r) ≠ 0 then .trap Cause.misaligned base
    else .go (s.addOp g .mx (.drainm ⟨t, (drainRows rows).1, (drainRows rows).2, o.rm, o.trp, o.shift.toInt, g.live⟩ o.loc
      ⟨o.lay.toNat, base, (packed g (o.b.toNat + 1)).take 2⟩)) .next []

/-- The checks of an image at issue (R354). -/
def imageBad (l : Launch) (g : Group) (base : Word) (loc : Bool) : Option (Nat × Word) :=
  if base.toNat % 128 ≠ 0 then some (Cause.misaligned, base)
  else if loc && (isWave g.id || decide (2 ^ 32 ≤ base.toNat) || decide (l.scratchSize < base.toNat + Rns.imageSize)) then
    some (Cause.protection, base)
  else none

/-- ACST (R354). -/
def acstBody (o : XAcst) : Body := fun s g l =>
  let base := g.sreg o.b.toNat
  withTile o.tile.toNat s g <| match imageBad l g base o.loc with
    | some (c, tv) => .trap c tv
    | none => .go (s.addOp g .mx (.acst o.tile.toNat base o.radd o.loc)) .next []

/-- ACLD (R355). -/
def acldBody (o : XAcld) : Body := fun s g l =>
  let word := (encode (.acld o)).headD 0
  let base := g.sreg o.b.toNat
  let e := if o.add then 0 else (g.sreg (o.b.toNat + 1)).toNat
  let t := s.tile g.pod o.tile.toNat
  if !o.add && pastScalars o.b 2 then .trap Cause.illegal word
  else if (s.pod g.pod).stopped then engineHalt s g
  else withTile o.tile.toNat s g <|
    if 2 ^ 9 ≤ e then .trap Cause.illegal word
    else match imageBad l g base o.loc with
      | some (c, tv) => .trap c tv
      | none =>
        if o.add ∧ (t.fmt ≠ o.fmt ∨ t.td ≠ o.td) then .trap Cause.illegal word
        else .go (s.addOp g .mx (.acld o.tile.toNat base o.add o.fmt o.td e o.loc)) .next []

/-! ### Meanings -/

def execGang (o : XGang) (s : State) : Out := .next (issue (.gang o) o.h (gangBody o) s)
def execMzero (o : XMzero) (s : State) : Out := .next (issue (.mzero o) o.h (mzeroBody o) s)
def execRel (o : XTok) (s : State) : Out := .next (issue (.rel o) o.h (relBody o) s)
def execAcq (o : XTok) (s : State) : Out := .next (issue (.acq o) o.h (acqBody o) s)
def execMma (o : XMma) (s : State) : Out := .next (issue (.mma o) o.h (mmaBody o) s)
def execMscale (o : XScale) (s : State) : Out := .next (issue (.mscale o) o.h (mscaleBody o) s)
def execDrain (o : XDrain) (s : State) : Out := .next (issue (.drain o) o.h (drainBody o) s)
def execDrainm (o : XDrainm) (s : State) : Out := .next (issue (.drainm o) o.h (drainmBody o) s)
def execAcst (o : XAcst) (s : State) : Out := .next (issue (.acst o) o.h (acstBody o) s)
def execAcld (o : XAcld) (s : State) : Out := .next (issue (.acld o) o.h (acldBody o) s)
def execMstat (o : XMstat) (s : State) : Out := .next (issue (.mstat o) o.h (mstatBody o) s)
def execCont (o : XCont) (s : State) : Out := .next (issue (.cont o) o.h (contBody o) s)
def execMinj (o : XMinj) (s : State) : Out := .next (issue (.minj o) o.h (minjBody o) s)

end Sys2Proof.Machine
end

