-- ==== Sys2Proof/Machine/MatrixEngine.lean ====
section
/-! DEFINITION. The matrix engine: capture of operands and passes (R320 to R322, R327 to R332, R348),
reconstruction and its faults (R334 to R340), drains (R351 to R353) and residue planes (R354 to R356). -/

namespace Sys2Proof.Machine

/-! ### Operands (R320, R327) -/

/-- An operand element as an integer (R320). -/
def inElem (t : InTy) (b : Book) (bits : Nat) : Int :=
  match t with
  | .c8 => b.entry (bits % 256)
  | .s4 | .bsf4 => intOf .s4 bits
  | .s8 | .bsf8 => intOf .s8 bits
  | .s16 | .bsf16 => intOf .s16 bits

/-- One row of A, or column of B, that a member holds: 32 elements and a scale; an unscaled side supplies
127 (R321, R327). -/
def slabRow (t : InTy) (b : Book) (w base rho : Nat) (v : Sparse Lane) : List Int × Nat :=
  let lane := rho % w
  let r0 := base + rho / w * blockRegs t
  let reg := fun r => (Sparse.get 0 v (vkey r lane)).toNat
  ((List.range 32).map fun k =>
      inElem t b (reg (r0 + k * inBits t / 32) / 2 ^ (k * inBits t % 32) % 2 ^ inBits t),
    if inScaled t then reg (r0 + inBits t) % 256 else 127)

/-- The 128 rows of one operand: slab by slab, each from the member that holds it. -/
def operandRows (t : InTy) (b : Book) (w n : Nat) (reg : Arrived → Nat) (slab : Nat → Option Arrived) :
    List (List Int × Nat) :=
  (List.range n).flatMap fun i => (List.range (128 / n)).map fun rho =>
    match slab i with
    | some a => slabRow t b w (reg a) rho a.vregs
    | none => ([], 127)

/-- The arrival of the member that satisfies a condition. -/
def memberArrival (x : Latch) (g : Gang) (p : Member → Bool) : Option Arrived :=
  (g.members.find? p).bind fun m => x.arrived.find? fun a => groupOf a.gid == m.grp

/-- Both operands of a latch whose members have all arrived. -/
def operands (x : Latch) (a : Arrived) (b : Book) (w : Nat) : List (List Int × Nat) × List (List Int × Nat) :=
  (operandRows a.ins.ta b w a.gang.a (fun y => y.ins.ra.toNat) fun i =>
      memberArrival x a.gang fun m => m.role % 2 == 1 && m.aslab == i,
    operandRows a.ins.tb b w a.gang.b (fun y => y.ins.rb.toNat) fun i =>
      memberArrival x a.gang fun m => decide (2 ≤ m.role) && m.bslab == i)

/-! ### Passes (R321, R322) -/

/-- The alignment d of an element, when it is one that the pass adds. -/
def alignment (scales : Option (List Nat × List Nat)) (e r c : Nat) : Option Nat :=
  match scales with
  | none => some 0
  | some (ea, eb) =>
    let d : Int := (ea.getD r 0 + eb.getD c 0 : Nat) - (e : Int)
    if ea.getD r 0 = 255 ∨ eb.getD c 0 = 255 ∨ d < 0 ∨ 62 < d then none else some d.toNat

/-- Row and column of a position. -/
def rowOf (pos : Nat) : Nat := pos / 128
def colOf (pos : Nat) : Nat := pos % 128

/-- The first element that a pass omits. -/
def firstOmitted (scales : Option (List Nat × List Nat)) (e : Nat) : Option Nat :=
  (List.range 16384).find? fun pos => (alignment scales e (rowOf pos) (colOf pos)).isNone

/-- The exact dot product of a row and a column. -/
def dotRow (a b : List Int) : Int := ((a.zip b).map fun x => x.1 * x.2).sum

/-- The integer that a pass adds to an element (R321). -/
def passTerm (p : Pass) (e pos : Nat) : Int :=
  match alignment p.scales e (rowOf pos) (colOf pos) with
  | none => 0
  | some d => dotRow (p.a.getD (rowOf pos) []) (p.b.getD (colOf pos) []) * (2 ^ d : Nat)

/-- The residues of a tile after a pass on the channels in use (R321, R339). -/
def Tile.addPass (t : Tile) (retired : List Nat) (p : Pass) : Tile :=
  let chans := (Rns.channels t.fmt).filter fun c => !retired.contains c
  let next := (List.range 16384).flatMap fun pos =>
    let x := passTerm p t.e pos
    chans.map fun c => (pos * 10 + c, (t.residue pos c + Rns.encode x c) % Rns.modulus c)
  { t with res := Sparse.setAll 0 t.res next, scale := t.scale || (firstOmitted p.scales t.e).isSome }

/-- A captured latch: what its pass needs. -/
def capture (s : State) (pod : Nat) (x : Latch) (a : Arrived) (l : Launch) : Pass :=
  let o := operands x a (s.book pod a.ins.book.toNat) l.width
  { lid := x.lid
    ops := x.arrived.map fun y => (y.gid, y.op)
    tile := a.ins.tile.toNat
    a := o.1.map (·.1)
    b := o.2.map (·.1)
    scales := if inScaled a.ins.ta || inScaled a.ins.tb then some (o.1.map (·.2), o.2.map (·.2)) else none
    granted := s.clock
    level := if l.urgent then 8 else l.prio
    prio := if l.urgent then 8 else l.prio }

/-- Every listed member has arrived (R328). -/
def Latch.full (x : Latch) : Bool :=
  match x.arrived.head? with
  | some a => a.gang.members.all fun m => x.arrived.any fun y => groupOf y.gid == m.grp
  | none => false

/-- A pass is withheld: every member is told of it (R330, R348). -/
def State.withhold (s : State) (x : Latch) (f : Arrived → Failure) : State :=
  x.arrived.foldl (fun s a => s.failMma a (f a)) s

/-- RENDEZVOUS_GRANT: a full latch is captured and granted an entry, or its pass is withheld (R322, R328,
R348). -/
def State.grant (s : State) (pod k : Nat) : State :=
  let p := s.pod pod
  match p.latches[k]? with
  | none => s
  | some x => match x.arrived.head?, s.launch? x.lid with
    | some a, some l =>
      if !x.full || 16 ≤ p.table.length then s
      else
        let s := s.onPod pod fun p => { p with latches := p.latches.eraseIdx k }
        let t := s.tile pod a.ins.tile.toNat
        let pass := capture s pod x a l
        if a.ins.fmt ≠ t.fmt ∨ a.ins.td ≠ t.td then
          (s.withhold x fun y => ⟨Cause.gangMismatch, BitVec.ofNat 64 y.addr⟩).handTiles pod
        else match (if a.ins.trp then firstOmitted pass.scales t.e else none) with
          | some pos =>
            ((s.setTile pod a.ins.tile.toNat { t with scale := true }).withhold x fun _ =>
              ⟨Cause.matrixScale, BitVec.ofNat 64 pos⟩).handTiles pod
          | none =>
            let s := s.onPod pod fun p => { p with table := p.table ++ [pass] }
            x.arrived.foldl (fun s y => s.onGroup y.gid fun g =>
              { g with reserved := g.reserved.filter fun r => r.1 != y.op }) s
    | _, _ => s

/-- The waiting pass of highest rank: by level, then by age (R331). -/
def bestPass (l : List Pass) : Option Pass :=
  l.foldl (fun best p => match best with
    | none => some p
    | some q => if q.level < p.level ∨ (q.level = p.level ∧ p.granted < q.granted) then some p else some q) none

/-- PASS_START (R331). -/
def State.passStart (s : State) (pod : Nat) : State :=
  s.onPod pod fun p => match p.running, bestPass p.table with
    | none, some x => { p with running := some x, table := p.table.erase x }
    | _, _ => p

/-- PASS_COMPLETE (R332). -/
def State.passComplete (s : State) (pod : Nat) : State :=
  match (s.pod pod).running with
  | none => s
  | some x =>
    let s := s.setTile pod x.tile ((s.tile pod x.tile).addPass (s.pod pod).retired x)
    let s := s.onPod pod fun p => { p with running := none }
    (x.ops.foldl (fun s o => s.finishOp o.2 none) s).handTiles pod

/-- RESERVATION_AGING: the k-th waiting pass rises one level for each 4,096 core clocks (R331). -/
def State.passAges (s : State) (pod k : Nat) : State :=
  s.onPod pod fun p => { p with table := p.table.zipIdx.map fun (x, i) =>
    if i = k ∧ x.level < 8 ∧ x.granted + 4096 * (x.level - x.prio + 1) ≤ s.clock then { x with level := x.level + 1 }
    else x }

/-! ### Reconstruction and classification (R334 to R340) -/

/-- The location of an element in the journal (R413). -/
def elemLoc (chan tile pos : Nat) : Word := BitVec.ofNat 64 (chan + tile * 2 ^ 4 + rowOf pos * 2 ^ 7 + colOf pos * 2 ^ 14)

/-- A matrix event enters the journal (R337, R413). -/
def State.journalChan (s : State) (pod kind detail chan tile pos : Nat) : State :=
  s.journalAdd kind detail 4 pod (elemLoc chan tile pos)

/-- A channel leaves an engine; a second one stops it (R339, R340). -/
def Pod.dropChannel (p : Pod) (chan : Nat) : Pod :=
  { p with retired := p.retired ++ [chan], stopped := p.stopped || !p.retired.isEmpty,
           patterns := p.patterns.filter fun x => x.chan != chan }

/-- The holder of a drain that the engine's stop ends halts (R340). -/
def State.drainHalts (s : State) (o : Op) : State :=
  let s := s.finishOp o.n none
  if ((s.group? o.gid).map (·.halted)).getD true then s
  else s.haltGroup o.gid 6 0 false (BitVec.ofNat 64 o.addr) 0 true

/-- An operation that drains a tile. -/
def OpKind.drains : OpKind → Bool
  | .drain .. | .drainm .. => true
  | _ => false

/-- The engine of a pod stops: the drains that it has been given end (R340; log 101). -/
def State.endDrains (s : State) (pod : Nat) : State :=
  (s.ops.filter fun o => o.kind.drains && s.podOfOp o == pod).foldl State.drainHalts s

/-- A channel is retired for the engine at once; a second retirement stops the engine (R337, R340). -/
def State.retireChannel (s : State) (pod chan detail : Nat) (tile pos : Nat) : State :=
  if (s.pod pod).retired.contains chan then s
  else
    let s := s.onPod pod (·.dropChannel chan)
    let s := s.journalChan pod 4 detail chan tile pos
    if (s.pod pod).stopped then State.endDrains { s with toRetire := s.toRetire ++ [(.pod pod, none)] } pod else s

/-- The last event's classification is complete (R338). -/
def Pod.classify (p : Pod) (cls chan : Nat) : Pod :=
  { p with event := match p.event with
      | some (0, c, t, k) => if c = chan then some (cls, c, t, k) else some (0, c, t, k)
      | e => e }

/-- The corrected residue of an element is written back on a channel (R334, R337). -/
def State.writeBackRes (s : State) (pod tile pos chan : Nat) : State :=
  match Rns.reconstruct (s.tile pod tile).fmt (s.pod pod).retired ((s.tile pod tile).residue pos) with
  | .corrected j x =>
    if j = chan then
      (s.setTile pod tile ((s.tile pod tile).setResidue pos chan (Rns.encode x chan))).onPod pod fun p =>
        { p with injected := p.injected.filter fun y => !(y.tile == tile && y.pos == pos && y.chan == chan) }
    else s
  | _ => s

/-- The pattern pass of a channel has run (R337). -/
def State.patternRuns (s : State) (pod : Nat) (x : Pattern) : State :=
  let at_ := x.spots.headD (0, 0)
  let s := s.onPod pod fun p => { p with patterns := p.patterns.filter fun y => y.chan != x.chan }
  if x.hard then
    ((s.onPod pod (·.classify 3 x.chan)).journalChan pod 3 0 x.chan at_.1 at_.2).retireChannel pod x.chan 1 at_.1 at_.2
  else
    let s := x.spots.foldl (fun s y => s.writeBackRes pod y.1 y.2 x.chan) s
    (s.onPod pod (·.classify 2 x.chan)).journalChan pod 2 2 x.chan at_.1 at_.2

/-- Some tile of the engine is free (R337). -/
def State.freeTile (s : State) (pod : Nat) : Bool := (List.range 8).any fun t => decide ((s.tile pod t).holder = .free)

/-- PATTERN_PASS: the first pending pattern pass runs once a tile is free (R337). -/
def State.patternPass (s : State) (pod : Nat) : State :=
  match (s.pod pod).patterns with
  | [] => s
  | x :: _ => if s.freeTile pod then s.patternRuns pod x else s

/-- A write-back that did not hold: the channel's pattern pass takes it (R337). -/
def State.suspect (s : State) (pod chan tile pos : Nat) (hard : Bool) : State :=
  let p := s.pod pod
  if p.patterns.any fun x => x.chan == chan then
    s.onPod pod fun p => { p with patterns := p.patterns.map fun x =>
      if x.chan = chan then { x with spots := x.spots ++ [(tile, pos)], hard := x.hard || hard } else x }
  else if s.freeTile pod then s.patternRuns pod ⟨chan, [(tile, pos)], hard⟩
  else s.onPod pod fun p => { p with patterns := p.patterns ++ [⟨chan, [(tile, pos)], hard⟩] }

/-- A correction on a channel: it is counted, entered and classified (R334, R337, R338). -/
def State.corrected (s : State) (pod tile pos chan : Nat) : State :=
  let mode : Option MinjMode := ((s.pod pod).injected.find? fun y => y.tile == tile && y.pos == pos && y.chan == chan).map (·.mode)
  let s := s.onPod pod fun p =>
    { p with total := min (p.total + 1) (2 ^ 32 - 1), event := some (0, chan, tile, pos) }
  let s := s.journalChan pod 1 0 chan tile pos
  match mode with
  | some .stuck => s.suspect pod chan tile pos false
  | some .hard => s.suspect pod chan tile pos true
  | _ => ((s.writeBackRes pod tile pos chan).onPod pod (·.classify 1 chan)).journalChan pod 2 1 chan tile pos

/-- The check of a result against a redundant residue (R336). Correct arithmetic agrees with it; a result that the
engine's fault makes wrong is repeated once, and a second one marks the engine as faulty: the element counts as RANGE,
and the pod is retired when no launch is live (log 30). The value over all channels of an element that reconstructs lies
in the lower half, so such a RANGE drains as the greatest (R351). -/
def State.recheck (s : State) (pod : Nat) (r : Rns.Outcome) : State × Rns.Outcome :=
  let n := (s.pod pod).misreads
  if n = 0 then (s, r)
  else
    let s := s.onPod pod fun p => { p with misreads := n - 2 }
    if n = 1 then (s, r)
    else
      let s := s.journalAdd 3 0 5 pod 0
      ({ s with toRetire := s.toRetire ++ [(.pod pod, none)] }, .range true)

/-- The engine's arithmetic fails for some reconstructions (R336). -/
def State.misread (s : State) (pod n : Nat) : State :=
  if s.power && decide (pod < Config.pods) then s.onPod pod fun p => { p with misreads := n } else s

/-- Reconstruction of one element, with what it changes (R334, R336 to R339, R351). -/
def State.reconstructAt (s : State) (pod tile pos : Nat) : State × Rns.Outcome :=
  let t := s.tile pod tile
  let r := Rns.reconstruct t.fmt (s.pod pod).retired (t.residue pos)
  match r with
  | .valid _ => s.recheck pod r
  | .corrected chan _ =>
    let s := s.setTile pod tile { t with ccount := min (t.ccount + 1) 0xFFFF }
    (s.corrected pod tile pos chan).recheck pod r
  | .detected =>
    let s := s.setTile pod tile { t with det := true }
    let s := s.onPod pod fun p => { p with event := some (4, 0, tile, pos) }
    (s.journalChan pod 5 0 0 tile pos, r)
  | _ => (s, r)

/-! ### Draining elements (R351) -/

/-- How drained values are written: a value with its flags and whether it was clamped, and the ends. -/
structure Sink where
  conv : Int → Nat × Flags × Bool
  least : Nat
  greatest : Nat

/-- `X × 2^k` in a type (R351). -/
def convDrain (t : Ty) (rm : RMode) (k x : Int) : Nat × Flags × Bool :=
  let v := (Num.ofInt x).scale k
  if t.isAnyFloat then
    let r := numToFloat (fmtOf t) rm v
    (r.1, r.2, false)
  else
    let r := numToInt t rm v
    (truncTo (Ty.bits t) r.1, 0, r.2.getLsbD 4)

/-- The least and greatest values of a type: of a float the largest finite ones (R351). -/
def leastOf (t : Ty) : Nat := if t.isAnyFloat then (fmtOf t).big true else truncTo (Ty.bits t) (tyMin t)
def greatestOf (t : Ty) : Nat := if t.isAnyFloat then (fmtOf t).big false else truncTo (Ty.bits t) (tyMax t)

/-- A drain into a type. -/
def sinkOf (t : Ty) (rm : RMode) (k : Int) : Sink := ⟨convDrain t rm k, leastOf t, greatestOf t⟩

/-- A drain into c8 codes (R353). -/
def codeSink (b : Book) (k : Int) : Sink := ⟨fun x => (quantise ((Num.ofInt x).scale k) b, 0, false), 0, 255⟩

/-- Why a drain ends early: a failure, or the engine has stopped (R340, R352). -/
inductive DrainStop where
  | fail (f : Failure)
  | stopped
  deriving DecidableEq, Repr

/-- The elements drained so far, in order. -/
structure DrainRun where
  s : State
  vals : List (Nat × Nat)
  flags : Flags
  stop : Option DrainStop

/-- One element (R351). -/
def drainElem (pod tile : Nat) (k : Sink) (trp : Bool) (a : DrainRun) (pos : Nat) : DrainRun :=
  if a.stop.isSome then a
  else
    let before := (a.s.pod pod).stopped
    let r := a.s.reconstructAt pod tile pos
    let s := r.1
    if (s.pod pod).stopped && !before then { a with s := s, stop := some .stopped }
    else match r.2 with
      | .detected => { a with s := s, stop := some (.fail ⟨Cause.memUncorrectable, BitVec.ofNat 64 pos⟩) }
      | .range g =>
        let t := s.tile pod tile
        let s := if t.ovf then s else s.setTile pod tile { t with ovf := true, ovfpos := pos }
        if trp then { a with s := s, stop := some (.fail ⟨Cause.matrixRange, BitVec.ofNat 64 pos⟩) }
        else { a with s := s, vals := a.vals ++ [(pos, if g then k.greatest else k.least)] }
      | .valid x | .corrected _ x =>
        let v := k.conv x
        let t := s.tile pod tile
        let s := if v.2.2 then s.setTile pod tile { t with clamp := true } else s
        { s := s, vals := a.vals ++ [(pos, v.1)], flags := a.flags ||| v.2.1, stop := none }

/-- The positions of some rows, in order. -/
def rowPositions (row0 rows : Nat) : List Nat :=
  (List.range rows).flatMap fun q => (List.range 128).map fun c => 128 * (row0 + q) + c

/-- Drains some rows. -/
def State.drainRun (s : State) (pod : Nat) (a : DrainArgs) (k : Sink) : DrainRun :=
  (rowPositions a.row0 a.rows).foldl (drainElem pod a.tile k a.trp) ⟨s, [], 0, none⟩

/-- The power of two of a drained value (R351). -/
def drainExp (t : Tile) (a : DrainArgs) : Int := (t.e : Int) - 254 + a.shift

/-- The registers of the drained elements (R350). -/
def drainWrites (w : Nat) (td : ResTy) (d row0 : Nat) (vals : List (Nat × Nat)) : List (Nat × Lane) :=
  let t := resTy td
  let rw := if t.wide then 2 else 1
  vals.flatMap fun x =>
    let q := rowOf x.1 - row0
    let c := colOf x.1
    (putReg t.wide (d + (q * (128 / w) + c / w) * rw) (extend t x.2)).map fun y => (vkey y.1 (c % w), y.2)

/-- DRAIN_COMPLETE: the registers are written, or the failure is deferred (R351, R352). A drain whose group
has halted or whose pending result is gone ends. -/
def State.drainComplete (s : State) (n : Nat) : State :=
  match s.op? n with
  | none => s
  | some o => match o.kind, s.group? o.gid with
    | .drain a td d, some g =>
      let pod := g.pod
      match g.pend.find? fun p => p.kind == PendKind.drain n with
      | none => s.dropOp n
      | some p =>
        let r := s.drainRun pod a (sinkOf (resTy td) a.rm (drainExp (s.tile pod a.tile) a))
        let drop : Group → Group := fun g => { g with pend := g.pend.filter fun p => p.kind != PendKind.drain n }
        match r.stop with
        | some .stopped => r.s
        | some (.fail f) => (r.s.dropOp n).onGroup o.gid fun g =>
          (drop g).defer ⟨n, o.addr, f, p.vregs, [], p.idx, p.lanes⟩
        | none => (r.s.dropOp n).onGroup o.gid fun g =>
          ((drop g).writeAll ((drainWrites g.width td d a.row0 r.vals).filter fun x =>
            !(a.live &&& ~~~g.live).getLsbD (x.1 % 64))).raise r.flags
    | .drain .., none => s.dropOp n
    | _, _ => s

/-! ### DRAINM, ACST and ACLD (R353 to R356) -/

/-- The translation or right that an operation's bytes lack; a right, a scratchpad bound and a
non-canonical address fail its batch with PROTECTION (R356). One whose bytes wait for a stack is held (R419, R421). -/
def State.mxStop (s : State) (o : Op) (loc : Bool) (r : Right) (l : List Bytes) : Option State :=
  match l.find? fun b => (s.bytesStop o.gid loc r [b]).isSome with
  | none => if s.piecesHeld o.gid loc l then some s else none
  | some b => match s.bytesStop o.gid loc r [b] with
    | some (.walk va w) => some (s.opWalks o.n va w)
    | _ => some (s.finishOp o.n (some ⟨Cause.protection, BitVec.ofNat 64 b.1⟩))

/-- Where DRAINM writes the elements that are in range (R353). -/
def drainmBit (r : BitVec 320) (d : Side) (pos : Nat) : Option Nat :=
  let i := [colOf pos, rowOf pos]
  if Rec.inRange r d.ext i then some (Rec.bitAddr r d.base.toNat i) else none

/-- The sink of an encoding (R353). -/
def encSink (r : BitVec 320) (b : Book) (rm : RMode) (k : Int) : Sink :=
  if Rec.enc r = 13 then codeSink b k else sinkOf (Rec.ty (Rec.enc r)) rm k

/-- The failure of an operation that a peer or memory has failed. -/
def badAt (bad : Option Nat) : Option Failure := bad.map badData

/-- DRAINM (R353, R356). -/
def State.runDrainm (s : State) (o : Op) (a : DrainArgs) (loc : Bool) (d : Side) (pod : Nat) (lays : List (BitVec 320)) :
    State :=
  let r := lays.getD d.lay 0
  let ps := rowPositions a.row0 a.rows
  match s.mxStop o loc .write (ps.filterMap fun p => (drainmBit r d p).map (elemBytes r)) with
  | some s' => s'
  | none =>
    let run := s.drainRun pod a (encSink r (s.book pod (Rec.book r)) a.rm (drainExp (s.tile pod a.tile) a))
    let puts := run.vals.filterMap fun x => (drainmBit r d x.1).map fun b => (⟨b, Rec.width (Rec.enc r), x.2⟩ : Put)
    match run.stop with
    | some .stopped => (run.s.engineWrite o.gid loc puts (some 0)).1
    | some (.fail f) => (run.s.engineWrite o.gid loc puts (some 0)).1.finishOp o.n (some f)
    | none =>
      let w := run.s.engineWrite o.gid loc puts none
      w.1.finishOp o.n (badAt w.2) (if w.2.isNone then run.flags else 0)

/-- The place of a residue in an image, in bits, and its width (R49). -/
def planeBit (base pos chan : Nat) : Nat := 8 * (base + Rns.planeOffset chan pos)
def planeBits (chan : Nat) : Nat := 8 * Rns.planeWidth chan

/-- The residues that ACST stores for an element: those of the tile as they stand, and a retired channel's
from the element's value (R354); absent where that value is not known. -/
def storedResidue (t : Tile) (retired : List Nat) (x : Option Int) (pos chan : Nat) : Option Nat :=
  if retired.contains chan ∧ (Rns.channels t.fmt).contains chan then x.map fun v => Rns.encode v chan
  else some (t.residue pos chan)

/-- The value of each element, when a channel in use is retired; none where it is DETECTED (R339, R354). -/
def State.valuesOf (s : State) (pod tile : Nat) : State × List (Option Int) × Option Nat :=
  (List.range 16384).foldl (fun a pos =>
    let r := a.1.reconstructAt pod tile pos
    match r.2 with
    | .valid x | .corrected _ x => (r.1, a.2.1 ++ [some x], a.2.2)
    | _ => (r.1, a.2.1 ++ [none], match a.2.2 with
      | some p => some p
      | none => some pos)) (s, [], none)

/-- The channels whose planes an ACST writes (R50, R354). -/
def acstChannels (fmt : AccFmt) (radd : Bool) : List Nat := if radd then Rns.channels fmt else List.range 10

/-- The bytes of the planes of some channels, line by line. -/
def planeLines (base : Nat) (chans : List Nat) : List Bytes :=
  chans.flatMap fun c => (List.range (128 * Rns.planeWidth c)).map fun k => (base + Rns.planeOffset c 0 + 128 * k, 128)

/-- The puts of an ACST, from what memory holds where it adds. -/
def acstPuts (t : Tile) (retired : List Nat) (xs : List (Option Int)) (base : Nat) (radd : Bool)
    (old : Nat → Nat → Nat) : List Put :=
  (acstChannels t.fmt radd).flatMap fun c => (List.range 16384).filterMap fun pos =>
    (storedResidue t retired (xs.getD pos none) pos c).map fun v =>
      ⟨planeBit base pos c, planeBits c,
        if radd then (Rns.planeLoad c (old pos c) + v) % Rns.modulus c else if (Rns.channels t.fmt).contains c then v else 0⟩

/-- ACST (R354, R356). -/
def State.runAcst (s : State) (o : Op) (tile : Nat) (base : Word) (radd : Option Scope) (loc : Bool) (pod : Nat) : State :=
  let b := base.toNat
  let t := s.tile pod tile
  let lines := planeLines b (acstChannels t.fmt radd.isSome)
  match s.mxStop o loc (if radd.isSome then .both else .write) lines with
  | some s' => s'
  | none =>
    let retired := (s.pod pod).retired
    let reads := if radd.isSome then s.engineReads o.gid loc lines else (s, [], none)
    match reads.2.2 with
    | some va => reads.1.finishOp o.n (some (badData va))
    | none =>
      let mem := lines.zip (reads.2.1.map (·.getD 0))
      let old := fun pos c =>
        let a := b + Rns.planeOffset c pos
        ((mem.find? fun x => decide (x.1.1 ≤ a ∧ a < x.1.1 + 128)).map fun x =>
          x.2 / 2 ^ (8 * (a - x.1.1)) % 2 ^ planeBits c).getD 0
      let vals := if retired.any (Rns.channels t.fmt).contains then reads.1.valuesOf pod tile else (reads.1, [], none)
      let puts := acstPuts t retired vals.2.1 b radd.isSome old
      match vals.2.2 with
      | some pos =>
        (vals.1.engineWrite o.gid loc puts (some 0) radd.isSome).1.finishOp o.n (some ⟨Cause.memUncorrectable, BitVec.ofNat 64 pos⟩)
      | none =>
        let w := vals.1.engineWrite o.gid loc puts none radd.isSome
        w.1.finishOp o.n (badAt w.2)

/-- The residues that an ACLD brings; absent where they could not be read. -/
def acldResidues (lines : List (Bytes × Option Nat)) (base : Nat) (chans : List Nat) : List (Nat × Nat × Nat) :=
  chans.flatMap fun c => (List.range 16384).filterMap fun pos =>
    let a := base + Rns.planeOffset c pos
    ((lines.find? fun x => decide (x.1.1 ≤ a ∧ a < x.1.1 + 128)).bind (·.2)).map fun v =>
      (pos, c, Rns.planeLoad c (v / 2 ^ (8 * ((a - base) % 128)) % 2 ^ planeBits c))

/-- The tile after an ACLD of some residues (R355). -/
def Tile.load (t : Tile) (add : Bool) (rs : List (Nat × Nat × Nat)) : Tile :=
  rs.foldl (fun t r => t.setResidue r.1 r.2.1
    (if add then (t.residue r.1 r.2.1 + r.2.2) % Rns.modulus r.2.1 else r.2.2)) t

/-- ACLD (R355, R356): of one that fails, each residue holds its former or its loaded value. -/
def State.runAcld (s : State) (o : Op) (tile : Nat) (base : Word) (add : Bool) (fmt : AccFmt) (td : ResTy) (e : Nat)
    (loc : Bool) (pod : Nat) : State :=
  let chans := (Rns.channels fmt).filter fun c => !(s.pod pod).retired.contains c
  let lines := planeLines base.toNat chans
  match s.mxStop o loc .read lines with
  | some s' => s'
  | none =>
    let r := s.engineReads o.gid loc lines
    let rs := acldResidues (lines.zip r.2.1) base.toNat chans
    let t := s.tile pod tile
    match r.2.2 with
    | none =>
      let t' := (if add then t else t.cleared fmt td e).load add rs
      let s := r.1.setTile pod tile t'
      (if add then s else s.dropInjected pod tile).finishOp o.n none
    | some va =>
      let lands := fun (x : Nat × Nat × Nat) => Config.landed r.1.free (x.1 * 10 + x.2.1)
      let t' := if add then t else { t.cleared fmt td e with res := t.res }
      ((r.1.setTile pod tile (t'.load add (rs.filter lands))).drawn).finishOp o.n (some (badData va))

/-- MX_OPERATION_COMPLETE (R353 to R356). -/
def State.mxComplete (s : State) (n : Nat) : State :=
  match s.op? n with
  | none => s
  | some o => match s.launch? (lidOf o.gid) with
    | none => s
    | some l =>
      if o.fault.isSome || o.walk.isSome || !s.inTurn o then s
      else match o.kind with
        | .drainm a loc d => s.runDrainm o a loc d (s.podOfOp o) l.layouts
        | .acst t b r loc => s.runAcst o t b r loc (s.podOfOp o)
        | .acld t b add f td e loc => s.runAcld o t b add f td e loc (s.podOfOp o)
        | _ => s

/-! ### Meanings -/

def execRendezvousGrant (pod latch : Nat) (s : State) : Out := .next (s.grant pod latch)
def execPassStart (pod : Nat) (s : State) : Out := .next (s.passStart pod)
def execPassComplete (pod : Nat) (s : State) : Out := .next (s.passComplete pod)
def execReservationAging (pod k : Nat) (s : State) : Out := .next (s.passAges pod k)
def execPatternPass (pod : Nat) (s : State) : Out := .next (s.patternPass pod)
def execDrainComplete (op : Nat) (s : State) : Out := .next (s.drainComplete op)
def execMxOperationComplete (op : Nat) (s : State) : Out := .next (s.mxComplete op)

end Sys2Proof.Machine
end

