-- ==== Sys2Proof/Machine/Barrier.lean ====
section
/-! DEFINITION. Barriers and their instructions (R361 to R367). -/

namespace Sys2Proof.Machine

/-- The number of teams in a pod set, and the set of a team (R101). -/
def Launch.setSize (l : Launch) : Nat := l.pset + 1
def Launch.setOf (l : Launch) (t : Nat) : Nat := t / l.setSize

/-- The teams of a pod set, the last set cut short. -/
def Launch.setTeams (l : Launch) (k : Nat) : List Nat :=
  (List.range l.setSize).filterMap fun j => if k * l.setSize + j < l.teamCount then some (k * l.setSize + j) else none

/-- A barrier of a BAR field value for a group: its state and its members; none where the launch lacks it
(R361). -/
def State.barrier (s : State) (l : Launch) (g : Group) (k : Nat) : Option (Barrier × Nat) :=
  if isWave g.id then none
  else if k < 16 then
    (s.team? l.lid (teamOf g.id)).map fun t => (Sparse.get Barrier.zero t.bars k, l.groupsPer)
  else if k < 20 then
    let set := l.setOf (teamOf g.id)
    if l.podset then
      some (Sparse.get Barrier.zero l.podBars (set * 4 + (k - 16)), (l.setTeams set).length * l.groupsPer)
    else none
  else if l.cores then some (Sparse.get Barrier.zero l.grid (k - 20), l.teamCount * l.groupsPer)
  else none

/-- Writes the state of a barrier. -/
def State.setBarrier (s : State) (l : Launch) (g : Group) (k : Nat) (b : Barrier) : State :=
  if k < 16 then s.onTeam l.lid (teamOf g.id) fun t => { t with bars := Sparse.set Barrier.zero t.bars k b }
  else if k < 20 then
    s.onLaunch l.lid fun x =>
      { x with podBars := Sparse.set Barrier.zero x.podBars (l.setOf (teamOf g.id) * 4 + (k - 16)) b }
  else s.onLaunch l.lid fun x => { x with grid := Sparse.set Barrier.zero x.grid (k - 20) b }

/-- Two groups name the same barrier by one field value. -/
def sameBarrier (l : Launch) (a b : GroupId) (k : Nat) : Bool :=
  lidOf a == lidOf b && !isWave b &&
    (if k < 16 then teamOf a == teamOf b else if k < 20 then l.setOf (teamOf a) == l.setOf (teamOf b) else true)

/-- A group waits at a barrier (R362). -/
def Group.waitsAt (g : Group) (k : Nat) : Bool :=
  match g.wait with
  | some (.barrier j _) => j == k
  | _ => false

/-- Every waiter is released (R363). -/
def State.releaseWaiters (s : State) (l : Launch) (g : Group) (k : Nat) : State :=
  { s with groups := s.groups.map fun x =>
      if (sameBarrier l g.id x.id k && x.waitsAt k) = true then { x with wait := none } else x }

/-- The number of arrivals that a count names (R366). -/
def countOf (g : Group) : BarCount → Nat
  | .imm n => n.toNat
  | .reg c => (g.sreg c.toNat).toNat % 2 ^ 24

/-- The trap value of BARRIER_COUNT (R385). -/
def countTrap (n : Nat) (b : Barrier) : Eff := .trap Cause.barrierCount (BitVec.ofNat 64 (n + b.count.toNat * 2 ^ 24))

/-- A barrier that the launch lacks (R361). -/
def noBarrier (k : Nat) : Eff := .trap Cause.illegal (BitVec.ofNat 64 k)

/-- One arrival with a count that fits: the state after it, its token, and whether the generation completes
(R363). -/
def State.arrive (s : State) (l : Launch) (g : Group) (k n : Nat) (b : Barrier) : State × BitVec 16 × Bool :=
  if b.arrived.toNat + 1 = n then
    ((s.setBarrier l g k ⟨b.gen + 1, 0, 0⟩).releaseWaiters l g k, b.gen, true)
  else (s.setBarrier l g k ⟨b.gen, b.arrived + 1, BitVec.ofNat 24 n⟩, b.gen, false)

/-- A count that an arrival may not have (R363). -/
def badCount (n members : Nat) (b : Barrier) : Bool :=
  n == 0 || decide (members < n) || (b.count != 0 && b.count.toNat != n)

/-- BAR (R367). -/
def barBody (o : YBar) : Body := fun s g l =>
  let k := o.bar.toNat
  let n := countOf g o.n
  match s.barrier l g k with
  | none => noBarrier k
  | some (b, members) =>
    if badCount n members b then countTrap n b
    else
      let r := s.arrive l g k n b
      .go r.1 (if r.2.2 then .next else .park (.barrier k r.2.1.toNat)) []

/-- BARA (R367). -/
def baraBody (o : YBara) : Body := fun s g l =>
  let k := o.bar.toNat
  let n := countOf g o.n
  match s.barrier l g k with
  | none => noBarrier k
  | some (b, members) =>
    if badCount n members b then countTrap n b
    else
      let r := s.arrive l g k n b
      sendScalars r.1 g [(o.t.toNat, r.2.1.setWidth 64)]

/-- BARW (R367). -/
def barwBody (o : YTok) : Body := fun s g l =>
  let k := o.bar.toNat
  let t := (g.sreg o.t.toNat).toNat % 2 ^ 16
  match s.barrier l g k with
  | none => noBarrier k
  | some (b, _) => .go s (if b.gen.toNat = t then .park (.barrier k t) else .next) []

/-- The word of a barrier (R362). -/
def Barrier.word (b : Barrier) : Word := b.gen ++ b.arrived ++ b.count

/-- BARQ (R367). -/
def barqBody (o : YTok) : Body := fun s g l =>
  match s.barrier l g o.bar.toNat with
  | none => noBarrier o.bar.toNat
  | some (b, _) => sendScalars s g [(o.t.toNat, b.word)]

/-- BINIT (R367). -/
def binitBody (o : YBar) : Body := fun s g l =>
  let k := o.bar.toNat
  let n := countOf g o.n
  match s.barrier l g k with
  | none => noBarrier k
  | some (b, members) =>
    if members < n then countTrap n b
    else if s.groups.any fun x => sameBarrier l g.id x.id k && x.waitsAt k then
      .trap Cause.barrierBusy (BitVec.ofNat 64 k)
    else .go (s.setBarrier l g k ⟨b.gen, 0, BitVec.ofNat 24 n⟩) .next []

/-! ### Meanings -/

def execBar (o : YBar) (s : State) : Out := .next (issue (.bar o) o.h (barBody o) s)
def execBara (o : YBara) (s : State) : Out := .next (issue (.bara o) o.h (baraBody o) s)
def execBarw (o : YTok) (s : State) : Out := .next (issue (.barw o) o.h (barwBody o) s)
def execBarq (o : YTok) (s : State) : Out := .next (issue (.barq o) o.h (barqBody o) s)
def execBinit (o : YBar) (s : State) : Out := .next (issue (.binit o) o.h (binitBody o) s)

end Sys2Proof.Machine
end

