-- ==== Sys2Proof/Machine/Object.lean ====
section
/-! DEFINITION. Combinable objects: registration, requests, combiner waves and replies (R368 to R381). -/

namespace Sys2Proof.Machine

/-! ### A group as it starts (R63, R376) -/

/-- A group that starts at a clause, with nothing in its registers (R63; log 5). -/
def Group.fresh (id : GroupId) (w core item0 n : Nat) (pc : Addr) (live : Mask) (clock : Nat) : Group :=
  { id := id, width := w, core := core, resident := true, item0 := item0, pos := .header pc none, em := live,
    live := live, path := live, n := n, vregs := [], bad := [], sregs := [], preds := [], stack := [], fflags := 0, sig := 0,
    cause := 0, epc := 0, tval := 0, aside := none, bypass := [], issued := 0, dist := 0, last := pc, producers := [],
    readyAt := clock, pend := [], deferred := [], acks := [], lost := [], cp := Batches.empty, mx := Batches.empty,
    cb := Batches.empty, rm := Batches.empty, slots := [], gang := none, reserved := [], passFails := [],
    withdrawn := none, xswap := none, reads := [], pubs := [], backlog := [], spillOk := false, missAt := none, replies := [],
    active := false, since := clock, readySince := none, born := clock, wait := none, leave := false, stopAt := none, stopped := false,
    safe := none, halted := false, done := false, waveTime := 0 }

/-! ### Registration (R368 to R371, R380) -/

/-- A field of a descriptor (R369). -/
def descField (d : Nat) (lo len : Nat) : Nat := d / 2 ^ lo % 2 ^ len

/-- An object descriptor that breaks R369. -/
def descBad (d : Nat) : Bool :=
  descField d 320 192 != 0 || descField d 249 7 != 0 || descField d 185 7 != 0 || descField d 21 107 != 0
    || descField d 12 3 != 0
    || decide (descField d 0 12 < 8) || decide (2048 < descField d 0 12) || descField d 0 12 % 8 != 0
    || descField d 192 57 % 64 != 0 || descField d 128 57 % 8 != 0

/-- The object that a descriptor describes. -/
def descObj (d : Nat) : Obj :=
  { addr := descField d 192 57
    home := (0, 0)
    size := descField d 0 12
    entry := descField d 128 57
    win := 4 * (descField d 15 3 + 1)
    batch := match descField d 18 2 with
      | 0 => 32
      | 1 => 16
      | 2 => 8
      | _ => 1
    ctx := BitVec.ofNat 64 (descField d 256 64)
    queue := [], wave := none, held := false }

/-- Registered by a live launch (R370). -/
def State.registered (s : State) (addr : Nat) : Bool := s.launches.any fun l => l.objects.any fun o => o.addr == addr

/-- The scalar result of an instruction of this chapter (R136). -/
def sendStatus (s : State) (g : Group) (r : BitVec 6) (v : Nat) : Eff := sendScalars s g [(r.toNat, BitVec.ofNat 64 v)]

/-- A state that R370 calls NOTOBJ. -/
def State.notObject (s : State) (core : Nat) (o : Obj) : Bool :=
  match s.known core o.addr with
  | some t => !pteObj t.pte || !s.isOwn (t.phys o.addr) || decide (65536 < o.addr % 65536 + o.size)
  | none => true

/-- OBJREG once the descriptor has been read (R370). -/
def register (o : YObj) (s : State) (g : Group) (l : Launch) (d : Nat) : Eff :=
  let x := descObj d
  if descBad d then sendStatus s g o.s 4
  else if (s.known g.core x.addr).isNone then .wait (.walk [x.addr] false false)
  else if s.notObject g.core x then sendStatus s g o.s 3
  else if s.registered x.addr then sendStatus s g o.s 1
  else if 4096 ≤ l.objects.length then sendStatus s g o.s 2
  else
    let s := s.release g.core
    let s := if descField d 20 1 = 1 then
        match s.known g.core x.addr with
        | some t => s.homeWrite (t.phys x.addr) (List.replicate x.size 0) true
        | none => s
      else s
    let x := { x with home := (s.homeOf g.core x.addr).getD (0, 0) }
    sendStatus (s.onLaunch l.lid fun y => { y with objects := y.objects ++ [x] }) g o.s 0

/-- OBJREG (R370). -/
def objregBody (o : YObj) : Body := fun s g l =>
  let va := (g.sreg o.s.toNat).toNat
  match s.checkGlobal g.core .read [⟨0, va, 64⟩] with
  | some e => e.eff ((encode (.objreg o)).headD 0)
  | none =>
    let p := s.physOf g.core va
    let r := s.gread g.core false p.1 64 (pteObj p.2)
    let s' := if s.isPeer p.1 then r.1.drawn else r.1
    match r.2 with
    | none => .go (s'.addPend g .scalar [] [o.s.toNat] [] [] 0 (some (badData va))) .next []
    | some bs => register o s' g l (ofBytes bs)

/-- OBJDEL (R371). -/
def objdelBody (o : YObj) : Body := fun s g l =>
  let addr := (g.sreg o.s.toNat).toNat
  if isWave g.id then .trap Cause.illegal ((encode (.objdel o)).headD 0)
  else match s.object? l.lid addr with
    | none => sendStatus s g o.s 1
    | some x =>
      if x.wave.isSome || !x.queue.isEmpty then .wait (.object addr)
      else sendStatus (s.onLaunch l.lid fun y =>
        { y with objects := y.objects.filter fun z => z.addr != addr }) g o.s 0

/-- OREL (R380). -/
def orelBody (o : YObj) : Body := fun s g l =>
  let addr := (g.sreg o.s.toNat).toNat
  match s.object? l.lid addr with
  | none => sendStatus s g o.s 2
  | some x =>
    if x.held then sendStatus (s.onObject l.lid addr fun y => { y with held := false }) g o.s 0
    else sendStatus s g o.s 1

/-! ### Requests (R372 to R374) -/

/-- Requests of a group that have no answer yet (R374). -/
def State.unanswered (s : State) (g : GroupId) : Nat :=
  (s.ops.map fun o => match o.kind with
    | .ocall _ _ _ w => if o.gid = g then w.length else 0
    | _ => 0).sum

/-- Requests that a home has queued, or for which it has reserved room (R374). -/
def State.queuedAt (s : State) (h : Nat × Nat) : Nat :=
  (s.ops.map fun o => match o.kind with
    | .ocall sent _ _ _ => (sent.filter fun r => r.home == some h).length
    | _ => 0).sum
  + (s.launches.map fun l => ((l.objects.filter fun o => o.home == h).map fun o => o.queue.length).sum).sum

/-- The requests of an OCALL in lane order (R372). -/
def requestsOf (s : State) (g : Group) (o : YOcall) (op : Nat) (lanes : List Nat) : List Request :=
  lanes.map fun l =>
    { op := op, caller := g.id, lane := l, obj := readReg g g.issued true o.a.toNat l
      home := s.homeOf g.core (readReg g g.issued true o.a.toNat l)
      arg0 := g.readV g.issued o.b.toNat l, arg1 := g.readV g.issued (o.b.toNat + 1) l, item := g.item l }

/-- The group and every home have room (R374). -/
def State.callFits (s : State) (g : Group) (l : List Request) : Bool :=
  decide (s.unanswered g.id + l.length ≤ 256) && l.all fun r => match r.home with
    | some h => decide (s.queuedAt h + (l.filter fun x => x.home == some h).length ≤ 8192)
    | none => true

/-- OCALL (R372). -/
def ocallBody (o : YOcall) : Body := fun s g _ =>
  let lanes := g.executing o.h
  let n := s.nextOp
  let rs := requestsOf s g o n lanes
  if isWave g.id then .trap Cause.illegal ((encode (.ocall o)).headD 0)
  else match rs.find? fun r => decide (2 ^ 57 ≤ r.obj) with
    | some r => .trap Cause.protection (BitVec.ofNat 64 r.obj)
    | none => match rs.filter fun r => (s.known g.core r.obj).isNone with
      | r :: t => .wait (.walk (pagesOf ((r :: t).map (·.obj))) false false)
      | [] =>
        if rs.isEmpty then .go s .next []
        else if !s.callFits g rs then .wait .queueRoom
        else
          let s := s.addOp g .cb (.ocall rs o.d.toNat [] lanes)
          .go (s.onGroup g.id fun x => { x with
            pend := x.pend ++ [g.pendOf n (.reply n) (regsOf true o.d.toNat) [] [] [] 0 none] }) .next []

/-- OCALL_REQUEST_ACCEPT: the home takes the requests of one OCALL to one object, as one block, or answers
them at once (R373, R374). -/
def State.acceptCall (s : State) (n : Nat) : State :=
  match s.op? n with
  | none => s
  | some o => match o.kind with
    | .ocall (r :: t) d coming w =>
      let obj := r.obj
      let sameCaller := fun (p : Op) => decide (p.gid = o.gid ∧ p.n < n) && match p.kind with
        | .ocall sent _ _ _ => sent.any fun x => x.obj == obj
        | _ => false
      if s.ops.any sameCaller then s
      else
        let block := (r :: t).filter fun x => x.obj == obj
        let s := s.onOp n fun p => { p with kind := .ocall ((r :: t).filter fun x => x.obj != obj) d coming w }
        match s.object? (lidOf o.gid) obj with
        | none => block.foldl (fun s x => s.answer x 0 3) s
        | some y =>
          if y.held then block.foldl (fun s x => s.answer x 0 1) s
          else s.onObject (lidOf o.gid) obj fun y => { y with queue := y.queue ++ block }
    | _ => s

/-- OCALL_REPLY: one reply lands in its lane, if that lane is live; the last one completes the OCALL (R372,
R373). -/
def State.landReply (s : State) (n lane : Nat) : State :=
  match s.op? n with
  | none => s
  | some o => match o.kind with
    | .ocall sent d coming w => match coming.find? fun c => c.1 == lane with
      | none => s
      | some (_, v, st) =>
        let w' := w.filter (· != lane)
        let s := s.onOp n fun p => { p with kind := .ocall sent d (coming.filter fun c => c.1 != lane) w' }
        let s := s.onGroup o.gid fun g =>
          if (g.live.getLsbD lane && !g.halted) = true then
            g.writeAll [(vkey d lane, v), (vkey (d + 1) lane, BitVec.ofNat 32 st)]
          else g
        if w'.isEmpty then
          (s.finishOp n none).onGroup o.gid fun g => { g with pend := g.pend.filter fun p => p.kind != PendKind.reply n }
        else s
    | _ => s

/-! ### Waves (R375 to R379) -/

/-- The requests that a wave takes from the head of the queue (R375). -/
def takeRequests (max : Nat) (taken : List Request) : List Request → List Request
  | [] => taken
  | r :: t =>
    if max ≤ taken.length then taken
    else if taken.any fun x => decide (x.caller = r.caller) && x.op != r.op then taken
    else takeRequests max (taken ++ [r]) t

/-- A core of the home's pod with a slot and a window free in its combiner reservation (R16, R375). -/
def State.waveCore (s : State) (pod win : Nat) : Option Nat :=
  ((List.range 4).map (4 * pod + ·)).find? fun c =>
    let ws := (s.onCore c).filter fun g => isWave g.id
    !s.coresOut.contains c && decide (ws.length < 2)
      && decide ((ws.map Group.bytes).sum + windowBytes win 32 ≤ 4096)

/-- The registers of a wave as it starts (R376). -/
def waveRegs (rs : List Request) : Sparse Lane :=
  Sparse.setAll 0 [] (rs.zipIdx.flatMap fun x =>
    [(vkey 0 x.2, x.1.arg0), (vkey 1 x.2, x.1.arg1), (vkey 2 x.2, BitVec.ofNat 32 x.1.item),
      (vkey 3 x.2, BitVec.ofNat 32 (x.1.item / 2 ^ 32))])

/-- The scalars of a wave as it starts (R376). -/
def waveScalars (o : Obj) (n : Nat) : Sparse Word :=
  Sparse.setAll 0 [] [(0, BitVec.ofNat 64 o.addr), (1, BitVec.ofNat 64 n), (2, o.ctx)]

/-- The whole launch is saved: its waves wait until it comes back (R379). -/
def Launch.savedWhole (l : Launch) : Bool := l.wholeOnly && !l.teams.isEmpty && l.teams.all fun t => !t.resident

/-- WAVE_START (R375, R376). -/
def State.waveStart (s : State) (lid addr : Nat) : State :=
  match s.object? lid addr with
  | some o =>
    let id := GroupId.wave lid addr
    if o.held || o.wave.isSome || o.queue.isEmpty || (s.group? id).isSome
        || ((s.launch? lid).map Launch.savedWhole).getD true then s
    else match s.waveCore (o.home.1 * 32 + o.home.2) o.win with
      | none => s
      | some c =>
        let rs := takeRequests (min 32 o.batch) [] o.queue
        let live := maskOf (List.range rs.length) fun _ => true
        let g := Group.fresh id 32 c 0 o.win o.entry live s.clock
        let s := s.onObject lid addr fun o => { o with queue := o.queue.drop rs.length, wave := some rs }
        { s with groups := s.groups ++
          [{ g with vregs := waveRegs rs, sregs := waveScalars o rs.length }] }.fitL1 c
  | none => s

/-- WAVE_TIME_LIMIT: a wave that has run for 940,000 counted core clocks halts and holds its object
(R379). -/
def State.waveLimit (s : State) (lid addr : Nat) : State :=
  match s.group? (.wave lid addr) with
  | some g => if 940000 ≤ g.waveTime && !g.halted && !g.done then
      s.haltGroup (.wave lid addr) 5 0 false (BitVec.ofNat 64 g.here) 0
    else s
  | none => s

/-- CREPLY (R377). -/
def creplyBody (o : YCreply) : Body := fun s g _ =>
  if isWave g.id then
    let put := fun (m : Sparse Lane) (l : Nat) => Sparse.set 0 m l (g.readV g.issued o.a.toNat l)
    .group s { g with replies := (g.executing o.h).foldl put g.replies }
  else .trap Cause.illegal ((encode (.creply o)).headD 0)

/-- CDONE (R378): a pending deferred trap comes first (R285). -/
def cdoneBody (o : Bare) : Body := fun s g _ =>
  if !isWave g.id then .trap Cause.illegal ((encode (.cdone o)).headD 0)
  else match g.dues.head? with
    | some d => if g.olderFails d then .wait .result else .report d
    | none => if g.failing then .wait .result else .go ((s.endWave g.id).onGroup g.id fun x => { x with
        live := 0, em := 0, path := 0, stack := [], pend := [], active := false, wait := none, done := true }) .done []

/-! ### Meanings -/

def execObjreg (o : YObj) (s : State) : Out := .next (issue (.objreg o) o.h (objregBody o) s)
def execObjdel (o : YObj) (s : State) : Out := .next (issue (.objdel o) o.h (objdelBody o) s)
def execOcall (o : YOcall) (s : State) : Out := .next (issue (.ocall o) o.h (ocallBody o) s)
def execOrel (o : YObj) (s : State) : Out := .next (issue (.orel o) o.h (orelBody o) s)
def execCreply (o : YCreply) (s : State) : Out := .next (issue (.creply o) o.h (creplyBody o) s)
def execCdone (o : Bare) (s : State) : Out := .next (issue (.cdone o) o.h (cdoneBody o) s)

def execOcallRequestAccept (op : Nat) (s : State) : Out := .next (s.acceptCall op)
def execOcallReply (op lane : Nat) (s : State) : Out := .next (s.landReply op lane)
def execWaveStart (lid obj : Nat) (s : State) : Out := .next (s.waveStart lid obj)
def execWaveTimeLimit (lid obj : Nat) (s : State) : Out := .next (s.waveLimit lid obj)

end Sys2Proof.Machine
end

