-- ==== Sys2Proof/Machine/Submit.lean ====
section
/-! DEFINITION. Accepting a launch: the checks of a launch record (R61, R68 to R70, R78, R79), whether it
fits the part (R100, R101), the other refusals (R91), and what an accepted launch starts with. -/

namespace Sys2Proof.Machine

/-! ### The record (R69, R79) -/

/-- The reserved fields of R78 are zero. -/
def recordPlain (r : BitVec 2048) : Bool :=
  [(57, 7), (191, 1), (212, 12), (232, 8), (377, 7), (441, 7), (569, 7), (633, 7), (697, 7)].all fun x =>
    field r x.1 x.2 == 0

/-- ITEMS agrees with TEAMS, GRP and WIDTH (R61). -/
def Launch.itemsOk (l : Launch) : Bool :=
  let team := l.groupsPer * l.width
  l.items == 0 || (decide ((l.teamCount - 1) * team < l.items) && decide (l.items ≤ l.teamCount * team))

/-- The registers of the declared slots (R69). -/
def Launch.slotRegs (l : Launch) : List Nat := (List.range l.nslot).map l.rreg

/-- The runner fields keep R69. -/
def Launch.runnerOk (l : Launch) : Bool :=
  if l.runner then
    decide (1 ≤ l.nslot) && decide (l.nslot ≤ 8) && decide l.slotRegs.Nodup
      && (l.slotRegs.all fun x => decide (x < l.window))
      && l.spill % 65536 == 0 && l.spillSize % 65536 == 0 && decide (65536 ≤ l.spillSize)
  else l.nslot == 0 && l.spill == 0 && l.spillSize == 0

/-- The addresses that R78 gives an alignment have it. -/
def Launch.aligned (l : Launch) : Bool :=
  l.code % 8 == 0 && field l.record 320 57 % 8 == 0 && l.save % 65536 == 0 && l.fqueue % 64 == 0 && l.spill % 65536 == 0

/-- The checks of R79 that need the record alone. -/
def Launch.recordOk (l : Launch) : Bool :=
  recordPlain l.record && field l.record 168 2 != 3
    && decide (1 ≤ field l.record 175 7) && decide (field l.record 175 7 ≤ 64)
    && decide (field l.record 182 9 ≤ 256) && l.itemsOk && (!l.urgent || l.prio == 7)
    && (l.podset || l.pset == 0) && decide (l.npred ≤ 4) && l.runnerOk && l.aligned && l.teamFits

/-! ### The layout table (R70) -/

/-- Reads bytes that lie in one page for the distributors; none when they cannot be read. They reach no peer
(R424). The journal records uncorrectable data and table words (R391). -/
def State.readNow (s : State) (va len : Nat) : State × Option (List Byte) :=
  match s.reachNow va .read with
  | .at_ pa pte =>
    if s.isPeer pa then (s, none)
    else if s.poisonedSpan pa len then (s.journalSpan pa len (pteObj pte), none) else (s, some (s.memRead pa len))
  | _ => (s.noteWalk va, none)

/-- Reads words of 8 bytes one after another; none when one cannot be read. -/
def State.wordsNow (s : State) (va : Nat) : Nat → State × Option (List Byte)
  | 0 => (s, some [])
  | n + 1 => match s.readNow va 8 with
    | (s, none) => (s, none)
    | (s, some b) => match s.wordsNow (va + 8) n with
      | (s, none) => (s, none)
      | (s, some t) => (s, some (b ++ t))

/-- The 64 records of a table of 2,560 bytes. -/
def tableRecords (bs : List Byte) : List (BitVec 320) :=
  (List.range 64).map fun k => BitVec.ofNat 320 (ofBytes ((bs.drop (40 * k)).take 40))

/-- The layout table of a record: every record invalid when its address is 0 (R70). -/
def State.readTable (s : State) (va : Nat) : State × Option (List (BitVec 320)) :=
  if va = 0 then (s, some (List.replicate 64 0))
  else match s.wordsNow va 320 with
    | (s, none) => (s, none)
    | (s, some bs) => (s, some (tableRecords bs))

/-- Every record of the table is of KIND 0 or well formed (R79). -/
def tableOk (l : List (BitVec 320)) : Bool := l.all fun r => Rec.kind r == 0 || Rec.good r

/-! ### Whether a launch fits the whole part (R90, R100, R101) -/

/-- The pod map names a pod (R103). -/
def State.mapped (s : State) (p : Nat) : Bool :=
  match s.podMap with
  | none => true
  | some l => l.contains p

/-- A core that works: neither it nor its pod is retired or lost, and the pod map names the pod. -/
def State.coreWorks (s : State) (c : Nat) : Bool :=
  decide (c < Config.cores) && !s.coresOut.contains c && !s.podsOut.contains (podOf c) && s.mapped (podOf c)

/-- Teams of a launch that an empty core holds beside the reservations (R68). -/
def Launch.perCore (l : Launch) : Nat :=
  let need := l.groupsPer * windowBytes l.window l.width + l.scratchSize
  min (if need = 0 then slotLimit else storeLimit / need) (slotLimit / l.groupsPer)

/-- Groups of a launch for which a core with so much free store and so many free slots has room beside `h` of its
scratchpads. -/
def Launch.groupsBeside (l : Launch) (store slots h : Nat) : Nat :=
  min slots ((store - h * l.scratchSize) / max 1 (windowBytes l.window l.width))

/-- Teams of a launch that the two cores of a pair hold, each with so much free store and so many free slots: some
division of their scratchpads and groups fits (R62, R68). -/
def Launch.pairHolds (l : Launch) (storeA slotsA storeB slotsB : Nat) : Nat :=
  (((List.range ((slotsA + slotsB) / l.groupsPer + 1)).filter fun m => (List.range (m + 1)).any fun h =>
    decide (h * l.scratchSize ≤ storeA) && decide ((m - h) * l.scratchSize ≤ storeB)
      && decide (m * l.groupsPer ≤ l.groupsBeside storeA slotsA h + l.groupsBeside storeB slotsB (m - h))).getLast?).getD 0

/-- Teams of a launch that an empty core pair holds. -/
def Launch.perPair (l : Launch) : Nat := l.pairHolds storeLimit slotLimit storeLimit slotLimit

/-- A core takes new teams: it works, and its pod is not found failing (R103). -/
def State.takes (s : State) (c : Nat) : Bool := s.coreWorks c && !s.toRetire.any fun u => decide (u.1 = .pod (podOf c))

/-- Teams of a launch that an empty pod holds. -/
def State.perPod (s : State) (l : Launch) (pod : Nat) : Nat :=
  let works := fun k => s.takes (4 * pod + k)
  let cores := (List.range 4).filter works
  let more := if l.urgent && l.urgentFits then cores.length else 0
  if l.pair then
    ((List.range 2).filter fun k => works (2 * k) && works (2 * k + 1)).length * l.perPair + more
  else cores.length * l.perCore + more

/-- A pod set, or a co-resident launch, can never be placed (R100, R101). -/
def State.tooBig (s : State) (l : Launch) : Bool :=
  let set := min (l.pset + 1) l.teamCount
  let rest := l.teamCount % (l.pset + 1)
  let pods := (List.range Config.pods).map (s.perPod l)
  let takes := fun (n : Nat) => (pods.filter fun m => decide (n ≤ m)).length
  (l.podset && pods.all fun n => decide (n < set))
    || (l.cores && if l.podset then
          decide (takes (l.pset + 1) < l.teamCount / (l.pset + 1))
            || (rest != 0 && decide (takes rest < l.teamCount / (l.pset + 1) + 1))
        else decide (pods.sum < l.teamCount))

/-! ### Acceptance (R91) -/

namespace Reply

def ok : Nat := 0
def record : Nat := 1
def duplicate : Nat := 2
def queueFull : Nat := 3
def predFailed : Nat := 4
def resources : Nat := 5
def frozen : Nat := 6
def badmsg : Nat := 7
def aborted : Nat := 8
def partial_ : Nat := 9
def cancelled : Nat := 10
def unknownLid : Nat := 11
def limit : Nat := 12
def refused : Nat := 13
def unknownRkey : Nat := 14

end Reply

/-- A launch as it is accepted. -/
def Launch.make (r : BitVec 2048) (age : Nat) (qp : Option Nat) (super : Bool) (preds : List Nat)
    (lays : List (BitVec 320)) : Launch :=
  { lid := field r 240 16, record := r, layouts := lays, age := age, qp := qp, supervisor := super,
    started := false, preds := preds, predFailed := false, sentRanges := 0, ranges := [], teams := [], ended := 0,
    anyFault := false, aborted := false, cancelled := false, grid := [], podBars := [], objects := [],
    publishes := [], finals := [], outItems := [], records := [], saved := 0, saveHeld := none, headerBad := false,
    tiles := [] }

/-- The named predecessors that are live (R92). -/
def State.livePreds (s : State) (l : Launch) : List Nat :=
  ((List.range l.npred).map l.pred).filter fun x => (s.launch? x).isSome

/-- Unstarted launches of a queue (R90). -/
def State.queued (s : State) (q : Nat) : Nat := (s.launches.filter fun l => !l.started && l.queue == q).length

/-- The first refusal after RECORD that applies (R91). -/
def State.refusal (s : State) (l : Launch) : Option Nat :=
  if s.tooBig l then some Reply.resources
  else if (s.launch? l.lid).isSome then some Reply.duplicate
  else if 256 ≤ s.queued l.queue then some Reply.queueFull
  else if 4096 ≤ s.launches.length then some Reply.limit
  else none

/-- A launch record is checked, and accepted or refused with the status that is answered. -/
def State.accept (s : State) (r : BitVec 2048) (qp : Option Nat) : State × Nat :=
  let super := fun (l : Launch) => s.mgmt.super.getLsbD l.queue
  let l := Launch.make r s.nextAge qp false [] []
  if !l.recordOk then (s, Reply.record)
  else match s.readTable (field r 320 57) with
    | (s, none) => (s, Reply.record)
    | (s, some lays) =>
      if !tableOk lays then (s, Reply.record)
      else match s.refusal l with
        | some st => (s, st)
        | none =>
          ({ s with nextAge := s.nextAge + 1
                    launches := s.launches ++ [Launch.make r s.nextAge qp (super l) (s.livePreds l) lays] },
            Reply.ok)

/-- A launch record is accepted, or refused with a message on the queue pair that carried it (R89, R90). -/
def State.submit (s : State) (r : BitVec 2048) (qp : Option Nat) : State × Nat :=
  match s.accept r qp with
  | (s, 0) => (s, 0)
  | (s, st) => (s.post qp 2 st (field r 240 16) 0, st)

end Sys2Proof.Machine
end

