-- ==== Sys2Proof/Machine/System.lean ====
section
/-! DEFINITION. The system instructions (R400 to R407) and the release of parked waiters (R392). -/

namespace Sys2Proof.Machine

/-! ### Traps, halts and returns (R401 to R403) -/

/-- TRAP and BKPT (R401): the resume point is the place that follows (R384). -/
def trapBody (cause : Nat) (o : ZTrap) : Body := fun s _ _ => .go s (.trapNext cause (o.imm.setWidth 64)) []

/-- TRAP goes on at the next clause: it stands last in its clause (R111, R384). -/
def execTrap (o : ZTrap) (s : State) : Out := .next (issue (.trap o) o.h (trapBody Cause.software o) s)
def execBkpt (o : ZTrap) (s : State) : Out := .next (issue (.bkpt o) o.h (trapBody Cause.breakpoint o) s)

/-- The place after the instruction of a resume point and its literals (R402); none when the point is a header. -/
def Pos.skip (xfer : Addr) : Pos → Option Pos
  | .back hdr j | .slot hdr j _ => some (.after hdr j xfer)
  | .after hdr j _ => some (.after hdr (j + 1) xfer)
  | .header .. => none

/-- A resume point as the RTT at an address goes back to it: RTT is the instruction that transfers control (R112). -/
def Pos.from_ (xfer : Addr) : Pos → Pos
  | .header a _ => .header a (some xfer)
  | .after hdr j _ => .after hdr j xfer
  | p => p

/-- The group leaves its handler, and goes where RTT sends it. -/
def returnTo (s : State) (g : Group) (a : Aside) (p : Pos) : Eff :=
  .go (s.setGroup (g.leaveHandler a p)) (.at_ p) []

/-- After a trap of lanes that are behind, those lanes do not do their instruction again, or nothing of what they had
still to do (log 13). -/
def Aside.without (a : Aside) (all : Bool) : Aside :=
  match a.late with
  | none => a
  | some (k, m) => { a with backlog := (a.backlog.map fun w =>
      if (all || w.idx == k) = true then { w with lanes := w.lanes &&& ~~~m } else w).filter fun w => w.lanes != 0 }

/-- RTT (R402). -/
def rttBody (o : ZRtt) : Body := fun s g _ =>
  let word := (encode (.rtt o)).headD 0
  match g.aside with
  | none => .trap Cause.illegal word
  | some a =>
    if g.stack.length ≠ a.depth then .trap Cause.illegal word
    else match o.dest with
      | .both _ => .trap Cause.illegal word
      | .plain => returnTo s g a (a.resume.from_ g.here)
      | .reg r => returnTo s g (a.without true) (.header (g.sreg r.toNat).toNat (some g.here))
      | .skip => match (if a.late.isSome then some (a.resume.from_ g.here) else a.resume.skip g.here) with
        | some p => returnTo s g (a.without false) p
        | none => .trapIn (s.setGroup (g.leaveHandler a g.pos)) Cause.illegal word

/-- HALT (R403). -/
def haltBody : Body := fun s g _ => .go (s.haltGroup g.id 3 0 false (BitVec.ofNat 64 g.here) 0) .done []

/-! ### LAUNCH (R404) -/

/-- The four quarters of a launch record, each of which lies in one page. -/
def recordParts (va : Nat) : List Access := (List.range 4).map fun k => ⟨0, va + 64 * k, 64⟩

/-- Quarters of the record, read at device scope; none when a part of them is uncorrectable. -/
def State.readParts (s : State) (core : Nat) : List Access → State × Option (List Byte)
  | [] => (s, some [])
  | a :: t =>
    let p := s.physOf core a.addr
    match s.gread core false p.1 a.len (pteObj p.2) with
    | (s, none) => (s, none)
    | (s, some b) => match s.readParts core t with
      | (s, none) => (s, none)
      | (s, some t) => (s, some (b ++ t))

/-- The record at an address, read once; a peer's free values are drawn once. -/
def State.readRecord (s : State) (core va : Nat) : State × Option (List Byte) :=
  let r := s.readParts core (recordParts va)
  (if (recordParts va).any fun a => s.isPeer (s.physOf core a.addr).1 then r.1.drawn else r.1, r.2)

/-- LAUNCH once its record has been read: the supervisor check (R393), and acceptance (R95). -/
def launchRead (o : ZLaunch) (s : State) (g : Group) (l : Launch) (r : BitVec 2048) : Eff :=
  if s.mgmt.super.getLsbD (field r 196 6) && !l.supervisor then
    .trapIn s Cause.privilege ((encode (.launch o)).headD 0)
  else match s.accept r none with
    | (s', 0) => sendScalars s' g [(o.sb.toNat, 0)]
    | (s', st) =>
      if !s'.canPost then .wait .message
      else sendScalars (s'.post none 2 st (field r 240 16) 0) g [(o.sb.toNat, BitVec.ofNat 64 st)]

/-- LAUNCH: it releases earlier accesses of the group before the record is read. -/
def launchBody (o : ZLaunch) : Body := fun s g l =>
  let va := (g.sreg o.sa.toNat).toNat
  match s.checkGlobal g.core .read (recordParts va) with
  | some e => e.eff ((encode (.launch o)).headD 0)
  | none =>
    if s.unperformed g then .wait .fence
    else match g.lostStore with
      | some (f, g') => .trapIn (s.setGroup g') f.cause f.tval
      | none =>
        match (s.release g.core).readRecord g.core va with
        | (s', none) => .trapIn s' Cause.memUncorrectable (BitVec.ofNat 64 va)
        | (s', some bs) => launchRead o s' g l (BitVec.ofNat 2048 (ofBytes bs))

/-! ### Translation (R405 to R407) -/

/-- What SETS and TLBINV do as `FENCE.rel.device` before they act: they wait for the group's writes, report
a failed peer store, and write the core's data back. -/
def released (s : State) (g : Group) (k : State → Group → Eff) : Eff :=
  if s.unperformed g then .wait .fence
  else match g.lostStore with
    | some (f, g') => .trapIn (s.setGroup g') f.cause f.tval
    | none => k (s.release g.core) g

/-- A translation root that SETS refuses (R405). -/
def rootBad (v : Word) : Bool :=
  decide (v.toNat / 2 ^ 53 ≠ 0) || decide (v.toNat / 2 % 2 ^ 15 ≠ 0) || (!v.getLsbD 0 && decide (v.toNat / 2 ^ 16 ≠ 0))

/-- SETS.troot (R405). -/
def setsBody (o : ZSets) : Body := fun s g _ =>
  let v := g.sreg o.sa.toNat
  if rootBad v then .trap Cause.illegal ((encode (.sets o)).headD 0)
  else released s g fun s _ => .go { s with troot := v } .next []

/-- TLBINV (R406). A walk is made at one moment, so no walker holds a translation. -/
def tlbinvBody (o : ZTlbinv) : Body := fun s g _ =>
  match o.page with
  | none => released s g fun s _ => .go { s with tlb := [] } .next []
  | some r =>
    let va := (g.sreg r.toNat).toNat
    if 2 ^ 57 ≤ va then .trap Cause.protection (BitVec.ofNat 64 va)
    else released s g fun s _ =>
      .go (s.dropTlb fun t => t.covers va) .next []

/-- The region of a failed walk holds an address (R389, R407). -/
def inRegion (fault : Nat) (lvl va : Nat) : Bool := va / 2 ^ levelLow lvl == fault / 2 ^ levelLow lvl

/-- The record is of this group's fault. -/
def Group.raised (g : Group) (lid : Nat) (r : FaultRec) : Bool :=
  lidOf g.id == lid && teamOf g.id == r.team && groupOf g.id == r.group && match g.wait with
    | some (.xlate f) => f.any fun p => p.1 == r.tval.toNat
    | _ => false

/-- Releases the groups parked on translation faults and the operations held on them, of one launch; with an
address, those whose region holds it (R392, R407). Each is replayed. A group stays parked while its record waits to be
written (R388). A save that is held is taken up again (R397). -/
def State.releaseFaults (s : State) (lid : Nat) (page : Option Nat) : State :=
  let kept := fun (g : Group) => ((s.launch? lid).map fun l => l.records.any (g.raised lid)).getD false
  let hit := fun (va lvl : Nat) => match page with
    | none => true
    | some p => inRegion va lvl p
  { s with
    groups := s.groups.map fun g => match g.wait with
      | some (.xlate l) => if (lidOf g.id == lid && (l.any fun x => hit x.1 x.2) && !kept g) = true then { g with wait := none } else g
      | _ => g
    ops := s.ops.map fun o => match o.fault with
      | some (va, lvl) => if (lidOf o.gid == lid && hit va lvl) = true then { o with fault := none } else o
      | none => o
    launches := s.launches.map fun l => match l.saveHeld with
      | some (va, lvl) => if (l.lid == lid && hit va lvl) = true then { l with saveHeld := none } else l
      | none => l }

/-- PRES (R407). -/
def presBody (o : ZPres) : Body := fun s g _ =>
  .go (s.releaseFaults ((g.sreg o.sa.toNat).toNat % 65536) (o.sb.map fun r => (g.sreg r.toNat).toNat)) .next []

/-! ### Meanings -/

def execRtt (o : ZRtt) (s : State) : Out := .next (issue (.rtt o) o.h (rttBody o) s)
def execHalt (o : Bare) (s : State) : Out := .next (issue (.halt o) o.h haltBody s)
def execLaunch (o : ZLaunch) (s : State) : Out := .next (issue (.launch o) o.h (launchBody o) s)
def execSets (o : ZSets) (s : State) : Out := .next (issue (.sets o) o.h (setsBody o) s)
def execTlbinv (o : ZTlbinv) (s : State) : Out := .next (issue (.tlbinv o) o.h (tlbinvBody o) s)
def execPres (o : ZPres) (s : State) : Out := .next (issue (.pres o) o.h (presBody o) s)

end Sys2Proof.Machine
end

