-- ==== Sys2Proof/Machine/Response.lean ====
section
/-! DEFINITION. Results and acknowledgements that come back to a group: loads, atomics, scalar results, writes,
FETCH and POST, and the traps that failed results bring (R136, R270, R276, R283 to R285, R296). -/

namespace Sys2Proof.Machine

/-! ### Results (R136, R285) -/

/-- A result is written to its registers, or its failure waits for its place (R285). -/
def Group.receive (g : Group) (p : Pend) : Group :=
  let g := { g with pend := g.pend.filter fun x => x.n != p.n }
  match p.fail with
  | some f => g.defer ⟨p.n, p.addr, f, p.vregs, p.scals, p.idx, p.lanes⟩
  | none => p.svals.foldl (fun g x => g.setSreg x.1 x.2) ((g.writeAll p.vals).raise p.flags)

/-- A result of one of these kinds comes back, unless an access that it needs is held at its home (R419, R421). -/
def State.respond (s : State) (gid : GroupId) (n : Nat) (kinds : List PendKind) : State :=
  match s.group? gid with
  | none => s
  | some g => match g.pend.find? fun p => p.n == n && kinds.contains p.kind with
    | none => s
    | some p => if p.chans.any s.channelHeld then s else s.setGroup (g.receive p)

def execLoadResponse (g : GroupId) (n : Nat) (s : State) : Out := .next (s.respond g n [.load])
def execAtomicResponse (g : GroupId) (n : Nat) (s : State) : Out := .next (s.respond g n [.atomic])
def execVariableLatencyResult (g : GroupId) (n : Nat) (s : State) : Out := .next (s.respond g n [.scalar])

/-! ### Acknowledgements (R279, R296) -/

/-- A write is acknowledged, unless it is held at its home (R419, R421). One to a peer that UALink reports as failed, or that no station carries, is
entered in the journal and reported later (R296, R425). -/
def State.acknowledge (s : State) (gid : GroupId) (n : Nat) (ok : Bool) : State :=
  match s.group? gid with
  | none => s
  | some g => match g.acks.find? fun a => a.n == n with
    | none => s
    | some a =>
      let g' := { g with acks := g.acks.filter fun x => x.n != n }
      match a.peer with
      | none => if a.chans.any s.channelHeld then s else s.setGroup g'
      | some pa => if ok && s.linked then s.setGroup g' else (s.setGroup (g.loseStore a)).journalPeer pa

def execWriteAcknowledgement (g : GroupId) (n : Nat) (ok : Bool) (s : State) : Out := .next (s.acknowledge g n ok)

/-! ### FETCH and POST (R282 to R284) -/

/-- The slot of a line transfer returns, and its batch learns of it. -/
def State.endLine (s : State) (o : Op) (fail : Option Failure) : State :=
  (s.onGroup o.gid fun g => { g with slots := g.slots.filter (· != o.n) }).finishOp o.n fail

/-- A line of the global space for an engine access; none when it is uncorrectable or its peer fails. -/
def State.lineRead (s : State) (pa : Nat) (obj : Bool) : State × Option (List Byte) :=
  if s.isPeer pa then
    if s.peerOk pa then (s.drawn, some (s.peerBytes pa 128)) else (s.drawn.journalPeer pa, none)
  else if s.poisonedSpan pa 128 then (s.journalSpan pa 128 obj, none)
  else (s.touch (State.span pa 128) obj false, some (s.memRead pa 128))

/-- The address of an operation lies in an object page (R287). -/
def State.opObj (s : State) (o : Op) (va : Nat) : Bool := s.inObjPage (s.engineUnit o.gid) va

/-- FETCH_LINE_LANDED (R283, R284). -/
def State.fetchLands (s : State) (n : Nat) : State :=
  match s.op? n with
  | none => s
  | some o => match o.kind with
    | .fetch ga pa la =>
      if !s.inTurn o || s.opHeld o then s
      else match s.lineRead pa (s.opObj o ga) with
        | (s, none) => s.endLine o (some (badData ga))
        | (s, some bs) => ((s.localWrite o.gid (.scratch la) bs).healLocal o.gid (State.span la 128)).endLine o none
    | _ => s

/-- POST_ACKNOWLEDGED (R283, R284). -/
def State.postDone (s : State) (n : Nat) : State :=
  match s.op? n with
  | none => s
  | some o => match o.kind with
    | .post ga pa la =>
      if !s.inTurn o || s.opHeld o then s
      else if s.localBad o.gid la 128 then (s.journalPlace o.gid true (s.firstBad o.gid la 128)).endLine o (some (badData ga))
      else if s.isPeer pa then
        if s.peerOk pa then s.drawn.endLine o none else (s.drawn.journalPeer pa).endLine o (some (badData ga))
      else (s.homeWrite pa (s.localRead o.gid (.scratch la) 128) (s.opObj o ga)).endLine o none
    | _ => s

def execFetchLineLanded (op : Nat) (s : State) : Out := .next (s.fetchLands op)
def execPostAcknowledged (op : Nat) (s : State) : Out := .next (s.postDone op)

/-! ### Deferred traps (R285) -/

/-- The deferred trap that is due where a group stands, and its resume point: at a clause boundary, at an
instruction that reads a failed destination, or at an EXIT or CDONE that would end the group. -/
def State.deferredDue (s : State) (g : Group) (l : Launch) : Option (Deferred × Pos) :=
  match g.pos with
    | .back .. | .after .. => none
    | .header a x => (g.dues.head?.filter fun d => !g.olderFails d).map fun d => (d, .header a x)
    | .slot hdr j hw => match s.fetchSlot g.core hdr j hw with
      | .error _ => none
      | .ok (_, ws) => match decode ws with
        | .error _ => none
        | .ok i =>
          let h := headOf (ws.headD 0)
          let u := (usesOf l.layouts g i).guarded h
          if (decodeFault l g hw j i u).isSome || (mustWait l g h u).isSome then none
          else if !u.lanes && !g.guardHolds h then none
          else match dueAt g u with
            | some d => some (d, .back hdr j)
            | none => match (match i with
                | .exit o => exitBody o s g l
                | .cdone o => cdoneBody o s g l
                | _ => .wait .fence) with
              | .report d => some (d, .back hdr j)
              | _ => none

/-- DEFERRED_TRAP (R285). -/
def State.deferredTrap (s : State) (gid : GroupId) : State :=
  match s.group? gid, s.launch? (lidOf gid) with
  | some g, some l =>
    if !g.runs then s
    else match s.deferredDue g l with
      | some (d, p) => s.takeDeferred g d p
      | none => s
  | _, _ => s

def execDeferredTrap (g : GroupId) (s : State) : Out := .next (s.deferredTrap g)

end Sys2Proof.Machine
end

