-- ==== Sys2Proof/Machine/Replay.lean ====
section
/-! DEFINITION. The work of lanes that are behind in skewed issue (R235): what each kind of instruction does for
them when their runner values arrive (R228), and a publish that has stalled (R233). -/

namespace Sys2Proof.Machine

/-! ### What a lane that is behind does -/

/-- The lane function of an instruction that acts lane by lane on registers. -/
def laneFnOf (s : State) (g : Group) : Instr → Option LaneFn
  | .iadd o => some (laneIadd o)
  | .isub o => some (laneIsub o)
  | .imul o => some (laneImul o)
  | .imulh o => some (laneImulh o)
  | .imad o => some (laneImad o)
  | .idiv o => some (laneIdiv o)
  | .irem o => some (laneIrem o)
  | .imin o => some (laneImin o)
  | .imax o => some (laneImax o)
  | .iabs o => some (laneIabs o)
  | .ineg o => some (laneIneg o)
  | .iclamp o => some (laneIclamp o)
  | .and o => some (laneAnd o)
  | .or o => some (laneOr o)
  | .xor o => some (laneXor o)
  | .andn o => some (laneAndn o)
  | .shl o => some (laneShl o)
  | .shr o => some (laneShr o)
  | .sar o => some (laneSar o)
  | .rot o => some (laneRot o)
  | .popc o => some (lanePopc o)
  | .clz o => some (laneClz o)
  | .ctz o => some (laneCtz o)
  | .brev o => some (laneBrev o)
  | .bfx o => some (laneBfx o)
  | .bfi o => some (laneBfi o)
  | .permb o => some (lanePermb o)
  | .isetp o => some (laneIsetp o)
  | .sel o => some (laneSel o)
  | .mov o => some (laneMov o)
  | .movi o => some (laneMovi o)
  | .cvti o => some (laneCvti o)
  | .lea o => some (laneLea o)
  | .modred o => some (laneModred o)
  | .modadd o => some (laneModadd o)
  | .modmul o => some (laneModmul o)
  | .iaddVI o => some (laneIaddVI o)
  | .isubVI o => some (laneIsubVI o)
  | .imulVI o => some (laneImulVI o)
  | .iminVI o => some (laneIminVI o)
  | .imaxVI o => some (laneImaxVI o)
  | .andVI o => some (laneAndVI o)
  | .orVI o => some (laneOrVI o)
  | .xorVI o => some (laneXorVI o)
  | .andnVI o => some (laneAndnVI o)
  | .shlVI o => some (laneShlVI o)
  | .shrVI o => some (laneShrVI o)
  | .sarVI o => some (laneSarVI o)
  | .rotVI o => some (laneRotVI o)
  | .bfxVI o => some (laneBfxVI o)
  | .isetpVI o => some (laneIsetpVI o)
  | .modredVI o => some (laneModredVI o)
  | .modaddVI o => some (laneModaddVI o)
  | .modmulVI o => some (laneModmulVI o)
  | .fadd o => some (laneFadd o)
  | .fsub o => some (laneFsub o)
  | .fmul o => some (laneFmul o)
  | .ffma o => some (laneFfma o)
  | .fmin o => some (laneFmin o)
  | .fmax o => some (laneFmax o)
  | .fsetp o => some (laneFsetp o)
  | .fdiv o => some (laneFdiv o)
  | .fsqrt o => some (laneFsqrt o)
  | .frcp o => some (laneFrcp o)
  | .fexp2 o => some (laneFexp2 o)
  | .flog2 o => some (laneFlog2 o)
  | .fcvt o => some (laneFcvt o)
  | .fround o => some (laneFround o)
  | .fclass o => some (laneFclass o)
  | .dot4 o => some (laneDot4 o)
  | .dot8 o => some (laneDot8 o)
  | .bdot o => some (laneBdot o)
  | .pub o => some (lanePub o)
  | .dotc4 o => some (laneDotc4 (g.podBook s o.book) o)
  | .cdec o => some (laneCdec (g.podBook s o.book) o)
  | .ssetp o => some (laneSsetp o)
  | .gets o => some (laneGets o)
  | .plog o => match o.d with
    | .p p => some (lanePlog o p)
    | .em => none
  | _ => none

/-- The guard of an instruction that acts for the whole group has been taken already. -/
def laneHead (i : Instr) (h : Head) : Head :=
  match i with
  | .ssetp _ | .gets _ | .plog _ => noGuard h
  | _ => h

/-- What an instruction does for lanes that are behind, on memory or on registers. -/
def laneBody (s : State) (g : Group) (i : Instr) (word : Word) : Option Body :=
  match i with
  | .ld o => some (loadBody false o.h o.t o.pol o.d o.addr word)
  | .st o => some (storeBody false o.h o.t o.pol o.d o.addr word)
  | .lds o => some (loadBody true o.h o.t .dflt o.d o.addr word)
  | .sts o => some (storeBody true o.h o.t .dflt o.d o.addr word)
  | .atom o => some (atomBody true o)
  | .red o => some (atomBody false o)
  | .fence o => some (fenceBody o)
  | _ => (laneFnOf s g i).map fun f => perLane i (laneHead i (headOf word)) f

/-! ### One piece of work -/

/-- The lanes of a piece of work that are not held up by an earlier piece. -/
def runnable (before : List LaneWork) (w : LaneWork) : Mask :=
  w.lanes &&& ~~~(before.foldl (fun a x => a ||| x.lanes) 0)

/-- The group as some of its lanes saw it at an instruction that the group has passed. -/
def Group.asOf (g : Group) (w : LaneWork) (m : Mask) : Group :=
  { g with em := m, sregs := w.scalars, issued := w.idx, backlog := [], spillOk := w.spill, pos := .slot (w.addr - 8) 0 0 }

/-- The group as it goes on, with what the lanes did. -/
def Group.goOn (x g : Group) (w : LaneWork) (vals : Sparse Lane) : Group :=
  { x with
    em := g.em, sregs := g.sregs, issued := g.issued, pos := g.pos, backlog := g.backlog, spillOk := g.spillOk
    bypass := x.bypass.map fun b => if b.idx = w.idx then { b with vals := b.vals ++ vals } else b }

/-- What is left of a piece of work whose runnable lanes have done it. -/
def LaneWork.less (w : LaneWork) (m : Mask) : List LaneWork :=
  if w.lanes &&& ~~~m = 0 then [] else [{ w with lanes := w.lanes &&& ~~~m }]

/-- What a piece of work of lanes that are behind comes to. -/
inductive Late where
  /-- It goes on, or waits: the part, and what is left of the piece. -/
  | on (s : State) (left : List LaneWork)
  /-- It waits for a page walk, and the lanes behind it with it (R264). -/
  | miss (s : State)
  /-- It traps before it takes effect; `s` is the part when the trap is taken. -/
  | trap (s : State) (cause : Nat) (epc tval : Word)

/-- A piece that waits: a page walk is made for its group at once, when that is to issue its own instruction again
(R264, R291); a publish that stalls has done so since it first did (R233). -/
def State.lateWait (s : State) (g : Group) (w : LaneWork) : Wait → Late
  | .walk vas x wr =>
    if g.wait.all Wait.again then .miss (s.onGroup g.id fun g => { g with wait := some (.walk vas x wr), missAt := some w.addr })
    else .on s [w]
  | .spillWalk va =>
    if g.wait.all Wait.again then .miss (s.onGroup g.id fun g => { g with wait := some (.spillWalk va), missAt := some w.addr })
    else .on s [w]
  | .publish .. => .on s [{ w with stalled := some (w.stalled.getD s.clock) }]
  | _ => .on s [w]

/-- A pending failure is reported where lanes that are behind meet it (R285). -/
def State.lateReport (s : State) (g : Group) (w : LaneWork) (d : Deferred) : Late :=
  if g.olderFails d then .on s [w]
  else .trap (s.onGroup g.id fun x => { x with deferred := x.deferred.erase d }) d.fail.cause (BitVec.ofNat 64 d.addr) d.fail.tval

/-- EXIT in lanes that are behind (R194). -/
def State.lateExit (s : State) (g : Group) (o : CExit) (w : LaneWork) (m : Mask) : Late :=
  let now := exitLanes o { g with em := m }
  let gone := maskOf now fun _ => true
  let y := g.dropLanes gone
  let last := y.live == 0
  match (if last then g.dues.head? else none) with
  | some d => s.lateReport g w d
  | none =>
    if (last && g.failing) || (y.em == 0 && !now.isEmpty && !g.stack.isEmpty && g.scalarsPending) then .on s [w]
    else match (s.onGroup g.id fun x => { x with spillOk := w.spill }).retireLanes g.id now with
      | .error (.wait x) => s.lateWait g w x
      | .error (.trap c tv) => .on ((s.setGroup y).haltGroup g.id 7 c false (BitVec.ofNat 64 w.addr) tv) (w.less m)
      | .ok r =>
        let x := { ((r.group? g.id).getD g).dropLanes gone with spillOk := g.spillOk }
        .on (if last then (r.setGroup x.ended).endWave g.id
          else if x.em == 0 && !now.isEmpty && !x.stack.isEmpty then
            let e := x.endPath 17
            r.setGroup { e.1 with pos := .header e.2 (some w.addr), wait := none }
          else r.setGroup x) (w.less m)

/-- A result under way of an earlier instruction of the same lanes that an instruction names, or needs written before it
(R136, R190, R257). -/
def Group.latePending (g : Group) (w : LaneWork) (m : Mask) (u : Uses) : Bool :=
  g.pend.any fun p => decide (p.idx < w.idx) && p.lanes &&& m != 0 && (p.hits u || p.before u)

/-- The pending failure that an instruction of lanes that are behind meets (R285). -/
def Group.lateDue (g : Group) (w : LaneWork) (m : Mask) (u : Uses) : Option Deferred :=
  if g.dues.any fun d => decide (d.idx < w.idx) && d.lanes &&& m != 0 && d.feeds u then g.dues.head? else none

/-- One piece of work of a group. -/
def State.lateWork (s : State) (g : Group) (l : Launch) (w : LaneWork) (m : Mask) : Late :=
  let epc := BitVec.ofNat 64 w.addr
  match decode w.word with
  | .error _ => .on s (w.less m)
  | .ok (.exit o) => s.lateExit g o w m
  | .ok i =>
    let t := g.asOf w m
    let u := (usesOf l.layouts t i).guarded (headOf (w.word.headD 0))
    if g.latePending w m u then .on s [w]
    else match g.lateDue w m u, laneBody s t i (w.word.headD 0) with
      | some d, _ => s.lateReport g w d
      | none, none => .on s (w.less m)
      | none, some body => match body (s.setGroup t) t l with
        | .go s' _ vals =>
          let left := ((s'.group? g.id).map Group.backlog).getD []
          .on (s'.onGroup g.id fun x => x.goOn g w vals) (w.less m ++ left)
        | .trap c tv => .trap s c epc tv
        | .trapIn s' c tv => .trap (s'.onGroup g.id fun x => x.goOn g w []) c epc tv
        | .wait x => s.lateWait g w x
        | .report _ => .on s [w]

/-- A trap of lanes that are behind can be taken now: the group is to issue its own instruction again after it, and it
runs no handler, or the lanes or the instruction that waits for them are the handler's (R386; log 13). -/
def Group.lateTraps (g : Group) (w : LaneWork) : Bool :=
  g.wait.all Wait.again && match g.aside with
    | none => true
    | some a => (a.bypass.all fun b => decide (b.idx < w.idx)) || g.wait == some .runner

/-- The group waits for a page walk, or on a translation fault. -/
def Group.missing (g : Group) : Bool :=
  match g.wait with
  | some (.walk ..) | some (.spillWalk _) | some (.xlate _) => true
  | _ => false

/-- All the work of a group once, in order; `before` is what is left of the pieces before. A trap ends the pass: the
lanes of the piece, and those behind them, have still to do what they had. -/
def State.latePass (s : State) (gid : GroupId) (l : Launch) (before : List LaneWork) : List LaneWork → State
  | [] => s.onGroup gid fun g => { g with backlog := before }
  | w :: t =>
    match s.group? gid with
    | none => s
    | some g =>
      let w := { w with lanes := w.lanes &&& g.live }
      let m := runnable before w
      let stay := fun (s : State) => s.onGroup gid fun g => { g with backlog := before ++ w :: t }
      if g.halted || g.live == 0 then s.onGroup gid fun g => { g with backlog := [] }
      else if w.lanes = 0 then s.latePass gid l before t
      else if m = 0 then s.latePass gid l (before ++ [w]) t
      else match s.lateWork g ((s.launch? l.lid).getD l) w m with
        | .on s left => s.latePass gid l (before ++ left) t
        | .miss s => stay s
        | .trap s' c epc tv =>
          if g.lateTraps w then (stay s').takeTrap gid c epc tv g.pos.resume (some { w with lanes := m })
          else s.latePass gid l (before ++ [w]) t

/-! ### Arrival of a value (R228) -/

/-- The instruction is a JOIN that waits for lanes that are behind (R236). -/
def joinWaits (g : Group) : Instr → Bool
  | .join _ => g.mergeWaits
  | _ => false

/-- A group that waited for the runner here can go on: the lowest lane of `em` reads no value or has it, and no lanes
that are behind are needed (R228, R235, R236). -/
def State.readSatisfied (s : State) (g : Group) (l : Launch) : Bool :=
  match g.pos with
  | .slot hdr j hw => match s.fetchSlot g.core hdr j hw with
    | .error _ => true
    | .ok (_, ws) => match decode ws with
      | .error _ => true
      | .ok i =>
        let h := headOf (ws.headD 0)
        let u := (usesOf l.layouts g i).guarded h
        match mustWait l g h u with
        | some .runner => false
        | some _ => true
        | none => !joinWaits g i && match u.run with
          | none => true
          | some (reg, k) => match slotFor l g reg, g.emLanes.head? with
            | some slot, some lane =>
              !g.lagging.getLsbD lane && (!g.guardIn h lane || (s.runnerRead l g lane slot k).isSome)
            | _, _ => true
  | _ => g.em == 0 || g.em &&& ~~~g.lagging != 0 || !g.dues.isEmpty

/-- RUNNER_VALUE_ARRIVAL: the lanes that are behind do what they can, and a group that waited for a value
waits no longer when it has one. -/
def State.valueArrives (s : State) (gid : GroupId) : State :=
  match s.group? gid, s.launch? (lidOf gid) with
  | some g, some l =>
    if !g.resident || g.stopped || g.halted || g.missing then s
    else
      let s := s.latePass gid l [] g.backlog
      match s.group? gid, s.launch? (lidOf gid) with
      | some g, some l =>
        if (match g.wait with
          | some .runner => s.readSatisfied g l
          | _ => false) then s.setGroup { g with wait := none }
        else s
      | _, _ => s
  | _, _ => s

/-- Since when publishes of the group have stalled that do not spill yet, its own and those of lanes that are behind
(R233). -/
def Group.stalls (g : Group) : List Nat :=
  (match g.wait with
    | some (.publish _ _ t) => if g.spillOk then [] else [t]
    | _ => []) ++ g.backlog.filterMap fun w => if w.spill then none else w.stalled

/-- Since when the first of them has stalled. -/
def Group.stallStart (g : Group) : Option Nat := g.stalls.min?

/-- RUNNER_SPILL_TIMEOUT: the publish that has stalled for 256 core clocks is to spill (R233). -/
def State.spillTimeout (s : State) (gid : GroupId) : State :=
  match (s.group? gid).bind Group.stallStart with
  | none => s
  | some t => (s.advance (t + 256)).onGroup gid fun g => { g with
      spillOk := g.spillOk || (match g.wait with
        | some (.publish _ _ a) => decide (a ≤ t)
        | _ => false)
      backlog := g.backlog.map fun w => { w with spill := w.spill || w.stalled == some t } }

def execRunnerValueArrival (g : GroupId) (s : State) : Out := .next (s.valueArrives g)
def execRunnerSpillTimeout (g : GroupId) (s : State) : Out := .next (s.spillTimeout g)

end Sys2Proof.Machine
end

