-- ==== Sys2Proof/Machine/Walk.lean ====
section
/-! DEFINITION. Page walks and translation faults (R291, R308, R356, R392), and the fault queue (R388, R389). -/

namespace Sys2Proof.Machine

/-! ### Page walks (R291) -/

/-- The journal records an uncorrectable table entry (R391). -/
def State.journalTable (s : State) : Option Nat → State
  | some pa => s.journalBad pa
  | none => s

/-- A record of a translation fault (R389). -/
def faultRecord (g : Group) (va lvl : Nat) (x w engine : Bool) (epc : Addr) : FaultRec :=
  { kind := 1, reason := 0, cause := 0, lvl := lvl, x := x, w := w, engine := engine, deferred := false
    addr := BitVec.ofNat 64 (va / 2 ^ levelLow lvl * 2 ^ levelLow lvl), epc := BitVec.ofNat 64 epc
    tval := BitVec.ofNat 64 va, team := teamOf g.id, group := groupOf g.id, core := g.core }

/-- A record joins those that wait to be written (R388). -/
def State.addRecord (s : State) (lid : Nat) (r : FaultRec) : State :=
  s.onLaunch lid fun l => { l with records := l.records ++ [r] }

/-- One walk for a unit: its TLB holds the leaf, or the level at which it fails; the journal records an
uncorrectable entry (R291, R391). -/
def State.walkOne (s : State) (u va : Nat) : State × Option Nat :=
  match s.known u va with
  | some _ => (s, none)
  | none => match s.walk va with
    | .leaf t => (s.fillTlb u t, none)
    | .fail lvl bad => (s.journalTable bad, some lvl)

/-- The region that holds an address, of the size of a level (R291). -/
def sameRegion (a b : Nat × Nat) : Bool := a.2 == b.2 && a.1 / 2 ^ levelLow a.2 == b.1 / 2 ^ levelLow b.2

/-- Walks for several addresses: what is left of the part, and the faulting regions, once each. -/
def State.walkEach (s : State) (u : Nat) : List Nat → List (Nat × Nat) → State × List (Nat × Nat)
  | [], f => (s, f)
  | va :: t, f =>
    match s.walkOne u va with
    | (s, none) => s.walkEach u t f
    | (s, some lvl) => s.walkEach u t (if f.any (sameRegion (va, lvl)) then f else f ++ [(va, lvl)])

/-- The instruction for whose access a group waits: its own, or one of lanes that are behind (R389). -/
def Group.missed (g : Group) : Addr := g.missAt.getD g.here

/-- The walks that a group waits for are made: the group may go on, or it parks on its translation faults, with one
record for each faulting region (R291). `engine`: the walks are those of its runner spill (R69). -/
def State.walkForGroup (s : State) (g : Group) (vas : List Nat) (x w : Bool) (engine : Bool := false) : State :=
  match s.walkEach g.core vas [] with
  | (s, []) => s.onGroup g.id fun y => { y with wait := none, missAt := none }
  | (s, f) =>
    f.foldl (fun s p => s.addRecord (lidOf g.id) (faultRecord g p.1 p.2 x w engine g.missed))
      (s.setGroup (g.await s.clock (.xlate f)))

/-- The walk that an engine operation waits for: the operation may go on, or it is held (R308). -/
def State.walkForOp (s : State) (o : Op) (va : Nat) (w : Bool) : State :=
  let u := s.engineUnit o.gid
  match s.known u va with
  | some _ => s.onOp o.n fun y => { y with walk := none }
  | none => match s.walk va with
    | .leaf t => (s.fillTlb u t).onOp o.n fun y => { y with walk := none }
    | .fail lvl bad =>
      let s := (s.journalTable bad).onOp o.n fun y => { y with walk := none, fault := some (va, lvl) }
      match s.group? o.gid with
      | some g => s.addRecord (lidOf o.gid) (faultRecord g va lvl false w true o.addr)
      | none => s

/-- TABLE_WALK. -/
def State.tableWalk (s : State) : Walker → State
  | .group gid => match s.group? gid with
    | some g => match g.wait with
      | some (.walk vas x w) => s.walkForGroup g vas x w
      | some (.spillWalk va) => s.walkForGroup g [va] false true true
      | _ => s
    | none => s
  | .op n => match s.op? n with
    | some o => match o.walk with
      | some (va, w) => s.walkForOp o va w
      | none => s
    | none => s

/-! ### The fault queue (R388) -/

/-- A fault record as 64 bytes (R389). -/
def FaultRec.toNat (r : FaultRec) (lid num time : Nat) : Nat :=
  let bit := fun (b : Bool) (k : Nat) => if b then 2 ^ k else 0
  r.kind + r.cause * 2 ^ 8 + r.reason * 2 ^ 16 + bit r.w 24 + bit r.x 25 + bit r.engine 26 + bit r.deferred 27
    + lid % 2 ^ 16 * 2 ^ 32 + r.lvl % 4 * 2 ^ 48 + r.addr.toNat * 2 ^ 64 + r.epc.toNat * 2 ^ 128
    + r.tval.toNat * 2 ^ 192 + r.team % 2 ^ 40 * 2 ^ 256 + r.group % 32 * 2 ^ 296 + r.core % 1024 * 2 ^ 304
    + time % 2 ^ 64 * 2 ^ 320 + num % 2 ^ 64 * 2 ^ 384

/-- What the part finds at a launch's fault queue: none, full, or a place for a record, with the record's
number, its virtual address, and the physical addresses of the place and of the header. -/
inductive QueueState where
  | absent | full | room (num va pa hdr : Nat)
  deriving DecidableEq, Repr

/-- 64 bytes of the part's own memory that it can read or write; the journal records uncorrectable ones. -/
def State.queuePlace (s : State) (va : Nat) (r : Right) : State × Option Nat :=
  match s.reachNow va r with
  | .at_ pa pte =>
    if !s.isOwn pa then (s, none)
    else if s.poisonedSpan pa 64 then (s.journalSpan pa 64 (pteObj pte), none)
    else (s, some pa)
  | _ => (s.noteWalk va, none)

/-- Looks at the fault queue, at each record that is to be written (R388). -/
def State.findQueue (s : State) (fq : Nat) : State × QueueState :=
  if fq = 0 then (s, .absent)
  else match s.queuePlace fq .read with
    | (s, none) => (s, .absent)
    | (s, some hdr) =>
      let prod := ofBytes (s.memRead hdr 8)
      let cons := ofBytes (s.memRead (hdr + 8) 8)
      let cap := ofBytes (s.memRead (hdr + 16) 4)
      if cap = 0 ∨ 65536 < cap then (s, .absent)
      else if cap ≤ (prod + 2 ^ 64 - cons) % 2 ^ 64 then (s, .full)
      else
        let va := fq + 64 * (1 + prod % cap)
        match s.queuePlace va .write with
        | (s, none) => (s, .absent)
        | (s, some pa) => (s, .room prod va pa hdr)

/-- The message that announces a record: XLATE, or FAULT with the first half of the record (R89, R388). -/
def State.announce (s : State) (l : Launch) (r : FaultRec) (bits va : Nat) : State :=
  if r.kind = 1 then s.post l.qp 4 0 l.lid 0
  else s.post l.qp 3 0 l.lid (BitVec.ofNat 64 va) (BitVec.ofNat 256 bits)

/-- A held operation of a launch with no fault queue ends as a failure of the needed right (R388). -/
def State.denyOp (s : State) (o : Op) (va : Nat) : State :=
  match o.kind with
  | .drainm .. | .acst .. | .acld .. => s.finishOp o.n (some ⟨Cause.protection, BitVec.ofNat 64 va⟩)
  | _ => s.denyCopy o

/-- The record is of this operation's fault. -/
def Op.raised (o : Op) (lid : Nat) (r : FaultRec) : Bool :=
  lidOf o.gid == lid && teamOf o.gid == r.team && groupOf o.gid == r.group && o.addr == r.epc.toNat
    && (o.fault.map (·.1)) == some r.tval.toNat

/-- A save is abandoned: the unit is not pre-empted, and its stopped groups go on (R397). -/
def State.abandonSave (s : State) (lid team : Nat) : State :=
  match s.launch? lid with
  | none => s
  | some l =>
    if l.aborted then s
    else
      let s := s.onLaunch lid fun x => { x with saveHeld := none }
      { s with groups := s.groups.map fun g =>
          if (lidOf g.id == lid && !isWave g.id && !g.halted && l.sameUnit (teamOf g.id) team
              && (s.team? lid (teamOf g.id)).any fun t => t.resident && !t.faulted) = true then
            { g with stopAt := none, stopped := false, safe := none }
          else g }

/-- What a translation fault comes to in a launch with no fault queue (R388). -/
def State.faultUnheard (s : State) (lid : Nat) (r : FaultRec) : State :=
  if r.kind = 1 then
    match s.ops.find? fun o => r.engine && o.raised lid r with
    | some o => s.denyOp o r.tval.toNat
    | none => match s.groups.find? fun g => g.raised lid r with
      | some g => s.haltGroup g.id 9 Cause.protection false r.epc r.tval r.engine
      | none => if r.engine then s.abandonSave lid r.team else s
  else s

/-- FAULT_RECORD_WRITE: the first record that waits is written when the queue has room, and announced. -/
def State.writeRecord (s : State) (lid : Nat) : State :=
  match s.launch? lid with
  | none => s
  | some l => match l.records with
    | [] => s
    | r :: rest =>
      if !s.canPost then s
      else match s.findQueue l.fqueue with
        | (_, .full) => s
        | (s, .absent) =>
          let s := s.onLaunch lid fun x => { x with records := rest }
          if r.kind = 1 then s.faultUnheard lid r else s.announce l r (r.toNat lid 0 0) 0
        | (s, .room num va pa hdr) =>
          let bits := r.toNat lid num s.ptpNow
          let s := (s.homeWrite pa (leBytes 64 bits) (s.objNow va)).homeWrite hdr (leBytes 8 (num + 1)) (s.objNow l.fqueue)
          (s.onLaunch lid fun x => { x with records := rest }).announce l r bits va

def execTableWalk (w : Walker) (s : State) : Out := .next (s.tableWalk w)
def execFaultRecordWrite (lid : Nat) (s : State) : Out := .next (s.writeRecord lid)

end Sys2Proof.Machine
end

