-- ==== Sys2Proof/Machine/Sched.lean ====
section
/-! DEFINITION. A core's active and pending groups (R146 to R150), stops (R395), the save area (R397), and
WGROW's stalemate (R156, R157). -/

namespace Sys2Proof.Machine

/-! ### When a wait is over (R147, R148) -/

/-- The instruction at which a group stands, as it can be read now. -/
def State.atSlot (s : State) (g : Group) : Option (Instr × Head) :=
  match g.pos with
  | .slot hdr j hw => match s.fetchSlot g.core hdr j hw with
    | .ok (_, ws) => (match decode ws with
        | .ok i => some (i, headOf (ws.headD 0))
        | .error _ => none)
    | .error _ => none
  | _ => none

/-- The registers that the instruction names are no longer waited for in this way (R148). -/
def State.operandsIn (s : State) (g : Group) (l : Launch) (w : Wait) : Bool :=
  match s.atSlot g with
  | some (i, h) => mustWait l g h ((usesOf l.layouts g i).guarded h) != some w
  | none => true

/-- The header at which a group waits lets it enter (R109, R147). -/
def State.headerOpen (s : State) (g : Group) (l : Launch) (w : Wait) : Bool :=
  match g.pos with
  | .header a _ => (match s.fetch g.core a with
    | .ok (_, hw) => (match Header.ofWord hw with
      | some h =>
        match w with
        | .thresholds _ => (headerWaits h).all fun c => decide ((g.batches c).incomplete ≤ h.threshold c)
        | _ => !s.clauseReads l g a hw h
      | none => true)
    | .error _ => true)
  | _ => true

/-- An OCALL that waits has room (R374). -/
def State.callRoom (s : State) (g : Group) : Bool :=
  match s.atSlot g with
  | some (.ocall o, h) => s.callFits g (requestsOf s g o s.nextOp (g.executing h))
  | _ => true

/-- The condition for which a group waits holds (R148). -/
def State.waitOver (s : State) (g : Group) (l : Launch) (w : Wait) : Bool :=
  match w with
  | .thresholds _ | .operands => s.headerOpen g l w
  | .reply | .partner => s.operandsIn g l w
  | .batch c n | .yieldb c n _ _ => decide ((g.batches c).incomplete ≤ n)
  | .sealRoom c => decide ((g.batches c).incomplete < 15)
  | .copyRoom => decide (s.copiesOf g.id < 64)
  | .barrier .. | .xlate .. | .walk .. | .spillWalk _ => false
  | .runner => s.readSatisfied g l
  | .publish k n _ => s.sends l g k n
  | .xswapRoom => g.xswap.isNone
  | .replySlot => decide (g.slots.length < 8)
  | .passes t => !(s.pod g.pod).passInto t || g.passFails.any fun x => x.tile == t
  | .object a => match s.object? l.lid a with
    | some o => o.wave.isNone && o.queue.isEmpty
    | none => true
  | .store n => !storeFits (s.teamSizes g n) l.scratchSize l.pair || (s.growFits g n && !s.olderBlocked g)
  | .landing k => ((s.team? l.lid (teamOf g.id)).map fun t => decide ((t.land k).st ≠ .armed)).getD true
  | .latch => !(s.pod g.pod).ungranted g.id && g.withdrawn.isNone
      && (((s.pod g.pod).latches.any fun x => x.expects g.id) || decide ((s.pod g.pod).latches.length < 16))
  | .queueRoom => s.callRoom g
  | .message => s.canPost
  | .result | .fence | .tile _ | .filled _ | .holding _ => true

/-! ### Ready groups (R146, R149, R150) -/

/-- A resident group that has neither ended nor stopped. -/
def Group.alive (g : Group) : Bool := g.resident && !g.halted && !g.stopped && !g.done && g.live != 0

/-- Pending and ready (R146). -/
def State.ready (s : State) (g : Group) : Bool :=
  g.alive && !g.active && match g.wait, s.launch? (lidOf g.id) with
    | none, some _ => true
    | some w, some l => s.waitOver g l w
    | _, none => false

/-- The ready groups of a core. -/
def State.readyOn (s : State) (core : Nat) : List Group := (s.onCore core).filter s.ready

/-- The active groups of a core. -/
def State.activeOn (s : State) (core : Nat) : List Group := (s.onCore core).filter (·.active)

/-- A group of an urgent launch. -/
def State.isUrgent (s : State) (g : Group) : Bool := ((s.launch? (lidOf g.id)).map Launch.urgent).getD false

/-- Pending for 8,192 core clocks, ready or blocked (R146, R149). -/
def State.aged (s : State) (g : Group) : Bool := !g.active && decide (g.since + 8192 ≤ s.clock)

/-- The ready group that takes the next free place: an urgent one, else an aged one, else the highest in rank
(R149, R150). -/
def State.nextActive (s : State) (core : Nat) : Option Group :=
  let r := s.readyOn core
  match s.highest (r.filter s.isUrgent), s.highest (r.filter s.aged) with
  | some g, _ => some g
  | none, some g => some g
  | none, none => s.highest r

/-- A free place in the active set of a core is taken (R146, R149). -/
def State.fillPlace (s : State) (core : Nat) : State :=
  if 8 ≤ (s.activeOn core).length then s
  else match s.nextActive core with
    | some g => s.setGroup { g with active := true, leave := false, since := s.clock, readySince := none }
    | none => s

/-- A group that stands at a clause boundary has been active for 1,024 core clocks, and a group of its core is
pending and ready (R147). -/
def State.quantumDue (s : State) (g : Group) : Bool :=
  g.active && decide (g.since + 1024 ≤ max s.clock g.readyAt) && (match g.pos with
    | .header .. => true
    | _ => false) && !(s.readyOn g.core).isEmpty

/-- QUANTUM_EXPIRY: time passes to the end of a group's 1,024 core clocks in the active set; one that stands at a
clause boundary with another group ready leaves, ready at once (R147). -/
def State.quantum (s : State) (gid : GroupId) : State :=
  match s.group? gid with
  | some g =>
    if g.active && g.alive then
      let s := s.advance (g.since + 1024)
      if s.quantumDue g then s.onGroup gid fun x => { x with active := false, since := s.clock } else s
    else s
  | none => s

/-- A group that is pending and ready has been so since it was first seen ready, and any other is not (R146, R150). -/
def State.noteGroup (s : State) (g : Group) : Group :=
  { g with readySince := if s.ready g then some (g.readySince.getD s.clock) else none }

/-- What every step notes of the groups at its end (R146; log 77). -/
def State.noteReady (s : State) : State := { s with groups := s.groups.map s.noteGroup }

/-- PENDING_AGING: a ready group has been pending for 8,192 core clocks; its rank follows from that (R149). -/
def State.age (s : State) (gid : GroupId) : State :=
  match s.group? gid with
  | some g => if s.ready g then s.advance (g.since + 8192) else s
  | none => s

/-- URGENT_DISPLACEMENT: an urgent group has been ready for 64 core clocks with no free place (R150). -/
def State.displace (s : State) (gid : GroupId) : State :=
  match s.group? gid with
  | some g =>
    if s.ready g && s.isUrgent g then
      let s := s.advance (g.readySince.getD s.clock + 64)
      let a := s.activeOn g.core
      if a.length < 8 then s
      else match s.lowestRank (a.filter fun x => !s.isUrgent x) with
        | some x => s.onGroup x.id fun y => { y with leave := true }
        | none => s
    else s
  | none => s

/-- CLAUSE_ENTRY: a group whose quantum is over leaves the active set, ready at once, before it enters the next
clause (R147); any other enters. -/
def State.boundary (s : State) (gid : GroupId) : State :=
  match s.group? gid with
  | some g =>
    if g.runs && s.quantumDue g then
      let s := s.advance g.readyAt
      s.onGroup gid fun x => { x with active := false, since := s.clock }
    else s.clauseEntry gid
  | none => s

/-- FORCED_STOP: 4,096 core clocks after its stop became pending (R395). -/
def State.forceStop (s : State) (gid : GroupId) : State :=
  match s.group? gid with
  | some g => if g.stopAt.isSome && g.alive then s.stopNow g else s
  | none => s

/-! ### Save areas (R397) -/

/-- The groups of a team that have not ended. -/
def State.teamGroups (s : State) (lid t : Nat) : List Group :=
  s.groups.filter fun g => decide (lidOf g.id = lid) && !isWave g.id && teamOf g.id == t

/-- A team is stopping. -/
def State.stopping (s : State) (lid t : Nat) : Bool := (s.teamGroups lid t).any fun g => g.stopAt.isSome && !g.halted

/-- The tiles that a holder has (R323). -/
def State.tilesOf (s : State) (h : Holder) : List (Nat × Nat) :=
  s.pods.flatMap fun p => (p.2.tiles.filter fun t => decide (t.2.holder = h)).map fun t => (p.1, t.1)

/-- The header of a save area is uncorrectable: the journal holds that once (R391, R397). -/
def State.noteHeader (s : State) (l : Launch) : State :=
  if l.save = 0 || l.headerBad then s
  else
    let t := (s.readNow l.save 8).1
    if t.journal = s.journal then s else t.onLaunch l.lid fun x => { x with headerBad := true }

/-- SIZE of a launch's save area, as its header can be read now; none without an area or a readable header. -/
def State.areaSize (s : State) (l : Launch) : Option Nat :=
  if l.save = 0 then none else ((s.readNow l.save 8).2).map ofBytes

/-- The free space of a launch's save area. -/
def State.areaFree (s : State) (l : Launch) : Nat := ((s.areaSize l).getD 0) - 64 - l.saved

/-- The bytes that a group's image takes, at most. -/
def Group.image (g : Group) : Nat := windowBytes g.n g.width + 4096

/-- The bytes that the images of teams take, at most (R397). A group that is saved already has its image. -/
def State.unitImage (s : State) (l : Launch) (ts : List Team) : Nat :=
  (ts.map fun t =>
    65536 + l.scratchSize + ((s.teamGroups l.lid t.num).map fun g =>
      (if g.resident then g.image else 0) + 196608 * (s.tilesOf (.group g.id)).length).sum).sum
    + if l.wholeOnly then 196608 * (s.tilesOf (.engine l.lid)).length else 0

/-- What the stopping units of a launch will take in its save area. -/
def State.reservedArea (s : State) (l : Launch) : Nat :=
  let ts := l.teams.filter fun t => t.resident && s.stopping l.lid t.num
  if ts.isEmpty then 0 else s.unitImage l ts

/-- The first page that a save needs and cannot write: its address, and whether a right is missing. Images are
taken to follow one another (log 9). -/
def State.saveStop (s : State) (l : Launch) (size : Nat) : Option (Nat × Bool) :=
  let base := l.save + 64 + l.saved
  ((List.range (size / 65536 + 2)).map fun k => min (base + 65536 * k) (base + size)).findSome? fun va =>
    match s.lookup va with
    | none => some (va, false)
    | some t => if pteW t.pte then none else some (va, true)

/-- A save meets a translation fault on the area: a record, and the save is held (R397). -/
def State.holdSave (s : State) (l : Launch) (g : Group) (va : Nat) : State :=
  match s.walk va with
  | .fail lvl bad =>
    (((s.journalTable bad).addRecord l.lid (faultRecord g va lvl false true true g.here)).onLaunch l.lid
      fun x => { x with saveHeld := some (va, lvl) })
  | _ => s

/-- A save cannot be made, and none waits for a page: a right is missing, or no fault queue could hear of the
fault (R388, R397). -/
def State.unsavable (s : State) (l : Launch) (size : Nat) : Bool :=
  match s.saveStop l size with
  | none => false
  | some (_, true) => true
  | some (_, false) => decide ((s.findQueue l.fqueue).2 = .absent)

/-- Changes what a launch has in its save area. -/
def State.useArea (s : State) (lid : Nat) (f : Nat → Nat) : State :=
  s.onLaunch lid fun l => { l with saved := f l.saved }

/-- The ungranted MMA of a group, in some latch. -/
def State.arrivedMma (s : State) (gid : GroupId) : Option Arrived :=
  (s.pods.flatMap fun p => p.2.latches.flatMap (·.arrived)).find? fun a => decide (a.gid = gid)

/-- A group's ungranted MMA is withdrawn and kept with the group (R333). -/
def State.withdrawMma (s : State) (gid : GroupId) : State :=
  match s.arrivedMma gid with
  | none => s
  | some a =>
    let clean := fun (p : Pod) => { p with latches := (p.latches.map fun x =>
      { x with arrived := x.arrived.filter fun y => decide (y.gid ≠ gid) }).filter fun x => !x.arrived.isEmpty }
    let s := (s.pods.foldl (fun s p => s.onPod p.1 clean) s).onGroup gid fun g => { g with withdrawn := some a }
    match s.group? gid with
    | some g => s.handTiles g.pod
    | none => s

/-- A group's ungranted MMA is presented again, as an MMA that is issued; with all latches taken it waits for one
(R328, R330, R333). One whose tile the engine no longer holds for the launch fails with TOKEN, as R324 gives for an
MMA (log 118). -/
def State.presentMma (s : State) (gid : GroupId) : State :=
  match (s.group? gid).bind fun g => g.withdrawn.map fun a => (g, a) with
  | none => s
  | some (g, a) =>
    let p := s.pod g.pod
    let out := fun (s : State) => s.onGroup gid fun x => { x with withdrawn := none }
    let t := a.ins.tile.toNat
    if (s.tile g.pod t).holder ≠ .engine (lidOf gid) then (out s).failMma a ⟨Cause.token, BitVec.ofNat 64 t⟩
    else match p.latches.find? fun x => x.expects gid with
    | some x =>
      if (x.arrived.head?.map a.agrees).getD true then out (s.enterLatch g.pod a)
      else
        let s := s.onPod g.pod fun p => { p with latches := p.latches.erase x }
        (out (s.withdrawLatch x Cause.gangMismatch)).failMma a ⟨Cause.gangMismatch, BitVec.ofNat 64 a.addr⟩
    | none => if 16 ≤ p.latches.length then s else out (s.enterLatch g.pod a)

/-- What a safe stop keeps of the registers: the quads and scalars that its SAFE marked; the bypass is empty
(R196, R396). -/
def Group.keepMarked (g : Group) : Group :=
  match g.safe with
  | none => g
  | some (v, m) => { g with
      vregs := Sparse.keep (fun k => v.getLsbD (k / 64 / 4)) g.vregs
      bad := g.bad.filter fun k => v.getLsbD (2 * k / g.width / 4)
      sregs := Sparse.keep (fun k => m.getLsbD k) g.sregs
      bypass := [], safe := none }

/-- One group leaves its core: the save is a full fence, its window is released, and it waits for residence
(R157, R264, R396). -/
def State.saveGroup (s : State) (gid : GroupId) : State :=
  match s.group? gid with
  | none => s
  | some g => (((s.release g.core).acquire g.core).withdrawMma gid).onGroup gid fun x =>
      { x with resident := false, active := false, leave := false, since := s.clock, readySince := none }

/-- One group comes back on a core, as pending; the restore is an acquire, and its window takes store from the
L1 (R113, R153, R264, R398). -/
def State.bringBack (s : State) (gid : GroupId) (core : Nat) (f : Group → Group) : State :=
  let s := s.onGroup gid fun x => f
    { x with resident := true, core := core, active := false, leave := false, since := s.clock,
             readyAt := max x.readyAt s.clock, pos := x.pos.resume }
  ((s.acquire core).fitL1 core).presentMma gid

/-- A group that was saved with its unit comes back: no stop is pending, and an instruction that was parked on a
translation fault is replayed (R398, R399). -/
def Group.unparked (g : Group) : Group :=
  { g with stopAt := none, stopped := false, wait := match g.wait with
      | some (.xlate _) => none
      | w => w }

/-- GROUP_ACTIVATION: MMAs that found every latch taken are presented again, and a free place is taken (R146, R149,
R333). -/
def State.activate (s : State) (core : Nat) : State :=
  (((s.onCore core).filter fun g => g.withdrawn.isSome).foldl (fun s g => s.presentMma g.id) s).fillPlace core

/-! ### WGROW in a core pair (R155) -/

/-- By how many of them are taken, the sums that parts of a list of sizes have, as sets of bits. -/
def partSums : List Nat → List Nat
  | [] => [1]
  | x :: t =>
    let r := partSums t
    (List.range (r.length + 1)).map fun k =>
      Nat.lor (r.getD k 0) (if k = 0 then 0 else r.getD (k - 1) 0 * 2 ^ x)

/-- Sizes can be divided between two cores with `ra` and `rb` of store and `sa` and `sb` slots free. -/
def dividable (sizes : List Nat) (ra sa rb sb : Nat) : Bool :=
  (partSums sizes).zipIdx.any fun x => decide (x.2 ≤ sa) && decide (sizes.length ≤ x.2 + sb)
    && x.1 / 2 ^ (sizes.sum - rb) % 2 ^ (ra + 1 - (sizes.sum - rb)) != 0

/-- A division of sizes between two cores, each on the side on which it is when that can be: true for the first. -/
def divide : List (Nat × Bool) → Nat → Nat → Nat → Nat → Option (List Bool)
  | [], _, _, _, _ => some []
  | (x, here) :: t, ra, sa, rb, sb =>
    let rest := t.map (·.1)
    let onA := decide (x ≤ ra) && decide (1 ≤ sa) && dividable rest (ra - x) (sa - 1) rb sb
    let onB := decide (x ≤ rb) && decide (1 ≤ sb) && dividable rest ra sa (rb - x) (sb - 1)
    if onA && (here || !onB) then (divide t (ra - x) (sa - 1) rb sb).map (true :: ·)
    else if onB then (divide t ra sa (rb - x) (sb - 1)).map (false :: ·)
    else none

/-- The groups of a team that the part can move between the cores of its pair. -/
def State.movable (s : State) (g0 : Group) : List Group :=
  (s.teamGroups (lidOf g0.id) (teamOf g0.id)).filter fun g => g.resident && !g.halted && g.live != 0

/-- Groups move to the other core of their pair, each saved and restored (R155, R157). -/
def State.moveGroups (s : State) (gs : List Group) : State :=
  let s := gs.foldl (fun s g => s.saveGroup g.id) s
  gs.foldl (fun s g => s.bringBack g.id (partner g.core) id) s

/-- A request that its own core cannot hold, met by a division of a paired team between its two cores (R155). -/
def State.rehome (s : State) (g0 : Group) (n : Nat) : Option State :=
  if !((s.launch? (lidOf g0.id)).map Launch.pair).getD false || isWave g0.id || s.inReservation g0 then none
  else
    let gs := s.movable g0
    let a := g0.core
    let b := partner a
    let size := fun (g : Group) => if g.id = g0.id then windowBytes n g.width else g.bytes
    let on := fun (c : Nat) => gs.filter fun g => g.core == c
    let room := fun (c : Nat) => (s.storeFree c + ((on c).map Group.bytes).sum) / 256
    let slots := fun (c : Nat) => slotLimit - s.slotsUsed c + (on c).length
    (divide (gs.map fun g => (size g / 256, g.core == a)) (room a) (slots a) (room b) (slots b)).map fun d =>
      s.moveGroups (((gs.zip d).filter fun x => x.2 != (x.1.core == a)).map (·.1))

/-- A blocked request is met, when its core or its team's pair can hold it (R155). -/
def State.satisfy (s : State) (g0 : Group) (n : Nat) : Option State :=
  (if s.growFits g0 n then some s else s.rehome g0 n).map fun t =>
    let t := t.onGroup g0.id fun x => { x with n := max x.n n, wait := none }
    ((t.group? g0.id).map fun g => t.fitL1 g.core).getD t

/-! ### Its stalemate (R156) -/

/-- The cores whose groups a stalemate may save: for a paired team, those of its pair. -/
def State.stalemateCores (s : State) (g0 : Group) : List Nat :=
  if ((s.launch? (lidOf g0.id)).map Launch.pair).getD false then [g0.core, partner g0.core] else [g0.core]

/-- Groups that a stalemate may save: parked or blocked, and their image fits. -/
def State.victims (s : State) (g0 : Group) : List Group :=
  ((s.stalemateCores g0).flatMap s.onCore).filter fun g =>
    decide (g.id ≠ g0.id) && !isWave g.id && !g.halted && g.live != 0 && g.parked && !s.ready g
    && match s.launch? (lidOf g.id) with
      | some l => l.save != 0 && decide (g.image + s.reservedArea l ≤ s.areaFree l) && !s.unsavable l g.image
      | none => false

/-- One group is saved to free store; a translation fault on the area holds the save (R156, R397). -/
def State.saveVictim (s : State) (v : Group) : State :=
  match s.launch? (lidOf v.id) with
  | none => s
  | some l => match s.saveStop l v.image with
    | some (va, _) => if l.saveHeld.isSome then s else s.holdSave l v va
    | none => (s.saveGroup v.id).useArea l.lid (· + v.image)

/-- Saves younger groups until the oldest request fits, or traps it when no image fits. -/
def State.freeStore (s : State) (g0 : Group) (n : Nat) : Nat → State
  | 0 => s
  | k + 1 => match s.satisfy g0 n with
    | some t => t
    | none => match s.youngest (s.victims g0) with
      | none => s.takeTrap g0.id Cause.window (BitVec.ofNat 64 g0.here) (BitVec.ofNat 64 n) g0.pos.resume
      | some v =>
        let t := s.saveVictim v
        if (t.group? v.id).any (·.resident) then t else t.freeStore g0 n k

/-- A core can issue, or has a group that can take an active place. -/
def State.coreMoves (s : State) (core : Nat) : Bool :=
  ((s.activeOn core).any fun g => g.alive && g.wait.isNone) || !(s.readyOn core).isEmpty

/-- WGROW_STALEMATE: groups of a paired team move as soon as a division fits; else, after 256 core clocks in which no
group of the core has issued, store is freed. -/
def State.stalemate (s : State) (core : Nat) : State :=
  match s.oldest (s.blockedGrow core) with
  | none => s
  | some g0 => match g0.wait with
    | some (.store n) => match s.rehome g0 n >>= fun _ => s.satisfy g0 n with
      | some t => t
      | none =>
        if s.coreMoves core && decide (s.clock < Sparse.get 0 s.coreIssue core + 256) then s
        else
          let s := s.advance (Sparse.get 0 s.coreIssue core + 256)
          let s := ((s.stalemateCores g0).flatMap s.onCore).foldl
            (fun s g => ((s.launch? (lidOf g.id)).map s.noteHeader).getD s) s
          s.freeStore g0 n ((s.onCore core).length + (s.onCore (partner core)).length + 1)
    | _ => s

def execClauseEntry (g : GroupId) (s : State) : Out := .next (s.boundary g)
def execGroupActivation (core : Nat) (s : State) : Out := .next (s.activate core)
def execQuantumExpiry (g : GroupId) (s : State) : Out := .next (s.quantum g)
def execPendingAging (g : GroupId) (s : State) : Out := .next (s.age g)
def execUrgentDisplacement (g : GroupId) (s : State) : Out := .next (s.displace g)
def execForcedStop (g : GroupId) (s : State) : Out := .next (s.forceStop g)
def execWgrowStalemate (core : Nat) (s : State) : Out := .next (s.stalemate core)

end Sys2Proof.Machine
end

