-- ==== Sys2Proof/Machine/Host.lean ====
section
/-! DEFINITION. The host port: launch records, control messages and RDMA (R84 to R88, R90, R429). -/

namespace Sys2Proof.Machine

/-- A packet on a queue pair that is not established is dropped, and the host port answers none while it has no power
(R11, R84). -/
def State.established (s : State) (qp : Nat) : Bool := s.power && s.qps.contains qp

/-- REFUSED on the queue pair that carried a SEND (R89). -/
def State.refuse (s : State) (qp status lid : Nat) : State := s.post (some qp) 2 status lid 0

/-- ANSWER to a control message (R86, R89). -/
def State.answerHost (s : State) (qp status lid : Nat) (arg : Word := 0) : State := s.post (some qp) 6 status lid arg

/-! ### Launch records (R85, R91, R429) -/

/-- A master's standing changes: kind 10 (R429). -/
def State.journalFreeze (s : State) (detail unit : Nat) : State := s.journalAdd 10 detail 9 unit 0

/-- LAUNCH_RECORD. A record that names a queue closed to the host freezes the host (R429). -/
def State.hostRecord (s : State) (qp : Nat) (r : BitVec 2048) : State :=
  let lid := field r 240 16
  if !s.established qp then s
  else if s.mgmt.hostFrozen then s.refuse qp Reply.frozen lid
  else if s.mgmt.closed.getLsbD (field r 196 6) then
    (({ s with mgmt := { s.mgmt with hostFrozen := true } }).journalFreeze 1 0).refuse qp Reply.frozen lid
  else (s.submit r (some qp)).1

/-- BADMSG_SEND: a SEND that is neither a record nor a control message (R85). -/
def State.badSend (s : State) (qp len : Nat) : State :=
  if !s.established qp || len == 256 || len == 64 then s
  else s.refuse qp (if s.mgmt.hostFrozen then Reply.frozen else Reply.badmsg) 0

/-! ### Control messages (R86) -/

/-- A field of a control message. -/
def ctlField (m : BitVec 512) (lo len : Nat) : Nat := m.toNat / 2 ^ lo % 2 ^ len

def ctlOp (m : BitVec 512) : Nat := ctlField m 0 8
def ctlRights (m : BitVec 512) : Nat := ctlField m 8 2
def ctlLid (m : BitVec 512) : Nat := ctlField m 48 16
def ctlAddr (m : BitVec 512) : Nat := ctlField m 64 64
def ctlLen (m : BitVec 512) : Nat := ctlField m 128 64

/-- A reserved field, an unknown OP, or a field to which the OP gives no use, is not zero; or a REGION is
malformed. -/
def ctlBad (m : BitVec 512) : Bool :=
  ctlField m 192 320 != 0 || ctlField m 10 38 != 0 || match ctlOp m with
    | 1 | 2 => ctlAddr m != 0 || ctlLen m != 0 || ctlRights m != 0
    | 3 => ctlLid m != 0 || ctlAddr m % 65536 != 0 || ctlLen m == 0 || ctlLen m % 65536 != 0
        || decide (2 ^ 57 < ctlAddr m + ctlLen m) || ctlRights m == 0
    | 4 => ctlLid m != 0 || ctlLen m != 0 || ctlRights m != 0 || decide (2 ^ 32 ≤ ctlAddr m)
    | _ => true

/-- A control message of an operation, and its ANSWER. A message of another operation is another event; one
with an unknown OP is answered whichever event brings it. -/
def State.control (s : State) (qp : Nat) (m : BitVec 512) (op : Nat) (act : State → State) : State :=
  if !s.established qp || (ctlOp m != op && [1, 2, 3, 4].contains (ctlOp m)) then s
  else if s.mgmt.hostFrozen then s.answerHost qp Reply.frozen (ctlLid m)
  else if ctlBad m then s.answerHost qp Reply.badmsg 0
  else act s

/-- ABORT: the launch ends as cancelled. -/
def State.hostAbort (s : State) (qp : Nat) (m : BitVec 512) : State :=
  s.control qp m 1 fun s => match s.launch? (ctlLid m) with
    | none => s.answerHost qp Reply.unknownLid (ctlLid m)
    | some _ => (s.abortLaunch (ctlLid m) true).answerHost qp Reply.ok (ctlLid m)

/-- RESUME: the launch's parked waiters are released (R392). -/
def State.hostResume (s : State) (qp : Nat) (m : BitVec 512) : State :=
  s.control qp m 2 fun s => match s.launch? (ctlLid m) with
    | none => s.answerHost qp Reply.unknownLid (ctlLid m)
    | some _ => (s.releaseFaults (ctlLid m) none).answerHost qp Reply.ok (ctlLid m)

/-- REGION: the ANSWER carries the rkey (log 14). -/
def State.hostRegion (s : State) (qp : Nat) (m : BitVec 512) : State :=
  s.control qp m 3 fun s =>
    if 4096 ≤ s.regions.length then s.answerHost qp Reply.limit 0
    else
      let key := Config.rkeyOf s.nextRegion
      let x : Region := ⟨key, ctlAddr m, ctlLen m, m.getLsbD 8, m.getLsbD 9⟩
      ({ s with regions := s.regions ++ [x], nextRegion := s.nextRegion + 1 }).answerHost qp Reply.ok 0 (key.setWidth 64)

/-- UNREGION. -/
def State.hostUnregion (s : State) (qp : Nat) (m : BitVec 512) : State :=
  s.control qp m 4 fun s =>
    let named := fun (x : Region) => x.rkey.toNat == ctlAddr m
    if s.regions.any named then
      ({ s with regions := s.regions.filter fun x => !named x }).answerHost qp Reply.ok 0
    else s.answerHost qp Reply.unknownRkey 0

/-! ### RDMA (R87) -/

/-- The right that an RDMA operation needs. -/
def rdmaRight (w : Bool) : Right := if w then .write else .read

/-- A byte of the part's own memory: its physical address, and whether it lies in an object page. -/
def State.ownByte (s : State) (r : Right) (va : Nat) : Option (Nat × Bool) :=
  match s.reachNow va r with
  | .at_ pa pte => if s.isOwn pa then some (pa, pteObj pte) else none
  | _ => none

/-- The physical addresses of an RDMA operation's bytes; none when the region, the page tables or the part's
own memory do not allow it (R87, R424). The journal records an uncorrectable table word (R391). -/
def State.rdmaPlaces (s : State) (rkey va len : Nat) (w : Bool) : State × Option (List (Nat × Bool)) :=
  match s.regions.find? fun x => x.rkey.toNat == rkey with
  | none => (s, none)
  | some x =>
    if (if w then x.wr else x.rd) && decide (x.base ≤ va) && decide (va + len ≤ x.base + x.len) then
      match (State.span va len).mapM (s.ownByte (rdmaRight w)) with
      | some l => (s, some l)
      | none => ((((State.span va len).find? fun a => (s.ownByte (rdmaRight w) a).isNone).map s.noteWalk).getD s, none)
    else (s, none)

/-- What is sent in answer on a queue pair. -/
def State.send (s : State) (qp : Nat) (x : Sent) : State := { s with sent := s.sent ++ [(qp, x)] }

/-- An answer is sent, or waits at the home for its channels, and on a queue pair behind earlier answers (R419,
R421). -/
def State.owe (s : State) (o : Owed) : State :=
  if (o.chans.any s.channelHeld || (!o.peer && s.owed.any fun x => !x.peer && x.dest == o.dest)) = true then
    { s with owed := s.owed ++ [o] }
  else if o.peer then { s with toPeers := s.toPeers ++ [(o.dest, o.ans)] }
  else if s.established o.dest then s.send o.dest o.ans else s

/-- The answers that need wait no longer are sent, in their order (R421). -/
def State.flushOwed (s : State) : State := s.owed.foldl State.owe { s with owed := [] }

/-- Bytes of the part's own memory are accessed at their homes, in object pages and outside them. -/
def State.touchBytes (s : State) (l : List (Nat × Bool)) (write : Bool) : State :=
  let mine := fun (obj : Bool) => (l.filter fun x => x.2 == obj).map (·.1)
  (s.touch (mine false) false write).touch (mine true) true write

/-- RDMA_READ; uncorrectable data are never delivered (R391). -/
def State.rdmaRead (s : State) (qp rkey va len : Nat) : State :=
  if !s.established qp then s
  else if s.mgmt.hostFrozen then s.owe ⟨false, qp, [], .nak⟩
  else match s.rdmaPlaces rkey va len false with
    | (s, none) => s.owe ⟨false, qp, [], .nak⟩
    | (s, some l) =>
      let bad := ((l.filter fun x => s.poisoned x.1).map fun x => (32 * (x.1 / 32), x.2)).eraseDups
      if bad.isEmpty then
        (s.touchBytes l false).owe ⟨false, qp, s.chansOf 2 (l.map (·.1)), .data ((l.map (·.1)).map s.memGet)⟩
      else (bad.foldl (fun s x => s.journalBad x.1 x.2) s).owe ⟨false, qp, [], .nak⟩

/-- RDMA_WRITE. -/
def State.rdmaWrite (s : State) (qp rkey va : Nat) (bs : List Byte) : State :=
  if !s.established qp then s
  else if s.mgmt.hostFrozen then s.owe ⟨false, qp, [], .nak⟩
  else match s.rdmaPlaces rkey va bs.length true with
    | (s, none) => s.owe ⟨false, qp, [], .nak⟩
    | (s, some l) =>
      let pas := l.map (·.1)
      (({ s with mem := Sparse.setAll Config.emptyByte s.mem (pas.zip bs) }).clearCovered pas).touchBytes l true

def execLaunchRecord (qp : Nat) (r : BitVec 2048) (s : State) : Out := .next (s.hostRecord qp r)
def execBadmsgSend (qp len : Nat) (s : State) : Out := .next (s.badSend qp len)
def execAbort (qp : Nat) (m : BitVec 512) (s : State) : Out := .next (s.hostAbort qp m)
def execResume (qp : Nat) (m : BitVec 512) (s : State) : Out := .next (s.hostResume qp m)
def execRegion (qp : Nat) (m : BitVec 512) (s : State) : Out := .next (s.hostRegion qp m)
def execUnregion (qp : Nat) (m : BitVec 512) (s : State) : Out := .next (s.hostUnregion qp m)
def execRdmaRead (qp rkey va len : Nat) (s : State) : Out := .next (s.rdmaRead qp rkey va len)
def execRdmaWrite (qp rkey va : Nat) (data : List Byte) (s : State) : Out := .next (s.rdmaWrite qp rkey va data)

end Sys2Proof.Machine
end

