-- ==== Sys2Proof/Machine/Place.lean ====
section
/-! DEFINITION. The distributors: which launch is served, where a team fits, how it starts, ranges and towers, and
stealing (R68, R92 to R102, R105); and UALink peers (R424 to R426). -/

namespace Sys2Proof.Machine

/-! ### Which launches are served (R92, R93, R415) -/

/-- An unstarted launch may start (R92). -/
def State.eligible (s : State) (l : Launch) : Bool :=
  !l.started && !l.aborted && !l.predFailed && l.preds.isEmpty && !s.journal.full
    && !(s.launches.any fun x => x.queue == l.queue && decide (x.age < l.age) && (!x.started || l.serial))

/-- Ranges of a launch (R96). -/
def Launch.rangeCount (l : Launch) : Nat := (l.teamCount + 63) / 64

/-- The saved teams that wait to be restored, in team order (R94, R398). -/
def Launch.savedTeams (l : Launch) : List Team :=
  sortBy (fun a b => decide (a.num ≤ b.num)) (l.teams.filter fun t => !t.resident && !t.faulted)

/-- A launch has undispatched teams: some never dispatched, or saved ones (R94). -/
def Launch.hasUndispatched (l : Launch) : Bool :=
  !l.ranges.isEmpty || decide (l.sentRanges < l.rangeCount) || !l.savedTeams.isEmpty

/-- The distributors serve this launch (R93). -/
def State.served (s : State) (l : Launch) : Bool :=
  !l.aborted && ((l.started && l.hasUndispatched) || s.eligible l)

/-- The served launches, the highest priority first and the oldest first within one (R93). -/
def State.serviceOrder (s : State) : List Launch :=
  sortBy (fun a b => decide (b.prio < a.prio) || (a.prio == b.prio && decide (a.age ≤ b.age)))
    (s.launches.filter s.served)

/-! ### Whether a team fits (R68, R105, R157, R423) -/

/-- A group that was saved to free store, while its team is resident (R157). -/
def State.setAside (s : State) (g : Group) : Bool :=
  !g.resident && !g.halted && g.live != 0 && ((s.team? (lidOf g.id) (teamOf g.id)).map (·.resident)).getD false

/-- Such a group of an older launch of the same priority waits for a core (R157). -/
def State.olderWaits (s : State) (l : Launch) (core : Nat) : Bool :=
  s.groups.any fun g => g.core == core && s.setAside g && match s.launch? (lidOf g.id) with
    | some x => x.prio == l.prio && decide (x.age < l.age)
    | none => false

/-- A core has room for groups of a launch. -/
def State.open_ (s : State) (l : Launch) (core : Nat) : Bool := s.takes core && !s.olderWaits l core

/-- Further teams of a paired launch that a core and its partner hold. -/
def State.pairRoom (s : State) (l : Launch) (core : Nat) : Nat :=
  l.pairHolds (s.storeSpare core) (s.slotsFree core) (s.storeSpare (partner core)) (s.slotsFree (partner core))

/-- What it would be with the first `k` groups of a team at home on the core and the others on its partner. -/
def State.pairLeft (s : State) (l : Launch) (core : Nat) (sizes : List Nat) (k : Nat) : Nat :=
  l.pairHolds (s.storeSpare core - l.scratchSize - (sizes.take k).sum) (s.slotsFree core - k)
    (s.storeSpare (partner core) - (sizes.drop k).sum) (s.slotsFree (partner core) - (sizes.length - k))

/-- The first of some numbers with the greatest measure. -/
def bestOf (f : Nat → Nat) : List Nat → Option Nat
  | [] => none
  | k :: t => match bestOf f t with
    | none => some k
    | some j => if f k < f j then some j else some k

/-- The cores of the groups of a team at home on a core; the part may divide a paired team as it likes (R62,
log 8). -/
def State.seatsOn (s : State) (l : Launch) (core : Nat) (sizes : List Nat) : Option (List Nat) :=
  if !s.open_ l core then none
  else if !l.pair then
    if s.roomFor core sizes l.scratchSize then some (sizes.map fun _ => core) else none
  else if !s.open_ l (partner core) then none
  else
    let n := sizes.length
    (bestOf (s.pairLeft l core sizes) (((List.range (n + 1)).map (n - ·)).filter fun k =>
      s.roomFor core (sizes.take k) l.scratchSize && s.roomFor (partner core) (sizes.drop k) 0)).map fun k =>
        List.replicate k core ++ List.replicate (n - k) (partner core)

/-- The urgent reservation of a core holds no team (R68). -/
def State.reservationFree (s : State) (core : Nat) : Bool :=
  s.takes core && !s.launches.any fun l => l.teams.any fun t => t.urgent && t.resident && t.core == core

/-- The windows of a new team. -/
def Launch.newSizes (l : Launch) : List Nat := List.replicate l.groupsPer (windowBytes l.window l.width)

/-- The teams of a launch go into urgent reservations, where they are free (R68). -/
def Launch.reserves (l : Launch) : Bool := l.urgent && l.urgentFits

/-- The cores of a tower, and those of a pod (R13). -/
def towerCores (t : Nat) : List Nat := (List.range 128).map (128 * t + ·)
def podCores (p : Nat) : List Nat := (List.range 4).map (4 * p + ·)

/-- All cores. -/
def allCores : List Nat := List.range Config.cores

/-- A place for a new team on a core: its cores, and whether it lies in the urgent reservation. A team that fits the
reservation takes a free one as long as some core of `scope` has one (R68). -/
def State.seat (s : State) (l : Launch) (scope : List Nat) (core : Nat) : Option (List Nat × Bool) :=
  if l.reserves && scope.any s.reservationFree then
    if s.reservationFree core then some (l.newSizes.map fun _ => core, true) else none
  else (s.seatsOn l core l.newSizes).map fun x => (x, false)

/-! ### A team starts (R60, R61, R63) -/

/-- A group of a team as it starts. -/
def newGroup (l : Launch) (t k core clock : Nat) : Group :=
  let item0 := (t * l.groupsPer + k) * l.width
  let live := maskOf (List.range l.width) fun x => decide (item0 + x < l.itemCount)
  { Group.fresh (.member l.lid t k) l.width core item0 l.window l.code live clock with
    sregs := Sparse.setAll 0 [] ((List.range 16).map fun j => (j, l.arg j)) }

/-- A team is dispatched, at home on a core, with its groups on cores: its launch has started, its accesses see what was written before, and its store
is taken from the L1 (R88, R92, R153). -/
def State.startTeam (s : State) (lid t home : Nat) (cores : List Nat) (urgent : Bool) : State :=
  match s.launch? lid with
  | some l =>
    let x : Team :=
      { num := t, core := home, core2 := cores.find? (· != home), tower := towerOf home, urgent := urgent
        resident := true, faulted := false, scratch := [], bad := [], bars := [], lands := [], tiles := [] }
    let s := (s.acquire home).acquire (partner home)
    let s := s.onLaunch lid fun y => { y with started := true, teams := y.teams ++ [x] }
    let s := { s with groups := s.groups ++ cores.zipIdx.map fun (p : Nat × Nat) => newGroup l t p.2 p.1 s.clock }
    (s.fitL1 home).fitL1 (partner home)
  | none => s

/-- A team starts at home on a core, when that can hold it. `more`: further teams of its launch are to be placed, and a
paired one leaves room for as many as its pair can hold beside it. -/
def State.startOn (s : State) (l : Launch) (scope : List Nat) (t : Nat) (more : Bool) (core : Nat) : Option State :=
  match s.seat l scope core with
  | none => none
  | some (cores, u) =>
    let x := s.startTeam l.lid t core cores u
    if (more && l.pair && !u && decide (x.pairRoom l core + 1 < s.pairRoom l core)) = true then none else some x

/-- Teams of a launch, each on the first of its cores that can hold it; none when one fits nowhere. -/
def State.startAll (s : State) (l : Launch) (scope : List Nat) : List (Nat × List Nat) → Option State
  | [] => some s
  | (t, cands) :: rest =>
    match cands.findSome? (s.startOn l scope t (!rest.isEmpty)) with
    | some x => x.startAll l scope rest
    | none => none

/-! ### Ranges and towers (R96 to R98) -/

/-- Free group slots of a tower (log 106). -/
def State.freeSlots (s : State) (t : Nat) : Nat :=
  ((towerCores t).map fun c => if s.takes c then slotLimit - s.slotsUsed c else 0).sum

/-- A tower with a working pod. -/
def State.towerWorks (s : State) (t : Nat) : Bool := (towerCores t).any s.takes

/-- The lowest-numbered tower with the greatest measure, among those that satisfy `p`. -/
def bestTower (p : Nat → Bool) (f : Nat → Nat) : Nat :=
  ((List.range 8).foldl (fun (a : Option Nat) t =>
    if !p t then a
    else match a with
      | none => some t
      | some b => if f b < f t then some t else some b) none).getD 0

/-- The 16 bytes of a placement map entry, read at its address; none when they cannot be read (R97). -/
def State.mapEntry (s : State) (va : Nat) : Option Nat :=
  ((State.span va 16).mapM fun a => (s.readNow a 1).2).map fun bs => ofBytes bs.flatten

/-- The tower that owns the page of each unit of an anchor region; a page that is not the part's own memory has none.
None when a unit cannot be translated (R98; log 107). -/
def State.unitTowers (s : State) (anchor n : Nat) : Option (List (Option Nat)) :=
  (List.range n).mapM fun i => (s.lookup (anchor + 65536 * i)).map fun t =>
    let pa := t.phys (anchor + 65536 * i)
    if s.isOwn pa then some (towerOfPa pa) else none

/-- The tower that the anchor of a range selects (R98, rule 1). -/
def State.anchorTower (s : State) (l : Launch) (k : Nat) : Option Nat :=
  if l.pmap = 0 then none
  else match s.mapEntry (l.pmap + 16 * k) with
    | none => none
    | some e =>
      let n := e / 2 ^ 64 % 32
      if e / 2 ^ 57 % 2 ^ 7 ≠ 0 ∨ e / 2 ^ 69 ≠ 0 ∨ n = 0 ∨ 16 < n then none
      else match s.unitTowers (e % 2 ^ 57) n with
        | none => none
        | some ts =>
          let t := bestTower (fun _ => true) fun t => ts.count (some t)
          if s.towerWorks t then some t else none

/-- What the look at the anchor of a range finds uncorrectable, of its entry or of the table words that translate its
units, in the journal (R391). -/
def State.noteAnchor (s : State) (l : Launch) (k : Nat) : State :=
  let va := l.pmap + 16 * k
  if l.pmap = 0 then s
  else match s.mapEntry va with
    | none => (((State.span va 16).find? fun a => (s.readNow a 1).2.isNone).map fun a => (s.readNow a 1).1).getD s
    | some e =>
      if e / 2 ^ 57 % 2 ^ 7 ≠ 0 ∨ e / 2 ^ 69 ≠ 0 ∨ 16 < e / 2 ^ 64 % 32 then s
      else ((((List.range (e / 2 ^ 64 % 32)).map fun i => e % 2 ^ 57 + 65536 * i).find? fun a =>
        (s.lookup a).isNone).map s.noteWalk).getD s

/-- The tower of a range (R98). -/
def State.rangeTower (s : State) (l : Launch) (k : Nat) : Nat :=
  (s.anchorTower l k).getD (bestTower s.towerWorks s.freeSlots)

/-- The chip distributor sends the next range of a launch to a tower (R96). -/
def State.sendRange (s : State) (l : Launch) : State :=
  let k := l.sentRanges
  let r : Range := ⟨l.rangeStart k, l.rangeStart (k + 1), s.rangeTower l k, none⟩
  (s.noteAnchor l k).onLaunch l.lid fun x => { x with sentRanges := k + 1, ranges := if r.first < r.last then x.ranges ++ [r] else x.ranges }

/-- It sends all that are left. -/
def State.sendAll (s : State) (l : Launch) : State :=
  (List.range (l.rangeCount - l.sentRanges)).foldl
    (fun s _ => ((s.launch? l.lid).map s.sendRange).getD s) s

/-! ### New teams start (R93, R100 to R102) -/

/-- Teams of a range have been dispatched on a pod, to which the rest of it goes (R96; log 103). -/
def Launch.took (l : Launch) (r : Range) (n pod : Nat) : Launch :=
  let rest : Range := { r with first := r.first + n, pod := if pod / 32 = r.tower then some pod else r.pod }
  { l with ranges := l.ranges.flatMap fun x =>
      if x = r then (if rest.first < rest.last then [rest] else []) else [x] }

/-- A pod set is dispatched onto one pod that holds none (R101, R361). -/
def State.startSet (s : State) (l : Launch) (k pod : Nat) : Option State :=
  if (s.pod pod).podset.isSome then none
  else (s.startAll l (podCores pod) ((l.setTeams k).map fun t => (t, podCores pod))).map fun s =>
    s.onPod pod fun p => { p with podset := some (l.lid, k) }

/-- The urgent reservations that a pod set would find on a pod that can take it. -/
def State.setRoom (s : State) (l : Launch) (k pod : Nat) : Nat :=
  if (s.startSet l k pod).isSome then min (l.setTeams k).length ((podCores pod).filter s.reservationFree).length else 0

/-- A tower offers a new team of a launch no reservation, or a pod set fewer than another pod does (R68). -/
def State.outdone (s : State) (l : Launch) (r : Range) (tower core : Nat) : Bool :=
  if l.podset then
    let k := l.setOf r.first
    (List.range 32).all fun p => decide (s.setRoom l k (32 * tower + p) < s.setRoom l k (podOf core))
  else s.reservationFree core && !(towerCores tower).any s.reservationFree

/-- A new team of a range, or its pod set, may go to a core: its tower is the range's; a team for an urgent
reservation goes to another tower when its own has none free (R68, R96). -/
def State.mayGo (s : State) (l : Launch) (r : Range) (core : Nat) : Bool :=
  let t := towerOf core
  if !l.reserves then r.tower == t
  else (r.tower == t || s.outdone l r r.tower core) && (!l.podset || (List.range Config.pods).all fun p =>
    decide (s.setRoom l (l.setOf r.first) p ≤ s.setRoom l (l.setOf r.first) (podOf core)))

/-- The pod to which a range has been given may have its next team, and can hold it. -/
def State.holderTakes (s : State) (l : Launch) (r : Range) : Bool :=
  match r.pod with
  | none => false
  | some p =>
    if l.podset then s.mayGo l r (4 * p) && (s.startSet l (l.setOf r.first) p).isSome
    else (podCores p).any fun c => s.mayGo l r c && (s.seat l allCores c).isSome

/-- The next team of a range, or its next pod set, starts on a core or on the core's pod; none when it does not fit,
or when it belongs to another pod that can hold it (R93, R96). -/
def State.startFresh (s : State) (l : Launch) (r : Range) (core : Nat) : Option State :=
  let pod := podOf core
  if !s.mayGo l r core || (r.pod != some pod && s.holderTakes l r) then none
  else if l.podset then
    (s.startSet l (l.setOf r.first) pod).map fun s =>
      s.onLaunch l.lid fun x => x.took r (l.setTeams (l.setOf r.first)).length pod
  else (s.startAll l allCores [(r.first, [core])]).map fun s => s.onLaunch l.lid fun x => x.took r 1 pod

/-- The tower to which a team of an unstarted launch has been sent. -/
def Launch.sentTo (l : Launch) (t : Nat) : Nat :=
  ((l.ranges.find? fun r => decide (r.first ≤ t) && decide (t < r.last)).map (·.tower)).getD 0

/-- The pods that a pod set may go to: those of its range's tower first, and, for an urgent launch, those that offer it
more reservations before (R68). -/
def State.podsFor (s : State) (l : Launch) (k : Nat) : List Nat :=
  let pods := (List.range 32).map (32 * l.sentTo (k * l.setSize) + ·) ++ List.range Config.pods
  if l.reserves then sortBy (fun a b => decide (s.setRoom l k b ≤ s.setRoom l k a)) pods else pods

/-- The pod sets of a launch, each on some pod. -/
def State.startSets (s : State) (l : Launch) : List Nat → Option State
  | [] => some s
  | k :: rest =>
    match (s.podsFor l k).findSome? (s.startSet l k) with
    | some s => s.startSets l rest
    | none => none

/-- All teams of a co-resident launch are dispatched together, or none (R100); those of a range on its tower first,
else on any (log 104). -/
def State.startTogether (s : State) (l : Launch) : Option State :=
  (if l.podset then s.startSets l (List.range ((l.teamCount + l.pset) / l.setSize))
    else s.startAll l allCores ((List.range l.teamCount).map fun t => (t, towerCores (l.sentTo t) ++ allCores))).map fun s =>
      s.onLaunch l.lid fun x => { x with ranges := [] }

/-! ### Stealing (R99) -/

/-- A tower has a team that waits to be dispatched or restored. -/
def State.towerBusy (s : State) (tower : Nat) : Bool :=
  s.launches.any fun l => !l.aborted && ((l.ranges.any fun r => r.tower == tower)
    || l.savedTeams.any fun t => t.tower == tower)

/-- Some tile of an engine is held for a launch by the engine (R323). -/
def State.pinned (s : State) (l : Launch) (pod : Nat) : Bool :=
  (s.pod pod).tiles.any fun t => decide (t.2.holder = .engine l.lid)

/-- The saved teams of a tower in a run of 64 (R96, R398). -/
def Launch.savedIn (l : Launch) (k tower : Nat) : List Team :=
  l.savedTeams.filter fun t => l.rangeOf t.num == k && t.tower == tower

/-- The undispatched teams of a range, by number: those saved, and those never dispatched. -/
def Launch.waitingIn (l : Launch) (k tower : Nat) : List Nat :=
  let fresh := l.ranges.filter fun r => r.first / 64 == k && r.tower == tower
  sortBy (fun a b => decide (a ≤ b))
    ((l.savedIn k tower).map (·.num) ++ fresh.flatMap fun r => (List.range (r.last - r.first)).map (r.first + ·))

/-- The places where teams of a launch wait: range and tower. -/
def Launch.waitingKeys (l : Launch) : List (Nat × Nat) :=
  ((l.ranges.map fun (r : Range) => (r.first / 64, r.tower)) ++
    l.savedTeams.map fun (t : Team) => (l.rangeOf t.num, t.tower)).eraseDups

/-- The first team that is stolen: the higher-numbered half is, whole pod sets only. -/
def Launch.stealFrom (l : Launch) (waiting : List Nat) : Nat :=
  let m := waiting.getD (waiting.length - waiting.length / 2) 0
  if l.podset then (m + l.pset) / l.setSize * l.setSize else m

/-- What a tower may steal from: at least two undispatched teams, not of a runner launch; the launch, the range and
the tower that holds it. A range of which teams have been dispatched counts with the others: DEDUCED (log 119). -/
def State.stealable (s : State) (tower : Nat) : List (Launch × Nat × Nat) :=
  s.launches.flatMap fun l => if l.runner || l.aborted then [] else
    (l.waitingKeys.filter fun k => k.2 != tower && decide (2 ≤ (l.waitingIn k.1 k.2).length)).map fun k => (l, k.1, k.2)

/-- The saved teams that come back together with one: its pod set, or what shared its pod when the launch was
saved whole (R398). -/
def Launch.together (l : Launch) (t : Team) : List Team :=
  l.savedTeams.filter fun x => l.sameUnit x.num t.num && (!l.wholeOnly || podOf x.core == podOf t.core)

/-- The teams of a range from `m` on go to another tower. A saved team moves with those that come back together with
it, or stays; one that its engine's tiles tie to a pod stays (R398). -/
def State.moveTeams (s : State) (l : Launch) (k m : Nat) (src dst : Nat) : State :=
  let cut := fun (r : Range) =>
    if r.first / 64 == k && r.tower == src && decide (m < r.last) then
      (if r.first < m then [{ r with last := m }] else []) ++ [{ r with first := max m r.first, tower := dst, pod := none }]
    else [r]
  let goes := fun (t : Team) =>
    !t.resident && l.rangeOf t.num == k && t.tower == src && decide (m ≤ t.num) && !s.pinned l (podOf t.core)
  let move := fun (t : Team) => if goes t && (l.together t).all goes then { t with tower := dst } else t
  s.onLaunch l.lid fun x => { x with ranges := x.ranges.flatMap cut, teams := x.teams.map move }

/-- The largest of some holdings, the lowest-numbered holder first: what is held, its size, and its holder. Of two equal
ones of one holder the first in the list: DESIGN CHOICE (log 119). -/
def largest {α : Type} (l : List (α × Nat × Nat)) : Option α :=
  (l.foldl (fun (a : Option (α × Nat × Nat)) x => match a with
    | none => some x
    | some y => if y.2.1 < x.2.1 ∨ (x.2.1 = y.2.1 ∧ x.2.2 < y.2.2) then some x else some y) none).map (·.1)

/-- STEAL by a tower: an idle one takes the higher-numbered half of the largest undispatched range of its
siblings. -/
def State.stealTower (s : State) (tower : Nat) : State :=
  if s.towerBusy tower || !s.towerWorks tower then s
  else match largest ((s.stealable tower).map fun x => (x, (x.1.waitingIn x.2.1 x.2.2).length, x.2.2)) with
    | none => s
    | some (l, k, src) => s.moveTeams l k (l.stealFrom (l.waitingIn k src)) src tower

/-- The ranges that pods of a tower hold, with their pods. -/
def State.podRanges (s : State) (tower : Nat) : List (Launch × Range × Nat) :=
  s.launches.flatMap fun l => if l.aborted then [] else
    l.ranges.filterMap fun r => if r.tower = tower then r.pod.map fun p => (l, r, p) else none

/-- The higher-numbered part of a range goes to another pod of its tower. -/
def Launch.givePod (l : Launch) (r : Range) (pod : Nat) : Launch :=
  let m := l.stealFrom ((List.range (r.last - r.first)).map (r.first + ·))
  { l with ranges := l.ranges.flatMap fun x =>
      if x = r ∧ m < r.last then [{ r with last := m }, { r with first := m, pod := some pod }] else [x] }

/-- STEAL by a pod distributor: an idle pod takes from the sibling of its tower that holds the largest range. -/
def State.stealPod (s : State) (pod : Nat) : State :=
  let held := s.podRanges (pod / 32)
  if held.any (fun x => x.2.2 == pod) || !(podCores pod).any s.takes then s
  else match largest ((held.filter fun x => !x.1.runner && decide (2 ≤ x.2.1.last - x.2.1.first)).map fun x =>
      (x, x.2.1.last - x.2.1.first, x.2.2)) with
    | none => s
    | some (l, r, _) => s.onLaunch l.lid fun x => x.givePod r pod

/-- STEAL: towers are numbered 0 to 7, and the distributor of pod p is number 8 + p (log 103). -/
def State.steal (s : State) (thief : Nat) : State :=
  if thief < 8 then s.stealTower thief
  else if thief - 8 < Config.pods then s.stealPod (thief - 8)
  else s

/-! ### UALink (R424 to R426) -/

/-- An answer to a peer. -/
def State.answerPeer (s : State) (src : Nat) (x : Sent) : State := { s with toPeers := s.toPeers ++ [(src, x)] }

/-- The answer to a request that was performed at these bytes, once their channels serve it (R419, R421). `s` is the part
before it. -/
def State.servePeer (s t : State) (src pa len : Nat) (bs : List Byte) : State :=
  t.owe ⟨true, src, s.chansOf 2 (State.span pa len), .data bs⟩

/-- Bytes of the part's own memory that a request of 1 to 128 bytes may name. -/
def State.peerSpan (s : State) (pa len : Nat) : Bool :=
  decide (1 ≤ len) && decide (len ≤ 128) && decide (pa + len ≤ 2 ^ 53)
    && (State.span pa len).all fun a => s.isOwn a

/-- UALINK_INBOUND_REQUEST, performed at the home, or answered with a completion error (R424, R425). -/
def State.peerRequest (s : State) (src : Nat) (r : PeerReq) : State :=
  if !s.linked then s
  else if !s.mgmt.accepted.getLsbD src then s.answerPeer src .nak
  else match r with
    | .read pa len =>
      if !s.peerSpan pa len then s.answerPeer src .nak
      else if s.poisonedSpan pa len then (s.journalSpan pa len).answerPeer src .nak
      else s.servePeer (s.touch (State.span pa len) false false) src pa len (s.memRead pa len)
    | .write pa bs =>
      if !s.peerSpan pa bs.length then s.answerPeer src .nak
      else s.servePeer (s.homeWrite pa bs) src pa bs.length []
    | .atomic op pa v v2 =>
      if !s.peerSpan pa (atomWidth op) || pa % atomWidth op != 0 then s.answerPeer src .nak
      else match s.atomicAt pa op v.toNat v2.toNat with
        | (t, some old) => s.servePeer t src pa (atomWidth op) (leBytes (atomWidth op) old)
        | (t, none) => t.answerPeer src .nak

/-- A failed outbound access of a port: kind 5, source 7 (R426). -/
def State.journalPort (s : State) (port pa : Nat) : State := s.journalAdd 5 0 7 port (BitVec.ofNat 64 pa)

/-- A request to a peer's address waits on a port that is lost: on the last one all wait; else the routing is not
given, and a free value decides (log 10). -/
def State.waitsOnPort (s : State) (pa : Nat) : Bool := !s.linked || !Config.peerPerforms s.free pa

/-- The store of a group to a peer fails, if it waits on the port (R296). -/
def State.loseAck (port : Nat) (s : State) (x : GroupId × Ack) : State :=
  match x.2.peer with
  | none => s
  | some pa =>
    if s.waitsOnPort pa then
      (s.drawn.journalPort port pa).onGroup x.1 fun g => g.loseStore x.2
    else s.drawn

/-- The line transfer of a group with a peer fails, if it waits on the port (R284). -/
def State.loseLine (port : Nat) (s : State) (o : Op) : State :=
  match o.kind with
  | .fetch ga pa _ | .post ga pa _ =>
    if !s.isPeer pa then s
    else if s.waitsOnPort pa then (s.drawn.journalPort port pa).endLine o (some (badData ga))
    else s.drawn
  | _ => s

/-- The access of a group to a peer whose result is under way fails, if it waits on the port (R296). -/
def State.losePend (port : Nat) (s : State) (x : GroupId × Pend) : State :=
  match x.2.peer, x.2.fail with
  | some (va, pa), none =>
    if s.waitsOnPort pa then
      (s.drawn.journalPort port pa).onGroup x.1 fun g => { g with pend := g.pend.map fun p =>
        if p.n = x.2.n then { p with fail := some (badData va), vals := [], svals := [], flags := 0 } else p }
    else s.drawn
  | _, _ => s

/-- An inbound request whose answer waits cannot be completed over the port that is lost: a completion error. -/
def State.loseOwed (s : State) : State :=
  s.owed.foldl (fun s o =>
    if o.peer then
      if s.waitsOnPort o.dest then s.drawn.answerPeer o.dest .nak else { s.drawn with owed := s.owed ++ [o] }
    else { s with owed := s.owed ++ [o] }) { s with owed := [] }

/-- LINK_LOSS (R426). -/
def State.linkLoss (s : State) (port : Nat) : State :=
  let st := Sparse.get Station.down s.stations port
  if !st.up then s
  else
    let s := { s with stations := Sparse.set Station.down s.stations port { st with up := false } }
    let s := (s.groups.flatMap fun g => g.acks.map fun a => (g.id, a)).foldl (State.loseAck port) s
    let s := (s.groups.flatMap fun g => g.pend.map fun p => (g.id, p)).foldl (State.losePend port) s
    (s.ops.foldl (State.loseLine port) s).loseOwed

def execSteal (tower : Nat) (s : State) : Out := .next (s.steal tower)
def execUalinkInboundRequest (src : Nat) (r : PeerReq) (s : State) : Out := .next (s.peerRequest src r)
def execLinkLoss (port : Nat) (s : State) : Out := .next (s.linkLoss port)

end Sys2Proof.Machine
end

