-- ==== Sys2Proof/Machine/Serve.lean ====
section
/-! DEFINITION. Serving the launches: restoring saved units (R157, R391, R398), the team that a core takes next
(R93, R94, R96, R100 to R102), and requests for pre-emption (R94, R394, R397). -/

namespace Sys2Proof.Machine

/-! ### A team is faulted whole (R104, R387, R391) -/

/-- A launch fault record of a team, KIND 2 (R389). -/
def teamRecord (t : Team) (reason core : Nat) : FaultRec :=
  { kind := 2, reason := reason, cause := 0, lvl := 0, x := false, w := false, engine := false, deferred := false,
    addr := 0, epc := 0, tval := 0, team := t.num, group := 0, core := core }

/-- The bytes of the save area that the images of saved teams take. -/
def State.imageOf (s : State) (l : Launch) (ts : List Team) : Nat :=
  (ts.map fun t => 65536 + l.scratchSize + 196608 * t.tiles.length
    + ((s.teamGroups l.lid t.num).map Group.image).sum).sum
    + 196608 * (l.tiles.filter fun x => ts.any fun t => podOf t.core == x.1).length

/-- A team is faulted whole: a record, and the launch's policy; a launch that loses a pod as a whole is aborted
whatever CONTF holds, and the image of a saved team is discarded (R104, R387, R391). -/
def State.loseTeam (s : State) (lid : Nat) (t : Team) (reason core : Nat) : State :=
  let s := match s.launch? lid with
    | some l => if t.resident then s else s.useArea lid (· - s.imageOf l [t])
    | none => s
  let s := s.addRecord lid (teamRecord t reason core)
  if reason = 4 ∧ ((s.launch? lid).map Launch.wholeOnly).getD false then s.abortLaunch lid false
  else s.faultTeam lid t.num

/-! ### A unit is restored (R157, R391, R398) -/

/-- A sector of an image that is restored is found uncorrectable (R391). -/
def State.badImage (s : State) (l : Launch) : Option Nat :=
  let lo := l.save + 64
  match s.areaSize l with
  | none => none
  | some size => ((s.poison.map (·.1)).find? fun k =>
      Config.imageIn s.free k && (List.range (size / 65536)).any fun j =>
        ((s.lookup (lo - 64 + 65536 * j)).map fun t => t.phys (lo - 64 + 65536 * j) / 65536 == k / 2048).getD false).map
      (32 * ·)

/-- The images of teams that are to come back are read: a team whose image is uncorrectable is faulted. Whether one
was. -/
def State.checkImages (s : State) (l : Launch) : List Team → State × Bool
  | [] => (s, false)
  | t :: rest => match s.badImage l with
    | some pa => ((((s.drawn.journalBad pa).loseTeam l.lid t 8 t.core).checkImages l rest).1, true)
    | none => s.drawn.checkImages l rest

/-- The tiles that come back with teams. -/
def Launch.tilesBack (l : Launch) (ts : List Team) : List (Nat × Tile) :=
  (ts.flatMap fun t => t.tiles.map (·.2)) ++
    (l.tiles.filter fun x => ts.any fun t => podOf t.core == x.1).map (·.2)

/-- A pod can take saved teams: it is of the tower that holds them, the one they left while its engine holds
tiles of the launch, free of another pod set, and free in the tiles that come back. -/
def State.podTakes (s : State) (l : Launch) (ts : List Team) (pod : Nat) : Bool :=
  (ts.all fun t => t.tower == towerOf (4 * pod) && (podOf t.core == pod || !s.pinned l (podOf t.core)))
    && (!l.podset || (s.pod pod).podset.isNone)
    && (l.tilesBack ts).all fun x => decide ((s.tile pod x.1).holder = .free)

/-- A team comes back, at home on a core, with its groups on cores: its scratchpad, its groups, and its tiles. -/
def State.restoreTeam (s : State) (l : Launch) (t : Team) (home : Nat) (cores : List Nat) : State :=
  let s := t.tiles.foldl (fun s x => s.setTile (podOf home) x.2.1 x.2.2) s
  let s := s.onTeam l.lid t.num fun x => { x with
    core := home, core2 := cores.find? (· != home), resident := true, urgent := false, tiles := [] }
  ((s.teamGroups l.lid t.num).zip cores).foldl (fun s x => s.bringBack x.1.id x.2 Group.unparked) s

/-- Teams come back on a pod, each on the first core that can hold it; none when one does not fit. -/
def State.restoreAll (s : State) (l : Launch) (cands : List Nat) : List Team → Option State
  | [] => some s
  | t :: rest =>
    match cands.findSome? fun c =>
        (s.seatsOn l c ((s.teamGroups l.lid t.num).map Group.bytes)).map fun cores => s.restoreTeam l t c cores with
    | some x => x.restoreAll l cands rest
    | none => none

/-- The engine-held tiles of a launch that was saved whole come back on a pod. -/
def State.restoreEngineTiles (s : State) (l : Launch) (ts : List Team) (pod : Nat) : State :=
  let back := fun (x : Nat × Nat × Tile) => ts.any fun t => podOf t.core == x.1
  ((l.tiles.filter back).foldl (fun s x => s.setTile pod x.2.1 x.2.2) s).onLaunch l.lid fun y =>
    { y with tiles := y.tiles.filter fun x => !back x }

/-- A saved unit comes back on the pod of a core, that core first, or a team of it is faulted; none when the pod
cannot hold it. -/
def State.restoreUnit (s : State) (l : Launch) (t : Team) (core : Nat) : Option State :=
  let ts := l.together t
  let pod := podOf core
  if !s.podTakes l ts pod then none
  else (s.restoreAll l (core :: podCores pod) ts).map fun s' =>
    match s.checkImages l ts with
    | (bad, true) => bad
    | (_, false) =>
      let s' := s'.restoreEngineTiles l ts pod
      let s' := if l.podset then s'.onPod pod fun p => { p with podset := ts.head?.map fun t => (l.lid, l.setOf t.num) }
        else s'
      ts.foldl (fun s _ => s.drawn) (s'.useArea l.lid (· - s.imageOf l ts))

/-- The oldest group of a resident team that was saved to free store comes back on its core, after those of older
launches of its priority (R157). -/
def State.restoreOne (s : State) (l : Launch) (t : Team) (core : Nat) : State :=
  match s.oldest ((s.teamGroups l.lid t.num).filter fun g => !g.resident && g.core == core) with
  | none => s
  | some g =>
    if s.roomFor core [g.bytes] 0 && !s.olderWaits l core then
      match s.badImage l with
      | some pa => (s.drawn.journalBad pa).loseTeam l.lid t 8 core
      | none => ((s.bringBack g.id core id).useArea l.lid (· - g.image)).drawn
    else s

/-! ### What a core takes next (R93, R94, R96, R100 to R102) -/

/-- An undispatched team that is next in its range: a saved one, or the first that was never dispatched. -/
inductive Turn where
  | saved (t : Team)
  | fresh (r : Range)
  deriving DecidableEq, Repr

/-- The teams that are next on a tower: in each range its saved ones before its new ones (R94, R398), and in a runner
launch the lowest-numbered of all alone (R102). -/
def Launch.heads (l : Launch) (tower : Nat) : List Turn :=
  if l.runner then match l.savedTeams.head?, l.ranges.head? with
    | some t, _ => if t.tower = tower then [.saved t] else []
    | none, some r => if r.tower = tower then [.fresh r] else []
    | none, none => []
  else
    (l.waitingKeys.filter fun k => k.2 == tower).flatMap fun k => match (l.savedIn k.1 tower).head? with
      | some t => [.saved t]
      | none => (l.ranges.filter fun r => r.first / 64 == k.1 && r.tower == tower).map .fresh

/-- The teams that a core may take: those of its tower, and those that go to an urgent reservation (R68). -/
def Launch.headsFor (l : Launch) (core : Nat) : List Turn :=
  if l.reserves then (towerOf core :: List.range 8).flatMap l.heads else l.heads (towerOf core)

/-- A core takes a team that is next; none when it cannot. A restored unit is named by its launch and that team. -/
def State.take (s : State) (l : Launch) (core : Nat) : Turn → Option (Option (Nat × Nat) × State)
  | .fresh r => (s.startFresh l r core).map fun t => (none, t)
  | .saved t => if t.tower = towerOf core then (s.restoreUnit l t core).map fun x => (some (l.lid, t.num), x) else none

/-- The part as it is once some of its teams have gone. -/
def State.without (s : State) (gone : Nat → Nat → Bool) : State :=
  let seat := fun (g : Group) => { g with resident := g.resident && (isWave g.id || !gone (lidOf g.id) (teamOf g.id)) }
  let team := fun (l : Launch) (t : Team) => { t with resident := t.resident && !gone l.lid t.num }
  { s with groups := s.groups.map seat, launches := s.launches.map fun l => { l with teams := l.teams.map (team l) } }

/-- A team stops for a launch of a higher priority (R94). -/
def State.yields (s : State) (prio lid t : Nat) : Bool :=
  s.stopping lid t && (s.launch? lid).any fun l => !l.aborted && decide (l.prio < prio)

/-- The core will hold a team that is next of this launch once those that stop for it have gone: their room is kept
for it (R94; log 116). -/
def State.heldFor (s : State) (l : Launch) (core : Nat) : Bool :=
  (s.groups.any fun g => g.stopAt.isSome)
    && (l.headsFor core).any fun h => ((s.without (s.yields l.prio)).take l core h).isSome

/-- Ranges of a launch are sent on, one after another, until the tower has one or none is left (R93, R96). -/
def State.sendFor (s : State) (lid tower : Nat) : Nat → State
  | 0 => s
  | n + 1 => match s.launch? lid with
    | some l => if (l.heads tower).isEmpty && decide (l.sentRanges < l.rangeCount) then (s.sendRange l).sendFor lid tower n else s
    | none => s

/-- Serves the launches in order, for one core: the first with a team that the core can take has it placed. Ranges
that the tower could use are sent first; a co-resident launch that does not fit holds up those after it, and so does one
for which teams of the core stop (R93, R94, R100). -/
def State.serve (s : State) (core : Nat) : List Launch → Option (Nat × Nat) × State
  | [] => (none, s)
  | l :: rest =>
    if l.cores && !l.started then
      let s := s.sendAll l
      (none, ((s.launch? l.lid).bind s.startTogether).getD s)
    else
      let s := s.sendFor l.lid (towerOf core) (l.rangeCount - l.sentRanges)
      match s.launch? l.lid with
      | none => s.serve core rest
      | some l => match (l.headsFor core).findSome? (s.take l core) with
        | some x => x
        | none => if s.heldFor l core then (none, s) else s.serve core rest

/-- What a core takes next. -/
def State.turn (s : State) (core : Nat) : Option (Nat × Nat) × State :=
  if s.power && s.coreWorks core then s.serve core s.serviceOrder else (none, s)

/-- TEAM_DISPATCH: it waits where a saved unit is next. -/
def State.teamDispatch (s : State) (core : Nat) : State :=
  match s.turn core with
  | (none, t) => t
  | (some _, _) => s

/-- UNIT_RESTORE: a saved unit whose turn it is comes back, or a group that was saved to free store. -/
def State.unitRestore (s : State) (lid : Nat) (team : Option Nat) (core : Nat) : State :=
  match s.launch? lid with
  | none => s
  | some l =>
    if l.aborted || !s.power then s
    else match (team.bind fun n => l.teams.find? fun t => t.num == n && t.resident && !t.faulted) with
      | some t => s.restoreOne l t core
      | none => match s.turn core with
        | (some (k, n), t) => if k = lid ∧ team.all (l.sameUnit n) then t else s
        | (none, _) => s

/-! ### Requests for pre-emption (R94, R394, R397) -/

/-- The teams of a unit of pre-emption that are resident. -/
def Launch.unitTeams (l : Launch) (t : Nat) : List Team := l.teams.filter fun x => x.resident && l.sameUnit x.num t

/-- A team that is next fits some core of a tower. -/
def State.fitsTower (s : State) (l : Launch) (tower : Nat) (h : Turn) : Bool :=
  (towerCores tower).any fun c => (s.take l c h).isSome

/-- The part as it is once every stopping team has gone. -/
def State.afterStops (s : State) : State := s.without s.stopping

/-- What a launch needs on a tower: room for each team that is next there, or, for a co-resident launch, for all of its
teams together. -/
def Launch.needs (l : Launch) (tower : Nat) : List (Option Turn) :=
  if l.cores && !l.started then (if l.ranges.any fun r => r.tower == tower then [none] else [])
  else (l.heads tower).map some

/-- The room is there. -/
def State.meets (s : State) (tower : Nat) (l : Launch) : Option Turn → Bool
  | some h => s.fitsTower l tower h
  | none => (s.startTogether l).isSome

/-- What is needed on a tower and is neither there nor will be once the stopping teams have gone, in the order of
service. -/
def State.unmet (s : State) (tower : Nat) : List (Launch × Option Turn) :=
  s.serviceOrder.flatMap fun l =>
    ((l.needs tower).filter fun n => !s.meets tower l n && !s.afterStops.meets tower l n).map fun n => (l, n)

/-- The victims of a request, in the order in which they are taken: one team of each unit. -/
def State.victimTeams (s : State) (prio tower : Nat) : List (Launch × Nat) :=
  let ls := sortBy (fun a b => decide (a.prio < b.prio) || (a.prio == b.prio && decide (b.age ≤ a.age)))
    (s.launches.filter fun l => l.started && !l.aborted && decide (l.prio < prio) && l.save != 0)
  let here := fun (l : Launch) (t : Team) =>
    t.resident && !t.urgent && !t.faulted && towerOf t.core == tower && !s.stopping l.lid t.num
  ls.flatMap fun l => (sortBy (fun a b => decide (b.num ≤ a.num)) (l.teams.filter (here l))).map fun t => (l, t.num)

/-- A unit's image fits the free space of its launch's save area, and can be written there (R388, R397). -/
def State.imageFits (s : State) (l : Launch) (t : Nat) : Bool :=
  let size := s.unitImage l (l.unitTeams t)
  decide (size + s.reservedArea l ≤ s.areaFree l) && !s.unsavable l size

/-- The groups of a unit are to stop (R394, R395). -/
def State.stopUnit (s : State) (l : Launch) (t : Nat) : State :=
  let mine := fun g => lidOf g == l.lid && !isWave g && l.sameUnit (teamOf g) t
  s.stopGroups mine

/-- Victims are asked to stop, one after another, until a need is met by the room that is being freed. -/
def State.makeRoom (met : State → Bool) : List (Launch × Nat) → State → State
  | [], s => s
  | (v, t) :: rest, s =>
    if met s.afterStops then s
    else if s.stopping v.lid t || !s.imageFits v t then State.makeRoom met rest s
    else State.makeRoom met rest (s.stopUnit v t)

/-- The need would be met if every victim of its priority stopped, on every tower. -/
def State.canMeet (s : State) (tower : Nat) (x : Launch × Option Turn) : Bool :=
  ((List.range 8).foldl (fun s k => State.makeRoom (fun _ => false) (s.victimTeams x.1.prio k) s) s).afterStops.meets tower x.1 x.2

/-- The save areas of possible victims are looked at (R397). -/
def State.noteAreas (s : State) (tower : Nat) : State :=
  ((s.unmet tower).flatMap fun x => s.victimTeams x.1.prio tower).foldl
    (fun s x => ((s.launch? x.1.lid).map s.noteHeader).getD s) s

/-- PREEMPTION_REQUEST: for the first need of a tower that its victims can meet, they are asked to stop until enough room
is being freed (log 116). -/
def State.requestStop (s : State) (tower : Nat) : State :=
  if 8 ≤ tower then s
  else
    let u := s.noteAreas tower
    match (s.unmet tower).find? (u.canMeet tower) with
    | none => u
    | some x => State.makeRoom (fun v => v.meets tower x.1 x.2) (u.victimTeams x.1.prio tower) u

def execTeamDispatch (core : Nat) (s : State) : Out := .next (s.teamDispatch core)
def execUnitRestore (lid : Nat) (team : Option Nat) (core : Nat) (s : State) : Out := .next (s.unitRestore lid team core)
def execPreemptionRequest (tower : Nat) (s : State) : Out := .next (s.requestStop tower)

end Sys2Proof.Machine
end

