-- ==== Sys2Proof/Machine/Save.lean ====
section
/-! DEFINITION. Saving units (R394 to R399), retirement of groups, teams and launches (R408, R409),
and lost pods (R103, R104). -/

namespace Sys2Proof.Machine

/-! ### Tiles that leave an engine (R324, R396) -/

/-- A tile becomes free: residues zero, E 254, status clear. -/
def State.releaseTile (s : State) (pod t : Nat) : State := (s.setTile pod t Tile.zero).dropInjected pod t

/-- Every tile of a holder becomes free. -/
def State.releaseTiles (s : State) (h : Holder) : State :=
  (s.tilesOf h).foldl (fun s x => s.releaseTile x.1 x.2) s

/-- A tile with the residues of retired channels rewritten from the values of its elements, as a full engine would
hold it; an element without one keeps its residues (R339, R354, R396; log 105). -/
def Tile.whole (t : Tile) (retired : List Nat) : Tile :=
  { t with res := Sparse.setAll 0 t.res ((retired.filter (Rns.channels t.fmt).contains).flatMap fun c =>
      (List.range 16384).filterMap fun pos => match Rns.reconstruct t.fmt retired (t.residue pos) with
        | .valid x | .corrected _ x => some (pos * 10 + c, Rns.encode x c)
        | _ => none) }

/-- The tiles of a holder with their pods, numbers and contents. -/
def State.tileImages (s : State) (h : Holder) : List (Nat × Nat × Tile) :=
  (s.tilesOf h).map fun x => (x.1, x.2, (s.tile x.1 x.2).whole (s.pod x.1).retired)

/-! ### A unit is saved (R394 to R397) -/

/-- The operations that a save does not wait for: an ungranted MMA (R333), and the requests of a launch that is
saved whole (R380). -/
def State.savesOver (s : State) (whole : Bool) (o : Op) : Bool :=
  match o.kind with
  | .mma => (s.arrivedMma o.gid).any (fun a => a.op == o.n)
      || ((s.group? o.gid).bind (·.withdrawn)).any fun a => a.op == o.n
  | .ocall .. => whole
  | _ => false

/-- The results that a save does not wait for: an unpaired XSWAP (R221), and those requests. -/
def Group.keeps (g : Group) (whole : Bool) (p : Pend) : Bool :=
  match p.kind with
  | .xswap => g.xswap.isSome
  | .reply _ => whole
  | _ => false

/-- A group has stopped for a save, or has left its core already, and its outstanding work has completed. -/
def State.savable (s : State) (whole : Bool) (g : Group) : Bool :=
  !g.halted && g.live != 0 && (g.stopped || !g.resident) && g.acks.isEmpty && (g.pend.all (g.keeps whole))
    && s.ops.all fun o => decide (o.gid ≠ g.id) || s.savesOver whole o

/-- The resident teams of the unit that a save names: that of a team, or the first one that is stopping. -/
def State.saveUnit (s : State) (l : Launch) (team : Option Nat) : List Team :=
  match team with
  | some t => l.unitTeams t
  | none => ((l.teams.find? fun x => x.resident && s.stopping l.lid x.num).map fun x => l.unitTeams x.num).getD []

/-- A unit can be saved: each of its groups has stopped, its work is complete, its image fits, and in a launch
that is saved whole no wave runs. -/
def State.canSave (s : State) (l : Launch) (ts : List Team) : Bool :=
  l.save != 0 && !l.aborted && l.saveHeld.isNone && !ts.isEmpty
    && (ts.all fun t => !t.faulted && (s.teamGroups l.lid t.num).all (s.savable l.wholeOnly))
    && (!l.wholeOnly || !s.groups.any fun g => isWave g.id && lidOf g.id == l.lid)
    && decide (s.unitImage l ts ≤ s.areaFree l)

/-- A team leaves its core: its groups, and the tiles that they hold. -/
def State.saveTeam (s : State) (l : Launch) (t : Team) : State :=
  let gs := s.teamGroups l.lid t.num
  let held := gs.flatMap fun g => (s.tileImages (.group g.id)).map fun x => (g.id, x.2)
  let s := (gs.filter (·.resident)).foldl (fun s g => (s.saveGroup g.id).onGroup g.id Group.keepMarked) s
  let s := gs.foldl (fun s g => s.releaseTiles (.group g.id)) s
  let s := s.onPod (podOf t.core) fun p =>
    if p.podset = some (l.lid, l.setOf t.num) then { p with podset := none } else p
  s.onTeam l.lid t.num fun x => { x with resident := false, tiles := held }

/-- The engine-held tiles of a launch that is saved whole leave their engines (R396). -/
def State.saveEngineTiles (s : State) (l : Launch) : State :=
  if l.wholeOnly then
    (s.releaseTiles (.engine l.lid)).onLaunch l.lid fun x => { x with tiles := x.tiles ++ s.tileImages (.engine l.lid) }
  else s

/-- UNIT_SAVE. -/
def State.unitSave (s : State) (lid : Nat) (team : Option Nat) : State :=
  match s.launch? lid with
  | none => s
  | some l =>
    let ts := s.saveUnit l team
    if !s.canSave l ts then s
    else
      let size := s.unitImage l ts
      match s.saveStop l size, ts.head? with
      | some (va, false), some t => (((s.teamGroups lid t.num).head?).map fun g => s.holdSave l g va).getD s
      | some (_, true), some t => s.abandonSave lid t.num
      | _, _ => ((ts.foldl (fun s t => s.saveTeam l t) s).saveEngineTiles l).useArea lid (· + size)

/-! ### Retirement of groups and teams (R408, R409) -/

/-- A group that is not to go on: it halted, its team is faulted, or its launch is aborted (R86, R387). -/
def State.doomed (s : State) (g : Group) : Bool :=
  g.halted || (!isWave g.id && match s.launch? (lidOf g.id) with
    | some l => l.aborted || ((s.team? l.lid (teamOf g.id)).map (·.faulted)).getD false
    | none => true)

/-- A group is over: its live mask is zero, it halted or issued CDONE, or it was stopped to be discarded. -/
def State.over (s : State) (g : Group) : Bool :=
  g.live == 0 || g.halted || g.done || ((g.stopped || !g.resident) && s.doomed g)

/-- It waits for no operation of its own; when it is not to go on, its ungranted MMA is withdrawn with its latch
(R302, R330, R387, R408). -/
def State.quiet (s : State) (g : Group) : Bool :=
  g.acks.isEmpty && s.ops.all fun o => decide (o.gid ≠ g.id) || (s.doomed g && s.savesOver false o)

/-- A group that was saved to free store gives back the space of its image (R397). -/
def State.dropImage (s : State) (g : Group) : State :=
  if !g.resident && ((s.team? (lidOf g.id) (teamOf g.id)).map (·.resident)).getD false then
    s.useArea (lidOf g.id) (· - g.image)
  else s

/-- The last team of a pod set gives its pod free with its barriers. -/
def State.releaseSet (s : State) (l : Launch) (t : Team) : State :=
  let k := l.setOf t.num
  if !l.podset || l.teams.any fun x => x.num != t.num && l.setOf x.num == k then s
  else
    let s := s.onPod (podOf t.core) fun p => if p.podset = some (l.lid, k) then { p with podset := none } else p
    s.onLaunch l.lid fun x => { x with podBars := Sparse.keep (fun j => j / 4 != k) x.podBars }

/-- A team retires once every group of it has. -/
def State.retireTeam (s : State) (lid t : Nat) : State :=
  match s.launch? lid, s.team? lid t with
  | some l, some x =>
    if (s.teamGroups lid t).isEmpty then
      (s.releaseSet l x).onLaunch lid fun y => { y with teams := y.teams.filter fun z => z.num != t, ended := y.ended + 1 }
    else s
  | _, _ => s

/-- GROUP_RETIREMENT. -/
def State.retire (s : State) (gid : GroupId) : State :=
  match s.group? gid with
  | none => s
  | some g =>
    if !s.over g || !s.quiet g then s
    else
      let s := (((s.dropImage g).discardLanes gid g.lanes).partnerGone gid).releaseTiles (.group gid)
      let s := { s with ops := s.ops.filter fun o => decide (o.gid ≠ gid) }
      let s := s.dropGroup gid
      if isWave gid then s else s.retireTeam (lidOf gid) (teamOf gid)

/-! ### Completion of launches (R88, R92, R408) -/

/-- The status of a launch that completes (R90). -/
def Launch.status (l : Launch) : Nat :=
  if l.cancelled then Reply.cancelled
  else if l.aborted then Reply.aborted
  else if l.anyFault then Reply.partial_ else Reply.ok

/-- Every team has retired, no wave runs, nothing is under way, and every fault record is written. -/
def State.complete (s : State) (l : Launch) : Bool :=
  l.ended == l.teamCount && l.teams.isEmpty && l.records.isEmpty
    && (!s.groups.any fun g => lidOf g.id == l.lid) && !s.ops.any fun o => lidOf o.gid == l.lid

/-- Every core's data are written back (R88). -/
def State.releaseAll (s : State) : State := (s.l1.map (·.1)).foldl State.release s

/-- Some core's data cannot be written back yet (R421). -/
def State.dataHeld (s : State) : Bool := s.l1.any fun c => s.dirtyHeld c.1

/-- A launch leaves, and those that name it as a predecessor learn how it ended (R92). -/
def State.dropLaunch (s : State) (lid : Nat) (good : Bool) : State :=
  { s with launches := (s.launches.filter fun x => x.lid != lid).map fun x =>
      if x.preds.contains lid then
        { x with preds := x.preds.filter (· != lid), predFailed := x.predFailed || !good }
      else x }

/-- A launch that is refused because a predecessor failed (R92). -/
def Launch.toRefuse (l : Launch) : Bool := l.predFailed && !l.started && !l.aborted

/-- Launches whose predecessor failed are refused, oldest first, down the chains. -/
def State.refuseFailed (s : State) : Nat → State
  | 0 => s
  | n + 1 => match s.launches.find? Launch.toRefuse with
    | none => s
    | some l =>
      if !s.canPost then s
      else ((s.post l.qp 2 Reply.predFailed l.lid 0).dropLaunch l.lid false).refuseFailed n

/-- A unit is retired, now that no launch is live (R422, R423). -/
def State.retireUnit (s : State) (u : TestUnit × Option Nat) : State :=
  let entry := fun (s : State) (unit : Nat) => match u.2 with
    | some test => s.journalAdd 4 2 8 unit (BitVec.ofNat 64 test)
    | none => s
  match u.1 with
  | .core c => entry { s with coresOut := insertNat s.coresOut c } c
  | .pod p => entry { s with podsOut := insertNat s.podsOut p } p
  | .channel tower i => ((List.range 32).map (32 * tower + ·)).foldl (fun s p =>
      if (s.pod p).retired.contains i then s else entry (s.onPod p (·.dropChannel i)) p) s

/-- A lasting word of a core store is remapped with its 256-byte unit to a spare of its bank, (u / 256) mod 64 for
store offset u; without one left the core is retired (R152, R417, R422). -/
def State.remapUnit (s : State) (words : List Nat) (unit : Nat) : State :=
  let core := unit / 2 ^ 14
  let bank := 64 * core + unit % 64
  let used := Sparse.get 0 s.spares bank
  if s.coresOut.contains core then s
  else if used < 4 then { s with spares := Sparse.set 0 s.spares bank (used + 1) }
  else
    let w := (words.find? fun w => w / 256 == unit).getD 0
    ({ s with coresOut := insertNat s.coresOut core }).journalAdd 4 1 0 core (BitVec.ofNat 64 (w % 2 ^ 22))

/-- LASTING_REMAP (R417). -/
def State.remapLasting (s : State) : State :=
  (s.lasting.map (· / 256)).eraseDups.foldl (fun t u => t.remapUnit s.lasting u) { s with lasting := [] }

/-- Pods whose engine has stopped (R340, R423). -/
def State.stoppedPods (s : State) : List Nat := (s.pods.filter fun p => p.2.stopped).map (·.1)

/-- What the part does at a moment when no launch is live: it remaps lasting locations, retires units and rebuilds
the pod map over the working pods (R103, R417, R422, R423). -/
def State.whenIdle (s : State) : State :=
  if s.launches.isEmpty then
    let s := s.remapLasting
    let s := s.toRetire.foldl State.retireUnit { s with toRetire := [] }
    let s := { s with podsOut := s.stoppedPods.foldl insertNat s.podsOut }
    { s with podMap := if s.podsOut.isEmpty then none
        else some ((List.range Config.pods).filter fun p => !s.podsOut.contains p) }
  else s

/-- LAUNCH_COMPLETION: COMPLETE, or PRED_FAILED for a launch that a failed predecessor ends. -/
def State.completeLaunch (s : State) (lid : Nat) : State :=
  match s.launch? lid with
  | none => s
  | some l =>
    if !s.canPost then s
    else if l.toRefuse then (s.refuseFailed s.launches.length).whenIdle
    else if !s.complete l || s.dataHeld then s
    else
      let s := (s.releaseTiles (.engine lid)).releaseAll
      let s := (s.post l.qp 1 l.status lid 0).dropLaunch lid (l.status == Reply.ok)
      (s.refuseFailed s.launches.length).whenIdle

/-! ### Lost pods (R104) -/

/-- The groups of a lost pod run no more. Its waves run into their time limit (R379; log 83). -/
def State.silence (s : State) (pod : Nat) : State :=
  { s with groups := s.groups.map fun g => if (g.resident && podOf g.core == pod) = true then
      { g with active := false, stopped := true } else g }

/-- A team that a lost pod takes with it: it runs there, or its engine holds tiles of its launch (R398). -/
def State.onLostPod (s : State) (l : Launch) (pod : Nat) (t : Team) : Bool :=
  !t.faulted && podOf t.core == pod && (t.resident || (!l.wholeOnly && s.pinned l pod))

/-- POD_LOST. -/
def State.losePod (s : State) (pod : Nat) : State :=
  if Config.pods ≤ pod || s.podsOut.contains pod then s
  else
    let lost := s.launches.flatMap fun l => (l.teams.filter (s.onLostPod l pod)).map fun t => (l.lid, t)
    let s := { s with podsOut := insertNat s.podsOut pod }
    let s := lost.foldl (fun s x => s.loseTeam x.1 x.2 4 (4 * pod)) s
    (s.silence pod).whenIdle

def execUnitSave (lid : Nat) (team : Option Nat) (s : State) : Out := .next (s.unitSave lid team)
def execGroupRetirement (g : GroupId) (s : State) : Out := .next (s.retire g)
def execLaunchCompletion (lid : Nat) (s : State) : Out := .next (s.completeLaunch lid)
def execPodLost (pod : Nat) (s : State) : Out := .next (s.losePod pod)

end Sys2Proof.Machine
end

