-- ==== Sys2Proof/Machine/Reliability.lean ====
section
/-! DEFINITION. HBM4 repair and self-refresh, in-field tests, the power cap, power and links, and what a reset of the
part does (R419 to R423, R426, R428, R430, R432, R434). -/

namespace Sys2Proof.Machine

/-! ### HBM4 (R419 to R421) -/

def State.stack (s : State) (k : Nat) : Stack := Sparse.get Stack.zero s.hbm k

def State.onStack (s : State) (k : Nat) (f : Stack → Stack) : State :=
  { s with hbm := Sparse.set Stack.zero s.hbm k (f (s.stack k)) }

/-- The physical address of a row's first sector: stack 2 t + k lies in tower t, at bit 36 (R13, R17). -/
def State.rowAddr (s : State) (stack row : Nat) : Word :=
  BitVec.ofNat 64 (s.ownPart * 2 ^ 43 + stack / 2 * 2 ^ 40 + stack % 2 * 2 ^ 36 + row)

/-- An HBM4 event enters the journal (R412, R413). -/
def State.journalRow (s : State) (kind detail stack row : Nat) : State :=
  s.journalAdd kind detail 3 stack (s.rowAddr stack row)

/-- A row needs no repair any more. -/
def Stack.dropCandidate (x : Stack) (row : Nat) : Stack :=
  { x with candidates := x.candidates.filter fun c => c.1 != row }

/-- 1 s in core clocks (R5, R419). -/
def oneSecond : Nat := 940000000

/-- The moment at which a repair may begin: at once, or after at most 1 s while an urgent launch is live. -/
def State.repairTime (s : State) (since : Nat) : Nat :=
  if s.launches.any Launch.urgent then since + oneSecond else s.clock

/-- SOFT_REPAIR: the row's channel is quiesced; without a spare the row stays in use (R419, log 23). -/
def State.softRepair (s : State) (stack row : Nat) : State :=
  match (s.stack stack).candidates.find? fun c => c.1 == row with
  | none => s
  | some c =>
    let s := (s.advance (s.repairTime c.2)).onStack stack (·.dropCandidate row)
    if Config.spareLeft s.free stack row then
      s.drawn.onStack stack fun x => { x with quiesced := x.quiesced ++ [(row, s.clock)] }
    else s.drawn.journalRow 7 3 stack row

/-- Accesses whose channel serves again proceed, write-backs are made, and answers that waited are sent (R419, R421). -/
def State.serveHeld (s : State) : State :=
  (s.onSectors (fun k => !s.heldAt (32 * k)) fun _ x => x.released).flushOwed

/-- QUIESCE_END: after 200 µs the row lies in its spare (R419). -/
def State.quiesceEnd (s : State) (stack row : Nat) : State :=
  match (s.stack stack).quiesced.find? fun c => c.1 == row with
  | none => s
  | some c =>
    ((s.advance (c.2 + 188000)).onStack stack fun x =>
      { x with quiesced := x.quiesced.filter fun c => c.1 != row, soft := insertNat x.soft row }).serveHeld.journalRow 7 1
        stack row

/-- 32 ms in core clocks (R420). -/
def countWindow : Nat := 30080000

/-- A row becomes a repair candidate. -/
def State.addCandidate (s : State) (stack row : Nat) : State :=
  s.onStack stack fun x => if x.candidates.any fun c => c.1 == row then x
    else { x with candidates := x.candidates ++ [(row, s.clock)] }

/-- ACTIVATION_COUNTER_EVENT: an entry, and after four within 32 ms a candidate (R420). -/
def State.activation (s : State) (stack row : Nat) (corrupt : Bool) : State :=
  if !s.power || 16 ≤ stack then s
  else
    let now := s.clock
    let s := s.onStack stack fun x => { x with
      acts := (x.acts.filter fun a => decide (now ≤ a.2 + countWindow)) ++ [(row, now)] }
    let s := s.journalRow 11 (if corrupt then 2 else 1) stack row
    if 4 ≤ ((s.stack stack).acts.filter fun a => a.1 == row).length then s.addCandidate stack row else s

/-- A stack enters or leaves forced self-refresh (R421). -/
def State.setForced (s : State) (stack : Nat) (on : Bool) : State :=
  if !s.power || 16 ≤ stack || (s.stack stack).forced == on then s
  else (s.onStack stack fun x => { x with forced := on }).serveHeld.journalAdd 6 (if on then 1 else 2) 3 stack 0

/-! ### Storage errors (R416 to R418) -/

/-- An 8-byte word lies at this store offset of a core (R16). -/
def storeWord (ofs : Nat) : Bool := decide (ofs < 2 ^ 22) && ofs % 8 == 0

/-- Source, unit and location of an error at a site (R413); none where the part holds no such word or sector. A sector
of L2 lies in its home slice; the bank of one of the MSC is not given (R17, R287; log 7). -/
def State.siteEntry (s : State) : Site → Option (Nat × Nat × Nat)
  | .reg gid word ofs => (s.group? gid).bind fun g =>
    if g.resident && decide (8 * word < 4 * g.n * g.width) && storeWord ofs then some (0, g.core, ofs) else none
  | .scratch lid team word ofs => (s.launch? lid).bind fun l => (s.team? lid team).bind fun t =>
    if t.resident && decide (8 * word < l.scratchSize) && storeWord ofs then some (0, t.core, ofs) else none
  | .l1 core pa ofs =>
    if storeWord ofs && (s.l1Of core).any fun c => c.1 / 8 == pa / 8 then some (0, core, ofs) else none
  | .l2 pod pa dirty =>
    if s.isOwn pa && pod == 32 * towerOfPa pa + (s.sector (pa / 32)).slice && (s.sector (pa / 32)).l2 == some dirty then
      some (1, pod, pa / 32 * 32) else none
  | .msc bank pa dirty =>
    if s.isOwn pa && decide (bank < 64) && (s.sector (pa / 32)).msc == some dirty then
      some (2, 64 * towerOfPa pa + bank, pa / 32 * 32) else none
  | .hbm pa _ => if s.isOwn pa then some (3, stackOf pa, pa / 32 * 32) else none

/-- A clean line of L2 or the MSC is fetched again (R416). -/
def Site.refetched : Site → Bool
  | .l2 _ _ dirty | .msc _ _ dirty => !dirty
  | _ => false

/-- The word of a core store, or the sector, is poisoned; a word of L1 data stays so until it is dropped, written whole
or written back as poison (R416; log 58). -/
def State.spoil (s : State) : Site → State
  | .reg gid word _ => s.onGroup gid fun g => { g with bad := insertNat g.bad word }
  | .scratch lid team word _ => s.onTeam lid team fun t => { t with bad := insertNat t.bad word }
  | .l1 core pa _ =>
    s.setL1 core ((s.l1Of core).map fun c => if c.1 / 8 = pa / 8 then (c.1, c.2.map fun x => { x with bad := true }) else c)
  | .l2 _ pa _ | .msc _ pa _ | .hbm pa _ => s.poisonSector pa

/-- A lasting location of a core store waits until no launch is live, and a lasting sector makes its row a repair
candidate; a way that L2 or the MSC disables affects timing alone (R417, R418). -/
def State.lasts (s : State) (core ofs : Nat) : Site → State
  | .reg .. | .scratch .. | .l1 .. => ({ s with lasting := insertNat s.lasting (2 ^ 22 * core + ofs) }).whenIdle
  | .hbm pa row => s.addCandidate (stackOf pa) row
  | .l2 .. | .msc .. => s

/-- A read finds an error at a site (R416, R418). -/
def State.findError (s : State) (x : Site) (r : Reread) : State :=
  match s.siteEntry x with
  | none => s
  | some (src, unit, loc) =>
    let enter := fun (s : State) (kind detail : Nat) => s.journalAdd kind detail src unit (BitVec.ofNat 64 loc)
    if !s.power then s
    else match r with
      | .clean => enter s 2 1
      | .single false => enter s 1 0
      | .single true => (enter (enter s 1 0) 3 0).lasts unit loc x
      | .double => if x.refetched then enter s 1 0 else enter (s.spoil x) 5 0

/-! ### Resets (R419, R428, R430) -/

/-- Rows repaired softly are repaired hard. -/
def State.hardRepair (s : State) : State :=
  (s.hbm.flatMap fun x => x.2.soft.map fun row => (x.1, row)).foldl (fun s x =>
    (s.onStack x.1 fun y => { y with soft := y.soft.filter (· != x.2) }).journalRow
      7 2 x.1 x.2) s

/-- A failed signature check (R429). -/
def State.journalSignature (s : State) : State := s.journalAdd 10 4 9 1 0

/-- One staged image, verified at reset: it replaces the running one, or is discarded (R430). -/
def State.loadImage (s : State) (k : Nat) (image : List Byte) : State :=
  if Config.verifies image then { s with mgmt := { s.mgmt with running := Sparse.set [] s.mgmt.running k image } }
  else s.journalSignature

/-- The staged images are taken; pieces that make no whole image do not verify (R430). -/
def State.loadFirmware (s : State) : State :=
  let t := s.mgmt.ready.foldl (fun s x => s.loadImage x.1 x.2)
    { s with mgmt := { s.mgmt with ready := [], staged := [] } }
  if s.mgmt.staged.isEmpty then t else t.journalSignature

/-- Every setting but the management key and the source address, as a reset leaves it (R427, R428). -/
def Mgmt.afterReset (m : Mgmt) : Mgmt :=
  { Mgmt.made with
    key := m.key, source := m.source, staged := m.staged, ready := m.ready, running := m.running, answers := m.answers }

/-- Every domain but the always-on one is as reset leaves it. Units out of service stay out, and rows that were
repaired softly are still to be repaired hard. -/
def State.domainsReset (s : State) : State :=
  { State.reset with
    agenda := s.agenda, cur := s.cur, free := s.free, nextOp := s.nextOp, power := s.power
    podsOut := s.podsOut, coresOut := s.coresOut, toRetire := s.toRetire, lasting := s.lasting, spares := s.spares
    podMap := if s.podsOut.isEmpty then none
      else some ((List.range Config.pods).filter fun p => !s.podsOut.contains p)
    sent := s.sent, toPeers := s.toPeers, mgmt := s.mgmt.afterReset, journal := s.journal
    hbm := (s.hbm.map fun x => (x.1, { Stack.zero with soft := x.2.soft })).filter fun x => x.2 != Stack.zero }

/-- The part is reset: with no launch live, units that were to be retired are (R103), rows are repaired hard, and the
firmware that runs from now on is loaded. -/
def State.resetPart (s : State) : State := s.domainsReset.whenIdle.hardRepair.loadFirmware

/-- CRITICAL_SHUTDOWN: at 115 °C every domain but the always-on one loses its power; the side-band port keeps its
standing until the reset that comes with the power (R434, R11; log 18). -/
def State.shutdown (s : State) : State := if s.power then { s.domainsReset with power := false, mgmt := s.mgmt } else s

/-- POWER_ON: power reaches the part's domains and resets them (R428). -/
def State.powerOn (s : State) : State := if s.power then s else { s.resetPart with power := true }

/-! ### In-field tests (R422) -/

/-- The unit under which a test enters the journal: a core, or a pod. -/
def testUnitNo : TestUnit → Nat
  | .core c => c
  | .pod p => p
  | .channel tower _ => 32 * tower

/-- The unit exists. -/
def testUnitOk : TestUnit → Bool
  | .core c => decide (c < Config.cores)
  | .pod p => decide (p < Config.pods)
  | .channel tower i => decide (tower < 8) && decide (i < 10)

/-- INFIELD_TEST_RUN: whether the kernel's signature verifies, and whether the result of the first run and of
the second agrees with what was stored. -/
def State.fieldTest (s : State) (u : TestUnit) (test : Nat) (signed first second : Bool) : State :=
  if !s.power || !testUnitOk u then s
  else if !signed then s.journalSignature
  else if first || second then s
  else
    let s := s.journalAdd 3 0 8 (testUnitNo u) (BitVec.ofNat 64 test)
    ({ s with toRetire := s.toRetire ++ [(u, some test)] }).whenIdle

/-! ### The power cap, time and links (R84, R424 to R426, R432) -/

/-- POWER_CAP_WINDOW: the part withholds work when the power that it would draw exceeds the cap. -/
def State.capWindow (s : State) (demand : Nat) : State :=
  if s.power then { s with throttled := decide (s.mgmt.cap < demand) } else s

/-- PTP_SYNC: the part's clock agrees with PTP time. -/
def State.ptpSync (s : State) (ns : Nat) : State :=
  if s.power then { s with ptp := some ((ns : Int) - (s.ns : Int)) } else s

/-- LINK_TRAINING: a station comes up, once the part has its number. -/
def State.trainLink (s : State) (port : Nat) (vendor : Bool) : State :=
  if !s.power || s.partNum.isNone || 128 ≤ port || (Sparse.get Station.down s.stations port).up then s
  else { s with stations := Sparse.set Station.down s.stations port ⟨true, vendor⟩ }

def execSoftRepair (stack row : Nat) (s : State) : Out := .next (s.softRepair stack row)
def execQuiesceEnd (stack row : Nat) (s : State) : Out := .next (s.quiesceEnd stack row)
def execActivationCounterEvent (stack row : Nat) (corrupt : Bool) (s : State) : Out :=
  .next (s.activation stack row corrupt)
def execSelfRefreshEnter (stack : Nat) (s : State) : Out := .next (s.setForced stack true)
def execSelfRefreshExit (stack : Nat) (s : State) : Out := .next (s.setForced stack false)
def execCriticalShutdown (s : State) : Out := .next s.shutdown
def execInfieldTestRun (u : TestUnit) (test : Nat) (signed first second : Bool) (s : State) : Out :=
  .next (s.fieldTest u test signed first second)
def execPowerCapWindow (demand : Nat) (s : State) : Out := .next (s.capWindow demand)
def execPowerOn (s : State) : Out := .next s.powerOn
def execPtpSync (ns : Nat) (s : State) : Out := .next (s.ptpSync ns)
def execLinkTraining (port : Nat) (vendor : Bool) (s : State) : Out := .next (s.trainLink port vendor)

end Sys2Proof.Machine
end

