-- ==== Sys2Proof/Machine/Management.lean ====
section
/-! DEFINITION. The side-band port: frames and management commands (R393, R414, R425, R427 to R433). -/

namespace Sys2Proof.Machine

/-! ### Frames (R427) -/

/-- A field of a frame's header. -/
def Frame.part (f : Frame) (lo len : Nat) : Nat := f.hdr.toNat / 2 ^ lo % 2 ^ len

def frameOp (f : Frame) : Nat := Frame.part f 0 8
def frameLen (f : Frame) : Nat := Frame.part f 32 16
def frameSeq (f : Frame) : Nat := Frame.part f 64 64
def frameArg0 (f : Frame) : Nat := Frame.part f 128 64
def frameArg1 (f : Frame) : Nat := Frame.part f 192 64

/-- The tag of a header and a payload under a key, as a byte string with its first byte lowest. -/
def frameTag (key : BitVec 256) (hdr : BitVec 256) (payload : List Byte) : BitVec 256 :=
  BitVec.ofNat 256 (ofBytes (Sha3.hmac (leBytes 32 key.toNat) (leBytes 32 hdr.toNat ++ payload)))

/-- An IPv6 link-local address: its top ten bits are 1111111010. -/
def linkLocal (a : BitVec 128) : Bool := decide (a.toNat / 2 ^ 118 = 0x3FA)

/-- Fields that a command holds at zero: STATUS and the reserved ones. -/
def frameReserved (f : Frame) : Bool := Frame.part f 48 16 != 0 || Frame.part f 16 16 != 0 || Frame.part f 8 8 != 0

/-- The key under which the part checks and answers. -/
def Mgmt.useKey (m : Mgmt) : BitVec 256 := m.key.getD 0

/-- The frame is accepted as a command: well formed, from the source that may send it, tagged, and newer than the
last one (R427). -/
def Mgmt.accepts (m : Mgmt) (f : Frame) : Bool :=
  decide (f.payload.length ≤ 1024) && f.payload.length == frameLen f
    && (match m.key with
      | none => linkLocal f.src && (frameOp f == 1 || frameOp f == 8)
      | some _ => f.src == m.source)
    && frameTag m.useKey f.hdr f.payload == f.tag
    && (match m.lastSeq with
      | none => true
      | some n => decide (n < frameSeq f))

/-- One answer frame, tagged under the key in use. -/
def State.answerFrame (s : State) (f : Frame) (status : Nat) (payload : List Byte) : State :=
  let hdr := BitVec.ofNat 256 (frameOp f + status * 2 ^ 16 + payload.length * 2 ^ 32 + frameSeq f * 2 ^ 64)
  { s with mgmt := { s.mgmt with
      answers := s.mgmt.answers ++ [(f.src, ⟨0, hdr, payload, frameTag s.mgmt.useKey hdr payload⟩)] } }

/-- A payload of any length, in as many answer frames as it needs. -/
def State.answerLong (s : State) (f : Frame) (bytes : List Byte) : State :=
  (List.range (max 1 ((bytes.length + 1023) / 1024))).foldl
    (fun s k => s.answerFrame f 0 ((bytes.drop (1024 * k)).take 1024)) s

/-- A violation: REFUSED, and the management controller is frozen (R428, R429). -/
def State.violation (s : State) (f : Frame) : State :=
  let s := s.answerFrame f Reply.refused []
  ({ s with mgmt := { s.mgmt with frozen := true } }).journalFreeze 2 1

/-- A command of an operation. A frame of another operation is another event; one with an unknown OP is answered
whichever event brings it. -/
def State.command (s : State) (f : Frame) (op : Nat) (bad : Bool) (act : State → State) : State :=
  if !s.mgmt.accepts f || (frameOp f != op && decide (1 ≤ frameOp f) && decide (frameOp f ≤ 13)) then s
  else
    let s := { s with mgmt := { s.mgmt with lastSeq := some (frameSeq f) } }
    if s.mgmt.frozen then s.answerFrame f Reply.frozen []
    else if frameOp f != op || frameReserved f || bad then s.answerFrame f Reply.badmsg []
    else act s

/-! ### Commands (R428) -/

/-- PROVISION: the key and the address, little-endian as R4 gives (log 87), written once; the answer is under the new
key. -/
def State.provision (s : State) (f : Frame) : State :=
  let addr := BitVec.ofNat 128 (ofBytes (f.payload.drop 32))
  s.command f 1 (f.payload.length != 48 || !linkLocal addr) fun s =>
    if s.mgmt.key.isSome then s.violation f
    else
      let s := { s with mgmt := { s.mgmt with
        key := some (BitVec.ofNat 256 (ofBytes (f.payload.take 32))), source := addr } }
      s.answerFrame f 0 []

/-- Held messages are sent on the notify queue pair, oldest first, and then those that waited at their source arise
(R89). -/
def State.flushHeld (s : State) : State :=
  let s := s.held.foldl (fun s m => s.deliver { m with qp := none }) { s with held := [] }
  s.journal.unsent.foldl State.postSegment { s with journal := { s.journal with unsent := [] } }

/-- A message that was sent, without its time, for the notify queue pair (R89). -/
def Msg.ofBits (b : BitVec 512) : Msg :=
  let part := fun (lo len : Nat) => b.toNat / 2 ^ lo % 2 ^ len
  { qp := none, kind := part 0 8, status := part 40 8, lid := part 48 16, arg := BitVec.ofNat 64 (part 64 64)
    detail := BitVec.ofNat 256 (part 256 256), seq := BitVec.ofNat 32 (part 128 32) }

/-- The last messages of a queue pair, those that it had not delivered when it was torn down: how many is free
(log 109). -/
def State.undelivered (s : State) (q : Nat) : List Msg :=
  let mine := s.sent.filterMap fun x => match x.2 with
    | .msg b => if x.1 = q then some (Msg.ofBits b) else none
    | _ => none
  mine.drop (mine.length - Config.undelivered s.free)

/-- A queue pair is torn down: messages that it had not delivered are sent again (R89). -/
def State.tearDown (s : State) (q : Nat) : State :=
  if s.qps.contains q then
    (s.undelivered q).foldl State.deliver { s.drawn with qps := s.qps.filter (· != q) }
  else s

/-- QPSET (R84). -/
def State.qpSet (s : State) (f : Frame) : State :=
  let q := frameArg0 f
  s.command f 2 (decide (16 ≤ q) || decide (2 ≤ frameArg1 f)) fun s =>
    if frameArg1 f = 1 then (State.flushHeld { s with qps := insertNat s.qps q }).answerFrame f 0 []
    else (s.tearDown q).answerFrame f 0 []

/-- QMASK (R393, R429). -/
def State.qMask (s : State) (f : Frame) : State :=
  s.command f 3 false fun s =>
    let super := BitVec.ofNat 64 (frameArg0 f)
    let closed := BitVec.ofNat 64 (frameArg1 f)
    if super.getLsbD 63 && closed.getLsbD 63 then s.violation f
    else State.answerFrame { s with mgmt := { s.mgmt with super := super, closed := closed } } f 0 []

/-- The part's own memory has a new number: every L1 is written back and emptied, and what the part holds of its memory
goes under the new addresses (R425). -/
def State.renumber (s : State) (n : Nat) : State :=
  let t := s.l1.foldl (fun s c => s.release c.1) s
  let old := s.ownPart
  { t with
    l1 := [], partNum := some n
    mem := Sparse.shift (old * 2 ^ 43) (n * 2 ^ 43) (2 ^ 43) t.mem
    poison := Sparse.shift (old * 2 ^ 38) (n * 2 ^ 38) (2 ^ 38) t.poison
    sectors := Sparse.shift (old * 2 ^ 38) (n * 2 ^ 38) (2 ^ 38) t.sectors }

/-- PARTNUM (R425). -/
def State.setPartNum (s : State) (f : Frame) : State :=
  s.command f 4 (decide (1024 ≤ frameArg0 f)) fun s =>
    if !s.launches.isEmpty || s.stations.any fun x => x.2.up then s.violation f
    else (s.renumber (frameArg0 f)).answerFrame f 0 []

/-- 64 bits of the accept mask are replaced. -/
def maskPart (m : BitVec 1024) (at_ : Nat) (v : Nat) : BitVec 1024 :=
  BitVec.ofNat 1024 (m.toNat - m.toNat / 2 ^ at_ % 2 ^ 64 * 2 ^ at_ + v * 2 ^ at_)

/-- ACCEPT (R425). -/
def State.acceptParts (s : State) (f : Frame) : State :=
  s.command f 5 (frameArg0 f % 64 != 0 || decide (1024 ≤ frameArg0 f)) fun s =>
    State.answerFrame { s with mgmt := { s.mgmt with
      accepted := maskPart s.mgmt.accepted (frameArg0 f) (frameArg1 f) } } f 0 []

/-! ### The journal's commands (R414, R415) -/

/-- The journal up to its last checkpoint: whole segments. -/
def Journal.whole (j : Journal) : List Entry := (j.entries.reverse.dropWhile fun e => e.kind != 8).reverse

/-- The 2,420 bytes of a signature (R414, R431). -/
def signature (l : List Byte) : List Byte := leBytes 2420 (Config.sign l).toNat

/-- Entries with a checkpoint's signature beside it. -/
def entriesOut (l : List Entry) : List Byte :=
  l.flatMap fun e => if e.kind = 8 then e.bytes ++ signature e.bytes else e.bytes

/-- The segments that hold an entry from a sequence number on. -/
def Journal.segmentsFrom (j : Journal) (seq : Nat) : List Entry :=
  let before := (j.whole.filter fun e => e.kind == 8 && decide (e.seq < seq)).getLast?
  match before with
  | some c => j.whole.filter fun e => decide (c.seq < e.seq)
  | none => j.whole

/-- A checkpoint is appended before the journal is read. With no room left the last entry is one (log 15). -/
def State.readCheckpoint (s : State) : State :=
  if 1 ≤ s.journal.room then { s with journal := s.journal.checkpoint s.ptpNow } else s

/-- JREAD. -/
def State.journalRead (s : State) (f : Frame) : State :=
  s.command f 6 false fun s =>
    let s := s.readCheckpoint
    let out := s.journal.segmentsFrom (frameArg0 f)
    let seqs := (out.filter fun e => e.kind == 8).map (·.seq)
    State.answerLong { s with journal := { s.journal with exported := s.journal.exported ++ seqs } } f (entriesOut out)

/-- The segments up to a checkpoint are reclaimed, and what waited for room is entered (R414, R415). -/
def State.reclaim (s : State) (seq : Nat) : State :=
  let gone := s.journal.entries.filter fun e => decide (e.seq ≤ seq)
  if gone.isEmpty then s
  else
    let s := { s with journal := { s.journal with
      entries := s.journal.entries.filter fun e => decide (seq < e.seq), room := s.journal.room + gone.length } }
    let s := s.journalAdd 9 0 10 0 (BitVec.ofNat 64 seq)
    let s := s.enterWaiting s.journal.waiting
    s.enterFolded s.journal.folded

/-- JACK. -/
def State.journalAck (s : State) (f : Frame) : State :=
  s.command f 7 false fun s =>
    if s.journal.exported.contains (frameArg0 f) then (s.reclaim (frameArg0 f)).answerFrame f 0 []
    else s.violation f

/-! ### Attestation, power, telemetry and firmware (R430 to R433) -/

/-- The measurement of a running image (R431). -/
def Mgmt.measurement (m : Mgmt) (k : Nat) : BitVec 256 :=
  match Sparse.get [] m.running k with
  | [] => Config.measurement k
  | image => BitVec.ofNat 256 (ofBytes (Sha3.hash (Config.imageBody image)))

/-- The report of R431, its parts in the order in which R431 names them (log 11). -/
def State.report (s : State) (nonce : List Byte) : List Byte :=
  let body := nonce ++ ((List.range 3).flatMap fun k => leBytes 32 (s.mgmt.measurement k).toNat)
    ++ leBytes 8 s.ownPart ++ leBytes 8 s.journal.lastCheckpoint ++ leBytes 8 Config.fuseRevision.toNat
    ++ leBytes 8 s.ptpNow
  body ++ List.replicate (256 - body.length) 0

/-- ATTEST. -/
def State.attest (s : State) (f : Frame) : State :=
  s.command f 8 (f.payload.length != 32) fun s =>
    let r := s.report f.payload
    s.answerLong f (r ++ signature r)

/-- PCAP: the cap is clamped to 1,500 to 5,800 W (R432). -/
def State.powerCap (s : State) (f : Frame) : State :=
  s.command f 9 false fun s =>
    State.answerFrame { s with mgmt := { s.mgmt with cap := max 1500 (min 5800 (frameArg0 f)) } } f 0 []

/-- The telemetry of R433, its parts in the order in which R433 names them, four bytes each (log 11). -/
def State.telemetry (s : State) : List Byte :=
  let temps := (List.range 40).map fun k => (Config.sensor s.free (k + 1)).toNat
  let flags := (List.range 16).map fun k => if (s.stack k).forced then 1 else 0
  let totals := (List.range Config.pods).map fun p => (s.pod p).total
  ([(Config.sensor s.free 0).toNat, s.mgmt.cap, if s.throttled then 1 else 0] ++ temps ++ flags ++ totals).flatMap (leBytes 4)

/-- TELEM. -/
def State.sendTelemetry (s : State) (f : Frame) : State :=
  s.command f 10 false fun s => (s.answerLong f s.telemetry).drawn

/-- UNFREEZE: the host is unfrozen (R429). -/
def State.unfreezeHost (s : State) (f : Frame) : State :=
  s.command f 11 false fun s =>
    let s' := if s.mgmt.hostFrozen then
        ({ s with mgmt := { s.mgmt with hostFrozen := false } }).journalFreeze 3 0
      else s
    s'.answerFrame f 0 []

/-- FWLOAD: pieces are staged; a whole image that fails its signature is a violation (R428, R430). -/
def State.stage (s : State) (f : Frame) : State :=
  s.command f 12 false fun s =>
    let image := s.mgmt.staged ++ f.payload
    if !Config.imageEnds image then State.answerFrame { s with mgmt := { s.mgmt with staged := image } } f 0 []
    else if Config.verifies image then
      State.answerFrame { s with mgmt := { s.mgmt with
        staged := [], ready := Sparse.set [] s.mgmt.ready (Config.imageKind image) image } } f 0 []
    else State.violation (State.journalSignature { s with mgmt := { s.mgmt with staged := [] } }) f

/-- RESET: it is answered, and every domain but the always-on one is reset. -/
def State.resetCommand (s : State) (f : Frame) : State :=
  s.command f 13 false fun s => (s.answerFrame f 0 []).resetPart

def execProvision (f : Frame) (s : State) : Out := .next (s.provision f)
def execQpset (f : Frame) (s : State) : Out := .next (s.qpSet f)
def execQmask (f : Frame) (s : State) : Out := .next (s.qMask f)
def execPartnum (f : Frame) (s : State) : Out := .next (s.setPartNum f)
def execAccept (f : Frame) (s : State) : Out := .next (s.acceptParts f)
def execJread (f : Frame) (s : State) : Out := .next (s.journalRead f)
def execJack (f : Frame) (s : State) : Out := .next (s.journalAck f)
def execAttest (f : Frame) (s : State) : Out := .next (s.attest f)
def execPcap (f : Frame) (s : State) : Out := .next (s.powerCap f)
def execTelem (f : Frame) (s : State) : Out := .next (s.sendTelemetry f)
def execUnfreeze (f : Frame) (s : State) : Out := .next (s.unfreezeHost f)
def execFwload (f : Frame) (s : State) : Out := .next (s.stage f)
def execReset (f : Frame) (s : State) : Out := .next (s.resetCommand f)

end Sys2Proof.Machine
end

