-- ==== Sys2Proof/Machine/Dispatch.lean ====
section
/-! DEFINITION. The dispatch of one step: every instruction and every event to its meaning. -/

namespace Sys2Proof.Machine

/-- What an instruction of the group that issues, or an event, does. -/
def exec (i : Instr) (s : State) : Host.Outcome State Fault Refusal :=
  match i with
  | .iadd o => Sys2Proof.Machine.execIadd o s
  | .isub o => Sys2Proof.Machine.execIsub o s
  | .imul o => Sys2Proof.Machine.execImul o s
  | .imulh o => Sys2Proof.Machine.execImulh o s
  | .imad o => Sys2Proof.Machine.execImad o s
  | .idiv o => Sys2Proof.Machine.execIdiv o s
  | .irem o => Sys2Proof.Machine.execIrem o s
  | .imin o => Sys2Proof.Machine.execImin o s
  | .imax o => Sys2Proof.Machine.execImax o s
  | .iabs o => Sys2Proof.Machine.execIabs o s
  | .ineg o => Sys2Proof.Machine.execIneg o s
  | .iclamp o => Sys2Proof.Machine.execIclamp o s
  | .and o => Sys2Proof.Machine.execAnd o s
  | .or o => Sys2Proof.Machine.execOr o s
  | .xor o => Sys2Proof.Machine.execXor o s
  | .andn o => Sys2Proof.Machine.execAndn o s
  | .shl o => Sys2Proof.Machine.execShl o s
  | .shr o => Sys2Proof.Machine.execShr o s
  | .sar o => Sys2Proof.Machine.execSar o s
  | .rot o => Sys2Proof.Machine.execRot o s
  | .popc o => Sys2Proof.Machine.execPopc o s
  | .clz o => Sys2Proof.Machine.execClz o s
  | .ctz o => Sys2Proof.Machine.execCtz o s
  | .brev o => Sys2Proof.Machine.execBrev o s
  | .bfx o => Sys2Proof.Machine.execBfx o s
  | .bfi o => Sys2Proof.Machine.execBfi o s
  | .permb o => Sys2Proof.Machine.execPermb o s
  | .isetp o => Sys2Proof.Machine.execIsetp o s
  | .sel o => Sys2Proof.Machine.execSel o s
  | .mov o => Sys2Proof.Machine.execMov o s
  | .movi o => Sys2Proof.Machine.execMovi o s
  | .cvti o => Sys2Proof.Machine.execCvti o s
  | .lea o => Sys2Proof.Machine.execLea o s
  | .modred o => Sys2Proof.Machine.execModred o s
  | .modadd o => Sys2Proof.Machine.execModadd o s
  | .modmul o => Sys2Proof.Machine.execModmul o s
  | .iaddVI o => Sys2Proof.Machine.execIaddVI o s
  | .isubVI o => Sys2Proof.Machine.execIsubVI o s
  | .imulVI o => Sys2Proof.Machine.execImulVI o s
  | .iminVI o => Sys2Proof.Machine.execIminVI o s
  | .imaxVI o => Sys2Proof.Machine.execImaxVI o s
  | .andVI o => Sys2Proof.Machine.execAndVI o s
  | .orVI o => Sys2Proof.Machine.execOrVI o s
  | .xorVI o => Sys2Proof.Machine.execXorVI o s
  | .andnVI o => Sys2Proof.Machine.execAndnVI o s
  | .shlVI o => Sys2Proof.Machine.execShlVI o s
  | .shrVI o => Sys2Proof.Machine.execShrVI o s
  | .sarVI o => Sys2Proof.Machine.execSarVI o s
  | .rotVI o => Sys2Proof.Machine.execRotVI o s
  | .bfxVI o => Sys2Proof.Machine.execBfxVI o s
  | .isetpVI o => Sys2Proof.Machine.execIsetpVI o s
  | .modredVI o => Sys2Proof.Machine.execModredVI o s
  | .modaddVI o => Sys2Proof.Machine.execModaddVI o s
  | .modmulVI o => Sys2Proof.Machine.execModmulVI o s
  | .fadd o => Sys2Proof.Machine.execFadd o s
  | .fsub o => Sys2Proof.Machine.execFsub o s
  | .fmul o => Sys2Proof.Machine.execFmul o s
  | .ffma o => Sys2Proof.Machine.execFfma o s
  | .fmin o => Sys2Proof.Machine.execFmin o s
  | .fmax o => Sys2Proof.Machine.execFmax o s
  | .fsetp o => Sys2Proof.Machine.execFsetp o s
  | .fdiv o => Sys2Proof.Machine.execFdiv o s
  | .fsqrt o => Sys2Proof.Machine.execFsqrt o s
  | .frcp o => Sys2Proof.Machine.execFrcp o s
  | .fexp2 o => Sys2Proof.Machine.execFexp2 o s
  | .flog2 o => Sys2Proof.Machine.execFlog2 o s
  | .fcvt o => Sys2Proof.Machine.execFcvt o s
  | .fround o => Sys2Proof.Machine.execFround o s
  | .fclass o => Sys2Proof.Machine.execFclass o s
  | .dot4 o => Sys2Proof.Machine.execDot4 o s
  | .dot8 o => Sys2Proof.Machine.execDot8 o s
  | .dotc4 o => Sys2Proof.Machine.execDotc4 o s
  | .bdot o => Sys2Proof.Machine.execBdot o s
  | .cdec o => Sys2Proof.Machine.execCdec o s
  | .bitunpk o => Sys2Proof.Machine.execBitunpk o s
  | .shfl o => Sys2Proof.Machine.execShfl o s
  | .vote o => Sys2Proof.Machine.execVote o s
  | .lred o => Sys2Proof.Machine.execLred o s
  | .lscan o => Sys2Proof.Machine.execLscan o s
  | .xswap o => Sys2Proof.Machine.execXswap o s
  | .sadd o => Sys2Proof.Machine.execSadd o s
  | .ssub o => Sys2Proof.Machine.execSsub o s
  | .smul o => Sys2Proof.Machine.execSmul o s
  | .sand o => Sys2Proof.Machine.execSand o s
  | .sor o => Sys2Proof.Machine.execSor o s
  | .sxor o => Sys2Proof.Machine.execSxor o s
  | .sshl o => Sys2Proof.Machine.execSshl o s
  | .sshr o => Sys2Proof.Machine.execSshr o s
  | .smov o => Sys2Proof.Machine.execSmov o s
  | .smovl o => Sys2Proof.Machine.execSmovl o s
  | .ssetp o => Sys2Proof.Machine.execSsetp o s
  | .vget o => Sys2Proof.Machine.execVget o s
  | .vput o => Sys2Proof.Machine.execVput o s
  | .gets o => Sys2Proof.Machine.execGets o s
  | .plog o => Sys2Proof.Machine.execPlog o s
  | .bra o => Sys2Proof.Machine.execBra o s
  | .brd o => Sys2Proof.Machine.execBrd o s
  | .join o => Sys2Proof.Machine.execJoin o s
  | .call o => Sys2Proof.Machine.execCall o s
  | .ret o => Sys2Proof.Machine.execRet o s
  | .bri o => Sys2Proof.Machine.execBri o s
  | .loop o => Sys2Proof.Machine.execLoop o s
  | .exit o => Sys2Proof.Machine.execExit o s
  | .nop o => Sys2Proof.Machine.execNop o s
  | .safe o => Sys2Proof.Machine.execSafe o s
  | .sigchk o => Sys2Proof.Machine.execSigchk o s
  | .yield o => Sys2Proof.Machine.execYield o s
  | .wgrow o => Sys2Proof.Machine.execWgrow o s
  | .wshrink o => Sys2Proof.Machine.execWshrink o s
  | .pub o => Sys2Proof.Machine.execPub o s
  | .ld o => Sys2Proof.Machine.execLd o s
  | .st o => Sys2Proof.Machine.execSt o s
  | .lds o => Sys2Proof.Machine.execLds o s
  | .sts o => Sys2Proof.Machine.execSts o s
  | .atom o => Sys2Proof.Machine.execAtom o s
  | .red o => Sys2Proof.Machine.execRed o s
  | .fence o => Sys2Proof.Machine.execFence o s
  | .pref o => Sys2Proof.Machine.execPref o s
  | .cflush o => Sys2Proof.Machine.execCflush o s
  | .cinv o => Sys2Proof.Machine.execCinv o s
  | .fetch o => Sys2Proof.Machine.execFetch o s
  | .post o => Sys2Proof.Machine.execPost o s
  | .cpy o => Sys2Proof.Machine.execCpy o s
  | .cpym o => Sys2Proof.Machine.execCpym o s
  | .land o => Sys2Proof.Machine.execLand o s
  | .landw o => Sys2Proof.Machine.execLandw o s
  | .sealb o => Sys2Proof.Machine.execSealb o s
  | .waitb o => Sys2Proof.Machine.execWaitb o s
  | .yieldb o => Sys2Proof.Machine.execYieldb o s
  | .cstat o => Sys2Proof.Machine.execCstat o s
  | .cbld o => Sys2Proof.Machine.execCbld o s
  | .gang o => Sys2Proof.Machine.execGang o s
  | .mzero o => Sys2Proof.Machine.execMzero o s
  | .rel o => Sys2Proof.Machine.execRel o s
  | .acq o => Sys2Proof.Machine.execAcq o s
  | .mma o => Sys2Proof.Machine.execMma o s
  | .mscale o => Sys2Proof.Machine.execMscale o s
  | .drain o => Sys2Proof.Machine.execDrain o s
  | .drainm o => Sys2Proof.Machine.execDrainm o s
  | .acst o => Sys2Proof.Machine.execAcst o s
  | .acld o => Sys2Proof.Machine.execAcld o s
  | .mstat o => Sys2Proof.Machine.execMstat o s
  | .cont o => Sys2Proof.Machine.execCont o s
  | .minj o => Sys2Proof.Machine.execMinj o s
  | .bar o => Sys2Proof.Machine.execBar o s
  | .bara o => Sys2Proof.Machine.execBara o s
  | .barw o => Sys2Proof.Machine.execBarw o s
  | .barq o => Sys2Proof.Machine.execBarq o s
  | .binit o => Sys2Proof.Machine.execBinit o s
  | .objreg o => Sys2Proof.Machine.execObjreg o s
  | .objdel o => Sys2Proof.Machine.execObjdel o s
  | .ocall o => Sys2Proof.Machine.execOcall o s
  | .orel o => Sys2Proof.Machine.execOrel o s
  | .creply o => Sys2Proof.Machine.execCreply o s
  | .cdone o => Sys2Proof.Machine.execCdone o s
  | .trap o => Sys2Proof.Machine.execTrap o s
  | .rtt o => Sys2Proof.Machine.execRtt o s
  | .bkpt o => Sys2Proof.Machine.execBkpt o s
  | .halt o => Sys2Proof.Machine.execHalt o s
  | .launch o => Sys2Proof.Machine.execLaunch o s
  | .sets o => Sys2Proof.Machine.execSets o s
  | .tlbinv o => Sys2Proof.Machine.execTlbinv o s
  | .pres o => Sys2Proof.Machine.execPres o s
  | .clauseEntry g => Sys2Proof.Machine.execClauseEntry g s
  | .deferredTrap g => Sys2Proof.Machine.execDeferredTrap g s
  | .loadResponse g n => Sys2Proof.Machine.execLoadResponse g n s
  | .atomicResponse g n => Sys2Proof.Machine.execAtomicResponse g n s
  | .fetchLineLanded op => Sys2Proof.Machine.execFetchLineLanded op s
  | .postAcknowledged op => Sys2Proof.Machine.execPostAcknowledged op s
  | .copyOperationComplete op => Sys2Proof.Machine.execCopyOperationComplete op s
  | .cpymArrival op k => Sys2Proof.Machine.execCpymArrival op k s
  | .rendezvousGrant pod latch => Sys2Proof.Machine.execRendezvousGrant pod latch s
  | .passStart pod => Sys2Proof.Machine.execPassStart pod s
  | .passComplete pod => Sys2Proof.Machine.execPassComplete pod s
  | .mxOperationComplete op => Sys2Proof.Machine.execMxOperationComplete op s
  | .drainComplete op => Sys2Proof.Machine.execDrainComplete op s
  | .patternPass pod => Sys2Proof.Machine.execPatternPass pod s
  | .reservationAging pod k => Sys2Proof.Machine.execReservationAging pod k s
  | .runnerValueArrival g => Sys2Proof.Machine.execRunnerValueArrival g s
  | .runnerSpillTimeout g => Sys2Proof.Machine.execRunnerSpillTimeout g s
  | .ocallRequestAccept op => Sys2Proof.Machine.execOcallRequestAccept op s
  | .waveStart lid obj => Sys2Proof.Machine.execWaveStart lid obj s
  | .ocallReply op lane => Sys2Proof.Machine.execOcallReply op lane s
  | .waveTimeLimit lid obj => Sys2Proof.Machine.execWaveTimeLimit lid obj s
  | .quantumExpiry g => Sys2Proof.Machine.execQuantumExpiry g s
  | .pendingAging g => Sys2Proof.Machine.execPendingAging g s
  | .urgentDisplacement g => Sys2Proof.Machine.execUrgentDisplacement g s
  | .groupActivation core => Sys2Proof.Machine.execGroupActivation core s
  | .wgrowStalemate core => Sys2Proof.Machine.execWgrowStalemate core s
  | .tableWalk w => Sys2Proof.Machine.execTableWalk w s
  | .faultRecordWrite lid => Sys2Proof.Machine.execFaultRecordWrite lid s
  | .launchRecord qp r => Sys2Proof.Machine.execLaunchRecord qp r s
  | .badmsgSend qp len => Sys2Proof.Machine.execBadmsgSend qp len s
  | .abort qp m => Sys2Proof.Machine.execAbort qp m s
  | .resume qp m => Sys2Proof.Machine.execResume qp m s
  | .region qp m => Sys2Proof.Machine.execRegion qp m s
  | .unregion qp m => Sys2Proof.Machine.execUnregion qp m s
  | .rdmaRead qp rkey va len => Sys2Proof.Machine.execRdmaRead qp rkey va len s
  | .rdmaWrite qp rkey va data => Sys2Proof.Machine.execRdmaWrite qp rkey va data s
  | .ualinkInboundRequest src r => Sys2Proof.Machine.execUalinkInboundRequest src r s
  | .linkLoss port => Sys2Proof.Machine.execLinkLoss port s
  | .teamDispatch core => Sys2Proof.Machine.execTeamDispatch core s
  | .steal tower => Sys2Proof.Machine.execSteal tower s
  | .preemptionRequest tower => Sys2Proof.Machine.execPreemptionRequest tower s
  | .forcedStop g => Sys2Proof.Machine.execForcedStop g s
  | .unitSave lid team => Sys2Proof.Machine.execUnitSave lid team s
  | .unitRestore lid team core => Sys2Proof.Machine.execUnitRestore lid team core s
  | .groupRetirement g => Sys2Proof.Machine.execGroupRetirement g s
  | .launchCompletion lid => Sys2Proof.Machine.execLaunchCompletion lid s
  | .podLost pod => Sys2Proof.Machine.execPodLost pod s
  | .softRepair stack row => Sys2Proof.Machine.execSoftRepair stack row s
  | .quiesceEnd stack row => Sys2Proof.Machine.execQuiesceEnd stack row s
  | .activationCounterEvent stack row corrupt => Sys2Proof.Machine.execActivationCounterEvent stack row corrupt s
  | .selfRefreshEnter stack => Sys2Proof.Machine.execSelfRefreshEnter stack s
  | .selfRefreshExit stack => Sys2Proof.Machine.execSelfRefreshExit stack s
  | .criticalShutdown => Sys2Proof.Machine.execCriticalShutdown s
  | .infieldTestRun u test signed first second => Sys2Proof.Machine.execInfieldTestRun u test signed first second s
  | .powerCapWindow demand => Sys2Proof.Machine.execPowerCapWindow demand s
  | .provision f => Sys2Proof.Machine.execProvision f s
  | .qpset f => Sys2Proof.Machine.execQpset f s
  | .qmask f => Sys2Proof.Machine.execQmask f s
  | .partnum f => Sys2Proof.Machine.execPartnum f s
  | .accept f => Sys2Proof.Machine.execAccept f s
  | .jread f => Sys2Proof.Machine.execJread f s
  | .jack f => Sys2Proof.Machine.execJack f s
  | .attest f => Sys2Proof.Machine.execAttest f s
  | .pcap f => Sys2Proof.Machine.execPcap f s
  | .telem f => Sys2Proof.Machine.execTelem f s
  | .unfreeze f => Sys2Proof.Machine.execUnfreeze f s
  | .fwload f => Sys2Proof.Machine.execFwload f s
  | .reset f => Sys2Proof.Machine.execReset f s
  | .powerOn => Sys2Proof.Machine.execPowerOn s
  | .ptpSync ns => Sys2Proof.Machine.execPtpSync ns s
  | .linkTraining port vendor => Sys2Proof.Machine.execLinkTraining port vendor s
  | .writeAcknowledgement g n ok => Sys2Proof.Machine.execWriteAcknowledgement g n ok s
  | .variableLatencyResult g n => Sys2Proof.Machine.execVariableLatencyResult g n s

end Sys2Proof.Machine
end

