-- ==== Sys2Proof/Machine/Front.lean ====
section
/-! DEFINITION. How one step of the part is chosen and performed (R132, R146; log 1): the group that issues fetches and
decodes its instruction; an event happens; time passes. -/

namespace Sys2Proof.Machine

/-- The instructions of the opcode table that have words; the others are events. -/
def isEvent (i : Instr) : Bool := (encode i).isEmpty

/-- A group issues: its instruction is fetched and decoded, a word that is no instruction traps with ILLEGAL, and an
instruction does what it does for the group (R113, R114, R132). A stop that is forced comes first (R395). -/
def State.issueNext (s : State) (gid : GroupId) : Out :=
  match s.group? gid with
  | none => .next s
  | some g => match g.pos with
    | .slot hdr j hw =>
      if !g.runs then .next s
      else if g.stopsBy (max s.clock g.readyAt) then .next (s.stopNow g)
      else match s.fetchSlot g.core hdr j hw with
        | .error e => .next (s.fetchFails g hdr e)
        | .ok (s, ws) => match decode ws with
          | .ok i => exec i { s with cur := gid }
          | .error _ => .next (s.takeTrap gid Cause.illegal (BitVec.ofNat 64 (slotAddr hdr j)) (ws.headD 0) (.back hdr j))
    | _ => .next s

/-- A core's L1 writes back a line and drops it (R240; log 7). -/
def State.evictLine (s : State) (core pa : Nat) : State :=
  (s.writeBack core (inLine pa)).dropClean core (inLine pa)

/-- The home L2 slice gives a sector up, or the MSC does; one that is dirty is written back to the next level (R17;
log 7). -/
def State.settleSector (s : State) (pa : Nat) : State :=
  let x := s.sector (pa / 32)
  (s.onSector (pa / 32) fun y => if x.l2.isSome then y.leaveL2 else y.leaveMsc (s.heldAt pa)).fitMsc (pa / 32)

/-- The TLBs no longer hold the translations of an address (R291; log 25). -/
def State.evictTlb (s : State) (va : Nat) : State :=
  s.dropTlb fun t => t.covers va

/-- What happens next happens. -/
def State.perform (s : State) : Act → Out
  | .issue g => s.issueNext g
  | .event i => if isEvent i then exec i s else .next s
  | .flaw x r => .next (s.findError x r)
  | .evict core pa => .next (s.evictLine core pa)
  | .settle pa => .next (s.settleSector pa)
  | .evictTlb va => .next (s.evictTlb va)
  | .misread pod n => .next (s.misread pod n)
  | .upset pod tile pos chan d mode => .next (s.upset pod tile pos chan d mode)
  | .tick n => .next (s.advance (s.clock + n))

/-! ### The order in which things happen when the agenda is empty (log 1) -/

/-- Results under way that arrive (R136, R279, R373). -/
def State.arrivals (s : State) : List Instr :=
  s.groups.flatMap fun g =>
    (g.pend.filterMap fun p => match p.kind with
      | .load => some (Instr.loadResponse g.id p.n)
      | .atomic => some (Instr.atomicResponse g.id p.n)
      | .scalar => some (Instr.variableLatencyResult g.id p.n)
      | _ => none)
    ++ (g.acks.map fun a => Instr.writeAcknowledgement g.id a.n true)
    ++ [.tableWalk (.group g.id), .runnerValueArrival g.id, .deferredTrap g.id]

/-- Engine operations that go on (R284, R308, R317, R350, R372). -/
def State.opEvents (s : State) : List Instr :=
  s.ops.flatMap fun o => .tableWalk (.op o.n) :: match o.kind with
    | .cpy .. | .cbld .. => [.copyOperationComplete o.n]
    | .cpym .. => .copyOperationComplete o.n :: (List.range 8).map fun k => .cpymArrival o.n k
    | .fetch .. => [.fetchLineLanded o.n]
    | .post .. => [.postAcknowledged o.n]
    | .mma => []
    | .drain .. => [.drainComplete o.n]
    | .drainm .. | .acst .. | .acld .. => [.mxOperationComplete o.n]
    | .ocall _ _ coming _ => .ocallRequestAccept o.n :: coming.map fun c => .ocallReply o.n c.1

/-- The matrix engines go on (R328, R331, R332, R337). -/
def State.podEvents (s : State) : List Instr :=
  s.pods.flatMap fun p =>
    ((List.range p.2.latches.length).map fun k => .rendezvousGrant p.1 k)
    ++ [.passComplete p.1, .passStart p.1, .patternPass p.1]

/-- What becomes of a group with time: its quantum ends, an urgent one has been ready for 64
core clocks, a publish has stalled for 256, its stop is forced, or its wave has run out of time (R146, R147, R150, R233,
R379, R395). -/
def State.dueFor (s : State) (g : Group) : List Instr :=
    (if g.active && decide (g.since + 1024 ≤ s.clock) then [.quantumExpiry g.id] else [])
    ++ (if g.readySince.any fun t => decide (t + 64 ≤ s.clock) then [.urgentDisplacement g.id] else [])
    ++ (if g.stallStart.any fun t => decide (t + 256 ≤ s.clock) then [.runnerSpillTimeout g.id] else [])
    ++ (match g.stopAt with
      | some t => if t + 4096 ≤ s.clock then [.forcedStop g.id] else []
      | none => [])
    ++ (match g.id with
      | .wave lid obj => [.waveTimeLimit lid obj]
      | .member .. => [])

/-- The cores that hold groups. -/
def State.usedCores (s : State) : List Nat := (s.groups.map (·.core)).eraseDups

/-- Timers that have run out (R147, R149, R150, R155, R156, R233, R379, R395, R419). -/
def State.dueEvents (s : State) : List Instr :=
  s.groups.flatMap s.dueFor
    ++ (s.usedCores.filter fun c => !(s.blockedGrow c).isEmpty
        && (s.coreMoves c || decide (Sparse.get 0 s.coreIssue c + 256 ≤ s.clock))).map .wgrowStalemate
    ++ s.hbm.flatMap fun x =>
      (x.2.quiesced.filter fun q => decide (q.2 + 188000 ≤ s.clock)).map (fun q => .quiesceEnd x.1 q.1)
      ++ (x.2.candidates.filter fun q => decide (s.repairTime q.2 ≤ s.clock)).map fun q => .softRepair x.1 q.1

/-- The active groups, the one that may go on first in front: at a header or at its place of return a clause is
entered, at a slot an instruction issues. -/
def State.issues (s : State) : List Act :=
  (sortBy (fun a b => decide (a.readyAt ≤ b.readyAt)) (s.groups.filter Group.runs)).map fun g => match g.pos with
    | .slot .. => .issue g.id
    | _ => .event (.clauseEntry g.id)

/-- The distributors, the homes of objects, and retirement (R93, R146, R375, R388, R396, R398, R408). -/
def State.placing (s : State) : List Instr :=
  (s.groups.map fun g => .groupRetirement g.id)
  ++ (s.launches.flatMap fun l =>
    [.faultRecordWrite l.lid, .launchCompletion l.lid, .unitSave l.lid none]
    ++ (l.objects.map fun o => .waveStart l.lid o.addr))
  ++ (s.usedCores.map fun c => .groupActivation c)
  ++ (s.launches.flatMap fun l => l.teams.flatMap fun t =>
    if t.resident then ((s.teamGroups l.lid t.num).filter fun g => !g.resident).map fun g => .unitRestore l.lid (some t.num) g.core
    else (towerCores t.tower).map fun c => .unitRestore l.lid (some t.num) c)
  ++ (if s.launches.any s.served then (List.range Config.cores).map fun c => .teamDispatch c else [])
  ++ (if s.launches.isEmpty then [] else
    ((List.range (8 + Config.pods)).map fun t => .steal t) ++ (List.range 8).map fun t => .preemptionRequest t)

/-- What happens only once nothing else can: timers, to whose moment time then passes (R149, R150, R156, R233,
R395, R419). -/
def State.timers (s : State) : List Instr :=
  (s.groups.flatMap fun g => [.runnerSpillTimeout g.id, .urgentDisplacement g.id, .quantumExpiry g.id, .forcedStop g.id])
  ++ (s.usedCores.map fun c => .wgrowStalemate c)
  ++ s.hbm.flatMap fun x => (x.2.quiesced.map fun q => .quiesceEnd x.1 q.1) ++ x.2.candidates.map fun q => .softRepair x.1 q.1

/-- Everything that may happen, in the order in which this model tries it. -/
def State.candidates (s : State) : List Act :=
  (s.arrivals ++ s.opEvents ++ s.podEvents ++ s.dueEvents ++ s.placing).map Act.event ++ s.issues
    ++ s.timers.map Act.event

/-- An act changes something. -/
def State.moves (s : State) (a : Act) : Bool :=
  match s.perform a with
  | .next t => decide (t ≠ s)
  | _ => true

/-- The first act that changes something; else one core clock passes. -/
def State.choose (s : State) : Act := (s.candidates.find? s.moves).getD (.tick 1)

end Sys2Proof.Machine
end

