-- ==== Sys2Proof/Machine/Step.lean ====
section
/-! DEFINITION. One step of the part, and the placing of a word where the next step fetches it. -/

namespace Sys2Proof.Machine

/-- What a step notes at its end (R146; log 77). -/
def noted : Host.Outcome State Fault Refusal → Host.Outcome State Fault Refusal
  | .next t => .next t.noteReady
  | o => o

/-- One step: the head of the agenda happens; with an empty agenda, what the part itself would do next. -/
def step (s : State) : Host.Outcome State Fault Refusal :=
  match s.agenda with
  | a :: rest => noted ({ s with agenda := rest }.perform a)
  | [] => noted (s.perform s.choose)

/-! ### A word placed for the next step -/

/-- Where `withFetchWord` places its clause. -/
def probeBase : Nat := 0x10000

/-- The group that issues it. -/
def probeGroup : GroupId := .member 0 0 0

/-- The header of a clause that holds one instruction and nothing after it. -/
def probeHeader (words : Nat) : Word :=
  Header.toWord
    { eclass := 0, nslot := BitVec.ofNat 4 (words - 1), lmask := BitVec.ofNat 16 (2 ^ words - 2)
      wcp := 7, wmx := 7, wcb := 7, wrm := 7, rsv := 0 }

/-- The launch record of that group: CODE, 64 lanes, a window of 256 registers. -/
def probeRecord : BitVec 2048 := BitVec.ofNat 2048 (probeBase + 2 * 2 ^ 168 + 64 * 2 ^ 175)

/-- The launch of that group. -/
def probeLaunch : Launch :=
  { Launch.make probeRecord 0 none true [] (List.replicate 64 0) with
    started := true
    teams := [{ num := 0, core := 0, core2 := none, tower := 0, urgent := false, resident := true, faulted := false,
                scratch := [], bad := [], bars := [], lands := [], tiles := [] }] }

/-- `s` with an instruction stored where the next step fetches it: its words after a header at `probeBase` under
identity translation, a group that stands at that slot, and the agenda that lets it issue (log 24). -/
def State.withFetchWord (s : State) (nbits w : Nat) : State :=
  let first := BitVec.ofNat 64 w
  let n := max (literalsNeeded first) (nbits / 64 - 1) + 1
  let hw := probeHeader n
  let bytes := leBytes 8 hw.toNat ++ (List.range n).flatMap fun k => leBytes 8 (w / 2 ^ (64 * k) % 2 ^ 64)
  let pa := s.ownPart * 2 ^ 43 + probeBase
  let s := ({ s with troot := 0, tlb := [] }.memWrite pa bytes).clearPoison pa 256
  let g := Group.fresh probeGroup 64 0 0 256 probeBase (BitVec.allOnes 64) s.clock
  { s with
    agenda := [.issue probeGroup]
    launches := probeLaunch :: s.launches.filter fun l => l.lid != 0
    groups := { g with pos := .slot probeBase 0 hw, active := true } :: s.groups.filter fun x => decide (x.id ≠ probeGroup) }

end Sys2Proof.Machine
end

