-- ==== Sys2Proof/Machine/Loader.lean ====
section
/-! DEFINITION. The object files of merwyn and their loading (R80 to R83): what the host places in the part's memory and
which launch record it completes. The part itself sees only the bytes that the host writes. -/

namespace Sys2Proof.Machine

/-- A field of a record that lies in a file, by byte offset and width in bits from a bit. -/
def fileField (file : List Byte) (at_ lo len : Nat) : Nat :=
  ofBytes ((file.drop (at_ + lo / 8)).take ((lo % 8 + len + 7) / 8)) / 2 ^ (lo % 8) % 2 ^ len

/-- A section of an object file (R81), with its contents. -/
structure Section where
  type : Nat
  index : Nat
  align : Nat
  bytes : List Byte
  deriving DecidableEq, Repr

namespace Mko

/-- The bytes "M", "K", "O" and 0x01 (R80). -/
def magic : Nat := 0x014F4B4D

/-- The header is good: 64 bytes with the magic, version 1, reserved bits zero, and a section table at a multiple of 8
(R80). -/
def headerOk (file : List Byte) : Bool :=
  decide (64 ≤ file.length) && fileField file 0 0 32 == magic && fileField file 0 32 32 == 1 && fileField file 0 160 352 == 0
    && fileField file 0 64 64 % 8 == 0

/-- The k-th section; none when its entry or its contents do not lie in the file, or a reserved bit is set (R81). -/
def sectionAt (file : List Byte) (k : Nat) : Option Section :=
  let at_ := fileField file 0 64 64 + 32 * k
  let offset := fileField file at_ 64 64
  let size := fileField file at_ 128 64
  if at_ + 32 ≤ file.length ∧ offset + size ≤ file.length ∧ fileField file at_ 224 32 = 0 then
    some ⟨fileField file at_ 0 32, fileField file at_ 32 32, fileField file at_ 192 32, (file.drop offset).take size⟩
  else none

/-- A section is as its type demands; types from 0x8000 on carry nothing, other unknown ones are rejected (R81, R82). -/
def Section.ok (s : Section) : Bool :=
  let plain := s.index == 0
  match s.type with
  | 1 => plain && decide (3 ≤ s.align) && s.bytes.length % 8 == 0
  | 2 => plain
  | 3 => plain && s.bytes.length == 2560
  | 4 => decide (s.index < 4) && s.bytes.length == 512
  | 5 => s.bytes.length == 64
  | 6 => plain && s.bytes.length == 256
  | 7 => plain && s.bytes.length % 24 == 0
  | t => decide (0x8000 ≤ t)

/-- The sections of a file that a loader accepts: one code section, one launch template and at most one layout table
(R80 to R82). -/
def sections (file : List Byte) : Option (List Section) :=
  if !headerOk file then none
  else match (List.range (fileField file 0 128 32)).mapM (sectionAt file) with
    | none => none
    | some l =>
      let count := fun t => (l.filter fun s => s.type == t).length
      if l.all Section.ok && count 1 == 1 && count 6 == 1 && decide (count 3 ≤ 1) then some l else none

/-- A relocation entry (R83). -/
structure Reloc where
  offset : Nat
  patched : Nat
  target : Nat
  kind : Nat
  addend : Int
  deriving DecidableEq, Repr

/-- The entry that starts at a byte of a relocation section; none for another kind, a reserved bit or an offset that is
not a multiple of 8 (R83). -/
def relocAt (bytes : List Byte) (at_ : Nat) : Option Reloc :=
  let f := fileField bytes at_
  if (f 80 8 = 1 ∨ f 80 8 = 2) ∧ f 88 40 = 0 ∧ f 0 64 % 8 = 0 then
    some ⟨f 0 64, f 64 8, f 72 8, f 80 8, (BitVec.ofNat 64 (f 128 64)).toInt⟩
  else none

/-- The entries of a file, in table order. -/
def relocs (l : List Section) : Option (List Reloc) :=
  ((l.filter fun s => s.type == 7).flatMap fun s => (List.range (s.bytes.length / 24)).map fun k => (s.bytes, 24 * k)).mapM
    fun x => relocAt x.1 x.2

/-- The word that an entry writes over a word: A whole, or A's bits 56:0 below the word's bits 63:57 (R83). -/
def Reloc.word (r : Reloc) (base : Nat) (old : Word) : Word :=
  let a : Word := BitVec.ofInt 64 ((base : Int) + r.addend)
  if r.kind = 1 then a else old &&& 0xFE00000000000000 ||| a &&& 0x01FFFFFFFFFFFFFF

/-- One entry is applied to the contents of the sections; none when it names no word of them (R83). -/
def Reloc.apply (r : Reloc) (place : Nat → Nat) (l : List Section) : Option (List Section) :=
  match l[r.patched]? with
  | none => none
  | some s =>
    if r.target < l.length ∧ r.offset + 8 ≤ s.bytes.length then
      let old : Word := BitVec.ofNat 64 (ofBytes ((s.bytes.drop r.offset).take 8))
      let new := leBytes 8 (r.word (place r.target) old).toNat
      some (l.set r.patched { s with bytes := s.bytes.take r.offset ++ new ++ s.bytes.drop (r.offset + 8) })
    else none

/-- The sections after every entry, in table order (R83). -/
def relocated (place : Nat → Nat) : List Reloc → List Section → Option (List Section)
  | [], l => some l
  | r :: t, l => (r.apply place l).bind (relocated place t)

/-- What a loader hands to the part: bytes for the part's memory by address, and the launch record to complete. -/
structure Loaded where
  memory : List (Nat × List Byte)
  record : BitVec 2048
  deriving DecidableEq, Repr

/-- Loads a file whose k-th section is placed at `place k`: code, data, the layout table, books and objects go to memory;
the template is the host's. A place that is not aligned as its section needs, and a file that R80 to R83 reject, give
nothing. -/
def load (file : List Byte) (place : Nat → Nat) : Option Loaded :=
  match sections file with
  | none => none
  | some l =>
    let inMemory := fun (s : Section) => decide (1 ≤ s.type) && decide (s.type ≤ 5)
    if !(l.zipIdx.all fun x => !inMemory x.1 || place x.2 % 2 ^ x.1.align == 0) then none
    else match (relocs l).bind fun rs => relocated place rs l with
      | none => none
      | some m => (m.find? fun s => s.type == 6).map fun t =>
        ⟨(m.zipIdx.filter fun x => inMemory x.1).map fun x => (place x.2, x.1.bytes), BitVec.ofNat 2048 (ofBytes t.bytes)⟩

end Mko

end Sys2Proof.Machine
end

