-- ==== Sys2Proof/Safety.lean ====
section
/-! DEFINITION. The terms in which claims are made: what each instruction does once it issues, when a group
issues an instruction, the part after it, and what a run never breaks. -/

namespace Sys2Proof.Machine

/-! ### What each instruction does once it issues -/

/-- The head and the body of every instruction that has words; events have none. -/
def bodyOf : Instr → Option (Head × Body)
  | .iadd o => some (o.h, perLane (.iadd o) o.h (laneIadd o))
  | .isub o => some (o.h, perLane (.isub o) o.h (laneIsub o))
  | .imul o => some (o.h, perLane (.imul o) o.h (laneImul o))
  | .imulh o => some (o.h, perLane (.imulh o) o.h (laneImulh o))
  | .imad o => some (o.h, perLane (.imad o) o.h (laneImad o))
  | .idiv o => some (o.h, perLane (.idiv o) o.h (laneIdiv o))
  | .irem o => some (o.h, perLane (.irem o) o.h (laneIrem o))
  | .imin o => some (o.h, perLane (.imin o) o.h (laneImin o))
  | .imax o => some (o.h, perLane (.imax o) o.h (laneImax o))
  | .iabs o => some (o.h, perLane (.iabs o) o.h (laneIabs o))
  | .ineg o => some (o.h, perLane (.ineg o) o.h (laneIneg o))
  | .iclamp o => some (o.h, perLane (.iclamp o) o.h (laneIclamp o))
  | .and o => some (o.h, perLane (.and o) o.h (laneAnd o))
  | .or o => some (o.h, perLane (.or o) o.h (laneOr o))
  | .xor o => some (o.h, perLane (.xor o) o.h (laneXor o))
  | .andn o => some (o.h, perLane (.andn o) o.h (laneAndn o))
  | .shl o => some (o.h, perLane (.shl o) o.h (laneShl o))
  | .shr o => some (o.h, perLane (.shr o) o.h (laneShr o))
  | .sar o => some (o.h, perLane (.sar o) o.h (laneSar o))
  | .rot o => some (o.h, perLane (.rot o) o.h (laneRot o))
  | .popc o => some (o.h, perLane (.popc o) o.h (lanePopc o))
  | .clz o => some (o.h, perLane (.clz o) o.h (laneClz o))
  | .ctz o => some (o.h, perLane (.ctz o) o.h (laneCtz o))
  | .brev o => some (o.h, perLane (.brev o) o.h (laneBrev o))
  | .bfx o => some (o.h, perLane (.bfx o) o.h (laneBfx o))
  | .bfi o => some (o.h, perLane (.bfi o) o.h (laneBfi o))
  | .permb o => some (o.h, perLane (.permb o) o.h (lanePermb o))
  | .isetp o => some (o.h, perLane (.isetp o) o.h (laneIsetp o))
  | .sel o => some (o.h, perLane (.sel o) o.h (laneSel o))
  | .mov o => some (o.h, perLane (.mov o) o.h (laneMov o))
  | .movi o => some (o.h, perLane (.movi o) o.h (laneMovi o))
  | .cvti o => some (o.h, perLane (.cvti o) o.h (laneCvti o))
  | .lea o => some (o.h, perLane (.lea o) o.h (laneLea o))
  | .modred o => some (o.h, perLane (.modred o) o.h (laneModred o))
  | .modadd o => some (o.h, perLane (.modadd o) o.h (laneModadd o))
  | .modmul o => some (o.h, perLane (.modmul o) o.h (laneModmul o))
  | .iaddVI o => some (o.h, perLane (.iaddVI o) o.h (laneIaddVI o))
  | .isubVI o => some (o.h, perLane (.isubVI o) o.h (laneIsubVI o))
  | .imulVI o => some (o.h, perLane (.imulVI o) o.h (laneImulVI o))
  | .iminVI o => some (o.h, perLane (.iminVI o) o.h (laneIminVI o))
  | .imaxVI o => some (o.h, perLane (.imaxVI o) o.h (laneImaxVI o))
  | .andVI o => some (o.h, perLane (.andVI o) o.h (laneAndVI o))
  | .orVI o => some (o.h, perLane (.orVI o) o.h (laneOrVI o))
  | .xorVI o => some (o.h, perLane (.xorVI o) o.h (laneXorVI o))
  | .andnVI o => some (o.h, perLane (.andnVI o) o.h (laneAndnVI o))
  | .shlVI o => some (o.h, perLane (.shlVI o) o.h (laneShlVI o))
  | .shrVI o => some (o.h, perLane (.shrVI o) o.h (laneShrVI o))
  | .sarVI o => some (o.h, perLane (.sarVI o) o.h (laneSarVI o))
  | .rotVI o => some (o.h, perLane (.rotVI o) o.h (laneRotVI o))
  | .bfxVI o => some (o.h, perLane (.bfxVI o) o.h (laneBfxVI o))
  | .isetpVI o => some (o.h, perLane (.isetpVI o) o.h (laneIsetpVI o))
  | .modredVI o => some (o.h, perLane (.modredVI o) o.h (laneModredVI o))
  | .modaddVI o => some (o.h, perLane (.modaddVI o) o.h (laneModaddVI o))
  | .modmulVI o => some (o.h, perLane (.modmulVI o) o.h (laneModmulVI o))
  | .fadd o => some (o.h, perLane (.fadd o) o.h (laneFadd o))
  | .fsub o => some (o.h, perLane (.fsub o) o.h (laneFsub o))
  | .fmul o => some (o.h, perLane (.fmul o) o.h (laneFmul o))
  | .ffma o => some (o.h, perLane (.ffma o) o.h (laneFfma o))
  | .fmin o => some (o.h, perLane (.fmin o) o.h (laneFmin o))
  | .fmax o => some (o.h, perLane (.fmax o) o.h (laneFmax o))
  | .fsetp o => some (o.h, perLane (.fsetp o) o.h (laneFsetp o))
  | .fdiv o => some (o.h, perLane (.fdiv o) o.h (laneFdiv o))
  | .fsqrt o => some (o.h, perLane (.fsqrt o) o.h (laneFsqrt o))
  | .frcp o => some (o.h, perLane (.frcp o) o.h (laneFrcp o))
  | .fexp2 o => some (o.h, perLane (.fexp2 o) o.h (laneFexp2 o))
  | .flog2 o => some (o.h, perLane (.flog2 o) o.h (laneFlog2 o))
  | .fcvt o => some (o.h, perLane (.fcvt o) o.h (laneFcvt o))
  | .fround o => some (o.h, perLane (.fround o) o.h (laneFround o))
  | .fclass o => some (o.h, perLane (.fclass o) o.h (laneFclass o))
  | .dot4 o => some (o.h, perLane (.dot4 o) o.h (laneDot4 o))
  | .dot8 o => some (o.h, perLane (.dot8 o) o.h (laneDot8 o))
  | .dotc4 o => some (o.h, fun s g l => perLane (.dotc4 o) o.h (laneDotc4 (g.podBook s o.book) o) s g l)
  | .bdot o => some (o.h, perLane (.bdot o) o.h (laneBdot o))
  | .cdec o => some (o.h, fun s g l => perLane (.cdec o) o.h (laneCdec (g.podBook s o.book) o) s g l)
  | .bitunpk o => some (o.h, perLane (.bitunpk o) o.h (laneBitunpk o))
  | .shfl o => some (o.h, perLane (.shfl o) o.h (laneShfl o))
  | .vote o => some (o.h, perLane (.vote o) o.h (laneVote o))
  | .lred o => some (o.h, perLane (.lred o) o.h (laneLred o))
  | .lscan o => some (o.h, perLane (.lscan o) o.h (laneLscan o))
  | .xswap o => some (o.h, xswapBody o)
  | .sadd o => some (o.h, groupBody (fun _ g => writeS g o.d (readS g o.a + readY g o.y)))
  | .ssub o => some (o.h, groupBody (fun _ g => writeS g o.d (readS g o.a - readY g o.y)))
  | .smul o => some (o.h, groupBody (fun _ g => writeS g o.d (readS g o.a * readY g o.y)))
  | .sand o => some (o.h, groupBody (fun _ g => writeS g o.d (readS g o.a &&& readY g o.y)))
  | .sor o => some (o.h, groupBody (fun _ g => writeS g o.d (readS g o.a ||| readY g o.y)))
  | .sxor o => some (o.h, groupBody (fun _ g => writeS g o.d (readS g o.a ^^^ readY g o.y)))
  | .sshl o => some (o.h, groupBody (fun _ g => writeS g o.d (sshlWord (readS g o.a) (readY g o.y))))
  | .sshr o => some (o.h, groupBody (fun _ g => writeS g o.d (sshrWord o.arith (readS g o.a) (readY g o.y))))
  | .smov o => some (o.h, groupBody (fun _ g => writeS g o.d (readS g o.a)))
  | .smovl o => some (o.h, groupBody (fun _ g => writeS g o.d o.lit))
  | .ssetp o => some (o.h, perLane (.ssetp o) (noGuard o.h) (laneSsetp o))
  | .vget o => some (o.h, groupBody (fun _ g => writeS g o.d (vgetWord o g)))
  | .vput o => some (o.h, groupBody (fun _ g => vputGroup o g))
  | .gets o => some (o.h, getsBody o)
  | .plog o => some (o.h, plogBody o)
  | .bra o => some (o.h, braBody o)
  | .brd o => some (o.h, brdBody o)
  | .join o => some (o.h, joinBody)
  | .call o => some (o.h, callBody o)
  | .ret o => some (o.h, retBody o)
  | .bri o => some (o.h, briBody o)
  | .loop o => some (o.h, loopBody o)
  | .exit o => some (o.h, exitBody o)
  | .nop o => some (o.h, groupBody (fun _ g => g))
  | .safe o => some (o.h, safeBody o)
  | .sigchk o => some (o.h, sigchkBody o)
  | .yield o => some (o.h, yieldBody)
  | .wgrow o => some (o.h, wgrowBody o)
  | .wshrink o => some (o.h, wshrinkBody o)
  | .pub o => some (o.h, perLane (.pub o) o.h (lanePub o))
  | .ld o => some (o.h, skewed (.ld o) (loadBody false o.h o.t o.pol o.d o.addr ((encode (.ld o)).headD 0)))
  | .st o => some (o.h, skewed (.st o) (storeBody false o.h o.t o.pol o.d o.addr ((encode (.st o)).headD 0)))
  | .lds o => some (o.h, skewed (.lds o) (loadBody true o.h o.t .dflt o.d o.addr ((encode (.lds o)).headD 0)))
  | .sts o => some (o.h, skewed (.sts o) (storeBody true o.h o.t .dflt o.d o.addr ((encode (.sts o)).headD 0)))
  | .atom o => some (o.h, skewed (.atom o) (atomBody true o))
  | .red o => some (o.h, skewed (.red o) (atomBody false o))
  | .fence o => some (o.h, skewed (.fence o) (fenceBody o))
  | .pref o => some (o.h, prefBody)
  | .cflush o => some (o.h, lineBody false o)
  | .cinv o => some (o.h, lineBody true o)
  | .fetch o => some (o.h, xferBody false o)
  | .post o => some (o.h, xferBody true o)
  | .cpy o => some (o.h, cpyBody o)
  | .cpym o => some (o.h, cpymBody o)
  | .land o => some (o.h, landBody o)
  | .landw o => some (o.h, landwBody o)
  | .sealb o => some (o.h, sealBody o)
  | .waitb o => some (o.h, waitbBody o)
  | .yieldb o => some (o.h, yieldbBody o)
  | .cstat o => some (o.h, cstatBody o)
  | .cbld o => some (o.h, cbldBody o)
  | .gang o => some (o.h, gangBody o)
  | .mzero o => some (o.h, mzeroBody o)
  | .rel o => some (o.h, relBody o)
  | .acq o => some (o.h, acqBody o)
  | .mma o => some (o.h, mmaBody o)
  | .mscale o => some (o.h, mscaleBody o)
  | .drain o => some (o.h, drainBody o)
  | .drainm o => some (o.h, drainmBody o)
  | .acst o => some (o.h, acstBody o)
  | .acld o => some (o.h, acldBody o)
  | .mstat o => some (o.h, mstatBody o)
  | .cont o => some (o.h, contBody o)
  | .minj o => some (o.h, minjBody o)
  | .bar o => some (o.h, barBody o)
  | .bara o => some (o.h, baraBody o)
  | .barw o => some (o.h, barwBody o)
  | .barq o => some (o.h, barqBody o)
  | .binit o => some (o.h, binitBody o)
  | .objreg o => some (o.h, objregBody o)
  | .objdel o => some (o.h, objdelBody o)
  | .ocall o => some (o.h, ocallBody o)
  | .orel o => some (o.h, orelBody o)
  | .creply o => some (o.h, creplyBody o)
  | .cdone o => some (o.h, cdoneBody o)
  | .trap o => some (o.h, trapBody Cause.software o)
  | .rtt o => some (o.h, rttBody o)
  | .bkpt o => some (o.h, trapBody Cause.breakpoint o)
  | .halt o => some (o.h, haltBody)
  | .launch o => some (o.h, launchBody o)
  | .sets o => some (o.h, setsBody o)
  | .tlbinv o => some (o.h, tlbinvBody o)
  | .pres o => some (o.h, presBody o)
  | _ => none

/-- The instructions that act on registers lane by lane, with what one lane does (R9). -/
def laneOf (s : State) (g : Group) : Instr → Option (Head × LaneFn)
  | .iadd o => some (o.h, laneIadd o)
  | .isub o => some (o.h, laneIsub o)
  | .imul o => some (o.h, laneImul o)
  | .imulh o => some (o.h, laneImulh o)
  | .imad o => some (o.h, laneImad o)
  | .idiv o => some (o.h, laneIdiv o)
  | .irem o => some (o.h, laneIrem o)
  | .imin o => some (o.h, laneImin o)
  | .imax o => some (o.h, laneImax o)
  | .iabs o => some (o.h, laneIabs o)
  | .ineg o => some (o.h, laneIneg o)
  | .iclamp o => some (o.h, laneIclamp o)
  | .and o => some (o.h, laneAnd o)
  | .or o => some (o.h, laneOr o)
  | .xor o => some (o.h, laneXor o)
  | .andn o => some (o.h, laneAndn o)
  | .shl o => some (o.h, laneShl o)
  | .shr o => some (o.h, laneShr o)
  | .sar o => some (o.h, laneSar o)
  | .rot o => some (o.h, laneRot o)
  | .popc o => some (o.h, lanePopc o)
  | .clz o => some (o.h, laneClz o)
  | .ctz o => some (o.h, laneCtz o)
  | .brev o => some (o.h, laneBrev o)
  | .bfx o => some (o.h, laneBfx o)
  | .bfi o => some (o.h, laneBfi o)
  | .permb o => some (o.h, lanePermb o)
  | .isetp o => some (o.h, laneIsetp o)
  | .sel o => some (o.h, laneSel o)
  | .mov o => some (o.h, laneMov o)
  | .movi o => some (o.h, laneMovi o)
  | .cvti o => some (o.h, laneCvti o)
  | .lea o => some (o.h, laneLea o)
  | .modred o => some (o.h, laneModred o)
  | .modadd o => some (o.h, laneModadd o)
  | .modmul o => some (o.h, laneModmul o)
  | .iaddVI o => some (o.h, laneIaddVI o)
  | .isubVI o => some (o.h, laneIsubVI o)
  | .imulVI o => some (o.h, laneImulVI o)
  | .iminVI o => some (o.h, laneIminVI o)
  | .imaxVI o => some (o.h, laneImaxVI o)
  | .andVI o => some (o.h, laneAndVI o)
  | .orVI o => some (o.h, laneOrVI o)
  | .xorVI o => some (o.h, laneXorVI o)
  | .andnVI o => some (o.h, laneAndnVI o)
  | .shlVI o => some (o.h, laneShlVI o)
  | .shrVI o => some (o.h, laneShrVI o)
  | .sarVI o => some (o.h, laneSarVI o)
  | .rotVI o => some (o.h, laneRotVI o)
  | .bfxVI o => some (o.h, laneBfxVI o)
  | .isetpVI o => some (o.h, laneIsetpVI o)
  | .modredVI o => some (o.h, laneModredVI o)
  | .modaddVI o => some (o.h, laneModaddVI o)
  | .modmulVI o => some (o.h, laneModmulVI o)
  | .fadd o => some (o.h, laneFadd o)
  | .fsub o => some (o.h, laneFsub o)
  | .fmul o => some (o.h, laneFmul o)
  | .ffma o => some (o.h, laneFfma o)
  | .fmin o => some (o.h, laneFmin o)
  | .fmax o => some (o.h, laneFmax o)
  | .fsetp o => some (o.h, laneFsetp o)
  | .fdiv o => some (o.h, laneFdiv o)
  | .fsqrt o => some (o.h, laneFsqrt o)
  | .frcp o => some (o.h, laneFrcp o)
  | .fexp2 o => some (o.h, laneFexp2 o)
  | .flog2 o => some (o.h, laneFlog2 o)
  | .fcvt o => some (o.h, laneFcvt o)
  | .fround o => some (o.h, laneFround o)
  | .fclass o => some (o.h, laneFclass o)
  | .dot4 o => some (o.h, laneDot4 o)
  | .dot8 o => some (o.h, laneDot8 o)
  | .dotc4 o => some (o.h, laneDotc4 (g.podBook s o.book) o)
  | .bdot o => some (o.h, laneBdot o)
  | .cdec o => some (o.h, laneCdec (g.podBook s o.book) o)
  | .bitunpk o => some (o.h, laneBitunpk o)
  | .shfl o => some (o.h, laneShfl o)
  | .vote o => some (o.h, laneVote o)
  | .lred o => some (o.h, laneLred o)
  | .lscan o => some (o.h, laneLscan o)
  | _ => none

/-! ### A group issues an instruction -/

/-- What an instruction reads and writes, its guard included. -/
abbrev usesIn (i : Instr) (h : Head) (g : Group) (l : Launch) : Uses := (usesOf l.layouts g i).guarded h

/-- Group `g` of launch `l`, at slot `j` of the clause at `hdr` with header word `hw`, is the one that an
instruction acts for, and may issue (R146). -/
abbrev Stands (s : State) (g : Group) (l : Launch) (hdr j : Nat) (hw : Word) : Prop :=
  s.group? s.cur = some g ∧ s.launch? (lidOf g.id) = some l ∧ g.pos = .slot hdr j hw ∧ g.runs = true

/-- No stop that became pending 4,096 core clocks before it could issue is forced on it there (R395). -/
abbrev Unstopped (i : Instr) (h : Head) (s : State) (g : Group) (l : Launch) : Prop :=
  g.stopsBy (max s.clock (g.startAt (usesIn i h g l))) = false

/-- It also passes the checks at decode (R132), waits for nothing, not even for the scalar that sizes its
registers (R133, R134, R136), and is not stopped by force (R395). -/
abbrev Issues (i : Instr) (h : Head) (s : State) (g : Group) (l : Launch) (hdr j : Nat) (hw : Word) : Prop :=
  Stands s g l hdr j hw ∧ decodeFault l g hw j i (usesIn i h g l) = none ∧ mustWait l g h (usesIn i h g l) = none
    ∧ g.startAt (usesIn i h g l) ≤ s.clock ∧ sizePending g i = false ∧ g.stopsBy s.clock = false

/-- Its guard also holds, where it is taken once for the group (R115), no deferred trap is due (R285), and no register
that it reads is poisoned (R416): the instruction takes effect. -/
abbrev Acts (i : Instr) (h : Head) (s : State) (g : Group) (l : Launch) (hdr j : Nat) (hw : Word) : Prop :=
  Issues i h s g l hdr j hw ∧ ((usesIn i h g l).lanes = true ∨ g.guardHolds h = true)
    ∧ dueAt g (usesIn i h g l) = none ∧ poisonedRead i h (usesIn i h g l) g = none

/-- The part after an instruction whose effect is `s'`: the instruction is counted, and the group goes where
`c` sends it. `vals` are its transient results. -/
def issued (i : Instr) (h : Head) (s : State) (g : Group) (l : Launch) (hdr j : Nat) (hw : Word) (s' : State)
    (c : Ctl := .next) (vals : Sparse Lane := []) : State :=
  ((s'.onGroup g.id fun x => x.count s.clock h (usesIn i h g l) (slotAddr hdr j) (writeLanes i h (usesIn i h g l) g)
    vals).follow g.id hdr j hw (encode i).length c).noteIssue g.core

/-- The part after an instruction whose guard fails, taken once for the group (R115): it is counted, and the group goes
on at the next slot, or at the next clause. -/
def skipped (i : Instr) (h : Head) (s : State) (g : Group) (l : Launch) (hdr j : Nat) (hw : Word) : State :=
  ((s.setGroup (g.count s.clock h (usesIn i h g l) (slotAddr hdr j) 0 [])).follow g.id hdr j hw
    (encode i).length (if i.endsClause then .clause else .next)).noteIssue g.core

/-- The part after an instruction that traps at its own place (R384). -/
def trapped (s : State) (g : Group) (hdr j : Nat) (cause : Nat) (tval : Word) : State :=
  s.takeTrap g.id cause (BitVec.ofNat 64 (slotAddr hdr j)) tval (.back hdr j)

/-- The part after an instruction that has to wait. -/
def waiting (s : State) (g : Group) (w : Wait) : State := s.setGroup (g.await s.clock w)

/-! ### Operands as bit vectors -/

/-- Operand B of 32 bits in a lane (R168). -/
def srcB32 (g : Group) (idx : Nat) (b : OpB) (lane : Nat) : BitVec 32 :=
  match b with
  | .vec r => g.readV idx r.toNat lane
  | .scal r => (g.sreg r.toNat).setWidth 32
  | .lit w => w.setWidth 32

/-- A pair of registers in a lane, as an instruction reads it (R24). -/
def readPair (g : Group) (idx r lane : Nat) : Word := g.readV idx (r + 1) lane ++ g.readV idx r lane

/-- Operand B of 64 bits in a lane (R168). -/
def srcB64 (g : Group) (idx : Nat) (b : OpB) (lane : Nat) : Word :=
  match b with
  | .vec r => readPair g idx r.toNat lane
  | .scal r => g.sreg r.toNat
  | .lit w => w

/-- A pair of registers of the file in a lane. -/
def filePair (g : Group) (r lane : Nat) : Word := g.fileV (r + 1) lane ++ g.fileV r lane

/-- A register, or a pair for a 64-bit type, in a lane, as an instruction reads it. -/
def readNat (g : Group) (idx : Nat) (t : Ty) (r lane : Nat) : Nat :=
  if t.wide then (readPair g idx r lane).toNat else (g.readV idx r lane).toNat

/-- Operand B of a type's width in a lane. -/
def srcBNat (g : Group) (idx : Nat) (t : Ty) (b : OpB) (lane : Nat) : Nat :=
  if t.wide then (srcB64 g idx b lane).toNat else (srcB32 g idx b lane).toNat

/-- A register of the file, or a pair for a 64-bit type, in a lane. -/
def fileNat (g : Group) (t : Ty) (r lane : Nat) : Nat :=
  if t.wide then (filePair g r lane).toNat else (g.fileV r lane).toNat

/-- A plain integer instruction of two sources: no runner, no mark, no saturation. -/
abbrev Plain2 (o : V2) (g : Group) : Prop :=
  o.sat = false ∧ o.a.k = 0 ∧ o.d.pub = false ∧ o.d.tr = false ∧ g.backlog = []

/-- An instruction ends in a state whose own group is as `p` says. -/
abbrev EndsIn (i : Instr) (s : State) (g : Group) (p : State → Group → Prop) : Prop :=
  ∃ t y, exec i s = .next t ∧ t.group? g.id = some y ∧ p t y

/-- `t` differs from `s` in one group at most, and in when a core last issued. -/
abbrev OnlyGroup (s t : State) (gid : GroupId) : Prop :=
  (∀ k, k ≠ gid → t.group? k = s.group? k) ∧ { t with groups := s.groups, coreIssue := s.coreIssue } = s

/-! ### What a run never breaks -/

/-- The part's memory and every core's L1 are in their canonical form. -/
abbrev Safe (s : State) : Prop :=
  Memory.wf s.mem = true ∧ Sparse.wf [] s.l1 = true ∧ s.l1.all (fun c => Sparse.wf none c.2) = true

end Sys2Proof.Machine
end

