-- ==== Sys2Proof/Certificates/Slice0/Obligations.lean ====
section
/-! DEFINITION. What is claimed of the machine: one statement a definition, for the provers. -/

open Sys2Proof Sys2Proof.Machine

/-! ### The rules that every instruction issues by -/

/-- R113, R114, R132, R395: when the agenda lets a group issue, the group stands at a slot, and the words it fetches
decode to an instruction, the step is that instruction acting for the group, after which the part notes which groups
are ready (the model's choice, log 77); but a group whose forced stop is due stops instead. -/
def Claims.StepRunsDecodedInstruction : Prop :=
  ∀ (s s' : State) (gid : GroupId) (rest : List Act) (g : Group) (hdr j : Nat) (hw : Word) (ws : List Word) (i : Instr),
    s.agenda = .issue gid :: rest → s.group? gid = some g → g.pos = .slot hdr j hw → g.runs = true →
    (g.stopsBy (max s.clock g.readyAt) = true → step s = .next (({ s with agenda := rest } : State).stopNow g).noteReady) ∧
    (g.stopsBy (max s.clock g.readyAt) = false → ({ s with agenda := rest } : State).fetchSlot g.core hdr j hw = .ok (s', ws) →
      decode ws = .ok i → step s = noted (exec i { s' with cur := gid }))

/-- R132 (5), R385: words that are no instruction trap with ILLEGAL; %epc is the slot, %tval the word. -/
def Claims.UndecodableWordTrapsIllegal : Prop :=
  ∀ (s s' : State) (gid : GroupId) (rest : List Act) (g : Group) (hdr j : Nat) (hw : Word) (ws : List Word) (e : Reject),
    s.agenda = .issue gid :: rest → s.group? gid = some g → g.pos = .slot hdr j hw → g.runs = true →
    g.stopsBy (max s.clock g.readyAt) = false →
    ({ s with agenda := rest } : State).fetchSlot g.core hdr j hw = .ok (s', ws) → decode ws = .error e →
    step s = .next (s'.takeTrap gid Cause.illegal (BitVec.ofNat 64 (slotAddr hdr j)) (ws.headD 0) (.back hdr j)).noteReady

/-- R132 (5 to 8): every instruction whose first breach at decode is a cause with a %tval takes that trap at its own
place, and has no other effect. -/
def Claims.DecodeBreachTraps : Prop :=
  ∀ (i : Instr) (h : Head) (b : Body) (s : State) (g : Group) (l : Launch) (hdr j : Nat) (hw : Word) (c : Nat) (tv : Word),
    bodyOf i = some (h, b) → Stands s g l hdr j hw → Unstopped i h s g l → sizePending g i = false →
    decodeFault l g hw j i (usesIn i h g l) = some (c, tv) →
    exec i s = .next (trapped s g hdr j c tv)

/-- R395: an instruction that could not issue before 4,096 core clocks had passed since its group's stop became pending
is not issued: the group stops before it. -/
def Claims.OverdueStopIsForced : Prop :=
  ∀ (i : Instr) (h : Head) (b : Body) (s : State) (g : Group) (l : Launch) (hdr j : Nat) (hw : Word),
    bodyOf i = some (h, b) → Stands s g l hdr j hw → ¬ Unstopped i h s g l →
    exec i s = .next (s.stopNow g) ∧
      ∃ y, (s.stopNow g).group? g.id = some y ∧ y.stopped = true ∧ y.active = false ∧ y.pos = g.pos ∧
        y.vregs = g.vregs ∧ y.sregs = g.sregs ∧ y.preds = g.preds ∧ y.em = g.em ∧ y.wait = g.wait ∧
        (s.stopNow g).mem = s.mem

/-- R136, R329, R235: an instruction that has to wait for a result, for reserved operands or for lanes that are behind
takes no effect: its group waits. So does one whose registers a scalar under way decides, and one that needs every lane,
or orders memory while no lane behind waits for a lane in front (the model's choice, log 13), with lanes behind. -/
def Claims.InstructionWaitsWithoutEffect : Prop :=
  ∀ (i : Instr) (h : Head) (b : Body) (s : State) (g : Group) (l : Launch) (hdr j : Nat) (hw : Word) (w : Wait),
    bodyOf i = some (h, b) → Stands s g l hdr j hw → Unstopped i h s g l →
    (sizePending g i = false → decodeFault l g hw j i (usesIn i h g l) = none →
      mustWait l g h (usesIn i h g l) = some w → exec i s = .next (waiting s g w)) ∧
    (sizePending g i = true → exec i s = .next (waiting s g .result)) ∧
    (sizePending g i = false → decodeFault l g hw j i (usesIn i h g l) = none → g.pend = [] → g.deferred = [] →
      g.reserved = [] → g.backlog ≠ [] → g.gathers l (usesIn i h g l) = true → exec i s = .next (waiting s g .runner))

/-- R133, R134: an instruction that may not issue yet issues at the core clock at which it may, as if time had passed to
that clock first (the model's choice of how time passes, logs 12 and 27). -/
def Claims.InstructionIssuesAtItsClock : Prop :=
  ∀ (i : Instr) (h : Head) (b : Body) (s : State) (g : Group) (l : Launch) (hdr j : Nat) (hw : Word),
    bodyOf i = some (h, b) → Stands s g l hdr j hw → Unstopped i h s g l → sizePending g i = false →
    decodeFault l g hw j i (usesIn i h g l) = none → mustWait l g h (usesIn i h g l) = none →
    exec i s = exec i (s.advance (g.startAt (usesIn i h g l))) ∧
      s.clock ≤ (s.advance (g.startAt (usesIn i h g l))).clock ∧
      g.startAt (usesIn i h g l) ≤ (s.advance (g.startAt (usesIn i h g l))).clock

/-- R115: a group-wide instruction whose guard does not hold in the lowest lane of `em` has no effect but its stall
count: the group is counted and goes on, at the next clause where the instruction ends one. -/
def Claims.FailedGuardHasNoEffect : Prop :=
  ∀ (i : Instr) (h : Head) (b : Body) (s : State) (g : Group) (l : Launch) (hdr j : Nat) (hw : Word),
    bodyOf i = some (h, b) → Issues i h s g l hdr j hw → (usesIn i h g l).lanes = false → g.guardHolds h = false →
    exec i s = .next (skipped i h s g l hdr j hw)

/-- R285: an instruction that reads the destination of a failed access takes that access's trap instead of its effect,
with %epc at the access and the resume point at the instruction. -/
def Claims.DeferredTrapTakenAtReader : Prop :=
  ∀ (i : Instr) (h : Head) (b : Body) (s : State) (g : Group) (l : Launch) (hdr j : Nat) (hw : Word) (d : Deferred),
    bodyOf i = some (h, b) → Issues i h s g l hdr j hw →
    ((usesIn i h g l).lanes = true ∨ g.guardHolds h = true) → dueAt g (usesIn i h g l) = some d →
    exec i s = .next ((s.setGroup { g with deferred := g.deferred.erase d }).takeTrap g.id d.fail.cause
      (BitVec.ofNat 64 d.addr) d.fail.tval (.back hdr j))

/-- R416, R65: an instruction that reads a poisoned word of its window traps with MEM_UNCORRECTABLE in place of its
effect, with %tval holding the word's local address, and the instruction is the resume point (a register read counts as
a read of its word: the model's choice, log 95). -/
def Claims.PoisonedRegisterTraps : Prop :=
  ∀ (i : Instr) (h : Head) (b : Body) (s : State) (g : Group) (l : Launch) (hdr j : Nat) (hw a : Word),
    bodyOf i = some (h, b) → Issues i h s g l hdr j hw →
    ((usesIn i h g l).lanes = true ∨ g.guardHolds h = true) → dueAt g (usesIn i h g l) = none →
    poisonedRead i h (usesIn i h g l) g = some a →
    exec i s = .next (trapped s g hdr j Cause.memUncorrectable a)

/-- An instruction that the group named by `cur` cannot issue, since the group does not exist, is not at a slot, or may
not run, changes nothing (log 1). -/
def Claims.NothingIssuesWithoutAGroup : Prop :=
  ∀ (i : Instr) (h : Head) (b : Body) (s : State), bodyOf i = some (h, b) →
    (∀ g l hdr j hw, ¬ Stands s g l hdr j hw) → exec i s = .next s

/-- R112, R133, R162: what an instruction that takes effect leaves in its own group beside that effect: one more
instruction and its distance are counted, the next core clock at which the group may issue is set, and the group stands
at the next place; nothing of memory, of the engines or of other groups follows from the counting; the core notes when it issued. -/
def Claims.IssueCountsAndMovesOn : Prop :=
  ∀ (i : Instr) (h : Head) (s s' : State) (g x : Group) (l : Launch) (hdr j : Nat) (hw : Word) (v : Sparse Lane),
    s'.group? g.id = some x →
    ∃ y, (issued i h s g l hdr j hw s' .next v).group? g.id = some y ∧
      y.issued = x.issued + 1 ∧ y.dist = x.dist + 1 + h.stall.toNat ∧ y.readyAt = s.clock + 1 + h.stall.toNat ∧
      y.last = slotAddr hdr j ∧ y.pos = nextPlace hdr j hw (encode i).length ∧ y.wait = none ∧
      y.vregs = x.vregs ∧ y.sregs = x.sregs ∧ y.preds = x.preds ∧ y.em = x.em ∧ y.live = x.live ∧ y.path = x.path ∧
      y.stack = x.stack ∧ y.fflags = x.fflags ∧ y.sig = x.sig ∧ y.cause = x.cause ∧ y.epc = x.epc ∧ y.tval = x.tval ∧
      (∀ k, k ≠ g.id → (issued i h s g l hdr j hw s' .next v).group? k = s'.group? k) ∧
      (issued i h s g l hdr j hw s' .next v).coreIssue = Sparse.set 0 s'.coreIssue g.core s'.clock ∧
      { issued i h s g l hdr j hw s' .next v with groups := s'.groups, coreIssue := s'.coreIssue } = s'

/-! ### Instructions that act lane by lane -/

/-- R9, R32, R162, R168: a lane instruction without a runner operand (class 0 and class 1, V and VI forms; `laneOf`
lists them) completes in one step: every executing lane computes from what was there before, registers or transient
values, predicates and flags are committed, and nothing else changes. -/
def Claims.LaneInstructionsComplete : Prop :=
  ∀ (i : Instr) (h : Head) (f : LaneFn) (s : State) (g : Group) (l : Launch) (hdr j : Nat) (hw : Word),
    laneOf s g i = some (h, f) → Acts i h s g l hdr j hw → (usesOf l.layouts g i).run = none →
    (usesOf l.layouts g i).pub = none → g.backlog = [] →
    exec i s = .next (issued i h s g l hdr j hw
      (s.setGroup (g.commit (usesOf l.layouts g i).tr ((g.executing h).map fun x => (x, f g g.issued x 0))).1) .next
      (g.commit (usesOf l.layouts g i).tr ((g.executing h).map fun x => (x, f g g.issued x 0))).2)

/-- R9, R24: what a commit leaves. An unmarked destination receives each executing lane's words and no other register
or lane changes; predicates change in executing lanes alone, each to what its lane computed; the flags of all lanes are
added. -/
def Claims.LaneCommitFrame : Prop :=
  ∀ (g : Group) (tr : Bool) (outs : List (Nat × LaneOut)),
    let c := (g.commit tr outs).1
    (tr = false → (∀ o ∈ outs, o.1 < 64) → ∀ o ∈ outs, ∀ w ∈ o.2.regs,
      (∀ o' ∈ outs, o'.1 = o.1 → ∀ w' ∈ o'.2.regs, w'.1 = w.1 → w'.2 = w.2) → c.fileV w.1 o.1 = w.2) ∧
    (∀ r x, (∀ o ∈ outs, o.1 = x → ∀ w ∈ o.2.regs, w.1 ≠ r) → (∀ o ∈ outs, o.1 < 64) → x < 64 →
      c.fileV r x = g.fileV r x) ∧
    (tr = true → c.vregs = g.vregs) ∧
    c.fflags = g.fflags ||| Flags.all (outs.map fun o => o.2.flags) ∧
    c.sregs = g.sregs ∧ c.em = g.em ∧ c.live = g.live ∧ c.path = g.path ∧ c.stack = g.stack ∧ c.sig = g.sig ∧
    c.cause = g.cause ∧ c.epc = g.epc ∧ c.tval = g.tval ∧ c.pos = g.pos ∧ c.id = g.id ∧
    ((∀ o ∈ outs, o.2.pred = none) → c.preds = g.preds) ∧
    (∀ p x, x < 64 → (∀ o ∈ outs, o.1 < 64) → (∀ o ∈ outs, o.1 = x → ∀ w ∈ o.2.pred, w.1 ≠ p) →
      (c.pred p).getLsbD x = (g.pred p).getLsbD x) ∧
    ((∀ o ∈ outs, o.1 < 64) → ∀ o ∈ outs, ∀ w ∈ o.2.pred,
      (∀ o' ∈ outs, o'.1 = o.1 → ∀ w' ∈ o'.2.pred, w'.1 = w.1 → w'.2 = w.2) → (c.pred w.1).getLsbD o.1 = w.2)

/-! ### Integer values (R24, R25, R26, R171 to R173) -/

/-- R25, R171: with a 32-bit integer type and no saturation, IADD, ISUB and IMUL write the wrapped sum, difference and
product of A and B to every executing lane of D. -/
def Claims.IntegerArithmetic32 : Prop :=
  ∀ (o : V2) (s : State) (g : Group) (l : Launch) (hdr j : Nat) (hw : Word), (o.t = .s32 ∨ o.t = .n32) → Plain2 o g →
    (Acts (.iadd o) o.h s g l hdr j hw → EndsIn (.iadd o) s g fun t y => OnlyGroup s t g.id ∧
      ∀ x ∈ g.executing o.h, y.fileV o.d.reg.toNat x = g.readV g.issued o.a.reg.toNat x + srcB32 g g.issued o.b x) ∧
    (Acts (.isub o) o.h s g l hdr j hw → EndsIn (.isub o) s g fun t y => OnlyGroup s t g.id ∧
      ∀ x ∈ g.executing o.h, y.fileV o.d.reg.toNat x = g.readV g.issued o.a.reg.toNat x - srcB32 g g.issued o.b x) ∧
    (Acts (.imul o) o.h s g l hdr j hw → EndsIn (.imul o) s g fun t y => OnlyGroup s t g.id ∧
      ∀ x ∈ g.executing o.h, y.fileV o.d.reg.toNat x = g.readV g.issued o.a.reg.toNat x * srcB32 g g.issued o.b x)

/-- R24, R25, R171: the same with a 64-bit integer type, on pairs of registers. -/
def Claims.IntegerArithmetic64 : Prop :=
  ∀ (o : V2) (s : State) (g : Group) (l : Launch) (hdr j : Nat) (hw : Word), (o.t = .s64 ∨ o.t = .n64) → Plain2 o g →
    (Acts (.iadd o) o.h s g l hdr j hw → EndsIn (.iadd o) s g fun t y => OnlyGroup s t g.id ∧
      ∀ x ∈ g.executing o.h, filePair y o.d.reg.toNat x = readPair g g.issued o.a.reg.toNat x + srcB64 g g.issued o.b x) ∧
    (Acts (.isub o) o.h s g l hdr j hw → EndsIn (.isub o) s g fun t y => OnlyGroup s t g.id ∧
      ∀ x ∈ g.executing o.h, filePair y o.d.reg.toNat x = readPair g g.issued o.a.reg.toNat x - srcB64 g g.issued o.b x) ∧
    (Acts (.imul o) o.h s g l hdr j hw → EndsIn (.imul o) s g fun t y => OnlyGroup s t g.id ∧
      ∀ x ∈ g.executing o.h, filePair y o.d.reg.toNat x = readPair g g.issued o.a.reg.toNat x * srcB64 g g.issued o.b x)

/-- R26: IDIV and IREM, of every integer type, operands and results read as numbers of the type. A divisor 0 gives all
ones (-1 for a signed type, the largest value of a natural one) and the dividend. Otherwise the quotient is truncated
toward zero and the remainder has the sign of the dividend, so that dividend = quotient x divisor + remainder; but the
least value of a signed type divided by -1 gives itself and remainder 0. -/
def Claims.DivisionGivesTheDividendBack : Prop :=
  ∀ (o : V2) (s : State) (g : Group) (l : Launch) (hdr j : Nat) (hw : Word), Plain2 o g →
    Acts (.idiv o) o.h s g l hdr j hw → Acts (.irem o) o.h s g l hdr j hw →
    ∃ t y t' y', exec (.idiv o) s = .next t ∧ t.group? g.id = some y ∧ exec (.irem o) s = .next t' ∧
      t'.group? g.id = some y' ∧ ∀ x ∈ g.executing o.h,
        let a := intOf o.t (readNat g g.issued o.t o.a.reg.toNat x)
        let b := intOf o.t (srcBNat g g.issued o.t o.b x)
        let q := intOf o.t (fileNat y o.t o.d.reg.toNat x)
        let r := intOf o.t (fileNat y' o.t o.d.reg.toNat x)
        let corner := o.t.signed = true ∧ a = -(2 ^ (Ty.bits o.t - 1) : Int) ∧ b = -1
        (b = 0 → q = (if o.t.signed then -1 else 2 ^ Ty.bits o.t - 1) ∧ r = a) ∧
        (corner → q = a ∧ r = 0) ∧
        (b ≠ 0 → ¬ corner → q * b + r = a ∧ r.natAbs < b.natAbs ∧ (r = 0 ∨ (r < 0 ↔ a < 0)))

/-- R172: AND, OR, XOR and ANDN act bit by bit, here on b32. -/
def Claims.BitwiseValues : Prop :=
  ∀ (o : V2) (s : State) (g : Group) (l : Launch) (hdr j : Nat) (hw : Word), o.t = .b32 → Plain2 o g →
    (Acts (.and o) o.h s g l hdr j hw → EndsIn (.and o) s g fun _ y => ∀ x ∈ g.executing o.h,
      y.fileV o.d.reg.toNat x = g.readV g.issued o.a.reg.toNat x &&& srcB32 g g.issued o.b x) ∧
    (Acts (.or o) o.h s g l hdr j hw → EndsIn (.or o) s g fun _ y => ∀ x ∈ g.executing o.h,
      y.fileV o.d.reg.toNat x = g.readV g.issued o.a.reg.toNat x ||| srcB32 g g.issued o.b x) ∧
    (Acts (.xor o) o.h s g l hdr j hw → EndsIn (.xor o) s g fun _ y => ∀ x ∈ g.executing o.h,
      y.fileV o.d.reg.toNat x = g.readV g.issued o.a.reg.toNat x ^^^ srcB32 g g.issued o.b x) ∧
    (Acts (.andn o) o.h s g l hdr j hw → EndsIn (.andn o) s g fun _ y => ∀ x ∈ g.executing o.h,
      y.fileV o.d.reg.toNat x = g.readV g.issued o.a.reg.toNat x &&& ~~~srcB32 g g.issued o.b x)

/-- R173: SHL, SHR, SAR and ROT on b32. An amount of the width or more shifts every bit out, SAR leaving copies of the
sign, and ROT takes its amount modulo the width. -/
def Claims.ShiftValues : Prop :=
  ∀ (o : V2) (s : State) (g : Group) (l : Launch) (hdr j : Nat) (hw : Word), o.t = .b32 → Plain2 o g →
    let a := fun x => g.readV g.issued o.a.reg.toNat x
    let n := fun x => (srcB32 g g.issued o.b x).toNat
    (Acts (.shl o) o.h s g l hdr j hw → EndsIn (.shl o) s g fun _ y => ∀ x ∈ g.executing o.h,
      y.fileV o.d.reg.toNat x = (a x) <<< n x) ∧
    (Acts (.shr o) o.h s g l hdr j hw → EndsIn (.shr o) s g fun _ y => ∀ x ∈ g.executing o.h,
      y.fileV o.d.reg.toNat x = (a x) >>> n x) ∧
    (Acts (.sar o) o.h s g l hdr j hw → EndsIn (.sar o) s g fun _ y => ∀ x ∈ g.executing o.h,
      y.fileV o.d.reg.toNat x = (a x).sshiftRight (n x)) ∧
    (Acts (.rot o) o.h s g l hdr j hw → EndsIn (.rot o) s g fun _ y => ∀ x ∈ g.executing o.h,
      y.fileV o.d.reg.toNat x = (a x).rotateLeft (n x))

/-- R178, R179: ISETP.lt on s32 writes `a < b` to pD in the executing lanes and leaves pD in the others; SEL.b32 then
picks A where its predicate holds and B elsewhere. -/
def Claims.CompareAndSelect : Prop :=
  (∀ (o : VCmp) (s : State) (g : Group) (l : Launch) (hdr j : Nat) (hw : Word), o.t = .s32 → o.cmp = .lt → o.a.k = 0 →
    g.backlog = [] → Acts (.isetp o) o.h s g l hdr j hw → EndsIn (.isetp o) s g fun t y => OnlyGroup s t g.id ∧
      y.vregs = g.vregs ∧ y.fflags = g.fflags ∧
      ∀ x, x < 64 → (y.pred o.p.toNat).getLsbD x =
        if x ∈ g.executing o.h then (g.readV g.issued o.a.reg.toNat x).slt (srcB32 g g.issued o.b x)
        else (g.pred o.p.toNat).getLsbD x) ∧
  (∀ (o : VSel) (s : State) (g : Group) (l : Launch) (hdr j : Nat) (hw : Word), o.t = .b32 → o.a.k = 0 →
    o.d.pub = false → o.d.tr = false → g.backlog = [] → Acts (.sel o) o.h s g l hdr j hw →
    EndsIn (.sel o) s g fun t y => OnlyGroup s t g.id ∧ ∀ x ∈ g.executing o.h, y.fileV o.d.reg.toNat x =
      if ((g.pred o.p.toNat).getLsbD x != o.inv) = true then g.readV g.issued o.a.reg.toNat x else srcB32 g g.issued o.b x)

/-- R181: MOVI writes IMM16 zero-extended to the width of its type, in one register or in a pair. -/
def Claims.MoveImmediate : Prop :=
  ∀ (o : VMovi) (s : State) (g : Group) (l : Launch) (hdr j : Nat) (hw : Word), o.d.pub = false → o.d.tr = false →
    g.backlog = [] → Acts (.movi o) o.h s g l hdr j hw → EndsIn (.movi o) s g fun t y => OnlyGroup s t g.id ∧
      ∀ x ∈ g.executing o.h,
        (o.t = .b32 → y.fileV o.d.reg.toNat x = o.imm.setWidth 32) ∧
        (o.t = .n64 → filePair y o.d.reg.toNat x = o.imm.setWidth 64)

/-- R162: a result marked `.t` is no register write. The next three instructions of the group read it in its lanes, and
later ones read the file. -/
def Claims.TransientResultIsReadForThreeInstructions : Prop :=
  ∀ (o : V2) (s : State) (g : Group) (l : Launch) (hdr j : Nat) (hw : Word), (o.t = .s32 ∨ o.t = .n32) → o.sat = false →
    o.a.k = 0 → o.d.pub = false → o.d.tr = true → g.backlog = [] → g.bypass = [] → g.aside = none →
    Acts (.iadd o) o.h s g l hdr j hw → EndsIn (.iadd o) s g fun _ y => y.vregs = g.vregs ∧
      ∀ x ∈ g.executing o.h, ∀ k, k < 64 →
        (k < 3 → y.readV (y.issued + k) o.d.reg.toNat x = g.readV g.issued o.a.reg.toNat x + srcB32 g g.issued o.b x) ∧
        (3 ≤ k → y.readV (y.issued + k) o.d.reg.toNat x = g.fileV o.d.reg.toNat x)

/-! ### Floating point and residues -/

/-- R29, R200: an operand that is a NaN makes the result of FADD, FSUB, FMUL, FDIV and FFMA the canonical NaN of the
format, with NV raised when some operand is a signalling NaN and no flag otherwise; but FFMA's product of zero and an
infinity raises NV whatever operand C holds, also a quiet NaN. -/
def Claims.NanOperandsGiveTheCanonicalNan : Prop :=
  ∀ (f : FFmt) (m : RMode) (a b c : Nat),
    ((unpack f a).isNan = true ∨ (unpack f b).isNan = true →
      let fl := Flags.when ((unpack f a).isSnan || (unpack f b).isSnan) Flags.nv
      fadd f m a b = (f.nan, fl) ∧ fsub f m a b = (f.nan, fl) ∧ fmul f m a b = (f.nan, fl) ∧ fdiv f m a b = (f.nan, fl)) ∧
    ((unpack f a).isNan = true ∨ (unpack f b).isNan = true →
      ffma f m a b c = (f.nan,
        Flags.when ((unpack f a).isSnan || (unpack f b).isSnan || (unpack f c).isSnan) Flags.nv)) ∧
    ((unpack f c).isNan = true → (unpack f a).isNan = false → (unpack f b).isNan = false →
      let zeroByInf := fun x y => ∃ n k e, unpack f x = .fin n 0 e ∧ unpack f y = .inf k
      (zeroByInf a b ∨ zeroByInf b a → ffma f m a b c = (f.nan, Flags.nv)) ∧
      (¬ (zeroByInf a b ∨ zeroByInf b a) → ffma f m a b c = (f.nan, Flags.when (unpack f c).isSnan Flags.nv)))

/-- R30, R31: what a rounding gives is one of the two neighbours of the exact value that its mode names: RTZ is the
integer part, RUP and RDN bound it, RNE is within half a unit, and the result is inexact when it differs. -/
def Claims.RoundingFollowsItsMode : Prop :=
  ∀ (mode : RMode) (neg : Bool) (m s : Nat),
    let r := quantum mode neg m (-(s : Int)) false 0
    (r.2 = false ↔ 2 ^ s ∣ m) ∧ (r.1 = m / 2 ^ s ∨ r.1 = m / 2 ^ s + 1) ∧ (r.2 = false → r.1 * 2 ^ s = m) ∧
    (mode = .rtz → r.1 = m / 2 ^ s) ∧
    (mode = .rdn → (if neg then m ≤ r.1 * 2 ^ s else r.1 * 2 ^ s ≤ m)) ∧
    (mode = .rup → (if neg then r.1 * 2 ^ s ≤ m else m ≤ r.1 * 2 ^ s)) ∧
    (mode = .rne → 2 * m ≤ 2 * (r.1 * 2 ^ s) + 2 ^ s ∧ 2 * (r.1 * 2 ^ s) ≤ 2 * m + 2 ^ s ∧
      (2 * m = 2 * (r.1 * 2 ^ s) + 2 ^ s ∨ 2 * (r.1 * 2 ^ s) = 2 * m + 2 ^ s → r.1 % 2 = 0))

/-- R46, R48, R334: reconstruction with no retired channel answers the integer whose residues it reads, for every
integer that the format holds. -/
def Claims.ReconstructionAnswersTheInteger : Prop :=
  ∀ (f : AccFmt) (x : Int), -(Rns.offset f : Int) ≤ x → x < (Rns.primary f : Int) - Rns.offset f →
    Rns.reconstruct f [] (Rns.encode x) = .valid x

/-- R334: one wrong residue, on whichever channel of the format, is found and corrected. -/
def Claims.OneWrongResidueIsCorrected : Prop :=
  ∀ (f : AccFmt) (x : Int) (j e : Nat), -(Rns.offset f : Int) ≤ x → x < (Rns.primary f : Int) - Rns.offset f →
    j ∈ Rns.channels f → e < Rns.modulus j → e ≠ Rns.encode x j →
    Rns.reconstruct f [] (fun i => if i = j then e else Rns.encode x i) = .corrected j x

/-! ### Scalar, predicate and window instructions -/

/-- R185, R186, R189, R195: the scalar instructions complete in one step, and the one effect is on their group: the result
written to sD, or to `em` within the path mask; VPUT's on its one lane; NOP none. -/
def Claims.ScalarInstructionsComplete : Prop :=
  ∀ (s : State) (g : Group) (l : Launch) (hdr j : Nat) (hw : Word),
    let done := fun (i : Instr) (h : Head) (x : Group) => exec i s = .next (issued i h s g l hdr j hw (s.setGroup x))
    (∀ o, Acts (.sadd o) o.h s g l hdr j hw → done (.sadd o) o.h (writeS g o.d (readS g o.a + readY g o.y))) ∧
    (∀ o, Acts (.ssub o) o.h s g l hdr j hw → done (.ssub o) o.h (writeS g o.d (readS g o.a - readY g o.y))) ∧
    (∀ o, Acts (.smul o) o.h s g l hdr j hw → done (.smul o) o.h (writeS g o.d (readS g o.a * readY g o.y))) ∧
    (∀ o, Acts (.sand o) o.h s g l hdr j hw → done (.sand o) o.h (writeS g o.d (readS g o.a &&& readY g o.y))) ∧
    (∀ o, Acts (.sor o) o.h s g l hdr j hw → done (.sor o) o.h (writeS g o.d (readS g o.a ||| readY g o.y))) ∧
    (∀ o, Acts (.sxor o) o.h s g l hdr j hw → done (.sxor o) o.h (writeS g o.d (readS g o.a ^^^ readY g o.y))) ∧
    (∀ o, Acts (.sshl o) o.h s g l hdr j hw → done (.sshl o) o.h (writeS g o.d (readS g o.a <<< (readY g o.y).toNat))) ∧
    (∀ o, Acts (.sshr o) o.h s g l hdr j hw → done (.sshr o) o.h (writeS g o.d
      (if o.arith then (readS g o.a).sshiftRight (readY g o.y).toNat else readS g o.a >>> (readY g o.y).toNat))) ∧
    (∀ o, Acts (.smov o) o.h s g l hdr j hw → done (.smov o) o.h (writeS g o.d (readS g o.a))) ∧
    (∀ o, Acts (.smovl o) o.h s g l hdr j hw → done (.smovl o) o.h (writeS g o.d o.lit)) ∧
    (∀ o, Acts (.vget o) o.h s g l hdr j hw → done (.vget o) o.h (writeS g o.d (vgetWord o g))) ∧
    (∀ o, Acts (.vput o) o.h s g l hdr j hw → done (.vput o) o.h (vputGroup o g)) ∧
    (∀ o, Acts (.nop o) o.h s g l hdr j hw → done (.nop o) o.h g)

/-- R158, R161, R185: a scalar result goes to the one scalar it names and is noted on the divergence path that runs; one
that goes to `em` is ANDed with the path mask; every other register of the group is unchanged. -/
def Claims.ScalarWriteFrame : Prop :=
  ∀ (g : Group) (v : Word),
    (∀ r : BitVec 6, let y := writeS g (.s r) v
      y.sreg r.toNat = v ∧ (∀ k, k ≠ r.toNat → y.sreg k = g.sreg k) ∧ y.vregs = g.vregs ∧ y.preds = g.preds ∧
      y.em = g.em ∧ y.live = g.live ∧ y.path = g.path ∧ y.fflags = g.fflags ∧ y.sig = g.sig ∧ y.cause = g.cause ∧
      y.epc = g.epc ∧ y.tval = g.tval ∧ y.pos = g.pos ∧ y.stack.length = g.stack.length ∧
      (∀ d t, g.stack = d :: t → y.stack = { d with written := insertNat d.written r.toNat } :: t)) ∧
    writeS g .em v = { g with em := v &&& g.path }

/-- R187, R188, R190: SSETP, PLOG with a predicate destination and GETS of %item and %lane act once for the group and
write each lane of `em`; PLOG with `em` as its destination takes its mask from the lanes of the path; GETS of another
special register writes it to a scalar, and with `.clr` clears %fflags. -/
def Claims.PredicateAndSpecialInstructionsComplete : Prop :=
  ∀ (s : State) (g : Group) (l : Launch) (hdr j : Nat) (hw : Word), g.backlog = [] →
    let active := g.lanes.filter fun x => g.em.getLsbD x
    let lanes := fun (i : Instr) (h : Head) (f : LaneFn) =>
      exec i s = .next (issued i h s g l hdr j hw (s.setGroup (g.commit false (active.map fun x => (x, f g g.issued x 0))).1))
    (∀ o, Acts (.ssetp o) o.h s g l hdr j hw → lanes (.ssetp o) o.h (laneSsetp o)) ∧
    (∀ o p, o.d = .p p → Acts (.plog o) o.h s g l hdr j hw → lanes (.plog o) o.h (lanePlog o p)) ∧
    (∀ o, o.d = .em → Acts (.plog o) o.h s g l hdr j hw → exec (.plog o) s = .next (issued (.plog o) o.h s g l hdr j hw
      (s.setGroup (g.setEm (maskOf g.lanes fun x => g.path.getLsbD x && plogValue o g x))))) ∧
    (∀ o, o.src = .item ∨ o.src = .lane → Acts (.gets o) o.h s g l hdr j hw → lanes (.gets o) o.h (laneGets o)) ∧
    (∀ o, o.src ≠ .item → o.src ≠ .lane → Acts (.gets o) o.h s g l hdr j hw →
      exec (.gets o) s = .next (issued (.gets o) o.h s g l hdr j hw (s.setGroup
        { g.setSreg o.d.toNat (specialOf s g o.src) with fflags := if o.clr then 0 else g.fflags })))

/-- R153, R155, R198: WGROW to a size that the group has already has no effect; to one that its team and its core have
room for, it sets the window, and the core's L1 gives up the lines that no longer fit; while the store is taken, or an
older group of the core waits for it, it waits, and a size that the team can never have traps with WINDOW. WSHRINK to a
size at or above the window has no effect, and below it drops the registers above the new window; it waits for results
under way to them, and traps with WINDOW below a register of a runner slot. -/
def Claims.WindowInstructionsComplete : Prop :=
  ∀ (o : SWin) (s : State) (g : Group) (l : Launch) (hdr j : Nat) (hw : Word),
    let n := (readY g o.n).toNat
    isWave g.id = false → badSize n = false →
    (Acts (.wgrow o) o.h s g l hdr j hw → n ≤ g.n →
      exec (.wgrow o) s = .next (issued (.wgrow o) o.h s g l hdr j hw (s.setGroup g))) ∧
    (Acts (.wgrow o) o.h s g l hdr j hw → g.n < n → storeFits (s.teamSizes g n) l.scratchSize l.pair = true →
      s.growFits g n = true → s.olderBlocked g = false →
      exec (.wgrow o) s = .next (issued (.wgrow o) o.h s g l hdr j hw
        (((s.onGroup g.id fun x => { x with n := n }).fitL1 g.core).setGroup { g with n := n }))) ∧
    (Acts (.wgrow o) o.h s g l hdr j hw → g.n < n → storeFits (s.teamSizes g n) l.scratchSize l.pair = true →
      s.growFits g n = false ∨ s.olderBlocked g = true → exec (.wgrow o) s = .next (waiting s g (.store n))) ∧
    (Acts (.wgrow o) o.h s g l hdr j hw → g.n < n → storeFits (s.teamSizes g n) l.scratchSize l.pair = false →
      exec (.wgrow o) s = .next (trapped s g hdr j Cause.window (readY g o.n))) ∧
    (Acts (.wshrink o) o.h s g l hdr j hw → n < g.n →
      (l.runner && (List.range l.nslot).any fun k => decide (n ≤ l.rreg k)) = true →
      exec (.wshrink o) s = .next (trapped s g hdr j Cause.window (readY g o.n))) ∧
    (Acts (.wshrink o) o.h s g l hdr j hw → n < g.n →
      (l.runner && (List.range l.nslot).any fun k => decide (n ≤ l.rreg k)) = false →
      (g.pend.any fun p => p.vregs.any fun r => decide (n ≤ r)) = true →
      exec (.wshrink o) s = .next (waiting s g .result)) ∧
    (Acts (.wshrink o) o.h s g l hdr j hw → g.n ≤ n →
      exec (.wshrink o) s = .next (issued (.wshrink o) o.h s g l hdr j hw (s.setGroup g))) ∧
    (Acts (.wshrink o) o.h s g l hdr j hw → n < g.n →
      (l.runner && (List.range l.nslot).any fun k => decide (n ≤ l.rreg k)) = false →
      (g.pend.any fun p => p.vregs.any fun r => decide (n ≤ r)) = false →
      EndsIn (.wshrink o) s g fun t y => OnlyGroup s t g.id ∧ y.n = n ∧
        (∀ r x, x < 64 → r < n → y.fileV r x = g.fileV r x) ∧ (∀ r x, x < 64 → n ≤ r → y.fileV r x = 0) ∧
        y.sregs = g.sregs ∧ y.preds = g.preds)

/-- R198: WGROW and WSHRINK with a size that is not a multiple of 4 from 4 to 256 trap with WINDOW, %tval holding it, and
so does either one in a combiner wave. -/
def Claims.BadWindowSizeTraps : Prop :=
  ∀ (o : SWin) (s : State) (g : Group) (l : Launch) (hdr j : Nat) (hw : Word),
    isWave g.id = true ∨ badSize (readY g o.n).toNat = true →
    (Acts (.wgrow o) o.h s g l hdr j hw → exec (.wgrow o) s = .next (trapped s g hdr j Cause.window (readY g o.n))) ∧
    (Acts (.wshrink o) o.h s g l hdr j hw → exec (.wshrink o) s = .next (trapped s g hdr j Cause.window (readY g o.n)))

/-- R224 to R228, R235: a lane instruction with a runner operand, a published destination or lanes that are behind acts
lane by lane in increasing order: each lane reads its value, computes and publishes, or is queued with every lane above
it (that the lanes above go with it is the model's choice, log 13); PUB publishes without writing. It completes when some
lane is done or none is queued. -/
def Claims.RunnerInstructionsComplete : Prop :=
  ∀ (i : Instr) (h : Head) (f : LaneFn) (s : State) (g : Group) (l : Launch) (hdr j : Nat) (hw : Word) (r : LaneRun),
    (laneOf s g i = some (h, f) ∨ ∃ o, i = .pub o ∧ h = o.h ∧ f = lanePub o) → Acts i h s g l hdr j hw →
    ((usesOf l.layouts g i).run.isNone && (usesOf l.layouts g i).pub.isNone && g.backlog.isEmpty) = false →
    readLimit l g h (usesOf l.layouts g i) = false →
    g.emLanes.foldl (runLane l g h (usesOf l.layouts g i) f) (.ok ⟨s, [], []⟩) = .ok r →
    (r.queued ≠ g.emLanes ∨ r.queued = []) →
    let c := ((r.s.group? g.id).getD g).commit (usesOf l.layouts g i).tr r.outs
    exec i s = .next (issued i h s g l hdr j hw
      (r.s.setGroup (c.1.enqueue (slotAddr hdr j) (encode i) r.queued)) .next c.2)

/-- R225, R226, R227: PUB of one executing lane whose publish stays in its group makes the slot's next publish with the
register's value; it writes no register. -/
def Claims.PubPublishesTheRegister : Prop :=
  ∀ (o : CPub) (s : State) (g : Group) (l : Launch) (hdr j : Nat) (hw : Word) (lane slot : Nat),
    Acts (.pub o) o.h s g l hdr j hw → g.executing o.h = [lane] → g.backlog = [] → slotFor l g o.d.toNat = some slot →
    l.lid = lidOf g.id →
    Sparse.get 0 g.pubs (pubKey lane slot) + 1 < 2 ^ 32 → s.routeOf l g lane slot g.spillOk = .here →
    EndsIn (.pub o) s g fun t y => y.vregs = g.vregs ∧ y.sregs = g.sregs ∧ y.preds = g.preds ∧
      Sparse.get 0 y.pubs (pubKey lane slot) = Sparse.get 0 g.pubs (pubKey lane slot) + 1 ∧
      ∃ l', t.launch? l.lid = some l' ∧ l'.publishes = l.publishes ++
        [⟨g.item lane, slot, Sparse.get 0 g.pubs (pubKey lane slot) + 1, g.readV g.issued o.d.toNat lane, false, false⟩]

/-! ### Control transfer, divergence and exits -/

/-- R192: the transfers complete and go where the manual says, from the header of their own clause: BRA and CALL to a
label, CALL and RET to a register, BRI into its table or past it, LOOP back while its counter is not 0. CALL writes the
link and LOOP the counter; nothing else of the group changes. -/
def Claims.TransfersComplete : Prop :=
  ∀ (s : State) (g : Group) (l : Launch) (hdr j : Nat) (hw : Word),
    let next := hdr + 8 * (((Header.ofWord hw).map Header.slots).getD 0 + 1)
    let at_ := fun (k : Int) => targetOf hdr k
    let done := fun (i : Instr) (h : Head) (x : Group) (c : Ctl) =>
      exec i s = .next (issued i h s g l hdr j hw (s.setGroup x) c)
    (∀ o, Acts (.bra o) o.h s g l hdr j hw → done (.bra o) o.h g (.goto (at_ o.tgt.toInt))) ∧
    (∀ o t, o.dest = .label t → Acts (.call o) o.h s g l hdr j hw →
      done (.call o) o.h (g.setSreg o.link.toNat (BitVec.ofNat 64 next)) (.goto (at_ t.toInt))) ∧
    (∀ o t, o.dest = .reg t → Acts (.call o) o.h s g l hdr j hw →
      done (.call o) o.h (g.setSreg o.link.toNat (BitVec.ofNat 64 next)) (.goto (g.sreg t.toNat).toNat)) ∧
    (∀ o, Acts (.ret o) o.h s g l hdr j hw → done (.ret o) o.h g (.goto (g.sreg o.s.toNat).toNat)) ∧
    (∀ o, Acts (.bri o) o.h s g l hdr j hw → (g.sreg o.s.toNat).toNat < o.n.toNat →
      done (.bri o) o.h g (.goto (at_ (o.tgt.toInt + 2 * (g.sreg o.s.toNat).toNat)))) ∧
    (∀ o, Acts (.bri o) o.h s g l hdr j hw → o.n.toNat ≤ (g.sreg o.s.toNat).toNat → done (.bri o) o.h g .clause) ∧
    (∀ o, Acts (.loop o) o.h s g l hdr j hw → g.sreg o.s.toNat ≠ 1 →
      done (.loop o) o.h (g.setSreg o.s.toNat (g.sreg o.s.toNat - 1)) (.goto (at_ o.tgt.toInt))) ∧
    (∀ o, Acts (.loop o) o.h s g l hdr j hw → g.sreg o.s.toNat = 1 → done (.loop o) o.h (g.setSreg o.s.toNat 0) .clause)

/-- R159, R161: BRD with fewer than 16 entries pushes one, with E, T, the scalars and %sig as they are, no scalar written
yet, and whether the lowest lane of E is in F; the lanes of F go on at the next clause, or, when there are none, those of
T at the target. With 16 entries it traps with DIVERGENCE_DEPTH. -/
def Claims.BrdForks : Prop :=
  ∀ (o : CBrd) (s : State) (g : Group) (l : Launch) (hdr j : Nat) (hw : Word), Acts (.brd o) o.h s g l hdr j hw →
    (16 ≤ g.stack.length → exec (.brd o) s = .next (trapped s g hdr j Cause.divergenceDepth
      (BitVec.ofNat 64 (targetOf hdr o.join.toInt)))) ∧
    (g.stack.length < 16 → g.scalarsPending = false →
      let cond := if g.guardHolds o.h then (if o.inv then ~~~(g.pred o.p.toNat) else g.pred o.p.toNat) else 0
      let t := g.em &&& cond
      let f := g.em &&& ~~~cond
      ∃ d, d.e = g.em ∧ d.t = t ∧ d.join = targetOf hdr o.join.toInt ∧ d.target = targetOf hdr o.tgt.toInt ∧
        d.snap = g.sregs ∧ d.sig0 = g.sig ∧ d.written = [] ∧ d.wF = [] ∧
        (d.lowF = true ↔ ∃ x ∈ g.lanes, f.getLsbD x = true ∧ ∀ k, k < x → g.em.getLsbD k = false) ∧
        (f ≠ 0 → d.taken = false ∧ exec (.brd o) s = .next (issued (.brd o) o.h s g l hdr j hw
          (s.setGroup { g with stack := d :: g.stack, em := f, path := f }) .clause)) ∧
        (f = 0 → d.taken = true ∧ exec (.brd o) s = .next (issued (.brd o) o.h s g l hdr j hw
          (s.setGroup { g with stack := d :: g.stack, em := t, path := t }) (.goto (targetOf hdr o.tgt.toInt)))))

/-- R159, R161, R165: JOIN at the top entry's join point. At the end of a fall-through path whose T is not empty, the
taken path starts with the scalars and %sig of the BRD. Otherwise the entry merges: `em` and the path mask are E, %sig is
the BRD's folded with the join address, the entry is popped, and the group goes on after the JOIN. A JOIN elsewhere traps
with ILLEGAL, %tval being the top entry's join address or 0. -/
def Claims.JoinMergesOrSwitchesPath : Prop :=
  ∀ (o : Bare) (s : State) (g : Group) (l : Launch) (hdr j : Nat) (hw : Word), Acts (.join o) o.h s g l hdr j hw →
    (g.stack = [] → exec (.join o) s = .next (trapped s g hdr j Cause.illegal 0)) ∧
    (∀ d rest, g.stack = d :: rest → d.join ≠ slotAddr hdr j →
      exec (.join o) s = .next (trapped s g hdr j Cause.illegal (BitVec.ofNat 64 d.join))) ∧
    (∀ d rest, g.stack = d :: rest → d.join = slotAddr hdr j → g.scalarsPending = false → g.backlog = [] →
      (d.taken = false → d.t ≠ 0 → ∃ d', exec (.join o) s = .next (issued (.join o) o.h s g l hdr j hw
          (s.setGroup { g with sregs := d.snap, sig := d.sig0, em := d.t, path := d.t, stack := d' :: rest })
          (.goto d.target)) ∧ d'.taken = true ∧ d'.sF = g.sregs ∧ d'.wF = d.written ∧ d'.e = d.e ∧ d'.t = d.t ∧
          d'.join = d.join ∧ d'.sig0 = d.sig0 ∧ d'.lowF = d.lowF) ∧
      (d.taken = true ∨ d.t = 0 → exec (.join o) s = .next (issued (.join o) o.h s g l hdr j hw
          (s.setGroup (g.merge d rest)) .clause) ∧ (g.merge d rest).em = d.e ∧ (g.merge d rest).path = d.e ∧
          (g.merge d rest).sig = Crc.word d.sig0 (BitVec.ofNat 64 d.join) ∧
          (g.merge d rest).stack.length = rest.length))

/-- R161: the scalars after a merge: one that only the fall-through path wrote, or that both wrote when the
fall-through path held the lowest lane, is the fall-through path's; every other one is as the running path left it. -/
def Claims.MergedScalars : Prop :=
  ∀ (g : Group) (d : DivEntry) (rest : List DivEntry) (r : Nat), r < 64 → d.taken = true →
    (g.merge d rest).sreg r =
      if r ∈ d.wF ∧ (r ∉ d.written ∨ d.lowF = true) then Sparse.get 0 d.sF r else g.sreg r

/-- R194: an EXIT that leaves lanes in `em` or selects none, in a launch without a runner and with no failed access of
the group under way or unreported, takes the selected lanes out of every mask and goes on at the next clause; one that
takes the last live lane ends the group; one whose path ends goes on by R160. -/
def Claims.ExitCompletes : Prop :=
  ∀ (o : CExit) (s : State) (g : Group) (l : Launch) (hdr j : Nat) (hw : Word), Acts (.exit o) o.h s g l hdr j hw →
    l.runner = false → isWave g.id = false → g.backlog = [] → g.deferred = [] → g.failing = false → g.scalarsPending = false →
    let m := maskOf (exitLanes o g) fun _ => true
    (g.live &&& ~~~m ≠ 0 → g.em &&& ~~~m ≠ 0 ∨ exitLanes o g = [] →
      exec (.exit o) s = .next (issued (.exit o) o.h s g l hdr j hw (s.setGroup (g.dropLanes m)) .clause)) ∧
    (g.live &&& ~~~m = 0 → exec (.exit o) s = .next (issued (.exit o) o.h s g l hdr j hw
      (s.setGroup (g.dropLanes m).ended) .done)) ∧
    (g.live &&& ~~~m ≠ 0 → g.em &&& ~~~m = 0 → exitLanes o g ≠ [] →
      exec (.exit o) s = .next (issued (.exit o) o.h s g l hdr j hw
        (s.setGroup { ((g.dropLanes m).endPath 17).1 with active := false, since := s.clock })
        (.goto ((g.dropLanes m).endPath 17).2)))

/-- R158, R194: lanes that have been taken out are in no mask of the group, nor in one of its divergence entries, and no
result under way has a value for them; every other lane stays where it was. -/
def Claims.ExitedLanesLeaveEveryMask : Prop :=
  ∀ (g : Group) (m : Mask), let y := g.dropLanes m
    (y.live &&& m = 0 ∧ y.em &&& m = 0 ∧ y.path &&& m = 0 ∧ ∀ d ∈ y.stack, d.e &&& m = 0 ∧ d.t &&& m = 0) ∧
    (∀ x, m.getLsbD x = false → y.live.getLsbD x = g.live.getLsbD x ∧ y.em.getLsbD x = g.em.getLsbD x ∧
      y.path.getLsbD x = g.path.getLsbD x) ∧
    (∀ p ∈ y.pend, ∀ v ∈ p.vals, m.getLsbD (v.1 % 64) = false) ∧ y.pend.length = g.pend.length ∧
    y.vregs = g.vregs ∧ y.sregs = g.sregs ∧ y.preds = g.preds

/-- R166, R115: SIGCHK that matches sets %sig to zero; one that does not traps with SIGNATURE, %sig in the low half of
%tval and the immediate in the high half, and %sig is set aside unchanged. With a guard that fails it only counts as
issued, and control goes on. -/
def Claims.SignatureCheck : Prop :=
  ∀ (o : CSig) (s : State) (g : Group) (l : Launch) (hdr j : Nat) (hw : Word),
    (Acts (.sigchk o) o.h s g l hdr j hw →
      (g.sig = o.imm →
        exec (.sigchk o) s = .next (issued (.sigchk o) o.h s g l hdr j hw (s.setGroup { g with sig := 0 }))) ∧
      (g.sig ≠ o.imm → exec (.sigchk o) s = .next (trapped s g hdr j Cause.signature (o.imm ++ g.sig)) ∧
        (g.aside = none → isWave g.id = false → l.trapOfs ≠ 0 →
          ∃ y a, (trapped s g hdr j Cause.signature (o.imm ++ g.sig)).group? g.id = some y ∧ y.aside = some a ∧
            a.sig = g.sig ∧ y.cause = BitVec.ofNat 64 Cause.signature ∧ y.tval = o.imm ++ g.sig))) ∧
    (Issues (.sigchk o) o.h s g l hdr j hw → g.guardHolds o.h = false →
      exec (.sigchk o) s = .next (skipped (.sigchk o) o.h s g l hdr j hw))

/-- R163, R195, R196: YIELD leaves the active set and goes on at the next clause. SAFE outside the reach of a transient
write stops the group after it when a stop is pending and its guard holds, and has no effect otherwise; within three
instructions of a transient write it traps with TRANSIENT_WINDOW. -/
def Claims.YieldAndSafe : Prop :=
  ∀ (s : State) (g : Group) (l : Launch) (hdr j : Nat) (hw : Word),
    (∀ o, Acts (.yield o) o.h s g l hdr j hw → exec (.yield o) s = .next (issued (.yield o) o.h s g l hdr j hw
      (s.setGroup { g with active := false, since := s.clock }) .clause)) ∧
    (∀ o, Acts (.safe o) o.h s g l hdr j hw → (∀ b ∈ g.bypass, b.marked = true → b.idx + 3 < g.issued) →
      (g.stopAt = none ∨ g.guardHolds o.h = false →
        exec (.safe o) s = .next (issued (.safe o) o.h s g l hdr j hw (s.setGroup g))) ∧
      (g.stopAt ≠ none → g.guardHolds o.h = true →
        exec (.safe o) s = .next (issued (.safe o) o.h s g l hdr j hw
          (s.setGroup { g with stopped := true, safe := some (o.vmask, o.smask), active := false })
          (.at_ (nextPlace hdr j hw 3).resume)))) ∧
    (∀ o b, Acts (.safe o) o.h s g l hdr j hw → b ∈ g.bypass → b.marked = true → g.issued ≤ b.idx + 3 →
      ∃ b' ∈ g.bypass, b'.marked = true ∧ g.issued ≤ b'.idx + 3 ∧
        exec (.safe o) s = .next (trapped s g hdr j Cause.transientWindow (BitVec.ofNat 64 b'.addr)))

/-! ### Memory -/

/-- R4, R242: bytes written to the part's memory are the bytes read back, low address first, and no other byte changes. -/
def Claims.MemoryHoldsWhatIsWritten : Prop :=
  ∀ (s : State) (pa : Nat) (bs : List Byte),
    (s.memWrite pa bs).memRead pa bs.length = bs ∧
    (∀ a, (a < pa ∨ pa + bs.length ≤ a) → (s.memWrite pa bs).memGet a = s.memGet a) ∧
    { s.memWrite pa bs with mem := s.mem } = s

/-- R240: bytes stored into a core's L1 are what that core sees; what other cores see, and memory below L1, stay. -/
def Claims.L1HoldsWhatItsCoreStores : Prop :=
  ∀ (s : State) (core pa : Nat) (obj : Bool) (bs : List Byte),
    let t := s.l1Write core pa obj bs
    (∀ k, k < bs.length → t.l1Get core (pa + k) = bs.getD k 0) ∧
    (∀ a, (a < pa ∨ pa + bs.length ≤ a) → t.l1Get core a = s.l1Get core a) ∧
    (∀ c a, c ≠ core → t.l1Get c a = s.l1Get c a) ∧ t.mem = s.mem

/-- R247: a release writes a core's data back: below L1 every byte that the core had written is then what the core saw, and
every other byte is as it was; the core sees what it saw, and no dirty byte is left in its L1. An acquire after it lets go
of every copy, so that the core sees memory. -/
def Claims.ReleaseWritesBackAndAcquireLetsGo : Prop :=
  ∀ (s : State) (core : Nat), Safe s →
    (∀ a, (∃ c, Sparse.get none (s.l1Of core) a = some c ∧ c.dirty = true) →
      (s.release core).memGet a = s.l1Get core a) ∧
    (∀ a, (∀ c, Sparse.get none (s.l1Of core) a = some c → c.dirty = false) → (s.release core).memGet a = s.memGet a) ∧
    (∀ a, (s.release core).l1Get core a = s.l1Get core a) ∧
    (∀ a c, Sparse.get none ((s.release core).l1Of core) a = some c → c.dirty = false) ∧
    (∀ a, ((s.release core).acquire core).l1Get core a = (s.release core).memGet a)

/-- R270, R271: LD and LDS without a record, when no check of R268 fails, complete: with no executing lane nothing is
read; otherwise each lane's bytes are read in increasing lane order and the extended values are under way to D, with the
HBM4 channels and the peer on which they wait; data that are uncorrectable make the load's trap a deferred one. An LDS of
window registers has no result under way to them. -/
def Claims.PlainLoadsComplete : Prop :=
  ∀ (s : State) (g : Group) (l : Launch) (hdr j : Nat) (hw : Word), g.backlog = [] →
    let sent := fun (i : Instr) (h : Head) (t : Ty) (pol : Pol) (d : BitVec 8) (loc : Bool) (acc : List Access) =>
      let chans := s.accessChans g loc pol false acc
      let peer := s.peerAccess g loc pol false acc
      (acc = [] → exec i s = .next (issued i h s g l hdr j hw s)) ∧
      (∀ s' r, acc ≠ [] → s.readAll g loc pol false acc = (s', .ok r) → exec i s = .next (issued i h s g l hdr j hw
        (s'.addPend g .load (regsOf t.wide d.toNat) []
          (r.flatMap fun x => regVals t.wide d.toNat x.1.lane (extend t x.2)) [] 0 none chans peer))) ∧
      (∀ s' va, s.readAll g loc pol false acc = (s', .error va) → exec i s = .next (issued i h s g l hdr j hw
        (s'.addPend g .load (regsOf t.wide d.toNat) [] [] [] 0 (some (badData va)) chans peer)))
    (∀ o m, o.addr = .plain m → Acts (.ld o) o.h s g l hdr j hw →
      let acc := plainAccesses g (g.executing o.h) m (Ty_bytes o.t)
      s.checkGlobal g.core .read acc = none → sent (.ld o) o.h o.t o.pol o.d false acc) ∧
    (∀ o m, o.addr = .plain m → Acts (.lds o) o.h s g l hdr j hw →
      let acc := plainAccesses g (g.executing o.h) m (Ty_bytes o.t)
      checkAll s g true .read acc = none → s.windowPending g true acc = false → sent (.lds o) o.h o.t .dflt o.d true acc)

/-- R242, R270, R271, R279: ST and STS without a record, when no check of R268 fails, complete: the lanes' values are
written in increasing lane order, and a global store is counted until it is acknowledged. An STS to window registers has
no result under way to them. -/
def Claims.PlainStoresComplete : Prop :=
  ∀ (s : State) (g : Group) (l : Launch) (hdr j : Nat) (hw : Word), g.backlog = [] →
    (∀ o m, o.addr = .plain m → Acts (.st o) o.h s g l hdr j hw →
      let acc := plainAccesses g (g.executing o.h) m (Ty_bytes o.t)
      let s1 := s.writeLanes g false o.pol (acc.map fun a => (a, readReg g g.issued o.t.wide o.d.toNat a.lane))
      s.checkGlobal g.core .write acc = none →
      (acc = [] → exec (.st o) s = .next (issued (.st o) o.h s g l hdr j hw (s.onGroup g.id fun x => x.raise 0))) ∧
      (acc ≠ [] → exec (.st o) s = .next (issued (.st o) o.h s g l hdr j hw
        ((((s1.clearCovered (s.homeBytes g o.pol acc)).l1Heal g.core
          (acc.flatMap fun a => State.span (s.physOf g.core a.addr).1 a.len)).addAcks g acc
          (s.accessChans g false o.pol false acc)).onGroup g.id fun x => x.raise 0)))) ∧
    (∀ o m, o.addr = .plain m → Acts (.sts o) o.h s g l hdr j hw →
      let acc := plainAccesses g (g.executing o.h) m (Ty_bytes o.t)
      s.checkLocal g.id acc = none → s.windowPending g true acc = false → exec (.sts o) s = .next (issued (.sts o) o.h s g l hdr j hw
        (((s.writeLanes g true .dflt (acc.map fun a => (a, readReg g g.issued o.t.wide o.d.toNat a.lane))).healLocal g.id
          (acc.flatMap fun a => State.span a.addr a.len)).onGroup g.id fun x => x.raise 0)))

/-- R272 to R275: LD, ST, LDS and STS through a layout record that suits them complete: a load brings every executing lane
its element's value, or the pad's where an index is out of range; a store writes the elements that are in range and no
other byte. -/
def Claims.RecordAccessesComplete : Prop :=
  ∀ (s : State) (g : Group) (l : Launch) (hdr j : Nat) (hw : Word) (lay sb : BitVec 6) (vx : BitVec 8), g.backlog = [] →
    let r := l.layouts.getD lay.toNat 0
    let base := (g.sreg sb.toNat).toNat
    let b := g.podBook s (BitVec.ofNat 2 (Rec.book r))
    let load := fun (i : Instr) (h : Head) (t : Ty) (pol : Pol) (d : BitVec 8) (loc : Bool) =>
      let parts := (g.executing h).map fun x => (x, recLane r g base sb.toNat vx.toNat x)
      let acc := parts.flatMap fun p => recReads r base p.1 p.2
      recBad r t sb.toNat false = false → checkAll s g loc .read acc (planeMisaligned r base acc) = none →
      s.windowPending g loc acc = false → parts ≠ [] → ∀ s' xs, s.readAll g loc pol true acc = (s', .ok xs) →
      let outs := (splitReads (parts.map fun p => (p.1, p.2, (recReads r base p.1 p.2).length)) (xs.map (·.2))).map
        fun x => (x.1, recLoaded r b t x.2.1 x.2.2)
      exec i s = .next (issued i h s g l hdr j hw (s'.addPend g .load (regsOf t.wide d.toNat) []
        (outs.flatMap fun o => regVals t.wide d.toNat o.1 o.2.1) [] (Flags.all (outs.map fun o => o.2.2)) none
        (s.accessChans g loc pol true acc) (s.peerAccess g loc pol true acc)))
    let store := fun (i : Instr) (h : Head) (t : Ty) (pol : Pol) (d : BitVec 8) (loc : Bool) =>
      let parts := (g.executing h).filterMap fun x => match recLane r g base sb.toNat vx.toNat x with
        | .element a bit ix => some (a, bit, storeAs t (Rec.enc r) b (ix.getD 2 0) (readReg g g.issued t.wide d.toNat x))
        | .pad .. => none
      let acc := parts.map (·.1)
      let w := if Rec.kind r = 3 then 8 else Rec.width (Rec.enc r)
      let s0 := parts.foldl (fun s p => recStoreLane g loc pol s (p.1, p.2.1, w, p.2.2.1)) s
      let s1 := if w = 4 && !loc && acc.any fun a => s.isPeer (s.physOf g.core a.addr).1 then s0.drawn else s0
      recBad r t sb.toNat true = false → (Rec.enc r = 13 → b.ordered = true) →
      checkAll s g loc .write acc (planeMisaligned r base acc) = none → s.windowPending g loc acc = false →
      exec i s = .next (issued i h s g l hdr j hw
        ((afterStore s s1 g loc pol true acc (wholeBytes w (parts.map fun p => (p.1, p.2.1)))).onGroup g.id
          fun x => x.raise (Flags.all (parts.map fun p => p.2.2.2))))
    (∀ o, o.addr = .record lay sb vx → Acts (.ld o) o.h s g l hdr j hw → load (.ld o) o.h o.t o.pol o.d false) ∧
    (∀ o, o.addr = .record lay sb vx → Acts (.lds o) o.h s g l hdr j hw → load (.lds o) o.h o.t .dflt o.d true) ∧
    (∀ o, o.addr = .record lay sb vx → Acts (.st o) o.h s g l hdr j hw → store (.st o) o.h o.t o.pol o.d false) ∧
    (∀ o, o.addr = .record lay sb vx → Acts (.sts o) o.h s g l hdr j hw → store (.sts o) o.h o.t .dflt o.d true)

/-- R268: a load or a store without a record that the checks of its lanes' addresses refuse has no other effect than the
trap that they name, with the refused address in %tval, or the instruction word where it names no memory, or the wait
for page walks. -/
def Claims.RefusedAccessHasNoEffect : Prop :=
  ∀ (s : State) (g : Group) (l : Launch) (hdr j : Nat) (hw : Word) (e : Refused), g.backlog = [] →
    let out := fun (i : Instr) => match e with
      | .trap c va => trapped s g hdr j c (BitVec.ofNat 64 va)
      | .noMemory => trapped s g hdr j Cause.protection ((encode i).headD 0)
      | .walk vas w => waiting s g (.walk vas false w)
    (∀ o m, o.addr = .plain m → Acts (.ld o) o.h s g l hdr j hw →
      s.checkGlobal g.core .read (plainAccesses g (g.executing o.h) m (Ty_bytes o.t)) = some e →
      exec (.ld o) s = .next (out (.ld o))) ∧
    (∀ o m, o.addr = .plain m → Acts (.st o) o.h s g l hdr j hw →
      s.checkGlobal g.core .write (plainAccesses g (g.executing o.h) m (Ty_bytes o.t)) = some e →
      exec (.st o) s = .next (out (.st o))) ∧
    (∀ o m, o.addr = .plain m → Acts (.lds o) o.h s g l hdr j hw →
      checkAll s g true .read (plainAccesses g (g.executing o.h) m (Ty_bytes o.t)) = some e →
      exec (.lds o) s = .next (out (.lds o))) ∧
    (∀ o m, o.addr = .plain m → Acts (.sts o) o.h s g l hdr j hw →
      s.checkLocal g.id (plainAccesses g (g.executing o.h) m (Ty_bytes o.t)) = some e →
      exec (.sts o) s = .next (out (.sts o)))

/-- What an access leaves of a byte that it does not store: memory below L1 is unchanged, or holds what the core had
written to that byte; the core sees the byte as before, or, when its L1 gave up a clean copy that had gone stale (R240,
R243), as memory had it. -/
abbrev Claims.ByteKept (s t : State) (core a : Nat) : Prop :=
  (t.memGet a = s.memGet a ∨ t.memGet a = s.l1Get core a) ∧
  (t.l1Get core a = s.l1Get core a ∨ t.l1Get core a = s.memGet a) ∧
  ((∀ c, Sparse.get none (s.l1Of core) a = some c → c.dirty = false → c.val = s.memGet a) →
    t.l1Get core a = s.l1Get core a)

/-- A store's frame (R270, R243): whatever ST without a record comes to, every byte outside the bytes that its executing
lanes address is kept, and no register of any group changes. -/
def Claims.StoreFrame : Prop :=
  ∀ (o : MAcc) (m : MPlain) (s t : State) (g : Group) (l : Launch) (hdr j : Nat) (hw : Word), Safe s → g.backlog = [] →
    o.addr = .plain m → Stands s g l hdr j hw → exec (.st o) s = .next t →
    (∀ a, (∀ x ∈ g.executing o.h, let pa := (s.physOf g.core (plainAddr g g.issued m (Ty_bytes o.t) x)).1
        a < pa ∨ pa + Ty_bytes o.t ≤ a) → Claims.ByteKept s t g.core a) ∧
    (∀ k x y, s.group? k = some x → t.group? k = some y → y.vregs = x.vregs ∧ y.sregs = x.sregs ∧ y.preds = x.preds)

/-- A load's frame (R270, R136, R243): whatever LD comes to, every byte of the part's own memory is kept, and no register
of any group changes before its data arrive. -/
def Claims.LoadFrame : Prop :=
  ∀ (o : MAcc) (s t : State) (g : Group) (l : Launch) (hdr j : Nat) (hw : Word), Safe s → g.backlog = [] →
    Stands s g l hdr j hw → exec (.ld o) s = .next t →
    (∀ a, s.isPeer a = false → Claims.ByteKept s t g.core a) ∧
    (∀ k x y, s.group? k = some x → t.group? k = some y → y.vregs = x.vregs ∧ y.sregs = x.sregs ∧ y.preds = x.preds)

/-- R276 to R278, R285: ATOM and RED complete. Each executing lane's operation is performed in increasing lane order; ATOM's
old values are under way to D, and RED on global memory is counted until it is acknowledged. Data that are uncorrectable
make the trap a deferred one, and no lane's operation is performed. -/
def Claims.AtomicsComplete : Prop :=
  ∀ (o : MAtom) (s s' : State) (g : Group) (l : Launch) (hdr j : Nat) (hw : Word), g.backlog = [] →
    let acc := plainAccesses g (g.executing o.h) o.addr (atomWidth o.op)
    checkAll s g o.loc .both acc = none → s.windowPending g o.loc acc = false →
    (Acts (.atom o) o.h s g l hdr j hw →
      let chans := s.accessChans g o.loc .bypass false acc
      let peer := s.peerAccess g o.loc .bypass false acc
      (acc = [] → exec (.atom o) s = .next (issued (.atom o) o.h s g l hdr j hw s)) ∧
      (acc ≠ [] → atomFails s g o.loc acc = (s', none) →
        let r := atomLanes g o.op o.loc o.d.toNat acc s'
        exec (.atom o) s = .next (issued (.atom o) o.h s g l hdr j hw (r.1.addPend g .atomic (atomRegs o.d o.op).2 []
          (r.2.flatMap fun x => regVals (atomWidth o.op == 8) o.d.toNat x.1 x.2) [] 0 none chans peer))) ∧
      (∀ va, atomFails s g o.loc acc = (s', some va) →
        exec (.atom o) s = .next (issued (.atom o) o.h s g l hdr j hw
          (s'.addPend g .atomic (atomRegs o.d o.op).2 [] [] [] 0 (some (badData va)) chans peer)))) ∧
    (Acts (.red o) o.h s g l hdr j hw →
      let own := acc.filter fun a => o.loc || !s.isPeer (s.physOf g.core a.addr).1
      (acc = [] → exec (.red o) s = .next (issued (.red o) o.h s g l hdr j hw s)) ∧
      let chans := s.accessChans g o.loc .bypass false own
      (acc ≠ [] → atomFails s g o.loc own = (s', none) →
        let r := atomLanes g o.op o.loc o.d.toNat own s'
        exec (.red o) s = .next (issued (.red o) o.h s g l hdr j hw (if o.loc then r.1 else r.1.addAcks g acc chans))) ∧
      (∀ va, atomFails s g o.loc own = (s', some va) →
        exec (.red o) s = .next (issued (.red o) o.h s g l hdr j hw (s'.addPend g .atomic [] [] [] [] 0
          (some (badData va)) chans (s.peerAccess g o.loc .bypass false own)))))

/-- R276: an atomic on clean memory of the part returns the old value, and memory then holds the operation's new value in
its width and is otherwise as before. -/
def Claims.AtomicValues : Prop :=
  ∀ (s : State) (pa v v2 : Nat) (op : AtomOp) (obj : Bool), s.poisonedSpan pa (atomWidth op) = false →
    let old := ofBytes (s.memRead pa (atomWidth op))
    let r := s.atomicAt pa op v v2 obj
    r.2 = some old ∧ ofBytes (r.1.memRead pa (atomWidth op)) = atomNew op old v v2 % 2 ^ (8 * atomWidth op) ∧
    (∀ a, (a < pa ∨ pa + atomWidth op ≤ a) → r.1.memGet a = s.memGet a) ∧
    (∀ t, op = .add t → atomNew op old v v2 = (old + v) % 2 ^ (Ty.bits t)) ∧
    (∀ w, op = .exch w → atomNew op old v v2 = v) ∧
    (∀ w, op = .cas w → atomNew op old v v2 = if old = v then v2 else old)

/-- R247, R248, R279, R421: FENCE with no executing lane, or of group scope, has no effect; a release with no write of the
group unacknowledged, no data to be written back over a channel that serves no access, and no failed peer store to report,
writes its core's data back, and an acquire lets clean data go. A release waits while a write is unacknowledged. -/
def Claims.FenceCompletes : Prop :=
  ∀ (o : MFence) (s : State) (g : Group) (l : Launch) (hdr j : Nat) (hw : Word), g.backlog = [] →
    Acts (.fence o) o.h s g l hdr j hw →
    (g.executing o.h = [] ∨ o.scope = .group → exec (.fence o) s = .next (issued (.fence o) o.h s g l hdr j hw s)) ∧
    (g.executing o.h ≠ [] → o.scope ≠ .group →
      (o.kind = .acq → exec (.fence o) s = .next (issued (.fence o) o.h s g l hdr j hw (s.acquire g.core))) ∧
      (o.kind ≠ .acq → g.acks ≠ [] → exec (.fence o) s = .next (waiting s g .fence)) ∧
      (o.kind = .rel → s.unperformed g = false → g.lost = [] →
        exec (.fence o) s = .next (issued (.fence o) o.h s g l hdr j hw (s.release g.core))) ∧
      (o.kind = .full → s.unperformed g = false → g.lost = [] →
        exec (.fence o) s = .next (issued (.fence o) o.h s g l hdr j hw ((s.release g.core).acquire g.core))))

/-- R280, R281: PREF completes and changes nothing; CFLUSH writes back the dirty bytes of every executing lane's line and
CINV also drops the core's copy of it. With `.mem` CFLUSH writes the line's sectors back to HBM4, and with `.l2` CINV
takes them out of their home L2 slice; the write is counted until it is acknowledged. -/
def Claims.CacheHintsComplete : Prop :=
  ∀ (s : State) (g : Group) (l : Launch) (hdr j : Nat) (hw : Word),
    (∀ o, Acts (.pref o) o.h s g l hdr j hw → exec (.pref o) s = .next (issued (.pref o) o.h s g l hdr j hw s)) ∧
    (∀ o, let acc := plainAccesses g (g.executing o.h) o.addr 1
      let own := acc.filter fun a => !s.isPeer (s.physOf g.core a.addr).1
      let deep := fun (drop : Bool) (s : State) (pa : Nat) =>
        if o.deep && !s.isPeer pa then s.onSectors (fun k => k / 4 == pa / 128) fun k x =>
          if drop then x.leaveL2 else x.cleaned (s.heldAt (32 * k))
        else s
      let chans := (own.map fun a => let pa := (s.physOf g.core a.addr).1; (stackOf pa, channelOf pa)).eraseDups
      let counted := fun (t : State) (cs : List (Nat × Nat)) => if own = [] then t else t.addAcks g own cs
      s.checkGlobal g.core .none_ acc = none →
      (Acts (.cflush o) o.h s g l hdr j hw →
        exec (.cflush o) s = .next (issued (.cflush o) o.h s g l hdr j hw (counted
          (acc.foldl (fun (s : State) a => let pa := (s.physOf g.core a.addr).1
            deep false (s.writeBack g.core (inLine pa)) pa) s) (if o.deep then chans else [])))) ∧
      (Acts (.cinv o) o.h s g l hdr j hw →
        exec (.cinv o) s = .next (issued (.cinv o) o.h s g l hdr j hw (counted
          (acc.foldl (fun (s : State) a => let pa := (s.physOf g.core a.addr).1
            deep true ((s.writeBack g.core (inLine pa)).dropClean g.core (inLine pa)) pa) s) []))))

/-- R282, R283: FETCH and POST whose line and scratchpad line are in place and aligned, with a reply slot free, take a
slot, join the group's open RM batch, and are under way; with all eight slots taken they wait. A POST of a scratchpad line
with a poisoned word traps with MEM_UNCORRECTABLE, %tval being the word's local address (R416). -/
def Claims.LineTransfersStart : Prop :=
  ∀ (post : Bool) (o : MXfer) (s : State) (g : Group) (l : Launch) (hdr j : Nat) (hw : Word) (pa : Nat) (e : Word),
    let i := if post then Instr.post o else Instr.fetch o
    let a := xferAddr g o
    let d := (g.sreg o.d.toNat).toNat
    Acts i o.h s g l hdr j hw → a < 2 ^ 57 → d < 2 ^ 32 → s.scratchAt g.id d 128 = true → a % 128 = 0 → d % 128 = 0 →
    s.reach g.core a (if post then .write else .read) = .at_ pa e →
    (post = true → s.localBad g.id d 128 = true →
      exec i s = .next (trapped s g hdr j Cause.memUncorrectable (BitVec.ofNat 64 (s.firstBad g.id d 128)))) ∧
    ((post = true → s.localBad g.id d 128 = false) → 8 ≤ g.slots.length → exec i s = .next (waiting s g .replySlot)) ∧
    ((post = true → s.localBad g.id d 128 = false) → g.slots.length < 8 → exec i s = .next (issued i o.h s g l hdr j hw
      { (s.release g.core).onGroup g.id fun x => { x with slots := x.slots ++ [s.nextOp], rm := x.rm.join s.nextOp } with
        nextOp := s.nextOp + 1
        ops := s.ops ++ [⟨s.nextOp, g.id, some .rm, slotAddr hdr j, if post then .post a pa d else .fetch a pa d,
          none, none⟩] }))

/-! ### Batches, copies and landing slots -/

/-- R298, R299: SEAL with fewer than 15 sealed batches incomplete closes the open batch, which takes the last place of its
class's queue, and opens an empty one; with 15 it waits. -/
def Claims.SealClosesTheOpenBatch : Prop :=
  ∀ (o : PSeal) (s : State) (g : Group) (l : Launch) (hdr j : Nat) (hw : Word), Acts (.sealb o) o.h s g l hdr j hw →
    let b := g.batches o.cls
    (15 ≤ b.incomplete → exec (.sealb o) s = .next (waiting s g (.sealRoom o.cls))) ∧
    (b.incomplete < 15 → exec (.sealb o) s = .next (issued (.sealb o) o.h s g l hdr j hw
      (s.setGroup (g.setBatches o.cls ⟨Batch.empty, b.closed ++ [b.opened], b.seals + 1⟩))))

/-- R260, R297, R299, R300, R301: WAITB with more than n sealed batches of its class incomplete waits. With n or fewer, and
no failure held by a complete batch nor a failed peer store, it completes: the complete batches at the head of the queue
are acquired, clean L1 data are let go, and the group goes on. YIELDB does the same at its label, out of the active set. -/
def Claims.WaitsOnBatchesComplete : Prop :=
  ∀ (s : State) (g : Group) (l : Launch) (hdr j : Nat) (hw : Word),
    (∀ o, Acts (.waitb o) o.h s g l hdr j hw →
      (o.n.toNat < (g.batches o.cls).incomplete →
        exec (.waitb o) s = .next (waiting s g (.batch o.cls o.n.toNat))) ∧
      ((g.batches o.cls).incomplete ≤ o.n.toNat → g.lost = [] → (g.batches o.cls).failure = none →
        exec (.waitb o) s = .next (issued (.waitb o) o.h s g l hdr j hw
          ((s.acquire g.core).setGroup (g.acquireBatches [o.cls]))))) ∧
    (∀ o, Acts (.yieldb o) o.h s g l hdr j hw →
      let target := targetOf hdr o.tgt.toInt
      let w := Wait.yieldb o.cls o.n.toNat (slotAddr hdr j) target
      let x := if g.wait = some w then g else { g with active := false, since := s.clock }
      (o.n.toNat < (g.batches o.cls).incomplete → exec (.yieldb o) s = .next (waiting s g w)) ∧
      ((g.batches o.cls).incomplete ≤ o.n.toNat → g.lost = [] → (g.batches o.cls).failure = none →
        exec (.yieldb o) s = .next (issued (.yieldb o) o.h s g l hdr j hw
          ((s.acquire g.core).setGroup (x.acquireBatches [o.cls])) (.goto target))))

/-- R260, R384: a WAITB that meets the failure of a complete batch traps with that failure's cause and value, and the batch
counts as acquired without its failures. -/
def Claims.WaitReportsABatchFailure : Prop :=
  ∀ (o : PWait) (s : State) (g : Group) (l : Launch) (hdr j : Nat) (hw : Word) (f : Failure),
    Acts (.waitb o) o.h s g l hdr j hw → (g.batches o.cls).incomplete ≤ o.n.toNat → g.lost = [] →
    (g.batches o.cls).failure = some f →
    ∃ g', exec (.waitb o) s = .next ((s.setGroup g').takeTrap g.id f.cause (BitVec.ofNat 64 (slotAddr hdr j)) f.tval
        (.back hdr j)) ∧ g'.batches o.cls = (g.batches o.cls).consume ∧ g'.id = g.id

/-- R258, R297, R302 to R304, R315, R319: CPY, CPYM and CBLD with fewer than 64 CP operations incomplete and a record
address that can be written, or none, whose scalars lie in the file, read them, join the open batch and are under way;
what the group has written goes before them. With 64 they wait. -/
def Claims.CopiesStart : Prop :=
  ∀ (s : State) (g : Group) (l : Launch) (hdr j : Nat) (hw : Word),
    let room := fun (done : Word) => done = 0 ∨ s.checkGlobal g.core .write [⟨0, done.toNat, 64⟩] = none
    let starts := fun (i : Instr) (h : Head) (done : Word) (k : OpKind) => room done →
      (64 ≤ s.copiesOf g.id → exec i s = .next (waiting s g .copyRoom)) ∧
      (s.copiesOf g.id < 64 → exec i s = .next (issued i h s g l hdr j hw (s.addOp g .cp k)))
    (∀ o, Acts (.cpy o) o.h s g l hdr j hw →
      pastScalars o.sa 4 = false → pastScalars o.sb 4 = false → pastScalars o.sc 5 = false →
      let a := copyArgs g (o.dir == .l2g) (o.dir == .g2l) o.srec o.drec o.sa o.sb o.sc
      starts (.cpy o) o.h (g.sreg o.sc.toNat) (.cpy a)) ∧
    (∀ o, Acts (.cpym o) o.h s g l hdr j hw → isWave g.id = false →
      pastScalars o.sa 4 = false → pastScalars o.sb 4 = false → pastScalars o.sc 6 = false →
      let a := copyArgs g o.loc true o.srec o.drec o.sa o.sb o.sc
      starts (.cpym o) o.h (g.sreg o.sc.toNat) (.cpym a o.slot.toNat (g.sreg (o.sc.toNat + 5)) none)) ∧
    (∀ o, Acts (.cbld o) o.h s g l hdr j hw → (g.sreg o.sa.toNat).toNat % 64 = 0 →
      starts (.cbld o) o.h (g.sreg o.sc.toNat)
        (.cbld o.book.toNat (g.sreg o.sa.toNat) (g.sreg o.sc.toNat) g.cp.seals))

/-- R297: an operation that is issued is the group's newest, is listed once more in the part, and stands last in the open
batch of its class; the batches of the other classes, the registers and the other groups stay. -/
def Claims.IssuedOperationJoinsTheOpenBatch : Prop :=
  ∀ (s : State) (g : Group) (c : Cls) (k : OpKind), s.group? g.id = some g →
    let t := s.addOp g c k
    t.nextOp = s.nextOp + 1 ∧ (∃ o, t.ops = s.ops ++ [o] ∧ o.n = s.nextOp ∧ o.gid = g.id ∧ o.cls = some c ∧ o.kind = k) ∧
    ∃ y, t.group? g.id = some y ∧
      (y.batches c).opened.ops = (g.batches c).opened.ops ++ [s.nextOp] ∧ (y.batches c).closed = (g.batches c).closed ∧
      (∀ d, d ≠ c → y.batches d = g.batches d) ∧ y.vregs = g.vregs ∧ y.sregs = g.sregs ∧
      ∀ x, x ≠ g.id → t.group? x = s.group? x

/-- R311: CSTAT whose record can be read sends its eight words to eight scalars, once the HBM4 channels and the peer on
which they wait let them come; with data that are uncorrectable its trap is a deferred one. -/
def Claims.CstatCompletes : Prop :=
  ∀ (o : PCstat) (s s' : State) (g : Group) (l : Launch) (hdr j : Nat) (hw : Word),
    Acts (.cstat o) o.h s g l hdr j hw → pastScalars o.sb 8 = false →
    let va := (g.sreg o.sa.toNat).toNat
    let p := s.physOf g.core va
    let ends := fun (vals : List (Nat × Word)) (fail : Option Failure) =>
      exec (.cstat o) s = .next (issued (.cstat o) o.h s g l hdr j hw
        ((if s.isPeer p.1 then s'.drawn else s').addPend g .scalar [] (block o.sb 8) [] vals 0 fail
          (s.accessChans g false .bypass false [⟨0, va, 64⟩]) (s.peerAccess g false .bypass false [⟨0, va, 64⟩])))
    s.checkGlobal g.core .read [⟨0, va, 64⟩] = none →
    (∀ bs, s.gread g.core false p.1 64 (pteObj p.2) = (s', some bs) →
      ends ((block o.sb 8).zip ((List.range 8).map fun k => BitVec.ofNat 64 (ofBytes ((bs.drop (8 * k)).take 8)))) none) ∧
    (s.gread g.core false p.1 64 (pteObj p.2) = (s', none) → ends [] (some (badData va)))

/-- R312, R313: LAND with a region that is aligned, inside the scratchpad and not empty, and 1 to 65,535 arrivals, arms
its slot; LAND.off makes it idle. Each raises the slot's generation. -/
def Claims.LandArmsItsSlot : Prop :=
  ∀ (o : PLand) (s : State) (g : Group) (l : Launch) (hdr j : Nat) (hw : Word), Acts (.land o) o.h s g l hdr j hw →
    isWave g.id = false →
    let put := fun (f : Land → Land) => exec (.land o) s = .next (issued (.land o) o.h s g l hdr j hw
      (s.onTeam l.lid (teamOf g.id) fun t => t.setLand o.slot.toNat (f (t.land o.slot.toNat))))
    (o.args = none → put fun x => { Land.idle with gen := x.gen + 1 }) ∧
    (∀ a, o.args = some a →
      let base := (g.sreg a.sa.toNat).toNat
      let len := (g.sreg a.sb.toNat).toNat
      let want := (g.sreg a.sc.toNat).toNat
      base % 32 = 0 → len % 32 = 0 → base < 2 ^ 32 → base + len ≤ l.scratchSize → 0 < len → 0 < want → want < 65536 →
      put fun x => ⟨.armed, base, len, want, 0, 0, x.gen + 1⟩)

/-- R314: LANDW on a slot that has filled acquires and leaves the active set, to go on at the next clause; on an armed slot
it waits; on an idle one it traps with ILLEGAL, %tval being the slot. -/
def Claims.LandwCompletes : Prop :=
  ∀ (o : PLandw) (s : State) (g : Group) (l : Launch) (tm : Team) (hdr j : Nat) (hw : Word),
    Acts (.landw o) o.h s g l hdr j hw → isWave g.id = false → s.team? l.lid (teamOf g.id) = some tm →
    g.wait ≠ some (.filled o.slot.toNat) →
    ((tm.land o.slot.toNat).st = .filled → exec (.landw o) s = .next (issued (.landw o) o.h s g l hdr j hw
      ((s.acquire g.core).setGroup { g with active := false, since := s.clock }) .clause)) ∧
    ((tm.land o.slot.toNat).st = .armed → exec (.landw o) s = .next (waiting s g (.landing o.slot.toNat))) ∧
    ((tm.land o.slot.toNat).st = .idle →
      exec (.landw o) s = .next (trapped s g hdr j Cause.illegal (BitVec.ofNat 64 o.slot.toNat)))

/-! ### Matrix engines -/

/-- R326, R344, R345, R346, R349, R357 to R359: at the holder of a tile, with no earlier tile instruction of the group
under way and the engine not stopped, GANG, MZERO, REL, ACQ, MSCALE, MSTAT, CONT and MINJ complete, each with its one
effect; an ACQ that has waited for passes completes holding the tile that it has been handed. -/
def Claims.TileInstructionsComplete : Prop :=
  ∀ (s : State) (g : Group) (l : Launch) (hdr j : Nat) (hw : Word),
    let pod := s.pod g.pod
    let done := fun (i : Instr) (h : Head) (t : State) => exec i s = .next (issued i h s g l hdr j hw t)
    (∀ o, let w0 := g.sreg o.m.toNat
      let w1 := g.sreg (o.m.toNat + 1)
      let x : Gang := ⟨2 ^ o.a.toNat, 2 ^ o.b.toNat, gangMembers w0 w1⟩
      Acts (.gang o) o.h s g l hdr j hw → isWave g.id = false → pastScalars o.m 2 = false → gangOk (groupOf g.id) l.groupsPer w0 w1 x = true →
      done (.gang o) o.h (s.setGroup { g with gang := some x })) ∧
    (∀ o, Acts (.mzero o) o.h s g l hdr j hw → pod.stopped = false → s.holds g o.tile.toNat = true →
      s.tileOp g.id = none → (g.sreg o.e.toNat).toNat < 512 →
      done (.mzero o) o.h ((s.setTile g.pod o.tile.toNat
        ((s.tile g.pod o.tile.toNat).cleared o.fmt o.td (g.sreg o.e.toNat).toNat)).dropInjected g.pod o.tile.toNat)) ∧
    (∀ o, Acts (.rel o) o.h s g l hdr j hw → s.holds g o.tile.toNat = true → s.tileOp g.id = none →
      done (.rel o) o.h (s.setTile g.pod o.tile.toNat { s.tile g.pod o.tile.toNat with holder := .engine l.lid })) ∧
    (∀ o, Acts (.acq o) o.h s g l hdr j hw → g.passFailure o.tile.toNat = none → s.tileOp g.id = none →
      ((s.tile g.pod o.tile.toNat).holder = .free ∨
        (s.tile g.pod o.tile.toNat).holder = .engine l.lid ∧ pod.passInto o.tile.toNat = false) →
      done (.acq o) o.h (s.setTile g.pod o.tile.toNat { s.tile g.pod o.tile.toNat with holder := .group g.id })) ∧
    (∀ o k, Acts (.acq o) o.h s g l hdr j hw → g.passFailure o.tile.toNat = none →
      (s.tile g.pod o.tile.toNat).holder = .group k → g.wait = some (.holding o.tile.toNat) → done (.acq o) o.h s) ∧
    (∀ o, Acts (.mscale o) o.h s g l hdr j hw → s.holds g o.tile.toNat = true → s.tileOp g.id = none →
      o.n.toNat ≤ (s.tile g.pod o.tile.toNat).e →
      done (.mscale o) o.h (s.setTile g.pod o.tile.toNat ((s.tile g.pod o.tile.toNat).scaled o.n.toNat))) ∧
    (∀ o, Acts (.mstat o) o.h s g l hdr j hw → s.holds g o.tile.toNat = true → s.tileOp g.id = none →
      done (.mstat o) o.h (s.addPend g .scalar [] [o.d.toNat] []
        [(o.d.toNat, BitVec.ofNat 64 (s.tile g.pod o.tile.toNat).status)] 0 none)) ∧
    (∀ o, Acts (.cont o) o.h s g l hdr j hw → pastScalars o.d 2 = false →
      done (.cont o) o.h (s.addPend g .scalar [] [o.d.toNat, o.d.toNat + 1] []
        [(o.d.toNat, BitVec.ofNat 64 (pod.containment g.pod).1),
          (o.d.toNat + 1, BitVec.ofNat 64 (pod.containment g.pod).2)] 0 none)) ∧
    (∀ o, let x := (g.sreg o.r.toNat).toNat
      let t := o.tile.toNat
      let pos := x % 128 * 128 + x / 2 ^ 7 % 128
      let c := x / 2 ^ 14 % 16
      let v := x / 2 ^ 18 % 512
      let tile := s.tile g.pod t
      Acts (.minj o) o.h s g l hdr j hw → l.diag = true → s.holds g t = true → s.tileOp g.id = none →
      c ∈ Rns.channels tile.fmt → v % Rns.modulus c ≠ 0 →
      (c ∈ pod.retired → done (.minj o) o.h s) ∧
      (c ∉ pod.retired → done (.minj o) o.h
        ((s.setTile g.pod t (tile.setResidue pos c ((tile.residue pos c + v) % Rns.modulus c))).onPod g.pod fun p => { p with
          injected := (p.injected.filter fun y => !(y.tile == t && y.pos == pos && y.chan == c)) ++
            [Injected.mk t pos c o.mode] })))

/-- R345: after MZERO every residue of the tile is zero on all ten channels, the format and the result type are those of
the instruction, E is bits 8:0 of s[E], SCALE, OVF, OVFPOS, CLAMP, DET and CCOUNT are clear, and the holder stays. An s[E]
with a bit of 63:9 set traps with ILLEGAL; a tile that the group does not hold traps with TOKEN, and that TOKEN comes before
ILLEGAL is the model's reading (log 50). -/
def Claims.MzeroClearsItsTile : Prop :=
  ∀ (o : XMzero) (s : State) (g : Group) (l : Launch) (hdr j : Nat) (hw : Word), Acts (.mzero o) o.h s g l hdr j hw →
    (s.pod g.pod).stopped = false →
    (s.holds g o.tile.toNat = false →
      exec (.mzero o) s = .next (trapped s g hdr j Cause.token (BitVec.ofNat 64 o.tile.toNat))) ∧
    (s.holds g o.tile.toNat = true → s.tileOp g.id = none →
      ((g.sreg o.e.toNat) >>> 9 ≠ 0 →
        exec (.mzero o) s = .next (trapped s g hdr j Cause.illegal ((encode (.mzero o)).headD 0))) ∧
      ((g.sreg o.e.toNat) >>> 9 = 0 → ∃ t, exec (.mzero o) s = .next t ∧
        let x := t.tile g.pod o.tile.toNat
        (∀ pos c, x.residue pos c = 0) ∧ x.fmt = o.fmt ∧ x.td = o.td ∧ x.e = (g.sreg o.e.toNat).toNat % 512 ∧
        x.scale = false ∧ x.ovf = false ∧ x.ovfpos = 0 ∧ x.clamp = false ∧ x.det = false ∧ x.ccount = 0 ∧
        x.holder = .group g.id))

/-- R327 to R330, R347: an MMA of a member whose gang is set and whole, whose fragments lie in its window, and whose tile
the engine holds for the launch, arrives at its latch: the oldest one that expects the group, or a new one while fewer than
16 stand. Its operands are reserved, and it joins the open MX batch. An AUX that is not zero, or a BOOK without a c8 operand,
traps with ILLEGAL, and a fragment register beyond the window with WINDOW, the first one being in %tval; a member that has an
ungranted MMA waits. -/
def Claims.MmaArrives : Prop :=
  ∀ (o : XMma) (s : State) (g : Group) (l : Launch) (hdr j : Nat) (hw : Word) (x : Gang),
    Acts (.mma o) o.h s g l hdr j hw → isWave g.id = false → (s.pod g.pod).stopped = false →
    g.passFailure o.tile.toNat = none → g.gang = some x →
    (∀ m ∈ x.members, s.isGone (.member (lidOf g.id) (teamOf g.id) m.grp) = false) →
    (s.tile g.pod o.tile.toNat).holder = .engine l.lid →
    (o.aux ≠ 0 ∨ (o.book ≠ 0 ∧ o.ta ≠ .c8 ∧ o.tb ≠ .c8) →
      exec (.mma o) s = .next (trapped s g hdr j Cause.illegal ((encode (.mma o)).headD 0))) ∧
    (o.aux = 0 → (o.book = 0 ∨ o.ta = .c8 ∨ o.tb = .c8) →
    (∀ r, (mmaRegs g o).find? (fun r => decide (g.n ≤ r)) = some r →
      exec (.mma o) s = .next (trapped s g hdr j Cause.window (BitVec.ofNat 64 r))) ∧
    ((∀ r ∈ mmaRegs g o, r < g.n) → (g.badWord fun r x => (mmaRegs g o).contains r && (g.bypassed g.issued r x).isNone) = none →
    let p := s.pod g.pod
    let a : Arrived := ⟨g.id, s.nextOp, slotAddr hdr j, o, x, fragmentValues g (mmaRegs g o)⟩
    (p.ungranted g.id = true ∨ g.withdrawn.isSome = true → exec (.mma o) s = .next (waiting s g .latch)) ∧
    (p.ungranted g.id = false → g.withdrawn = none →
    (∀ y, p.latches.find? (fun y => y.expects g.id) = some y → ∀ b ∈ y.arrived.head?, a.agrees b = true) →
    (p.latches.find? (fun y => y.expects g.id) = none → p.latches.length < 16) →
    ∃ t, exec (.mma o) s = .next (issued (.mma o) o.h s g l hdr j hw t) ∧
      (t.pod g.pod).latches = joinLatch a p.latches ∧ t.nextOp = s.nextOp + 1 ∧
      t.ops = s.ops ++ [⟨s.nextOp, g.id, some .mx, slotAddr hdr j, .mma, none, none⟩] ∧
      ∃ z, t.group? g.id = some z ∧ z.reserved = g.reserved ++ [(s.nextOp, mmaRegs g o)] ∧
        z.mx = g.mx.join s.nextOp ∧ z.vregs = g.vregs ∧ z.sregs = g.sregs)))

/-- R343, R350, R353 to R355: DRAIN, DRAINM, ACST and ACLD by the holder of the tile, with no earlier tile instruction
under way and operands that pass their checks, are under way with what they read at issue. -/
def Claims.DrainsAndImagesStart : Prop :=
  ∀ (s : State) (g : Group) (l : Launch) (hdr j : Nat) (hw : Word), s.tileOp g.id = none →
    let done := fun (i : Instr) (h : Head) (t : State) => exec i s = .next (issued i h s g l hdr j hw t)
    (∀ o, let td := o.td.getD (s.tile g.pod o.tile.toNat).td
      let regs := drainRegs g td o.d o.r
      let rows := drainRows (g.sreg o.r.toNat)
      Acts (.drain o) o.h s g l hdr j hw → s.holds g o.tile.toNat = true → rowsBad (g.sreg o.r.toNat) = false →
      (td = .s64 ∨ td = .f64 → o.d.toNat % 2 = 0) → (∀ r ∈ regs, r < g.n) →
      (g.pend.any fun p => regs.any p.vregs.contains) = false → (g.reserved.any fun x => regs.any x.2.contains) = false →
      done (.drain o) o.h (startDrain s g regs fun _ =>
        .drain ⟨o.tile.toNat, rows.1, rows.2, o.rm, o.trp, o.shift.toInt, g.live⟩ td o.d.toNat)) ∧
    (∀ o, let r := l.layouts.getD o.lay.toNat 0
      let base := g.sreg o.b.toNat
      let rows := drainRows (g.sreg (o.b.toNat + 4))
      Acts (.drainm o) o.h s g l hdr j hw → pastScalars o.b 5 = false → s.holds g o.tile.toNat = true → drainmRecord s g r = true →
      rowsBad (g.sreg (o.b.toNat + 4)) = false → base.toNat * 8 % Rec.width (Rec.enc r) = 0 →
      done (.drainm o) o.h (s.addOp g .mx (.drainm ⟨o.tile.toNat, rows.1, rows.2, o.rm, o.trp, o.shift.toInt, g.live⟩ o.loc
        ⟨o.lay.toNat, base, (packed g (o.b.toNat + 1)).take 2⟩))) ∧
    (∀ o, Acts (.acst o) o.h s g l hdr j hw → s.holds g o.tile.toNat = true →
      imageBad l g (g.sreg o.b.toNat) o.loc = none →
      done (.acst o) o.h (s.addOp g .mx (.acst o.tile.toNat (g.sreg o.b.toNat) o.radd o.loc))) ∧
    (∀ o, let t := s.tile g.pod o.tile.toNat
      let e := if o.add then 0 else (g.sreg (o.b.toNat + 1)).toNat
      Acts (.acld o) o.h s g l hdr j hw → (o.add = false → pastScalars o.b 2 = false) → (s.pod g.pod).stopped = false → s.holds g o.tile.toNat = true → e < 512 →
      imageBad l g (g.sreg o.b.toNat) o.loc = none → (o.add = true → t.fmt = o.fmt ∧ t.td = o.td) →
      done (.acld o) o.h (s.addOp g .mx (.acld o.tile.toNat (g.sreg o.b.toNat) o.add o.fmt o.td e o.loc)))

/-- R324: REL, DRAIN, MSCALE, MSTAT, ACST and DRAINM by a group that does not hold the tile trap with TOKEN, and %tval is
the tile's number. -/
def Claims.TileTokenIsChecked : Prop :=
  ∀ (s : State) (g : Group) (l : Launch) (hdr j : Nat) (hw : Word) (t : BitVec 3), s.holds g t.toNat = false →
    let out := Host.Outcome.next (trapped s g hdr j Cause.token (BitVec.ofNat 64 t.toNat))
    (∀ o, o.tile = t → Acts (.rel o) o.h s g l hdr j hw → exec (.rel o) s = out) ∧
    (∀ o, o.tile = t → Acts (.drain o) o.h s g l hdr j hw → exec (.drain o) s = out) ∧
    (∀ o, o.tile = t → Acts (.mscale o) o.h s g l hdr j hw → exec (.mscale o) s = out) ∧
    (∀ o, o.tile = t → Acts (.mstat o) o.h s g l hdr j hw → exec (.mstat o) s = out) ∧
    (∀ o, o.tile = t → Acts (.acst o) o.h s g l hdr j hw → exec (.acst o) s = out) ∧
    (∀ o, o.tile = t → Acts (.drainm o) o.h s g l hdr j hw → pastScalars o.b 5 = false → exec (.drainm o) s = out)

/-- R321, R322: a pass adds to every element of its tile, on every channel in use, the residue of the exact dot product of
its row and column, aligned to the tile's exponent; an element whose exponents do not suit is left as it was and SCALE is
set. The residues of retired channels and of other formats stay. -/
def Claims.PassAddsExactProducts : Prop :=
  ∀ (t : Tile) (retired : List Nat) (p : Pass),
    (∀ pos c, pos < 16384 → c ∈ Rns.channels t.fmt → c ∉ retired →
      (t.addPass retired p).residue pos c = (t.residue pos c + Rns.encode (passTerm p t.e pos) c) % Rns.modulus c) ∧
    (∀ pos c, c < 10 → (c ∉ Rns.channels t.fmt ∨ c ∈ retired) → (t.addPass retired p).residue pos c = t.residue pos c) ∧
    (t.addPass retired p).scale = (t.scale || (firstOmitted p.scales t.e).isSome) ∧
    (∀ pos, alignment p.scales t.e (pos / 128) (pos % 128) = none → passTerm p t.e pos = 0) ∧
    (p.scales = none → (t.addPass retired p).scale = t.scale ∧
      ∀ pos, passTerm p t.e pos = dotRow (p.a.getD (pos / 128) []) (p.b.getD (pos % 128) [])) ∧
    (t.addPass retired p).holder = t.holder ∧ (t.addPass retired p).e = t.e ∧ (t.addPass retired p).fmt = t.fmt

/-! ### Events of the engines -/

/-- R322, R328, R330, R331, R348: a full latch of a live launch whose format and type agree with its tile's, and whose
pass omits no element that traps, is granted: it leaves the latches, its pass takes the last entry of the table, and the
operands of its members are no longer reserved. The waiting pass of the highest level, of these the oldest, starts when
nothing runs. -/
def Claims.RendezvousGrantAndPassStart : Prop :=
  (∀ (s : State) (pod k : Nat) (x : Latch) (a : Arrived) (l : Launch),
    (s.pod pod).latches[k]? = some x → x.arrived.head? = some a → s.launch? x.lid = some l → x.full = true →
    (s.pod pod).table.length < 16 → a.ins.fmt = (s.tile pod a.ins.tile.toNat).fmt →
    a.ins.td = (s.tile pod a.ins.tile.toNat).td →
    (a.ins.trp = true → firstOmitted (capture s pod x a l).scales (s.tile pod a.ins.tile.toNat).e = none) →
    ∃ t, exec (.rendezvousGrant pod k) s = .next t ∧ (t.pod pod).latches = (s.pod pod).latches.eraseIdx k ∧
      (∃ p, (t.pod pod).table = (s.pod pod).table ++ [p] ∧ p.tile = a.ins.tile.toNat ∧ p.granted = s.clock ∧
        p.ops = x.arrived.map (fun y => (y.gid, y.op)) ∧ p.a = (capture s pod x a l).a ∧ p.b = (capture s pod x a l).b) ∧
      (∀ y ∈ x.arrived, ∀ g, t.group? y.gid = some g → ∀ r ∈ g.reserved, r.1 ≠ y.op) ∧ t.mem = s.mem ∧ t.ops = s.ops) ∧
  (∀ (s : State) (pod : Nat) (p : Pass), (s.pod pod).running = none → bestPass (s.pod pod).table = some p →
    exec (.passStart pod) s = .next (s.onPod pod fun x => { x with running := some p, table := x.table.erase p }) ∧
    p ∈ (s.pod pod).table ∧ ∀ q ∈ (s.pod pod).table, q.level < p.level ∨ (q.level = p.level ∧ p.granted ≤ q.granted))

/-- R331: a waiting pass whose time has come rises one level, and no other pass of the table changes. -/
def Claims.ReservationAgingRaisesALevel : Prop :=
  ∀ (s : State) (pod k : Nat) (x : Pass), (s.pod pod).table[k]? = some x → x.level < 8 →
    x.granted + 4096 * (x.level - x.prio + 1) ≤ s.clock →
    ∃ t, exec (.reservationAging pod k) s = .next t ∧ (t.pod pod).table[k]? = some { x with level := x.level + 1 } ∧
      (∀ i, i ≠ k → (t.pod pod).table[i]? = (s.pod pod).table[i]?) ∧ t.clock = s.clock

/-- R332, R346: a running pass that completes has been added to its tile, the arrays are free again, and the operation of
every member is complete. No tile changes otherwise, but that one which its engine holds may pass to a group that has
waited for the passes into it. -/
def Claims.PassCompleteUpdatesItsTile : Prop :=
  ∀ (s : State) (pod : Nat) (x : Pass), (s.pod pod).running = some x →
    ∃ t, exec (.passComplete pod) s = .next t ∧ (t.pod pod).running = none ∧
      (∀ n, { t.tile pod n with holder := (s.tile pod n).holder } =
        if n = x.tile then (s.tile pod n).addPass (s.pod pod).retired x else s.tile pod n) ∧
      (∀ n, (t.tile pod n).holder = (s.tile pod n).holder ∨ ∃ g ∈ s.groups, ∃ lid, g.wait = some (.passes n) ∧
        (s.tile pod n).holder = .engine lid ∧ lidOf g.id = lid ∧ (t.tile pod n).holder = .group g.id) ∧ (∀ o ∈ x.ops, t.op? o.2 = none) ∧ t.mem = s.mem

/-- R337: with a tile free, the first pending pattern pass of an engine runs: a channel that fails it is retired; of one that
passes, each element of the pass that reconstructs with that channel wrong gets the corrected residue there, and no other
residue of the engine changes. -/
def Claims.PatternPassRunsOnAFreeTile : Prop :=
  ∀ (s : State) (pod : Nat) (x : Pattern) (rest : List Pattern), (s.pod pod).patterns = x :: rest →
    s.freeTile pod = true →
    exec (.patternPass pod) s = .next (s.patternRuns pod x) ∧
    (x.hard = true → x.chan ∉ (s.pod pod).retired → x.chan ∈ ((s.patternRuns pod x).pod pod).retired) ∧
    (x.hard = false → (∀ y ∈ ((s.patternRuns pod x).pod pod).patterns, y.chan ≠ x.chan) ∧
      ∀ n pos c, ((s.patternRuns pod x).tile pod n).residue pos c =
        match Rns.reconstruct (s.tile pod n).fmt (s.pod pod).retired ((s.tile pod n).residue pos) with
        | .corrected k v => if (n, pos) ∈ x.spots ∧ k = x.chan ∧ c = x.chan then Rns.encode v c
            else (s.tile pod n).residue pos c
        | _ => (s.tile pod n).residue pos c)

/-- R194, R350 to R352: a drain whose elements are all in range or clamped writes its registers in the lanes that have not
exited since its issue, raises the flags and is over;
one that meets an element with no value leaves every register and defers its trap. -/
def Claims.DrainCompletes : Prop :=
  ∀ (s : State) (n : Nat) (o : Op) (a : DrainArgs) (td : ResTy) (d : Nat) (g : Group) (p : Pend),
    s.op? n = some o → o.kind = .drain a td d → s.group? o.gid = some g →
    g.pend.find? (fun p => p.kind == PendKind.drain n) = some p →
    let r := s.drainRun g.pod a (sinkOf (resTy td) a.rm (drainExp (s.tile g.pod a.tile) a))
    let rest := fun (y : Group) => { y with pend := y.pend.filter fun q => q.kind != PendKind.drain n }
    (r.stop = none → exec (.drainComplete n) s = .next ((r.s.dropOp n).onGroup o.gid fun y =>
      ((rest y).writeAll ((drainWrites g.width td d a.row0 r.vals).filter fun w =>
        !(a.live &&& ~~~y.live).getLsbD (w.1 % 64))).raise r.flags)) ∧
    (∀ f, r.stop = some (.fail f) → exec (.drainComplete n) s = .next ((r.s.dropOp n).onGroup o.gid fun y =>
      (rest y).defer ⟨n, o.addr, f, p.vregs, [], p.idx, p.lanes⟩))

/-- R351: an element that reconstructs and whose type holds X × 2^k drains as it stands: with E = 254 and no shift, s64
gets the tile's integer, without a flag and without CLAMP. -/
def Claims.DrainOfAnExactElement : Prop :=
  (∀ (t : Tile) (a : DrainArgs), t.e = 254 → a.shift = 0 → drainExp t a = 0) ∧
  ∀ (rm : RMode) (x : Int), -(2 ^ 63 : Int) ≤ x → x < 2 ^ 63 →
    (sinkOf .s64 rm 0).conv x = (truncTo 64 x, 0, false)

/-- R353 to R356: DRAINM, ACST and ACLD whose turn has come, whose bytes can all be reached and that meet no failure write
what they drained, stored or loaded, and their operation is complete in its batch. -/
def Claims.MatrixTransfersComplete : Prop :=
  ∀ (s : State) (n : Nat) (o : Op) (l : Launch), s.op? n = some o → s.launch? (lidOf o.gid) = some l →
    o.fault = none → o.walk = none → s.inTurn o = true →
    let pod := s.podOfOp o
    (∀ a loc d, o.kind = .drainm a loc d →
      let r := l.layouts.getD d.lay 0
      let run := s.drainRun pod a (encSink r (s.book pod (Rec.book r)) a.rm (drainExp (s.tile pod a.tile) a))
      let puts := run.vals.filterMap fun x => (drainmBit r d x.1).map fun b => (⟨b, Rec.width (Rec.enc r), x.2⟩ : Put)
      s.mxStop o loc .write ((rowPositions a.row0 a.rows).filterMap fun p => (drainmBit r d p).map (elemBytes r)) = none →
      run.stop = none → ∀ s', run.s.engineWrite o.gid loc puts none = (s', none) →
      exec (.mxOperationComplete n) s = .next (s'.finishOp o.n none run.flags)) ∧
    (∀ tile base radd loc, o.kind = .acst tile base radd loc →
      let t := s.tile pod tile
      let lines := planeLines base.toNat (acstChannels t.fmt radd.isSome)
      radd = none → ((s.pod pod).retired.any (Rns.channels t.fmt).contains) = false → s.mxStop o loc .write lines = none →
      ∀ s', s.engineWrite o.gid loc (acstPuts t (s.pod pod).retired [] base.toNat false fun _ _ => 0) none = (s', none) →
      exec (.mxOperationComplete n) s = .next (s'.finishOp o.n none)) ∧
    (∀ tile base fmt td e loc, o.kind = .acld tile base false fmt td e loc →
      let chans := (Rns.channels fmt).filter fun c => !(s.pod pod).retired.contains c
      let lines := planeLines base.toNat chans
      s.mxStop o loc .read lines = none → ∀ s' r, s.engineReads o.gid loc lines = (s', r, none) →
      exec (.mxOperationComplete n) s = .next (((s'.setTile pod tile (((s.tile pod tile).cleared fmt td e).load false
        (acldResidues (lines.zip r) base.toNat chans))).dropInjected pod tile).finishOp o.n none))

/-- R295, R305 to R310, R319, R421: a CPY, a CBLD or a CPYM whose turn has come, whose checks pass and whose bytes lie in
no channel that serves no access is carried out: the copy's box is read, converted and written and its record says OK; the
book is loaded whole; the CPYM, with fewer than 64 arrivals unreleased in each of its streams, has read its source once,
its arrivals numbered after those sent before (the numbering of a stream is the model's choice, log 102), and it ends when
the outcome of every arrival is known. -/
def Claims.CopiesComplete : Prop :=
  ∀ (s : State) (n : Nat) (o : Op) (l : Launch), s.op? n = some o → s.launch? (lidOf o.gid) = some l →
    o.fault = none → o.walk = none → s.inTurn o = true →
    let pod := s.podOfOp o
    (∀ a p s1 b s2, o.kind = .cpy a → s.checkCopy o.gid pod l.layouts a false = .ok p →
      s.piecesHeld o.gid a.srcLocal p.src = false → s.piecesHeld o.gid a.dstLocal p.dst = false →
      s.piecesHeld o.gid false (doneBytes a.done) = false →
      s.readBox o.gid pod a p = (s1, b, none) → s1.engineWrite o.gid a.dstLocal b.puts none = (s2, none) →
      exec (.copyOperationComplete n) s = .next
        (s2.endCopy o a.done Status.ok (boxBits b) b.elems (boxFirst b) a.seq none)) ∧
    (∀ k image done seq s1 r, o.kind = .cbld k image done seq →
      let pieces := (List.range 16).map fun i => (image.toNat + 32 * i, 32)
      s.bytesStop o.gid false .read pieces = none → s.bytesStop o.gid false .write (doneBytes done) = none →
      s.piecesHeld o.gid false (pieces ++ doneBytes done) = false → s.engineReads o.gid false pieces = (s1, r, none) →
      let b := bookOf (r.flatMap fun x => leBytes 32 (x.getD 0))
      exec (.copyOperationComplete n) s = .next ((s1.onPod pod fun p =>
        { p with books := Sparse.set Book.empty p.books k b }).endCopy o done Status.ok (if b.ordered then 2 ^ 12 else 0)
          256 (2 ^ 64 - 1) seq none)) ∧
    (∀ a slot w p s1 b, o.kind = .cpym a slot w none → s.checkCopy o.gid pod l.layouts a true = .ok p →
      targetsBad l w = false → s.piecesHeld o.gid a.srcLocal p.src = false → (∀ y ∈ targetsOf w, (s.streamTo o y.2).length < 64) → s.readBox o.gid pod a p = (s1, b, none) →
      let sent := (targetsOf w).map fun y => (⟨y.1, y.2, s.nextOp, none, none⟩ : Arrival)
      exec (.copyOperationComplete n) s = .next
        { s1.onOp o.n fun x => { x with kind := .cpym a slot w (some (b, sent)) } with nextOp := s.nextOp + 1 }) ∧
    (∀ a slot w b arr, o.kind = .cpym a slot w (some (b, arr)) → (∀ x ∈ arr, x.reason ≠ none) →
      exec (.copyOperationComplete n) s = .next (s.endCopy o a.done Status.ok
        (boxBits b + targetMask w * 2 ^ 16 + arrivalBits arr) b.elems (boxFirst b) a.seq none))

/-- R34, R319: the book that CBLD makes of a 512-byte image holds at code k the little-endian s16 at offset 2k, and is
ordered when its entries rise. -/
def Claims.BookImageEntries : Prop :=
  ∀ (bs : List Byte), bs.length = 512 →
    (∀ k, k < 256 → (bookOf bs).entry k =
      ((bs.getD (2 * k + 1) 0 ++ bs.getD (2 * k) 0 : BitVec 16)).toInt) ∧
    ((bookOf bs).ordered = true ↔ ∀ k, k < 255 → (bookOf bs).entry k < (bookOf bs).entry (k + 1))

/-- R295, R312, R317: an arrival of a CPYM, the first of its stream that is not released, that meets an armed slot with
room of a team that is whole on its core, its bytes inside the slot's region, is accepted under the slot's generation; an accepted one is written under the same generation and counted, and its
outcome is 0. One that meets a slot which is not armed, or has no room, is refused with reason 1 (of a slot without room
the reason is the model's choice, log 46). -/
def Claims.CpymArrivalMeetsItsSlot : Prop :=
  ∀ (s : State) (n k : Nat) (o : Op) (l : Launch) (a : CopyArgs) (slot : Nat) (w : Word) (b : BoxOut) (arr : List Arrival)
    (x : Arrival) (tm : Team),
    s.op? n = some o → o.kind = .cpym a slot w (some (b, arr)) → s.launch? (lidOf o.gid) = some l → l.lid = lidOf o.gid →
    arr.find? (fun y => y.k == k && y.reason.isNone) = some x → s.team? l.lid x.team = some tm →
    s.holdsArrival l.lid x.team slot = false → (x.gen = none → ∀ y ∈ s.streamTo o x.team, x.seq ≤ y.seq) →
    let d := tm.land slot
    (x.gen = none → (d.st ≠ .armed ∨ d.want ≤ d.got) → exec (.cpymArrival n k) s = .next (s.setReason o.n x.k 1)) ∧
    (x.gen = none → d.st = .armed → d.got < d.want →
      arrivalFits a (decide (teamOf o.gid = x.team)) (sourceBytes l.layouts a) d (arrivalPuts b d.base) = true →
      ∃ t, exec (.cpymArrival n k) s = .next t ∧
        (∃ y, t.team? l.lid x.team = some y ∧ y.land slot = { d with got := d.got + 1 }) ∧ t.mem = s.mem) ∧
    (x.gen = some d.gen →
      exec (.cpymArrival n k) s = .next
        (((((s.enginePuts (.member (lidOf o.gid) x.team 0) true (arrivalPuts b d.base)).healLocal
          (.member (lidOf o.gid) x.team 0) (localBytes (arrivalPuts b d.base))).onTeam (lidOf o.gid) x.team
          fun z => z.setLand slot { z.land slot with wrote := d.wrote + 1 }).fillLand (lidOf o.gid) x.team slot).setReason
            o.n x.k 0))

/-! ### Results that come back -/

/-- R136, R276, R285, R421: a result under way lands, unless a channel that it needs serves no access: its values go to its
registers and scalars, its flags are raised, and it is no longer pending; a failed one writes nothing and its trap waits
for its place, in the order of the failed instructions. -/
def Claims.ResultsLand : Prop :=
  ∀ (s : State) (gid : GroupId) (n : Nat) (g : Group) (p : Pend), s.group? gid = some g →
    let ev := fun (k : PendKind) => match k with
      | .load => Instr.loadResponse gid n
      | .atomic => Instr.atomicResponse gid n
      | _ => Instr.variableLatencyResult gid n
    ∀ k, (k = .load ∨ k = .atomic ∨ k = .scalar) → p.kind = k → g.pend.find? (fun q => q.n == n && q.kind == k) = some p →
    (p.chans.any s.channelHeld = true → exec (ev k) s = .next s) ∧
    (p.chans.any s.channelHeld = false →
    ∃ t y, exec (ev k) s = .next t ∧ OnlyGroup s t gid ∧ t.group? gid = some y ∧ (∀ q ∈ y.pend, q.n ≠ n) ∧
      (p.fail = none → y.vregs = Sparse.setAll 0 g.vregs p.vals ∧ y.fflags = g.fflags ||| p.flags ∧
        y.sregs = p.svals.foldl (fun m x => Sparse.set 0 m x.1 x.2) g.sregs ∧ y.deferred = g.deferred) ∧
      (∀ f, p.fail = some f → y.vregs = g.vregs ∧ y.sregs = g.sregs ∧
        ∃ a b d, y.deferred = a ++ d :: b ∧ d.fail = f ∧ d.addr = p.addr ∧ d.n = p.n ∧ (∀ e ∈ a, e ∈ g.deferred ∧ e.n < p.n) ∧
          (∀ e ∈ b, e ∈ g.deferred ∧ p.n ≤ e.n) ∧ (∀ e ∈ g.deferred, e ∈ a ∨ e ∈ b) ∧
          (g.deferred.Pairwise (fun e e' => e.n ≤ e'.n) → y.deferred.Pairwise fun e e' => e.n ≤ e'.n)))

/-- R279, R296, R410, R413, R421: an acknowledged write no longer holds a fence, one whose channel serves no access stays
unacknowledged; a peer's write that fails is entered in the journal as an event of kind 5 and source 7, at once while the
journal has room and else to be entered when it has, and kept for the next wait or fence that reports it. -/
def Claims.WriteAcknowledged : Prop :=
  ∀ (s : State) (gid : GroupId) (n : Nat) (ok : Bool) (g : Group) (a : Ack), s.group? gid = some g →
    g.acks.find? (fun x => x.n == n) = some a →
    (a.peer = none → a.chans.any s.channelHeld = true → exec (.writeAcknowledgement gid n ok) s = .next s) ∧
    ((a.peer = none → a.chans.any s.channelHeld = false) → ∃ t y, exec (.writeAcknowledgement gid n ok) s = .next t ∧ t.group? gid = some y ∧ (∀ x ∈ y.acks, x.n ≠ n) ∧
      y.acks.length < g.acks.length ∧ t.mem = s.mem ∧ y.vregs = g.vregs ∧ y.sregs = g.sregs ∧
      (a.peer = none ∨ (ok && s.linked) = true → y.lost = g.lost ∧ t.journal = s.journal) ∧
      (∀ pa, a.peer = some pa → (ok && s.linked) = false → y.lost ≠ [] ∧
        let x : Noted := ⟨5, 0, 7, 0, BitVec.ofNat 64 pa⟩
        (s.journal.full = true → t.journal = { s.journal with waiting := s.journal.waiting ++ [x] }) ∧
        (s.journal.full = false → t.journal = (s.journalEntry x 1).journal)))

/-- R259, R283, R284, R416, R421: a FETCH whose batch's turn has come, with its stack serving accesses, writes its 128 bytes
to its scratchpad line, gives its slot back and is complete in its batch; a POST of a line of the part's own memory stores
it there and does the same; one that finds a poisoned word in its scratchpad line stores nothing, and its batch fails. -/
def Claims.LineTransfersEnd : Prop :=
  ∀ (s : State) (n : Nat) (o : Op) (ga pa la : Nat), s.op? n = some o → o.n = n → s.inTurn o = true → s.opHeld o = false →
    s.isPeer pa = false →
    (o.kind = .fetch ga pa la → s.poisonedSpan pa 128 = false →
      exec (.fetchLineLanded n) s = .next ((((s.touch (State.span pa 128) (s.opObj o ga) false).localWrite o.gid
        (.scratch la) (s.memRead pa 128)).healLocal o.gid (State.span la 128)).endLine o none)) ∧
    (o.kind = .post ga pa la → s.localBad o.gid la 128 = true →
      ∃ t : State, exec (.postAcknowledged n) s = .next (t.endLine o (some (badData ga))) ∧ t.mem = s.mem) ∧
    (o.kind = .post ga pa la → s.localBad o.gid la 128 = false →
      ∃ t, exec (.postAcknowledged n) s = .next t ∧ t.op? n = none ∧
        t.memRead pa 128 = s.localRead o.gid (.scratch la) 128 ∧
        (∀ a, (a < pa ∨ pa + 128 ≤ a) → t.memGet a = s.memGet a) ∧
        ∀ g, t.group? o.gid = some g → n ∉ g.slots)

/-! ### Barriers, objects and waves -/

/-- R361 to R363, R366, R367: at a barrier that the launch has, with a count from 1 to its members that agrees with its
generation's, BAR and BARA arrive: the last arrival completes the generation, clears the barrier and releases every waiter,
and an earlier one is counted; BAR then goes on or waits for the generation, and BARA sends its token. BARW waits while its
token's generation is under way, BARQ sends the barrier's word, and BINIT with no waiter sets the count. -/
def Claims.BarrierInstructionsComplete : Prop :=
  ∀ (s : State) (g : Group) (l : Launch) (hdr j : Nat) (hw : Word) (k : Nat) (b : Barrier) (members : Nat),
    s.barrier l g k = some (b, members) →
    let done := fun (i : Instr) (h : Head) (t : State) (c : Ctl) => exec i s = .next (issued i h s g l hdr j hw t c)
    (∀ o, o.bar.toNat = k → badCount (countOf g o.n) members b = false → Acts (.bar o) o.h s g l hdr j hw →
      (b.arrived.toNat + 1 = countOf g o.n → done (.bar o) o.h
        ((s.setBarrier l g k ⟨b.gen + 1, 0, 0⟩).releaseWaiters l g k) .next) ∧
      (b.arrived.toNat + 1 ≠ countOf g o.n → done (.bar o) o.h
        (s.setBarrier l g k ⟨b.gen, b.arrived + 1, BitVec.ofNat 24 (countOf g o.n)⟩) (.park (.barrier k b.gen.toNat)))) ∧
    (∀ o, o.bar.toNat = k → badCount (countOf g o.n) members b = false → Acts (.bara o) o.h s g l hdr j hw →
      (b.arrived.toNat + 1 = countOf g o.n → done (.bara o) o.h
        (((s.setBarrier l g k ⟨b.gen + 1, 0, 0⟩).releaseWaiters l g k).addPend g .scalar [] [o.t.toNat] []
          [(o.t.toNat, b.gen.setWidth 64)] 0 none) .next) ∧
      (b.arrived.toNat + 1 ≠ countOf g o.n → done (.bara o) o.h
        ((s.setBarrier l g k ⟨b.gen, b.arrived + 1, BitVec.ofNat 24 (countOf g o.n)⟩).addPend g .scalar [] [o.t.toNat] []
          [(o.t.toNat, b.gen.setWidth 64)] 0 none) .next)) ∧
    (∀ o, o.bar.toNat = k → Acts (.barw o) o.h s g l hdr j hw →
      (b.gen = (g.sreg o.t.toNat).setWidth 16 → done (.barw o) o.h s (.park (.barrier k b.gen.toNat))) ∧
      (b.gen ≠ (g.sreg o.t.toNat).setWidth 16 → done (.barw o) o.h s .next)) ∧
    (∀ o, o.bar.toNat = k → Acts (.barq o) o.h s g l hdr j hw → done (.barq o) o.h
      (s.addPend g .scalar [] [o.t.toNat] [] [(o.t.toNat, b.gen ++ b.arrived ++ b.count)] 0 none) .next) ∧
    (∀ o, o.bar.toNat = k → countOf g o.n ≤ members →
      (∀ x ∈ s.groups, ¬(sameBarrier l g.id x.id k = true ∧ x.waitsAt k = true)) → Acts (.binit o) o.h s g l hdr j hw →
      done (.binit o) o.h (s.setBarrier l g k ⟨b.gen, 0, BitVec.ofNat 24 (countOf g o.n)⟩) .next)

/-- R362, R363: the arrival that completes a generation leaves no waiter at the barrier and touches no other group, and
the barrier's next generation starts with no arrival and no count. -/
def Claims.LastArrivalReleasesEveryWaiter : Prop :=
  ∀ (s : State) (g : Group) (l : Launch) (k : Nat),
    (∀ x ∈ (s.releaseWaiters l g k).groups, ¬(sameBarrier l g.id x.id k = true ∧ x.waitsAt k = true)) ∧
    (∀ (i : Nat) (x : Group), s.groups[i]? = some x → (sameBarrier l g.id x.id k && x.waitsAt k) = false →
      (s.releaseWaiters l g k).groups[i]? = some x) ∧
    { s.releaseWaiters l g k with groups := s.groups } = s ∧
    (∀ (b : Barrier) (tm : Team), k < 16 → isWave g.id = false → s.launch? l.lid = some l →
      s.team? l.lid (teamOf g.id) = some tm → (s.setBarrier l g k b).barrier l g k = some (b, l.groupsPer))

/-- R361, R363, R366, R367: BAR and BARA with a count of 0, above the members, or other than that of the generation's earlier
arrivals trap with BARRIER_COUNT, and so does BINIT with a count above the members, whether or not there are waiters; a
BINIT with a count that fits, of a barrier with a waiter, traps with BARRIER_BUSY. BAR, BARA, BARW, BARQ and BINIT of a
barrier that the launch lacks trap with ILLEGAL, %tval being its number. -/
def Claims.BarrierCountTraps : Prop :=
  ∀ (o : YBar) (s : State) (g : Group) (l : Launch) (hdr j : Nat) (hw : Word),
    let n := countOf g o.n
    (∀ b members, s.barrier l g o.bar.toNat = some (b, members) →
      (n = 0 ∨ members < n ∨ (b.count ≠ 0 ∧ b.count.toNat ≠ n)) →
      let out := Host.Outcome.next (trapped s g hdr j Cause.barrierCount (BitVec.ofNat 64 (n + b.count.toNat * 2 ^ 24)))
      (Acts (.bar o) o.h s g l hdr j hw → exec (.bar o) s = out) ∧
      (∀ a : YBara, a.bar = o.bar → a.n = o.n → Acts (.bara a) a.h s g l hdr j hw → exec (.bara a) s = out)) ∧
    (∀ b members, s.barrier l g o.bar.toNat = some (b, members) → Acts (.binit o) o.h s g l hdr j hw →
      (members < n → exec (.binit o) s =
        .next (trapped s g hdr j Cause.barrierCount (BitVec.ofNat 64 (n + b.count.toNat * 2 ^ 24)))) ∧
      (n ≤ members → (∃ x ∈ s.groups, sameBarrier l g.id x.id o.bar.toNat = true ∧ x.waitsAt o.bar.toNat = true) →
        exec (.binit o) s = .next (trapped s g hdr j Cause.barrierBusy (BitVec.ofNat 64 o.bar.toNat)))) ∧
    (s.barrier l g o.bar.toNat = none →
      let out := Host.Outcome.next (trapped s g hdr j Cause.illegal (BitVec.ofNat 64 o.bar.toNat))
      (Acts (.bar o) o.h s g l hdr j hw → exec (.bar o) s = out) ∧
      (Acts (.binit o) o.h s g l hdr j hw → exec (.binit o) s = out) ∧
      (∀ a : YBara, a.bar = o.bar → Acts (.bara a) a.h s g l hdr j hw → exec (.bara a) s = out) ∧
      (∀ a : YTok, a.bar = o.bar → Acts (.barw a) a.h s g l hdr j hw → exec (.barw a) s = out) ∧
      (∀ a : YTok, a.bar = o.bar → Acts (.barq a) a.h s g l hdr j hw → exec (.barq a) s = out))

/-- R370, R371, R380: OBJREG of a descriptor that can be read, is well formed, names an object page of the part and no
registered address, in a launch with room, registers the object with its home slice and answers 0; OBJDEL of an idle object of the launch
removes it and answers 0, of an unknown one answers 1; OREL of a held object releases it and answers 0, of one that is not
held answers 1, and of an unknown one 2. -/
def Claims.ObjectInstructionsComplete : Prop :=
  ∀ (o : YObj) (s : State) (g : Group) (l : Launch) (hdr j : Nat) (hw : Word),
    let va := (g.sreg o.s.toNat).toNat
    let answers := fun (i : Instr) (t : State) (v : Nat) => exec i s = .next (issued i o.h s g l hdr j hw
      (t.addPend g .scalar [] [o.s.toNat] [] [(o.s.toNat, BitVec.ofNat 64 v)] 0 none))
    (∀ s0 s' bs t, Acts (.objreg o) o.h s g l hdr j hw → g.core < 1024 → s.checkGlobal g.core .read [⟨0, va, 64⟩] = none →
      let p := s.physOf g.core va
      s.gread g.core false p.1 64 (pteObj p.2) = (s0, some bs) → s' = (if s.isPeer p.1 then s0.drawn else s0) → descBad (ofBytes bs) = false →
      let x := descObj (ofBytes bs)
      s'.known g.core x.addr = some t → s'.notObject g.core x = false → s'.registered x.addr = false → l.objects.length < 4096 →
      let s1 := s'.release g.core
      let s2 := if descField (ofBytes bs) 20 1 = 1 then s1.homeWrite (t.phys x.addr) (List.replicate x.size 0) true else s1
      let home := (towerOfPa (t.phys x.addr), sliceOf (t.phys x.addr) (pteObj t.pte))
      answers (.objreg o) (s2.onLaunch l.lid fun y => { y with objects := y.objects ++ [{ x with home := home }] }) 0) ∧
    (Acts (.objdel o) o.h s g l hdr j hw → isWave g.id = false →
      (s.object? l.lid va = none → answers (.objdel o) s 1) ∧
      (∀ x, s.object? l.lid va = some x → x.wave = none → x.queue = [] →
        answers (.objdel o) (s.onLaunch l.lid fun y => { y with objects := y.objects.filter fun z => z.addr != va }) 0)) ∧
    (Acts (.orel o) o.h s g l hdr j hw →
      (s.object? l.lid va = none → answers (.orel o) s 2) ∧
      (∀ x, s.object? l.lid va = some x → x.held = false → answers (.orel o) s 1) ∧
      (∀ x, s.object? l.lid va = some x → x.held = true →
        answers (.orel o) (s.onObject l.lid va fun y => { y with held := false }) 0))

/-- R372, R374: an OCALL of a team's group whose objects' addresses are in the space and translated, with room, sends one
request for each executing lane, joins the open CB batch and has a reply under way to vD; with no executing lane it sends
nothing; without room it waits. -/
def Claims.OcallSendsItsRequests : Prop :=
  ∀ (o : YOcall) (s : State) (g : Group) (l : Launch) (hdr j : Nat) (hw : Word), Acts (.ocall o) o.h s g l hdr j hw →
    isWave g.id = false →
    let rs := requestsOf s g o s.nextOp (g.executing o.h)
    (∀ r ∈ rs, r.obj < 2 ^ 57 ∧ (s.known g.core r.obj).isSome = true) →
    (g.executing o.h = [] → exec (.ocall o) s = .next (issued (.ocall o) o.h s g l hdr j hw s)) ∧
    (g.executing o.h ≠ [] → s.callFits g rs = false → exec (.ocall o) s = .next (waiting s g .queueRoom)) ∧
    (g.executing o.h ≠ [] → s.callFits g rs = true → exec (.ocall o) s = .next (issued (.ocall o) o.h s g l hdr j hw
      ((s.addOp g .cb (.ocall rs o.d.toNat [] (g.executing o.h))).onGroup g.id fun x => { x with
        pend := x.pend ++ [g.pendOf s.nextOp (.reply s.nextOp) [o.d.toNat, o.d.toNat + 1] [] [] [] 0 none] })))

/-- R373, R374: the home takes the requests of an OCALL to one object as one block: an object that is not held queues
them in lane order behind what it has; a held one answers each with status 1, and one that the launch lacks with status 3.
A reply that comes lands in its lane's pair, value and status, if that lane lives, and the last one completes the OCALL. -/
def Claims.RequestsAreAcceptedAndAnswered : Prop :=
  (∀ (s : State) (n : Nat) (o : Op) (r : Request) (rest : List Request) (d : Nat) (coming : List (Nat × Lane × Nat))
    (w : List Nat), s.op? n = some o → o.kind = .ocall (r :: rest) d coming w →
    (∀ p ∈ s.ops, p.gid = o.gid → p.n < n → ∀ a b c e, p.kind = .ocall a b c e → ∀ x ∈ a, x.obj ≠ r.obj) →
    let block := (r :: rest).filter fun x => x.obj == r.obj
    let s1 := s.onOp n fun p => { p with kind := .ocall ((r :: rest).filter fun x => x.obj != r.obj) d coming w }
    (s.object? (lidOf o.gid) r.obj = none →
      exec (.ocallRequestAccept n) s = .next (block.foldl (fun s x => s.answer x 0 3) s1)) ∧
    (∀ y, s.object? (lidOf o.gid) r.obj = some y → y.held = true →
      exec (.ocallRequestAccept n) s = .next (block.foldl (fun s x => s.answer x 0 1) s1)) ∧
    (∀ y, s.object? (lidOf o.gid) r.obj = some y → y.held = false →
      ∃ t z, exec (.ocallRequestAccept n) s = .next t ∧ t.object? (lidOf o.gid) r.obj = some z ∧
        z.queue = y.queue ++ block ∧ z.wave = y.wave ∧ t.groups = s.groups ∧ t.mem = s.mem)) ∧
  (∀ (s : State) (n lane : Nat) (o : Op) (g : Group) (sent : List Request) (d : Nat) (coming : List (Nat × Lane × Nat))
    (w : List Nat) (v : Lane) (st : Nat), s.op? n = some o → o.kind = .ocall sent d coming w →
    coming.find? (fun c => c.1 == lane) = some (lane, v, st) → s.group? o.gid = some g → g.halted = false → lane < 64 →
    ∃ t y, exec (.ocallReply n lane) s = .next t ∧ t.group? o.gid = some y ∧ t.mem = s.mem ∧
      (g.live.getLsbD lane = true → y.fileV d lane = v ∧ y.fileV (d + 1) lane = BitVec.ofNat 32 st) ∧
      (g.live.getLsbD lane = false → y.vregs = g.vregs) ∧
      ((∀ x ∈ w, x = lane) → t.op? n = none ∧ ∀ p ∈ y.pend, p.kind ≠ .reply n))

/-- R153, R375, R376: a wave starts for an idle object with requests, when its home's pod has a core with room: it takes
requests from the head of the queue, has one lane for each, and starts at the object's entry with its arguments, items,
address, count and context. Memory changes only where the core's L1, giving up lines for the window, writes back what the
core saw. -/
def Claims.WaveStarts : Prop :=
  ∀ (s : State) (lid addr c : Nat) (o : Obj) (l : Launch), s.object? lid addr = some o → s.launch? lid = some l → l.savedWhole = false → o.held = false → o.wave = none →
    o.queue ≠ [] → s.group? (.wave lid addr) = none → s.waveCore (o.home.1 * 32 + o.home.2) o.win = some c →
    let rs := takeRequests (min 32 o.batch) [] o.queue
    ∃ t g z, exec (.waveStart lid addr) s = .next t ∧ t.group? (.wave lid addr) = some g ∧
      t.object? lid addr = some z ∧ z.wave = some rs ∧ z.queue = o.queue.drop rs.length ∧ rs = o.queue.take rs.length ∧
      rs.length ≤ 32 ∧ g.core = c ∧ g.width = 32 ∧ g.n = o.win ∧ g.pos = .header o.entry none ∧
      g.live = maskOf (List.range rs.length) (fun _ => true) ∧ g.em = g.live ∧
      g.sreg 0 = BitVec.ofNat 64 o.addr ∧ g.sreg 1 = BitVec.ofNat 64 rs.length ∧ g.sreg 2 = o.ctx ∧
      (∀ k r, rs[k]? = some r → g.fileV 0 k = r.arg0 ∧ g.fileV 1 k = r.arg1 ∧ g.fileV 2 k = BitVec.ofNat 32 r.item) ∧
      (∀ k, k ≠ .wave lid addr → t.group? k = s.group? k) ∧
      ∀ a, t.memGet a = s.memGet a ∨ t.memGet a = s.l1Get c a

/-- R377, R378: in a wave CREPLY notes the value of each executing lane, and CDONE without a failure to report ends the wave:
no lane is left, the requests of the wave are answered with what their lanes gave, and its object serves no wave. Outside
a wave CREPLY traps with ILLEGAL. -/
def Claims.WaveInstructionsComplete : Prop :=
  ∀ (s : State) (g : Group) (l : Launch) (hdr j : Nat) (hw : Word),
    (∀ o, Acts (.creply o) o.h s g l hdr j hw → isWave g.id = true →
      ∃ y, exec (.creply o) s = .next (issued (.creply o) o.h s g l hdr j hw (s.setGroup y)) ∧
        y = { g with replies := y.replies } ∧ ∀ x, Sparse.get 0 y.replies x =
          if x ∈ g.executing o.h then g.readV g.issued o.a.toNat x else Sparse.get 0 g.replies x) ∧
    (∀ o, Acts (.creply o) o.h s g l hdr j hw → isWave g.id = false →
      exec (.creply o) s = .next (trapped s g hdr j Cause.illegal ((encode (.creply o)).headD 0))) ∧
    (∀ o lid addr ob rs, Acts (.cdone o) o.h s g l hdr j hw → g.id = .wave lid addr → g.deferred = [] → g.failing = false →
      s.object? lid addr = some ob → ob.wave = some rs →
      ∃ t y z, exec (.cdone o) s = .next t ∧ t.group? g.id = some y ∧ y.live = 0 ∧ y.em = 0 ∧ y.done = true ∧
        y.active = false ∧ t.object? lid addr = some z ∧ z.wave = none ∧ z.queue = ob.queue ∧ t.mem = s.mem ∧
        ∀ (n : Nat) (op : Op) (r : Request) (k : Nat) sent d coming w, rs[k]? = some r → r.op = n → s.op? n = some op →
          op.kind = .ocall sent d coming w → ∃ op' coming' , t.op? n = some op' ∧ op'.kind = .ocall sent d coming' w ∧
            (r.lane, Sparse.get 0 g.replies k, 0) ∈ coming')

/-- R379: a wave whose counted time has reached 940,000 core clocks halts, and its object is held. -/
def Claims.WaveTimeLimitHoldsTheObject : Prop :=
  ∀ (s : State) (lid addr : Nat) (g : Group) (o : Obj), s.group? (.wave lid addr) = some g → s.object? lid addr = some o →
    g.halted = false → g.done = false →
    (g.waveTime < 940000 → exec (.waveTimeLimit lid addr) s = .next s) ∧
    (940000 ≤ g.waveTime → ∃ t y z, exec (.waveTimeLimit lid addr) s = .next t ∧
      t.group? (.wave lid addr) = some y ∧ y.halted = true ∧ y.live = 0 ∧ t.object? lid addr = some z ∧ z.held = true ∧
      z.wave = none ∧ z.queue = [] ∧ t.mem = s.mem)

/-! ### System instructions -/

/-- R383, R384: a trap taken outside a handler, in a launch with a handler, writes %cause, %epc and %tval, sets aside the
resume point, the bypass, %sig, `em` and the depth, and leaves the group at the handler's entry; DEFERRED is set when the
resume point is not %epc. Nothing else of the group and no other part of the state changes. A trap of lanes that are behind
has their instruction as its resume point, while the group goes on where it stands, and sets their work aside (the model's
choice, log 13). -/
def Claims.TrapEntersTheHandler : Prop :=
  ∀ (s : State) (g : Group) (l : Launch) (cause : Nat) (epc tval : Word) (resume : Pos) (late : Option LaneWork),
    s.group? g.id = some g →
    s.launch? (lidOf g.id) = some l → g.aside = none → isWave g.id = false → l.trapOfs ≠ 0 →
    let t := s.takeTrap g.id cause epc tval resume late
    OnlyGroup s t g.id ∧ ∃ y, t.group? g.id = some y ∧
      y.cause = BitVec.ofNat 64 (cause + if epc = BitVec.ofNat 64 ((late.map (·.addr)).getD resume.addr) then 0 else 256) ∧
      y.epc = epc ∧
      y.tval = tval ∧ y.aside = some ⟨resume, g.bypass, g.sig, g.em, g.stack.length, s.nextOp,
        late.map fun w => (w.idx, w.lanes), if late.isSome then g.backlog else []⟩ ∧
      y.backlog = (if late.isSome then [] else g.backlog) ∧ y.bypass = [] ∧ y.sig = 0 ∧
      y.pos = .header ((l.code : Int) + l.trapOfs).toNat none ∧ y.vregs = g.vregs ∧ y.sregs = g.sregs ∧
      y.preds = g.preds ∧ y.em = g.em ∧ y.live = g.live ∧ y.path = g.path ∧ y.stack = g.stack ∧ y.n = g.n ∧
      y.fflags = g.fflags ∧ y.cp = g.cp ∧ y.mx = g.mx ∧ y.cb = g.cb ∧ y.rm = g.rm ∧ y.reads = g.reads ∧
      y.pubs = g.pubs ∧ y.pend = g.pend

/-- What a halt leaves (R387): the group is halted, with no lane, its trap registers as they were; a record with this
reason, cause, %epc and %tval waits to be written; and the launch is aborted, or under CONTF the team is faulted. -/
abbrev Claims.Halted (t : State) (g : Group) (l : Launch) (reason cause : Nat) (epc tval : Word) : Prop :=
  ∃ y l' r, t.group? g.id = some y ∧ y.halted = true ∧ y.live = 0 ∧ y.em = 0 ∧ y.active = false ∧ y.cause = g.cause ∧
    y.epc = g.epc ∧ y.tval = g.tval ∧ t.launch? (lidOf g.id) = some l' ∧ l'.records = l.records ++ [r] ∧ r.kind = 2 ∧
    r.reason = reason ∧ r.cause = cause ∧ r.epc = epc ∧ r.tval = tval ∧ r.team = teamOf g.id ∧ r.group = groupOf g.id ∧
    r.core = g.core ∧ ((l.contf = false ∨ l.runner = true) → l'.aborted = true) ∧
    (l.contf = true → l.runner = false → l'.anyFault = true ∧
      ∀ x, t.team? (lidOf g.id) (teamOf g.id) = some x → x.faulted = true)

/-- R78, R386, R390: a trap in a handler, or in a launch without one, halts the group: REASON 1 or 2, with the cause, %epc
and %tval that this trap would have written. -/
def Claims.TrapWithoutAHandlerHalts : Prop :=
  ∀ (s : State) (g : Group) (l : Launch) (cause : Nat) (epc tval : Word) (resume : Pos) (late : Option LaneWork),
    s.group? g.id = some g → s.launch? (lidOf g.id) = some l → isWave g.id = false →
    (g.aside ≠ none → Claims.Halted (s.takeTrap g.id cause epc tval resume late) g l 1 cause epc tval) ∧
    (g.aside = none → l.trapOfs = 0 → Claims.Halted (s.takeTrap g.id cause epc tval resume late) g l 2 cause epc tval)

/-- R401, R384: TRAP and BKPT take SOFTWARE and BREAKPOINT with IMM16 in %tval; %epc and the resume point are the header
of the next clause for TRAP, and the place that follows for BKPT. In a handler each halts the group with DOUBLE (REASON
1), in a launch without a handler with REASON 2, and in a wave the wave halts. One whose guard fails has no effect: TRAP
goes on at the next clause and BKPT at the next slot. -/
def Claims.SoftwareTraps : Prop :=
  ∀ (o : ZTrap) (s : State) (g : Group) (l : Launch) (hdr j : Nat) (hw : Word),
    let next := hdr + 8 * (((Header.ofWord hw).map Header.slots).getD 0 + 1)
    let taken := fun (i : Instr) (cause : Nat) (p : Pos) =>
      (isWave g.id = true → EndsIn i s g fun _ y => y.halted = true ∧ y.live = 0 ∧ y.em = 0) ∧
      (isWave g.id = false → g.aside = none → l.trapOfs ≠ 0 → EndsIn i s g fun t y => OnlyGroup s t g.id ∧ y.cause = BitVec.ofNat 64 cause ∧
        y.epc = BitVec.ofNat 64 p.addr ∧ y.tval = o.imm.setWidth 64 ∧ (y.aside.map (·.resume)) = some p ∧
        y.pos = .header ((l.code : Int) + l.trapOfs).toNat none ∧ y.vregs = g.vregs ∧ y.sregs = g.sregs ∧
        y.preds = g.preds ∧ y.em = g.em) ∧
      (isWave g.id = false → g.aside = none → l.trapOfs = 0 →
        ∃ t, exec i s = .next t ∧ Claims.Halted t g l 2 cause (BitVec.ofNat 64 p.addr) (o.imm.setWidth 64)) ∧
      (isWave g.id = false → g.aside ≠ none →
        ∃ t, exec i s = .next t ∧ Claims.Halted t g l 1 cause (BitVec.ofNat 64 p.addr) (o.imm.setWidth 64))
    let skips := fun (i : Instr) => g.guardHolds o.h = false → exec i s = .next (skipped i o.h s g l hdr j hw)
    (Acts (.trap o) o.h s g l hdr j hw → taken (.trap o) 22 (.header next (some (slotAddr hdr j)))) ∧
    (Acts (.bkpt o) o.h s g l hdr j hw → taken (.bkpt o) 23 (nextPlace hdr j hw (encode (.bkpt o)).length).resume) ∧
    (Issues (.trap o) o.h s g l hdr j hw → skips (.trap o)) ∧
    (Issues (.bkpt o) o.h s g l hdr j hw → skips (.bkpt o))

/-- R403, R387: HALT halts the group with REASON 3, %epc of the record being the HALT itself; one whose guard fails goes on
at the next clause. -/
def Claims.HaltHalts : Prop :=
  ∀ (o : Bare) (s : State) (g : Group) (l : Launch) (hdr j : Nat) (hw : Word),
    (isWave g.id = true → Acts (.halt o) o.h s g l hdr j hw →
      EndsIn (.halt o) s g fun _ y => y.halted = true ∧ y.live = 0 ∧ y.em = 0) ∧
    (isWave g.id = false → Acts (.halt o) o.h s g l hdr j hw → ∃ t, exec (.halt o) s = .next t ∧
      Claims.Halted t g l 3 0 (BitVec.ofNat 64 (slotAddr hdr j)) 0) ∧
    (Issues (.halt o) o.h s g l hdr j hw → g.guardHolds o.h = false →
      exec (.halt o) s = .next (skipped (.halt o) o.h s g l hdr j hw))

/-- R112, R402: RTT in a handler, at the depth set aside, restores the bypass, %sig and `em` and leaves the handler: for the
resume point, for the header in s[A], or with `.skip` for the place after the resume point's instruction; it is the RTT that
transfers control. Outside a handler, at another depth, or with both options it traps with ILLEGAL, and so does `.skip` at a
resume point that is a header, the handler being left. After a trap of lanes that are behind, `.skip` leaves out their
instruction and s[A] all that they had still to do, the group going on where it stood (the model's choice, log 13). -/
def Claims.ReturnsFromTheHandler : Prop :=
  ∀ (o : ZRtt) (s : State) (g : Group) (l : Launch) (hdr j : Nat) (hw : Word), Acts (.rtt o) o.h s g l hdr j hw →
    let bad := exec (.rtt o) s = .next (trapped s g hdr j Cause.illegal ((encode (.rtt o)).headD 0))
    (g.aside = none → bad) ∧
    (∀ a, g.aside = some a → g.stack.length ≠ a.depth → bad) ∧
    (∀ a, g.aside = some a → g.stack.length = a.depth →
      let back := fun (a : Aside) (p : Pos) =>
        exec (.rtt o) s = .next (issued (.rtt o) o.h s g l hdr j hw (s.setGroup (g.leaveHandler a p)) (.at_ p)) ∧
        let y := g.leaveHandler a p
        y.aside = none ∧ y.sig = a.sig ∧ y.em = a.em &&& g.path ∧ y.bypass.map (·.vals) = a.bypass.map (·.vals) ∧
          y.vregs = g.vregs ∧ y.sregs = g.sregs ∧ y.preds = g.preds ∧ y.cause = g.cause ∧ y.epc = g.epc ∧ y.tval = g.tval
      (∀ r, o.dest = .both r → bad) ∧ (o.dest = .plain → back a (a.resume.from_ (slotAddr hdr j))) ∧
      (∀ r, o.dest = .reg r → back (a.without true) (.header (g.sreg r.toNat).toNat (some (slotAddr hdr j)))) ∧
      (o.dest = .skip → a.late ≠ none → back (a.without false) (a.resume.from_ (slotAddr hdr j)) ∧
        ∀ k m, a.late = some (k, m) → ∀ w ∈ (a.without false).backlog, w.idx = k → w.lanes &&& m = 0) ∧
      (o.dest = .skip → a.late = none → (∀ p, a.resume.skip (slotAddr hdr j) = some p → back a p) ∧
        (a.resume.skip (slotAddr hdr j) = none → exec (.rtt o) s = .next ((s.setGroup (g.leaveHandler a g.pos)).takeTrap g.id
          Cause.illegal (BitVec.ofNat 64 (slotAddr hdr j)) ((encode (.rtt o)).headD 0) (.back hdr j)))))

/-- R404, R95, R393: LAUNCH whose record can be read, when the group has no write to wait for, submits it: s[B] receives 0
when it is accepted, or the code of the refusal, which is also sent; a supervisor queue named by a launch that is no
supervisor traps with PRIVILEGE, and a record that is uncorrectable with MEM_UNCORRECTABLE. -/
def Claims.LaunchSubmitsARecord : Prop :=
  ∀ (o : ZLaunch) (s s' : State) (g : Group) (l : Launch) (hdr j : Nat) (hw : Word), Acts (.launch o) o.h s g l hdr j hw →
    let va := (g.sreg o.sa.toNat).toNat
    let sends := fun (t : State) (v : Nat) => exec (.launch o) s = .next (issued (.launch o) o.h s g l hdr j hw
      (t.addPend g .scalar [] [o.sb.toNat] [] [(o.sb.toNat, BitVec.ofNat 64 v)] 0 none))
    let traps := fun (c : Nat) (tv : Word) => exec (.launch o) s = .next (s'.takeTrap g.id c
      (BitVec.ofNat 64 (slotAddr hdr j)) tv (.back hdr j))
    s.checkGlobal g.core .read (recordParts va) = none → s.unperformed g = false → g.lost = [] →
    ((s.release g.core).readRecord g.core va = (s', none) → traps Cause.memUncorrectable (BitVec.ofNat 64 va)) ∧
    (∀ bs, (s.release g.core).readRecord g.core va = (s', some bs) →
      let r : BitVec 2048 := BitVec.ofNat 2048 (ofBytes bs)
      let super := s'.mgmt.super.getLsbD (field r 196 6)
      (super = true → l.supervisor = false → traps Cause.privilege ((encode (.launch o)).headD 0)) ∧
      (super = false ∨ l.supervisor = true →
        ((s'.accept r none).2 = 0 → sends (s'.accept r none).1 0) ∧
        ((s'.accept r none).2 ≠ 0 → (s'.accept r none).1.canPost = true →
          sends ((s'.accept r none).1.post none 2 (s'.accept r none).2 (field r 240 16) 0) (s'.accept r none).2)))

/-- R405 to R407: SETS writes the translation root, after what FENCE.rel.device does, and traps with ILLEGAL on a value that
R405 refuses; TLBINV removes the translations of one page from every TLB, or all; PRES releases the parked groups, the held operations and
a held save of the launch that it names, in the region of its page or all. -/
def Claims.TranslationInstructionsComplete : Prop :=
  ∀ (s : State) (g : Group) (l : Launch) (hdr j : Nat) (hw : Word), s.unperformed g = false → g.lost = [] →
    (∀ o, Acts (.sets o) o.h s g l hdr j hw → rootBad (g.sreg o.sa.toNat) = false →
      exec (.sets o) s = .next (issued (.sets o) o.h s g l hdr j hw { s.release g.core with troot := g.sreg o.sa.toNat })) ∧
    (∀ o, Acts (.sets o) o.h s g l hdr j hw →
      ((g.sreg o.sa.toNat) >>> 53 ≠ 0 ∨ ((g.sreg o.sa.toNat) >>> 1) &&& 0x7FFF ≠ 0 ∨
        ((g.sreg o.sa.toNat).getLsbD 0 = false ∧ (g.sreg o.sa.toNat) >>> 16 ≠ 0)) →
      exec (.sets o) s = .next (trapped s g hdr j Cause.illegal ((encode (.sets o)).headD 0))) ∧
    (∀ o, o.page = none → Acts (.tlbinv o) o.h s g l hdr j hw →
      exec (.tlbinv o) s = .next (issued (.tlbinv o) o.h s g l hdr j hw { s.release g.core with tlb := [] })) ∧
    (∀ o r, o.page = some r → (g.sreg r.toNat).toNat < 2 ^ 57 → Acts (.tlbinv o) o.h s g l hdr j hw →
      let out := fun (x : Tlb) => (g.sreg r.toNat).toNat < x.base ∨ x.base + x.size ≤ (g.sreg r.toNat).toNat
      ∃ t, exec (.tlbinv o) s = .next (issued (.tlbinv o) o.h s g l hdr j hw t) ∧ t = { s.release g.core with tlb := t.tlb } ∧
        (∀ x ∈ t.tlb, ∀ e ∈ x.2, out e) ∧
        ∀ x ∈ s.tlb, ∀ e ∈ x.2, out e → ∃ y ∈ t.tlb, y.1 = x.1 ∧ e ∈ y.2) ∧
    (∀ o, Acts (.pres o) o.h s g l hdr j hw → exec (.pres o) s = .next (issued (.pres o) o.h s g l hdr j hw
      (s.releaseFaults ((g.sreg o.sa.toNat).toNat % 65536) (o.sb.map fun r => (g.sreg r.toNat).toNat))))

/-- R388, R392, R407: a release lets go of the waits on translation faults of its launch whose records have been written,
and of no other wait, registers and masks staying as they are. -/
def Claims.ReleaseLetsFaultsGo : Prop :=
  ∀ (s : State) (lid : Nat) (g : Group) (f : List (Nat × Nat)), s.group? g.id = some g →
    ∃ y, (s.releaseFaults lid none).group? g.id = some y ∧ { y with wait := g.wait } = g ∧
      (lidOf g.id = lid → g.wait = some (.xlate f) → f ≠ [] →
        (∀ l r, s.launch? lid = some l → r ∈ l.records → g.raised lid r = false) → y.wait = none) ∧
      (lidOf g.id = lid → g.wait = some (.xlate f) →
        (∃ l r, s.launch? lid = some l ∧ r ∈ l.records ∧ g.raised lid r = true) → y = g) ∧
      (lidOf g.id ≠ lid → y = g) ∧ ((∀ a, g.wait ≠ some (.xlate a)) → y = g)

/-- R132, R393: SETS, TLBINV and PRES that are legal where they stand, in a launch that is no supervisor, trap with
PRIVILEGE and their own word, and have no other effect. -/
def Claims.PrivilegedInstructionsTrap : Prop :=
  ∀ (s : State) (g : Group) (l : Launch) (hdr j : Nat) (hw : Word), Stands s g l hdr j hw → l.supervisor = false →
    let out := fun (i : Instr) (h : Head) => Unstopped i h s g l → legalAt g hw j i = true →
      exec i s = .next (trapped s g hdr j Cause.privilege ((encode i).headD 0))
    (∀ o, out (.sets o) o.h) ∧ (∀ o, out (.tlbinv o) o.h) ∧ (∀ o, out (.pres o) o.h)

/-! ### Clauses, traps that wait, and places in a core -/

/-- R109, R112, R113, R147, R164, R384: a running group enters a clause whose header is one, is well formed, has its
thresholds met and reports no failure: the batches of its classes are acquired, %sig is folded with the header, and the
group stands at slot 0. It waits when a threshold is exceeded, and when an instruction of the clause reads a result that is
under way; an address that is no multiple of 8, a word that is no header, a malformed header and a word that the part may
not execute trap. A group that comes back to a slot stands there again, without thresholds or signature, or traps with
ILLEGAL at the slot when the header no longer makes it one (for a malformed header the slot is the model's reading, log 71).
A group whose 1,024 clocks in the active set are over leaves it at the boundary when another group of its core is ready. -/
def Claims.ClauseEntry : Prop :=
  ∀ (s : State) (g : Group) (l : Launch), s.group? g.id = some g → s.launch? (lidOf g.id) = some l → g.runs = true →
    g.live ≠ 0 → g.readyAt ≤ s.clock → g.stopsBy s.clock = false → g.em = 0 ∨ g.em &&& ~~~g.lagging ≠ 0 →
    (s.quantumDue g = true →
      exec (.clauseEntry g.id) s = .next (s.onGroup g.id fun x => { x with active := false, since := s.clock })) ∧
    (∀ a xfer, g.pos = .header a xfer → g.dues = [] → g.leave = false → s.quantumDue g = false →
      let goes := fun (t : State) => exec (.clauseEntry g.id) s = .next t
      let trap := fun (s : State) (c : Nat) (epc tv : Word) => goes (s.takeTrap g.id c epc tv (.header a none))
      (a % 8 ≠ 0 → trap s Cause.misaligned (BitVec.ofNat 64 (xfer.getD a)) (BitVec.ofNat 64 a)) ∧
      (∀ va, a % 8 = 0 → s.fetch g.core a = .error (.protect va) →
        trap s Cause.protection (BitVec.ofNat 64 va) (BitVec.ofNat 64 va)) ∧
      (a % 8 = 0 → ∀ s' hw, s.fetch g.core a = .ok (s', hw) →
        (Header.ofWord hw = none → trap s' Cause.clauseTarget (BitVec.ofNat 64 (xfer.getD a)) (BitVec.ofNat 64 a)) ∧
        (∀ h, Header.ofWord hw = some h →
          (h.good = false → trap s' Cause.illegal (BitVec.ofNat 64 a) hw) ∧
          (h.good = true → (∃ c ∈ headerWaits h, h.threshold c < (g.batches c).incomplete) →
            goes (s'.setGroup (g.await s'.clock (.thresholds ((headerWaits h).filter fun c =>
              decide (h.threshold c < (g.batches c).incomplete)))))) ∧
          (h.good = true → (∀ c ∈ headerWaits h, (g.batches c).incomplete ≤ h.threshold c) → g.lost = [] →
            (∀ c ∈ headerWaits h, (g.batches c).failure = none) →
            (s'.clauseReads l g a hw h = true → goes (s'.setGroup (g.await s'.clock .operands))) ∧
            (s'.clauseReads l g a hw h = false → goes ((if headerWaits h = [] then s' else s'.acquire g.core).setGroup
              { g.acquireBatches (headerWaits h) with
                sig := Crc.word (Crc.word g.sig hw) (g.path &&& ~~~g.em), pos := .slot a 0 hw, wait := none })))))) ∧
    (∀ hdr j s' hw h, g.pos = .back hdr j → s.fetch g.core hdr = .ok (s', hw) → Header.ofWord hw = some h →
      (h.good = true → h.literal j = false → j < h.slots →
        exec (.clauseEntry g.id) s = .next (s'.setGroup { g with pos := .slot hdr j hw, wait := none })) ∧
      (h.good = false ∨ h.literal j = true ∨ h.slots ≤ j →
        exec (.clauseEntry g.id) s = .next (s'.takeTrap g.id Cause.illegal (BitVec.ofNat 64 (slotAddr hdr j)) hw
          (.back hdr j))))

/-- R285: at a clause boundary, a running group takes the first of its deferred traps, in its handler the first of those
that the handler's instructions raised: %epc is the failed instruction, and the resume point the header. -/
def Claims.DeferredTrapAtABoundary : Prop :=
  ∀ (s : State) (g : Group) (l : Launch) (a : Nat) (x : Option Addr) (d : Deferred) (rest : List Deferred),
    s.group? g.id = some g → s.launch? (lidOf g.id) = some l → g.runs = true → g.pos = .header a x →
    g.dues = d :: rest → g.olderFails d = false →
    exec (.deferredTrap g.id) s = .next ((s.setGroup { g with deferred := g.deferred.erase d }).takeTrap g.id d.fail.cause
      (BitVec.ofNat 64 d.addr) d.fail.tval (.header a x))

/-- R228, R233: a group that waited for a runner value which has come waits no longer; a publish that has stalled for 256
core clocks, of the group or of lanes that are behind, counted from when it first stalled, may spill. -/
def Claims.RunnerEvents : Prop :=
  ∀ (s : State) (g : Group) (l : Launch), s.group? g.id = some g → s.launch? (lidOf g.id) = some l →
    (g.wait = some .runner → g.backlog = [] → g.resident = true → g.stopped = false → g.halted = false →
      let t := s.onGroup g.id fun x => { x with backlog := [] }
      (t.readSatisfied g l = true →
        exec (.runnerValueArrival g.id) s = .next (t.setGroup { g with wait := none })) ∧
      (t.readSatisfied g l = false → exec (.runnerValueArrival g.id) s = .next t)) ∧
    (∀ k n t, g.wait = some (.publish k n t) → g.spillOk = false → (∀ w ∈ g.backlog, w.stalled = none) →
      ∃ r y, exec (.runnerSpillTimeout g.id) s = .next r ∧ r.clock = max s.clock (t + 256) ∧ r.group? g.id = some y ∧
        y.spillOk = true ∧ y.wait = g.wait ∧ y.backlog = g.backlog ∧ y.vregs = g.vregs ∧ r.mem = s.mem) ∧
    (∀ w ∈ g.backlog, ∀ t, w.stalled = some t → w.spill = false →
      (∀ k n u, g.wait = some (.publish k n u) → g.spillOk = true ∨ t ≤ u) →
      (∀ v ∈ g.backlog, ∀ u, v.stalled = some u → v.spill = true ∨ t ≤ u) →
      ∃ r y, exec (.runnerSpillTimeout g.id) s = .next r ∧ r.clock = max s.clock (t + 256) ∧ r.group? g.id = some y ∧
        { w with spill := true } ∈ y.backlog ∧ y.vregs = g.vregs ∧ r.mem = s.mem)

/-- R146, R147, R149, R150, R395: a core with fewer than eight active groups activates a ready one, an urgent one if there
is one, else an aged one if there is one; a group that stands at a clause boundary after 1,024 core clocks leaves its place
when another is ready; a ready group is aged 8,192 core clocks after it became pending; since when a pending group has been
ready is what each step notes at its end, and one that is ready no longer has no such moment (the model's bookkeeping, log
77); an urgent group that has been ready for 64 core clocks with no place free has the lowest-ranking other group leave; one
that is to stop stops 4,096 core clocks after it was asked. -/
def Claims.PlacesOfACore : Prop :=
  (∀ (s : State) (core : Nat), (∀ x ∈ s.onCore core, x.withdrawn = none) →
    ((s.activeOn core).length < 8 → s.readyOn core ≠ [] → ∃ g ∈ s.readyOn core,
      exec (.groupActivation core) s =
        .next (s.setGroup { g with active := true, leave := false, since := s.clock, readySince := none }) ∧
      ((∃ x ∈ s.readyOn core, s.isUrgent x = true) → s.isUrgent g = true) ∧
      ((∀ x ∈ s.readyOn core, s.isUrgent x = false) → (∃ x ∈ s.readyOn core, s.aged x = true) → s.aged g = true)) ∧
    (8 ≤ (s.activeOn core).length → exec (.groupActivation core) s = .next s)) ∧
  (∀ (s : State) (g : Group), s.group? g.id = some g →
    (g.active = true → g.alive = true → g.since + 1024 ≤ s.clock → exec (.quantumExpiry g.id) s =
      .next (if s.quantumDue g then s.onGroup g.id fun x => { x with active := false, since := s.clock } else s)) ∧
    (s.ready g = true → ∃ t y, exec (.pendingAging g.id) s = .next t ∧ t.clock = max s.clock (g.since + 8192) ∧
      t.mem = s.mem ∧ t.launches = s.launches ∧ t.group? g.id = some y ∧ t.aged y = true) ∧
    (∃ y, s.noteReady.group? g.id = some y ∧
      y.readySince = (if s.ready g then some (g.readySince.getD s.clock) else none) ∧
      { y with readySince := g.readySince } = g) ∧
    (∀ k x, s.ready g = true → s.isUrgent g = true → g.readySince = some k → k + 64 ≤ s.clock →
      8 ≤ (s.activeOn g.core).length → s.lowestRank ((s.activeOn g.core).filter fun y => !s.isUrgent y) = some x →
      exec (.urgentDisplacement g.id) s = .next (s.onGroup x.id fun y => { y with leave := true })) ∧
    (∀ k, g.stopAt = some k → g.alive = true → k + 4096 ≤ s.clock → exec (.forcedStop g.id) s =
      .next (s.onGroup g.id fun x => { x with stopped := true, active := false, since := s.clock })))

/-- R155, R156: once no group of a core has issued for 256 core clocks, be it that none could, the oldest blocked WGROW is
served: it grows when there is room, and when there is none and no group can be saved it traps with WINDOW; a core that can
issue and whose 256 clocks are not over serves none. That a paired team whose groups can be divided between the two cores
of its pair so that the request fits is so divided at once is the model's choice (log 41), as is the order in which events
are taken (logs 1, 77). -/
def Claims.WgrowStalemate : Prop :=
  ∀ (s : State) (core n : Nat) (g : Group), s.oldest (s.blockedGrow core) = some g → g.wait = some (.store n) →
    (∀ x ∈ s.groups, x.id = g.id → x = g) →
    (∀ u, s.rehome g n = some u → ∃ t y, exec (.wgrowStalemate core) s = .next t ∧ t.group? g.id = some y ∧
      (y.core = g.core ∨ y.core = partner g.core) ∧ y.n = max g.n n ∧ y.wait = none ∧ y.resident = true ∧
      y.vregs = g.vregs ∧ y.sregs = g.sregs) ∧
    (s.rehome g n = none → s.coreMoves core = true → s.clock < Sparse.get 0 s.coreIssue core + 256 →
      exec (.wgrowStalemate core) s = .next s) ∧
    (s.rehome g n = none → Sparse.get 0 s.coreIssue core + 256 ≤ s.clock →
      let s1 := ((s.stalemateCores g).flatMap s.onCore).foldl
        (fun (u : State) (x : Group) => ((u.launch? (lidOf x.id)).map u.noteHeader).getD u) s
      (s1.growFits g n = true → exec (.wgrowStalemate core) s =
        .next ((s1.onGroup g.id fun x => { x with n := max x.n n, wait := none }).fitL1 g.core)) ∧
      (s1.growFits g n = false → s1.rehome g n = none → s1.youngest (s1.victims g) = none →
        exec (.wgrowStalemate core) s =
          .next (s1.takeTrap g.id Cause.window (BitVec.ofNat 64 g.here) (BitVec.ofNat 64 n) g.pos.resume)))

/-- R155: the division of a paired team's groups between two cores is found exactly when there is one: each side within
its store and its slots. -/
def Claims.DivisionIsFound : Prop :=
  ∀ (l : List (Nat × Bool)) (ra sa rb sb : Nat),
    let fits := fun (d : List Bool) => d.length = l.length ∧
      (((l.zip d).filter fun x => x.2).map fun x => x.1.1).sum ≤ ra ∧ ((l.zip d).filter fun x => x.2).length ≤ sa ∧
      (((l.zip d).filter fun x => !x.2).map fun x => x.1.1).sum ≤ rb ∧ ((l.zip d).filter fun x => !x.2).length ≤ sb
    (∀ d, divide l ra sa rb sb = some d → fits d) ∧ ((∃ d, fits d) → (divide l ra sa rb sb).isSome = true)

/-! ### Translation faults and their records -/

/-- R288, R291, R308, R392: a walk that finds a leaf lets the group or the operation go on, the leaf being held in the TLB
of the core or of the tower; one that fails parks the group, or holds the operation, and a record of KIND 1 with the level
and the address waits to be written. -/
def Claims.WalksEnd : Prop :=
  (∀ (s : State) (g : Group) (va : Nat) (x w : Bool), s.group? g.id = some g → g.wait = some (.walk [va] x w) →
    (∀ t, s.known g.core va = some t → exec (.tableWalk (.group g.id)) s =
      .next (s.onGroup g.id fun y => { y with wait := none, missAt := none })) ∧
    (∀ t, s.known g.core va = none → s.walk va = .leaf t → exec (.tableWalk (.group g.id)) s =
      .next ((s.fillTlb g.core t).onGroup g.id fun y => { y with wait := none, missAt := none })) ∧
    (∀ lvl l, s.known g.core va = none → s.walk va = .fail lvl none → s.launch? (lidOf g.id) = some l →
      ∃ t y l' r, exec (.tableWalk (.group g.id)) s = .next t ∧ t.group? g.id = some y ∧
        y.wait = some (.xlate [(va, lvl)]) ∧ y.active = false ∧ t.launch? (lidOf g.id) = some l' ∧
        l'.records = l.records ++ [r] ∧ r.kind = 1 ∧ r.lvl = lvl ∧ r.tval = BitVec.ofNat 64 va ∧ r.x = x ∧ r.w = w ∧
        r.epc = BitVec.ofNat 64 (g.missAt.getD g.here) ∧ r.engine = false ∧ t.mem = s.mem)) ∧
  (∀ (s : State) (o : Op) (va : Nat) (w : Bool), s.op? o.n = some o → o.walk = some (va, w) →
    let u := s.engineUnit o.gid
    (∀ t, s.known u va = some t → exec (.tableWalk (.op o.n)) s =
      .next (s.onOp o.n fun y => { y with walk := none })) ∧
    (∀ t, s.known u va = none → s.walk va = .leaf t → exec (.tableWalk (.op o.n)) s =
      .next ((s.fillTlb u t).onOp o.n fun y => { y with walk := none })) ∧
    (∀ lvl, s.known u va = none → s.walk va = .fail lvl none → ∃ t y, exec (.tableWalk (.op o.n)) s = .next t ∧
      t.op? o.n = some y ∧ y.walk = none ∧ y.fault = some (va, lvl) ∧ y.kind = o.kind ∧ t.mem = s.mem))

/-- R388, R89: the first record that waits is written at its place of the queue, PROD rises by one, and the message that
announces it is sent; a full queue makes it wait; with no queue a halt's record is only announced. -/
def Claims.RecordsAreWritten : Prop :=
  ∀ (s : State) (lid : Nat) (l : Launch) (r : FaultRec) (rest : List FaultRec), s.launch? lid = some l →
    l.records = r :: rest → s.canPost = true →
    ((s.findQueue l.fqueue).2 = .full → exec (.faultRecordWrite lid) s = .next s) ∧
    (∀ num va pa hdr, (s.findQueue l.fqueue).2 = .room num va pa hdr → pa + 64 ≤ hdr ∨ hdr + 8 ≤ pa →
      ∃ t l', exec (.faultRecordWrite lid) s = .next t ∧ t.launch? lid = some l' ∧ l'.records = rest ∧
        t.memRead pa 64 = leBytes 64 (r.toNat lid num s.ptpNow) ∧ t.memRead hdr 8 = leBytes 8 (num + 1) ∧
        (∀ a, (a < pa ∨ pa + 64 ≤ a) → (a < hdr ∨ hdr + 8 ≤ a) → t.memGet a = s.memGet a) ∧ t.seq = s.seq + 1) ∧
    (l.fqueue = 0 → r.kind = 2 → exec (.faultRecordWrite lid) s =
      .next ((s.onLaunch lid fun x => { x with records := rest }).post l.qp 3 0 l.lid 0
        (BitVec.ofNat 256 (r.toNat lid 0 0))))

/-! ### The host and the peers -/

/-- R85, R86, R91, R429: on an established queue pair and with the host not frozen, a launch record for an open queue is
submitted and accepted or refused; another SEND is answered with BADMSG; ABORT ends its launch as cancelled, RESUME releases
its parked waiters, REGION registers a region under a new rkey and UNREGION removes it, each with its ANSWER. -/
def Claims.HostCommandsComplete : Prop :=
  ∀ (s : State) (qp : Nat), s.established qp = true → s.mgmt.hostFrozen = false →
    (∀ r, s.mgmt.closed.getLsbD (field r 196 6) = false →
      exec (.launchRecord qp r) s = .next (s.submit r (some qp)).1) ∧
    (∀ r, s.mgmt.closed.getLsbD (field r 196 6) = true → ∃ t, exec (.launchRecord qp r) s = .next t ∧
      t.mgmt.hostFrozen = true ∧ t.launches = s.launches) ∧
    (∀ len, len ≠ 256 → len ≠ 64 → exec (.badmsgSend qp len) s = .next (s.post (some qp) 2 Reply.badmsg 0 0)) ∧
    (∀ m, ctlBad m = false →
      let id := ctlLid m
      let answer := fun (t : State) (st lid : Nat) (arg : Word) => t.post (some qp) 6 st lid arg
      (ctlOp m = 1 → s.launch? id = none → exec (.abort qp m) s = .next (answer s Reply.unknownLid id 0)) ∧
      (ctlOp m = 1 → ∀ l, s.launch? id = some l →
        exec (.abort qp m) s = .next (answer (s.abortLaunch id true) Reply.ok id 0)) ∧
      (ctlOp m = 2 → s.launch? id = none → exec (.resume qp m) s = .next (answer s Reply.unknownLid id 0)) ∧
      (ctlOp m = 2 → ∀ l, s.launch? id = some l →
        exec (.resume qp m) s = .next (answer (s.releaseFaults id none) Reply.ok id 0)) ∧
      (ctlOp m = 3 → s.regions.length < 4096 → exec (.region qp m) s = .next (answer
        { s with regions := s.regions ++ [⟨Config.rkeyOf s.nextRegion, ctlAddr m, ctlLen m, m.getLsbD 8, m.getLsbD 9⟩]
                 nextRegion := s.nextRegion + 1 } Reply.ok 0 ((Config.rkeyOf s.nextRegion).setWidth 64))) ∧
      (ctlOp m = 3 → 4096 ≤ s.regions.length → exec (.region qp m) s = .next (answer s Reply.limit 0 0)) ∧
      (ctlOp m = 4 → (∃ x ∈ s.regions, x.rkey.toNat = ctlAddr m) → exec (.unregion qp m) s = .next (answer
        { s with regions := s.regions.filter fun x => !(x.rkey.toNat == ctlAddr m) } Reply.ok 0 0)) ∧
      (ctlOp m = 4 → (∀ x ∈ s.regions, x.rkey.toNat ≠ ctlAddr m) →
        exec (.unregion qp m) s = .next (answer s Reply.unknownRkey 0 0)))

/-- R86, R387: an aborted launch starts nothing more: the distributors serve it no longer, it is marked aborted and, from the
host, cancelled, and each of its groups that has not halted is to stop. -/
def Claims.AbortStopsTheLaunch : Prop :=
  ∀ (s : State) (lid : Nat) (l : Launch) (c : Bool), s.launch? lid = some l → l.aborted = false →
    ∃ l', (s.abortLaunch lid c).launch? lid = some l' ∧ l'.aborted = true ∧ l'.cancelled = c ∧ l'.ranges = [] ∧
      (s.abortLaunch lid c).served l' = false ∧ l'.teams = l.teams ∧ ∀ g ∈ (s.abortLaunch lid c).groups, lidOf g.id = lid → isWave g.id = false → g.halted = false →
        g.stopAt.isSome = true

/-- R90, R91: a record that keeps every rule, whose table can be read and is good, and for which no refusal applies, makes
one more live launch, not started, behind the others; one that breaks R79 makes none and is answered with RECORD. -/
def Claims.RecordsAreAccepted : Prop :=
  ∀ (s s' : State) (r : BitVec 2048) (qp : Option Nat) (lays : List (BitVec 320)),
    let l := Launch.make r s.nextAge qp false [] []
    (l.recordOk = false → s.accept r qp = (s, Reply.record)) ∧
    (l.recordOk = true → s.readTable (field r 320 57) = (s', some lays) → tableOk lays = true →
      s'.refusal l = none →
      ∃ x, s.accept r qp = ({ s' with nextAge := s'.nextAge + 1, launches := s'.launches ++ [x] }, 0) ∧
        x.lid = field r 240 16 ∧ x.record = r ∧ x.layouts = lays ∧ x.age = s'.nextAge ∧ x.started = false ∧
        x.supervisor = s.mgmt.super.getLsbD (field r 196 6) ∧ x.teams = [])

/-- R87, R391, R421, R424 to R426: an RDMA READ of a region that may be read, with clean data, answers with them, and a
WRITE writes them, each access being made at the homes of its bytes; an access that is not allowed is answered with an error
and changes nothing else but the journal. An answer is sent at once when the channels that it needs serve accesses and no
earlier one of its queue pair waits, and else waits at the home. A peer's request from a part that is accepted is performed
at the home, or answered with an error. A station that is lost is down, and with the last one every result that a peer owed
a group fails with MEM_UNCORRECTABLE. -/
def Claims.RemoteAccessesComplete : Prop :=
  (∀ (s t : State) (qp rkey va len : Nat) (bs : List Byte), s.established qp = true → s.mgmt.hostFrozen = false →
    (s.rdmaPlaces rkey va len false = (t, none) → exec (.rdmaRead qp rkey va len) s = .next (t.owe ⟨false, qp, [], .nak⟩)) ∧
    (∀ l, s.rdmaPlaces rkey va len false = (t, some l) → (∀ x ∈ l, s.poisoned x.1 = false) →
      exec (.rdmaRead qp rkey va len) s = .next ((t.touchBytes l false).owe
        ⟨false, qp, t.chansOf 2 (l.map (·.1)), .data (l.map fun x => t.memGet x.1)⟩)) ∧
    (s.rdmaPlaces rkey va bs.length true = (t, none) →
      exec (.rdmaWrite qp rkey va bs) s = .next (t.owe ⟨false, qp, [], .nak⟩)) ∧
    (∀ l, s.rdmaPlaces rkey va bs.length true = (t, some l) → (l.map (·.1)).Nodup →
      ∃ u, exec (.rdmaWrite qp rkey va bs) s = .next u ∧ l.map (fun x => u.memGet x.1) = bs ∧
        (∀ a, (∀ x ∈ l, x.1 ≠ a) → u.memGet a = s.memGet a) ∧
        { u with mem := s.mem, poison := s.poison, sectors := s.sectors } = s)) ∧
  (∀ (s : State) (rkey va len : Nat) (w : Bool), let t := (s.rdmaPlaces rkey va len w).1
    { t with journal := s.journal, sent := s.sent, held := s.held, seq := s.seq } = s ∧
      ((s.rdmaPlaces rkey va len w).2.isSome = true → t = s)) ∧
  (∀ (s : State) (o : Owed), (∀ c ∈ o.chans, s.channelHeld c = false) → o.peer = false →
    (∀ x ∈ s.owed, x.peer = false → x.dest ≠ o.dest) → s.established o.dest = true → s.owe o = s.send o.dest o.ans) ∧
  (∀ (s : State) (o : Owed), (∃ c ∈ o.chans, s.channelHeld c = true) → s.owe o = { s with owed := s.owed ++ [o] }) ∧
  (∀ (s : State) (src pa : Nat), s.linked = true → s.mgmt.accepted.getLsbD src = true →
    (∀ len, s.peerSpan pa len = true → s.poisonedSpan pa len = false →
      exec (.ualinkInboundRequest src (.read pa len)) s = .next (s.servePeer (s.touch (State.span pa len) false false) src pa
        len (s.memRead pa len))) ∧
    (∀ bs, s.peerSpan pa bs.length = true → exec (.ualinkInboundRequest src (.write pa bs)) s =
      .next (s.servePeer (s.homeWrite pa bs) src pa bs.length [])) ∧
    (∀ op v v2, s.peerSpan pa (atomWidth op) = true → pa % atomWidth op = 0 → s.poisonedSpan pa (atomWidth op) = false →
      ∃ t, exec (.ualinkInboundRequest src (.atomic op pa v v2)) s =
          .next (s.servePeer t src pa (atomWidth op) (leBytes (atomWidth op) (ofBytes (s.memRead pa (atomWidth op))))) ∧
        t.memRead pa (atomWidth op) = leBytes (atomWidth op)
          (atomNew op (ofBytes (s.memRead pa (atomWidth op))) v.toNat v2.toNat) ∧
        ∀ a, (a < pa ∨ pa + atomWidth op ≤ a) → t.memGet a = s.memGet a)) ∧
  (∀ (s : State) (src : Nat) (r : PeerReq), s.linked = true → s.mgmt.accepted.getLsbD src = false →
    exec (.ualinkInboundRequest src r) s = .next (s.answerPeer src .nak)) ∧
  (∀ (s : State) (port : Nat), (Sparse.get Station.down s.stations port).up = true →
    ∃ t, exec (.linkLoss port) s = .next t ∧ (Sparse.get Station.down t.stations port).up = false ∧
      (∀ k, k ≠ port → Sparse.get Station.down t.stations k = Sparse.get Station.down s.stations k) ∧ t.mem = s.mem ∧
      (t.linked = false → ∀ g, s.group? g.id = some g → (∀ h ∈ s.groups, h.id = g.id → h = g) → ∀ p ∈ g.pend, ∀ va pa, p.peer = some (va, pa) → p.fail = none →
        (∀ q ∈ g.pend, q.n = p.n → q = p) →
        ∃ y q, t.group? g.id = some y ∧ q ∈ y.pend ∧ q.n = p.n ∧ q.fail = some (badData va)))

/-! ### Placement, saves and ends -/

/-- R60, R61, R63, R64, R71: a group of a team as it starts: its items follow those of the groups before it, the lanes whose
item exists are live, s0 to s15 hold the arguments, and it stands before the header at CODE. -/
def Claims.NewGroupsStart : Prop :=
  ∀ (l : Launch) (t k core clock : Nat), l.width ≤ 64 → let g := newGroup l t k core clock
    g.id = .member l.lid t k ∧ g.core = core ∧ g.width = l.width ∧ g.n = l.window ∧ g.pos = .header l.code none ∧
    (∀ x, x < l.width → g.item x = (t * l.groupsPer + k) * l.width + x ∧
      (g.live.getLsbD x = true ↔ g.item x < l.itemCount)) ∧
    (∀ x, l.width ≤ x → g.live.getLsbD x = false) ∧ g.em = g.live ∧ g.path = g.live ∧ g.stack = [] ∧ g.fflags = 0 ∧
    g.sig = 0 ∧ (∀ j, j < 16 → g.sreg j = l.arg j) ∧ (∀ j, 16 ≤ j → g.sreg j = 0)

/-- R93, R96, R99: the first launch in service order whose next team fits a core has that team dispatched there, group by
group, at home on that core, and the rest of the range goes to that pod (log 103); with none to serve nothing happens. An idle tower takes teams
from the one range that it may steal from, and an idle pod from the one range of a sibling: the higher-numbered half. -/
def Claims.TeamsAreDispatched : Prop :=
  (∀ (s : State) (core : Nat) (l : Launch) (rest : List Launch) (r : Range) (more : List Turn) (cores : List Nat),
    s.power = true → s.coreWorks core = true → s.serviceOrder = l :: rest → s.launch? l.lid = some l →
    l.cores = false ∨ l.started = true → l.podset = false → l.reserves = false → l.headsFor core = .fresh r :: more →
    r.pod = none ∨ r.pod = some (podOf core) → s.seatsOn l core l.newSizes = some cores →
    ∃ t l', exec (.teamDispatch core) s = .next t ∧ t.launch? l.lid = some l' ∧ l'.started = true ∧
      (∃ x, l'.teams = l.teams ++ [x] ∧ x.num = r.first ∧ x.resident = true ∧ x.core = core ∧
        x.urgent = false) ∧
      l'.ranges = (l.ranges.flatMap fun y => if y = r then
        (if r.first + 1 < r.last then [{ r with first := r.first + 1, pod := some (podOf core) }] else []) else [y]) ∧
      t.groups = s.groups ++ cores.zipIdx.map fun p => newGroup l r.first p.2 p.1 s.clock) ∧
  (∀ (s : State) (core : Nat), s.serviceOrder = [] → exec (.teamDispatch core) s = .next s) ∧
  (∀ (s : State) (tower : Nat) (l : Launch) (k src : Nat), tower < 8 → s.towerBusy tower = false →
    s.towerWorks tower = true → s.stealable tower = [(l, k, src)] →
    exec (.steal tower) s = .next (s.moveTeams l k (l.stealFrom (l.waitingIn k src)) src tower)) ∧
  (∀ (s : State) (pod q : Nat) (l : Launch) (r : Range), pod < 256 → s.podRanges (pod / 32) = [(l, r, q)] → q ≠ pod →
    (podCores pod).any s.takes = true → l.runner = false → 2 ≤ r.last - r.first →
    exec (.steal (8 + pod)) s = .next (s.onLaunch l.lid fun x => x.givePod r pod)) ∧
  (∀ (l : Launch) (r : Range), l.podset = false → 2 ≤ r.last - r.first →
    l.stealFrom ((List.range (r.last - r.first)).map (r.first + ·)) = r.last - (r.last - r.first) / 2)

/-- R94, R394, R397: of what launches need on a tower and will not have once the stopping teams have gone, the first that
victims can make room for is served: the first victim whose image fits its save area is asked to stop, only launches of a
lower priority are asked, and no team starts or leaves yet. A core whose room teams give up for a launch of higher
priority takes no team of the launches after it meanwhile (log 116). -/
def Claims.PreemptionIsRequested : Prop :=
  (∀ (s : State) (tower : Nat) (x : Launch × Option Turn), tower < 8 →
    let u := s.noteAreas tower
    (s.unmet tower).find? (u.canMeet tower) = some x → u.afterStops.meets tower x.1 x.2 = false →
    ∃ t, exec (.preemptionRequest tower) s = .next t ∧ t.mem = s.mem ∧ t.launches = u.launches ∧
      (∀ v n, (u.victimTeams x.1.prio tower).find? (fun y => !u.stopping y.1.lid y.2 && u.imageFits y.1 y.2) = some (v, n) →
        ∀ g ∈ t.groups, lidOf g.id = v.lid → isWave g.id = false → v.sameUnit (teamOf g.id) n = true →
          g.halted = false → g.stopAt.isSome = true) ∧
      (∀ g ∈ t.groups, g.stopAt.isSome = true →
        (∃ y ∈ u.groups, y.id = g.id ∧ y.stopAt.isSome = true) ∨
          ∃ v ∈ u.launches, v.lid = lidOf g.id ∧ v.prio < x.1.prio)) ∧
  (∀ (s : State) (core : Nat) (l : Launch) (rest : List Launch), s.serviceOrder = l :: rest → s.launch? l.lid = some l →
    l.cores = false ∨ l.started = true → l.heads (towerOf core) ≠ [] → (l.headsFor core).findSome? (s.take l core) = none →
    s.heldFor l core = true → exec (.teamDispatch core) s = .next s)

/-- R196, R396: a group that leaves its core keeps all of its state; after a SAFE, a save of its unit keeps the quads and
scalars that the SAFE marked, the others reading zero, and no transient result. -/
def Claims.SavedGroupsKeepTheirState : Prop :=
  (∀ (s : State) (g : Group), s.group? g.id = some g → s.arrivedMma g.id = none →
    (s.saveGroup g.id).group? g.id =
      some { g with resident := false, active := false, leave := false, since := s.clock, readySince := none }) ∧
  (∀ (g : Group), g.safe = none → g.keepMarked = g) ∧
  (∀ (g : Group) (v m : Word), g.safe = some (v, m) →
    let y := g.keepMarked
    { y with vregs := g.vregs, bad := g.bad, sregs := g.sregs, bypass := g.bypass, safe := g.safe } = g ∧
    y.bypass = [] ∧ y.safe = none ∧
    (∀ r x, x < 64 → y.fileV r x = if v.getLsbD (r / 4) then g.fileV r x else 0) ∧
    ∀ k, y.sreg k = if m.getLsbD k then g.sreg k else 0)

/-- R394, R396, R398: a unit that has stopped, whose work is complete and whose image fits, leaves: none of its teams and
groups is resident. A saved team that is next in service order for a core of its tower comes back on that core's pod, and
not by dispatch; one that its pod cannot take does not. -/
def Claims.UnitsAreSavedAndRestored : Prop :=
  (∀ (s : State) (lid : Nat) (team : Option Nat) (l : Launch), s.launch? lid = some l →
    s.canSave l (s.saveUnit l team) = true → s.saveStop l (s.unitImage l (s.saveUnit l team)) = none →
    ∃ t, exec (.unitSave lid team) s = .next t ∧
      (∀ x ∈ s.saveUnit l team, ∀ y, t.team? lid x.num = some y → y.resident = false) ∧
      ∀ g ∈ t.groups, lidOf g.id = lid → isWave g.id = false → (∃ x ∈ s.saveUnit l team, x.num = teamOf g.id) →
        g.resident = false) ∧
  (∀ (s t : State) (core : Nat) (l : Launch) (rest : List Launch) (tm : Team) (more : List Turn), s.power = true →
    s.coreWorks core = true → s.serviceOrder = l :: rest → s.launch? l.lid = some l → l.aborted = false →
    l.cores = false ∨ l.started = true → l.headsFor core = .saved tm :: more → l.heads (towerOf core) ≠ [] →
    tm.tower = towerOf core → (∀ x ∈ l.teams, x.num = tm.num → x.resident = false) → s.restoreUnit l tm core = some t →
    exec (.unitRestore l.lid (some tm.num) core) s = .next t ∧ exec (.teamDispatch core) s = .next s) ∧
  (∀ (s : State) (core : Nat) (l : Launch) (tm : Team), s.podTakes l (l.together tm) (podOf core) = false →
    s.restoreUnit l tm core = none) ∧
  (∀ (s : State) (core : Nat) (l : Launch) (tm : Team) (cores : List Nat), l.together tm = [tm] → l.podset = false →
    s.podTakes l [tm] (podOf core) = true → s.badImage l = none →
    s.seatsOn l core ((s.teamGroups l.lid tm.num).map Group.bytes) = some cores →
    s.restoreUnit l tm core = some ((((s.restoreTeam l tm core cores).restoreEngineTiles l [tm] (podOf core)).useArea l.lid
      (· - s.imageOf l [tm])).drawn))

/-- R324, R408: a group that is over and has nothing under way retires: neither it nor an operation of it is left, and the
tiles that it held are free, with residues zero, E 254 and status clear. -/
def Claims.GroupsRetire : Prop :=
  ∀ (s : State) (g : Group), s.group? g.id = some g → s.over g = true → s.quiet g = true →
    ∃ t, exec (.groupRetirement g.id) s = .next t ∧ t.group? g.id = none ∧ (∀ o ∈ t.ops, o.gid ≠ g.id) ∧
      (∀ pod k, (s.tile pod k).holder = .group g.id → t.tile pod k = Tile.zero) ∧ t.mem = s.mem

/-- R88, R90, R408: a launch of which nothing is left completes, once the data of every core can be written back: it is live
no more, its message with its status is sent on its queue pair, and every core's data have been written back: no L1 holds a
dirty byte, and memory holds each byte that one core alone had written as that core saw it. -/
def Claims.LaunchesComplete : Prop :=
  ∀ (s : State) (lid : Nat) (l : Launch), s.launch? lid = some l → s.canPost = true → l.toRefuse = false →
    s.complete l = true → s.dataHeld = false →
    ∃ t, exec (.launchCompletion lid) s = .next t ∧ t.launch? lid = none ∧
      (∀ q, s.route l.qp = some q → (q, Sent.msg (Msg.toBits ⟨l.qp, 1, l.status, lid, 0, 0, s.seq⟩ s.ptpNow)) ∈ t.sent) ∧
      (l.cancelled = true → l.status = Reply.cancelled) ∧
      (l.cancelled = false → l.aborted = true → l.status = Reply.aborted) ∧
      (l.cancelled = false → l.aborted = false → l.anyFault = true → l.status = Reply.partial_) ∧
      (l.cancelled = false → l.aborted = false → l.anyFault = false → l.status = Reply.ok) ∧
      (Safe s → (∀ core a c, Sparse.get none (t.l1Of core) a = some c → c.dirty = false) ∧
        (∀ core a c, Sparse.get none (s.l1Of core) a = some c → c.dirty = true →
          (∀ k d, k ≠ core → Sparse.get none (s.l1Of k) a = some d → d.dirty = false) → t.memGet a = c.val) ∧
        ∀ a, (∀ k d, Sparse.get none (s.l1Of k) a = some d → d.dirty = false) → t.memGet a = s.memGet a)

/-- R104, R387: a lost pod is out of service, and no group on it is active. -/
def Claims.PodsAreLost : Prop :=
  ∀ (s : State) (pod : Nat), pod < 256 → pod ∉ s.podsOut →
    ∃ t, exec (.podLost pod) s = .next t ∧ pod ∈ t.podsOut ∧ (∀ p ∈ s.podsOut, p ∈ t.podsOut) ∧ t.mem = s.mem ∧
      ∀ g ∈ t.groups, g.resident = true → podOf g.core = pod → g.active = false

/-- R80 to R83: a file whose header is not good is not loaded, and neither is one that does not have just one code section
and one launch template (the model's reading, log 98). A relocation of kind 1 writes the address of its target plus the addend, one of kind 2 writes its bits 56:0 and keeps bits
63:57, and no other byte of any section changes. -/
def Claims.ObjectFilesLoad : Prop :=
  (∀ (file : List Byte) (place : Nat → Nat), Mko.headerOk file = false → Mko.load file place = none) ∧
  (∀ (file : List Byte) (place : Nat → Nat) (x : Mko.Loaded), Mko.load file place = some x →
    ∃ l, Mko.sections file = some l ∧ (l.filter fun s => s.type == 1).length = 1 ∧
      (l.filter fun s => s.type == 6).length = 1 ∧ ∀ s ∈ l, s.type ≠ 0 ∧ (s.type ≤ 7 ∨ 0x8000 ≤ s.type)) ∧
  (∀ (r : Mko.Reloc) (base : Nat) (old : Word), r.kind = 1 → r.word base old = BitVec.ofInt 64 ((base : Int) + r.addend)) ∧
  (∀ (r : Mko.Reloc) (base : Nat) (old : Word), r.kind = 2 →
    (r.word base old).extractLsb' 0 57 = BitVec.ofInt 57 ((base : Int) + r.addend) ∧
      (r.word base old).extractLsb' 57 7 = old.extractLsb' 57 7) ∧
  (∀ (r : Mko.Reloc) (place : Nat → Nat) (l m : List Section), r.apply place l = some m →
    m.length = l.length ∧ (∀ k, k ≠ r.patched → m[k]? = l[k]?) ∧
    ∃ s t, l[r.patched]? = some s ∧ m[r.patched]? = some t ∧ t.bytes.length = s.bytes.length ∧
      (∀ b, (b < r.offset ∨ r.offset + 8 ≤ b) → t.bytes[b]? = s.bytes[b]?) ∧
      ofBytes ((t.bytes.drop r.offset).take 8) =
        (r.word (place r.target) (BitVec.ofNat 64 (ofBytes ((s.bytes.drop r.offset).take 8)))).toNat)

/-! ### Reliability, power and management -/

/-- R419 to R421: a repair candidate is quiesced when its bank has a spare and else entered in the journal; when the
quiescence ends, its row is repaired softly; an activation-counter event enters kind 11, and the
fourth of a row within 32 ms makes it a candidate; forced self-refresh begins and ends, with kind 6 (location 0: log 86). -/
def Claims.MemoryUpkeep : Prop :=
  (∀ (s : State) (k row : Nat) (c : Nat × Nat), (s.stack k).candidates.find? (fun c => c.1 == row) = some c →
    s.repairTime c.2 ≤ s.clock →
    let s1 := s.onStack k (·.dropCandidate row)
    exec (.softRepair k row) s = .next (if Config.spareLeft s.free k row then
        s1.drawn.onStack k fun x => { x with quiesced := x.quiesced ++ [(row, s.clock)] }
      else s1.drawn.journalRow 7 3 k row)) ∧
  (∀ (s : State) (k row : Nat) (c : Nat × Nat), (s.stack k).quiesced.find? (fun c => c.1 == row) = some c →
    c.2 + 188000 ≤ s.clock → ∃ t, exec (.quiesceEnd k row) s = .next t ∧ row ∈ (t.stack k).soft ∧
      (∀ q ∈ (t.stack k).quiesced, q.1 ≠ row) ∧ (∀ i, i ≠ k → t.stack i = s.stack i) ∧ t.mem = s.mem) ∧
  (∀ (s : State) (k row : Nat) (corrupt : Bool), s.power = true → k < 16 → s.journal.full = false →
    ∃ t, exec (.activationCounterEvent k row corrupt) s = .next t ∧ t.mem = s.mem ∧
      (∃ e ∈ t.journal.entries, e.seq = s.journal.next ∧ e.kind = 11 ∧ e.detail = (if corrupt then 2 else 1) ∧ e.unit = k) ∧
      (3 ≤ ((s.stack k).acts.filter fun a => a.1 == row && decide (s.clock ≤ a.2 + 30080000)).length →
        ∃ c ∈ (t.stack k).candidates, c.1 = row)) ∧
  (∀ (s : State) (k : Nat), s.power = true → k < 16 →
    ((s.stack k).forced = false → exec (.selfRefreshEnter k) s =
      .next ((s.onStack k fun x => { x with forced := true }).serveHeld.journalAdd 6 1 3 k 0)) ∧
    ((s.stack k).forced = true → exec (.selfRefreshExit k) s =
      .next ((s.onStack k fun x => { x with forced := false }).serveHeld.journalAdd 6 2 3 k 0))) ∧
  (∀ (s : State) (o : Owed) (rest : List Owed), s.owed = o :: rest → (∀ c ∈ o.chans, s.channelHeld c = false) →
    o.peer = true → (∀ x ∈ rest, ∃ c ∈ x.chans, s.channelHeld c = true) →
    s.flushOwed = { s with toPeers := s.toPeers ++ [(o.dest, o.ans)], owed := rest })

/-- R416, R418: a read that finds an error (an act of the environment: log 58) enters kind 2 when the re-read is clean, and
kind 1 when it shows one bit that the write-back mends, or when a clean line of L2 or the MSC is fetched again; otherwise two
wrong bits poison the word of the window, scratchpad or L1 data, or the sector, and enter kind 5, and no value changes. A
write of a register that covers a poisoned word whole clears its poison, and no other write of registers does. -/
def Claims.StorageErrors : Prop :=
  (∀ (s : State) (x : Site) (src unit loc : Nat), s.power = true → s.siteEntry x = some (src, unit, loc) →
    s.perform (.flaw x .clean) = .next (s.journalAdd 2 1 src unit (BitVec.ofNat 64 loc)) ∧
    s.perform (.flaw x (.single false)) = .next (s.journalAdd 1 0 src unit (BitVec.ofNat 64 loc)) ∧
    (x.refetched = true → s.perform (.flaw x .double) = .next (s.journalAdd 1 0 src unit (BitVec.ofNat 64 loc))) ∧
    (x.refetched = false → s.journal.full = false → ∃ t, s.perform (.flaw x .double) = .next t ∧
      (∃ e ∈ t.journal.entries, e.seq = s.journal.next ∧ e.kind = 5 ∧ e.src = src ∧ e.unit = unit) ∧
      (∀ k w ofs, x = .reg k w ofs → t.mem = s.mem ∧
        ∃ g y, s.group? k = some g ∧ t.group? k = some y ∧ w ∈ y.bad ∧ y.vregs = g.vregs) ∧
      (∀ lid n w ofs, x = .scratch lid n w ofs → t.mem = s.mem ∧
        ∃ m y, s.team? lid n = some m ∧ t.team? lid n = some y ∧ w ∈ y.bad ∧ y.scratch = m.scratch) ∧
      (∀ core pa ofs, x = .l1 core pa ofs → t.mem = s.mem ∧ ∀ a c, a / 8 = pa / 8 →
        Sparse.get none (s.l1Of core) a = some c → Sparse.get none (t.l1Of core) a = some { c with bad := true }) ∧
      (∀ pod pa d, x = .l2 pod pa d → t.mem = s.mem ∧ t.poisoned pa = true) ∧
      (∀ bank pa d, x = .msc bank pa d → t.mem = s.mem ∧ t.poisoned pa = true) ∧
      (∀ pa row, x = .hbm pa row → t.mem = s.mem ∧ t.poisoned pa = true))) ∧
  (∀ (g : Group) (vals : List (Nat × Lane)) (w : Nat), w ∈ (g.writeAll vals).bad ↔
    w ∈ g.bad ∧ ¬ ∀ k, k < 2 → ∃ q ∈ vals, q.1 = vkey (2 * w / g.width) (2 * w % g.width + k))

/-- R416 to R418, R422: a lasting error enters kinds 1 and 3 and makes the row of its sector a repair candidate; once no
launch is live, no lasting location of a core store is left, and each 256-byte unit took one of the four spares of its bank
or had its core retired, with kind 4 (which addresses make up a bank is log 96's choice). -/
def Claims.LastingErrors : Prop :=
  (∀ (s : State) (pa row src unit loc : Nat), s.power = true → s.siteEntry (.hbm pa row) = some (src, unit, loc) →
    s.perform (.flaw (.hbm pa row) (.single true)) =
      .next (((s.journalAdd 1 0 src unit (BitVec.ofNat 64 loc)).journalAdd 3 0 src unit (BitVec.ofNat 64 loc)).addCandidate unit row)) ∧
  (∀ (s : State) (stack row : Nat), ∃ c ∈ ((s.addCandidate stack row).stack stack).candidates, c.1 = row) ∧
  (∀ (s : State), s.launches = [] → s.whenIdle.lasting = [] ∧ s.whenIdle.mem = s.mem) ∧
  (∀ (s : State) (words : List Nat) (unit : Nat), unit / 2 ^ 14 ∉ s.coresOut →
    let bank := 64 * (unit / 2 ^ 14) + unit % 64
    (Sparse.get 0 s.spares bank < 4 → s.remapUnit words unit =
      { s with spares := Sparse.set 0 s.spares bank (Sparse.get 0 s.spares bank + 1) }) ∧
    (4 ≤ Sparse.get 0 s.spares bank → s.journal.full = false →
      unit / 2 ^ 14 ∈ (s.remapUnit words unit).coresOut ∧
      ∃ e ∈ (s.remapUnit words unit).journal.entries, e.seq = s.journal.next ∧ e.kind = 4 ∧ e.detail = 1 ∧ e.src = 0 ∧
        e.unit = unit / 2 ^ 14))

/-- R11, R428, R434: a shutdown takes the power of every domain but the always-on one, and power that returns, or RESET,
leaves no launch, group, operation or translation, clock 0, and every setting but the key and the source address as at reset;
from the shutdown to that reset the side-band port keeps its standing (log 18). -/
def Claims.PowerAndReset : Prop :=
  ∀ (s t : State), (exec .criticalShutdown s = .next t ∧ s.power = true) ∨ (exec .powerOn s = .next t ∧ s.power = false) ∨
      (∃ f, exec (.reset f) s = .next t ∧ s.mgmt.accepts f = true ∧ frameOp f = 13 ∧ frameReserved f = false ∧
        s.mgmt.frozen = false) →
    t.launches = [] ∧ t.groups = [] ∧ t.ops = [] ∧ t.tlb = [] ∧ t.l1 = [] ∧
    (∀ p k, t.tile p k = Tile.zero) ∧ t.troot = 0 ∧ t.clock = 0 ∧
    t.partNum = none ∧ t.qps = [] ∧ t.regions = [] ∧ t.ptp = none ∧ t.stations = [] ∧ t.mgmt.key = s.mgmt.key ∧
    t.mgmt.source = s.mgmt.source ∧
    (s.power = true ∧ exec .criticalShutdown s = .next t → t.mgmt = s.mgmt ∧ t.power = false) ∧
    (¬(s.power = true ∧ exec .criticalShutdown s = .next t) → t.mgmt.super = 0x8000000000000000 ∧ t.mgmt.closed = 0 ∧ t.mgmt.accepted = 0 ∧
      t.mgmt.cap = 5800 ∧ t.mgmt.frozen = false ∧ t.mgmt.hostFrozen = false ∧ t.mgmt.lastSeq = none)

/-- The three events that reset the part's domains complete; a row repaired softly is then repaired hard, with kind 7 and
DETAIL 2 (R419, R428, R434). -/
def Claims.PowerEventsComplete : Prop :=
  ∀ (s : State), (s.power = true → exec .criticalShutdown s = .next { s.domainsReset with power := false, mgmt := s.mgmt }) ∧
    (s.power = false → exec .powerOn s = .next { s.resetPart with power := true }) ∧
    (s.power = false → exec .criticalShutdown s = .next s) ∧ (s.power = true → exec .powerOn s = .next s) ∧
    (∀ k row, s.hbm = [(k, { Stack.zero with soft := [row] })] → s.journal.full = false →
      row ∉ (s.hardRepair.stack k).soft ∧ ∃ e ∈ s.hardRepair.journal.entries, e.seq = s.journal.next ∧ e.kind = 7 ∧
        e.detail = 2 ∧ e.src = 3 ∧ e.unit = k)

/-- R84, R422, R425, R432 (an unsigned test's unit: log 86; a demand at the cap: log 88): a test that passes at once or again changes nothing, one that fails twice has its unit retired
when no launch is live, with kind 3, and an unsigned one is not run; a window in which the demand exceeds the cap is
throttled; PTP sets the part's time; a station trains once the part has its number. -/
def Claims.UpkeepEventsComplete : Prop :=
  ∀ (s : State), s.power = true →
    (∀ u n, testUnitOk u = true → (∀ b c, exec (.infieldTestRun u n false b c) s = .next (s.journalAdd 10 4 9 1 0)) ∧
      (∀ b c, b = true ∨ c = true → exec (.infieldTestRun u n true b c) s = .next s) ∧
      exec (.infieldTestRun u n true false false) s =
        .next (({ s.journalAdd 3 0 8 (testUnitNo u) (BitVec.ofNat 64 n) with
          toRetire := (s.journalAdd 3 0 8 (testUnitNo u) (BitVec.ofNat 64 n)).toRetire ++ [(u, some n)] } : State).whenIdle)) ∧
    (∀ d, exec (.powerCapWindow d) s = .next { s with throttled := decide (s.mgmt.cap < d) }) ∧
    (∀ ns : Nat, exec (.ptpSync ns) s = .next { s with ptp := some ((ns : Int) - (s.ns : Int)) } ∧
      ∀ t, exec (.ptpSync ns) s = .next t → t.ptpNow = ns) ∧
    (∀ port vendor, s.partNum ≠ none → port < 128 → (Sparse.get Station.down s.stations port).up = false →
      exec (.linkTraining port vendor) s =
        .next { s with stations := Sparse.set Station.down s.stations port ⟨true, vendor⟩ })

/-- R84, R393, R414, R425, R427 to R433: each management command whose frame is accepted and well formed does its one thing
and is answered: status 0, or REFUSED with the controller frozen for a violation. That every such command is answered, and
which status comes first, is the model's reading (log 87), as are the layout of a report and what tells a whole firmware
image from a piece (log 11). -/
def Claims.ManagementCommandsComplete : Prop :=
  ∀ (s : State) (f : Frame), s.mgmt.accepts f = true → s.mgmt.frozen = false → frameReserved f = false →
    let s1 : State := { s with mgmt := { s.mgmt with lastSeq := some (frameSeq f) } }
    let a := frameArg0 f
    let b := frameArg1 f
    let m := s1.mgmt
    let ok := fun (t : State) => t.answerFrame f 0 []
    (frameOp f = 1 → f.payload.length = 48 →
      let addr := BitVec.ofNat 128 (ofBytes (f.payload.drop 32))
      linkLocal addr = true →
      (s.mgmt.key = none → exec (.provision f) s = .next (ok { s1 with mgmt := { m with
        key := some (BitVec.ofNat 256 (ofBytes (f.payload.take 32))), source := addr } })) ∧
      (s.mgmt.key ≠ none → exec (.provision f) s = .next (s1.violation f))) ∧
    (frameOp f = 2 → a < 16 →
      (b = 1 → exec (.qpset f) s = .next (ok (State.flushHeld { s1 with qps := insertNat s.qps a }))) ∧
      (b = 0 → exec (.qpset f) s = .next (ok (s1.tearDown a)))) ∧
    (frameOp f = 3 →
      let super := BitVec.ofNat 64 a
      let closed := BitVec.ofNat 64 b
      ((super.getLsbD 63 && closed.getLsbD 63) = false →
        exec (.qmask f) s = .next (ok { s1 with mgmt := { m with super := super, closed := closed } })) ∧
      ((super.getLsbD 63 && closed.getLsbD 63) = true → exec (.qmask f) s = .next (s1.violation f))) ∧
    (frameOp f = 4 → a < 1024 →
      (s.launches = [] → (∀ x ∈ s.stations, x.2.up = false) → exec (.partnum f) s = .next (ok (s1.renumber a))) ∧
      (Safe s → s.l1 = [] → (s1.renumber a).partNum = some a ∧
        ∀ k, k < 2 ^ 43 → (s1.renumber a).memGet (a * 2 ^ 43 + k) = s.memGet (s.ownPart * 2 ^ 43 + k)) ∧
      (s.launches ≠ [] ∨ (∃ x ∈ s.stations, x.2.up = true) → exec (.partnum f) s = .next (s1.violation f))) ∧
    (frameOp f = 5 → a < 1024 → a % 64 = 0 → exec (.accept f) s =
      .next (ok { s1 with mgmt := { m with accepted := maskPart m.accepted a b } })) ∧
    (frameOp f = 6 →
      let t := s1.readCheckpoint
      let out := t.journal.segmentsFrom a
      exec (.jread f) s = .next (State.answerLong { t with journal := { t.journal with
        exported := t.journal.exported ++ (out.filter fun e => e.kind == 8).map (·.seq) } } f (entriesOut out))) ∧
    (frameOp f = 7 → (a ∈ s.journal.exported → exec (.jack f) s = .next (ok (s1.reclaim a))) ∧
      (a ∉ s.journal.exported → exec (.jack f) s = .next (s1.violation f))) ∧
    (frameOp f = 8 → f.payload.length = 32 → exec (.attest f) s =
      .next (s1.answerLong f (s1.report f.payload ++ signature (s1.report f.payload)))) ∧
    (frameOp f = 9 → exec (.pcap f) s = .next (ok { s1 with mgmt := { m with cap := max 1500 (min 5800 a) } })) ∧
    (frameOp f = 10 → exec (.telem f) s = .next (s1.answerLong f s1.telemetry).drawn) ∧
    (frameOp f = 11 → (s.mgmt.hostFrozen = false → exec (.unfreeze f) s = .next (ok s1)) ∧
      (s.mgmt.hostFrozen = true → exec (.unfreeze f) s =
        .next (ok ((State.journalFreeze { s1 with mgmt := { m with hostFrozen := false } } 3 0))))) ∧
    (frameOp f = 12 →
      let image := m.staged ++ f.payload
      (Config.imageEnds image = false → exec (.fwload f) s = .next (ok { s1 with mgmt := { m with staged := image } })) ∧
      (Config.imageEnds image = true → Config.verifies image = true → exec (.fwload f) s = .next (ok { s1 with
        mgmt := { m with staged := [], ready := Sparse.set [] m.ready (Config.imageKind image) image } })) ∧
      (Config.imageEnds image = true → Config.verifies image = false → exec (.fwload f) s =
        .next (State.violation (State.journalSignature { s1 with mgmt := { m with staged := [] } }) f))) ∧
    (frameOp f = 13 → exec (.reset f) s = .next (ok s1).resetPart)

/-- R427 to R429 (log 87): a frame that is not accepted changes nothing; an accepted one makes frames with its number or a lower one
unacceptable; while the controller is frozen a command is answered FROZEN and has no other effect. -/
def Claims.FramesAreChecked : Prop :=
  ∀ (s : State) (f : Frame) (op : Nat) (bad : Bool) (act : State → State),
    (s.mgmt.accepts f = false → s.command f op bad act = s) ∧
    (s.mgmt.accepts f = true → frameOp f = op → s.mgmt.frozen = true → ∃ t, s.command f op bad act = t ∧
      t = State.answerFrame { s with mgmt := { s.mgmt with lastSeq := some (frameSeq f) } } f Reply.frozen [] ∧
      t.mgmt.accepts f = false)

/-! ### Added: counts of bits, lane exchange, encodings, reset, and what a run never breaks -/

/-- R174: POPC, CLZ, CTZ and BREV on both raw types, the result of n64 written to the pair as one 64-bit value. POPC is
the number of one bits; CLZ and CTZ count the zero bits above the highest and below the lowest one bit, w for 0; BREV
moves bit i to bit w-1-i. An encoding with a bit in the fields of B or C stands for none of the four. -/
def Claims.BitCounts : Prop :=
  (∀ (o : V1) (s : State) (g : Group) (l : Launch) (hdr j : Nat) (hw : Word), o.a.k = 0 → o.d.pub = false →
    o.d.tr = false → g.backlog = [] →
    let w := Ty.bits o.t
    let a := fun x => readNat g g.issued o.t o.a.reg.toNat x
    (Acts (.popc o) o.h s g l hdr j hw → EndsIn (.popc o) s g fun t y => OnlyGroup s t g.id ∧ ∀ x ∈ g.executing o.h,
      fileNat y o.t o.d.reg.toNat x = ((Finset.range w).filter fun i => (a x).testBit i = true).card) ∧
    (Acts (.clz o) o.h s g l hdr j hw → EndsIn (.clz o) s g fun t y => OnlyGroup s t g.id ∧ ∀ x ∈ g.executing o.h,
      let n := fileNat y o.t o.d.reg.toNat x
      n ≤ w ∧ (∀ i < n, (a x).testBit (w - 1 - i) = false) ∧ (n < w → (a x).testBit (w - 1 - n) = true)) ∧
    (Acts (.ctz o) o.h s g l hdr j hw → EndsIn (.ctz o) s g fun t y => OnlyGroup s t g.id ∧ ∀ x ∈ g.executing o.h,
      let n := fileNat y o.t o.d.reg.toNat x
      n ≤ w ∧ (∀ i < n, (a x).testBit i = false) ∧ (n < w → (a x).testBit n = true)) ∧
    (Acts (.brev o) o.h s g l hdr j hw → EndsIn (.brev o) s g fun t y => OnlyGroup s t g.id ∧ ∀ x ∈ g.executing o.h,
      ∀ i < w, (fileNat y o.t o.d.reg.toNat x).testBit (w - 1 - i) = (a x).testBit i)) ∧
  (∀ (w : Word) (ls : List Word) (o : V1), decode (w :: ls) = .ok (.popc o) ∨ decode (w :: ls) = .ok (.clz o) ∨
    decode (w :: ls) = .ok (.ctz o) ∨ decode (w :: ls) = .ok (.brev o) →
    (o.t = .b32 ∨ o.t = .n64) ∧ bits w 8 16 = 0 ∧ bits w 0 2 = 0 ∧ ls = [])

/-- R220 to R222: XSWAP with a partner of its launch. Without a partner's XSWAP that names it, the group goes on with its
own exchange open: its destination is pending, and the values of the lanes that execute are held. With one of the same
type, of 32 or of 64 bits, each lane in which both executed and which is live gets the other side's value, every other lane keeps its
register, and neither exchange stays open. A number that names no other group of the launch, or a group that cannot
issue any more, traps with XSWAP_PARTNER; in a wave the instruction is ILLEGAL; a second XSWAP waits for the first, whatever
it names. -/
def Claims.XswapExchanges : Prop :=
  ∀ (o : VXswap) (s : State) (g : Group) (l : Launch) (hdr j : Nat) (hw : Word) (p : GroupId),
    Acts (.xswap o) o.h s g l hdr j hw →
    let v := g.sreg o.b.toNat
    let named := v.toNat / 2 ^ 45 = 0 ∧ v.toNat % 2 ^ 40 < l.teamCount ∧ v.toNat / 2 ^ 40 % 32 < l.groupsPer ∧ p ≠ g.id
    p = .member l.lid (v.toNat % 2 ^ 40) (v.toNat / 2 ^ 40 % 32) →
    (isWave g.id = true →
      exec (.xswap o) s = .next (trapped s g hdr j Cause.illegal ((encode (.xswap o)).headD 0))) ∧
    (isWave g.id = false → g.xswap = none → ¬ named → exec (.xswap o) s = .next (trapped s g hdr j Cause.xswapPartner v)) ∧
    (isWave g.id = false → g.xswap ≠ none → exec (.xswap o) s = .next (waiting s g .xswapRoom)) ∧
    (isWave g.id = false → named → g.xswap = none → s.partnerLives l p = false →
      exec (.xswap o) s = .next (trapped s g hdr j Cause.xswapPartner v)) ∧
    (isWave g.id = false → named → g.xswap = none → s.partnerLives l p = true →
      (∀ y x, s.group? p = some y → y.xswap = some x → ¬ (x.team = teamOf g.id ∧ x.grp = groupOf g.id)) →
      exec (.xswap o) s = .next (issued (.xswap o) o.h s g l hdr j hw
        { s.setGroup { g with
            xswap := some ⟨s.nextOp, v.toNat % 2 ^ 40, v.toNat / 2 ^ 40 % 32, o.wide,
              maskOf (g.executing o.h) fun _ => true, laneVals g g.issued o.wide o.a (g.executing o.h)⟩
            pend := g.pend ++ [g.pendOf s.nextOp .xswap (regsOf o.wide o.d.toNat) [] [] [] 0 none] }
          with nextOp := s.nextOp + 1 })) ∧
    (∀ y xs q d, isWave g.id = false → named → g.xswap = none → s.partnerLives l p = true → s.group? p = some y →
      y.xswap = some xs → xs.team = teamOf g.id → xs.grp = groupOf g.id → xs.wide = o.wide →
      (y.pend.find? fun e => e.n == xs.n) = some q → q.vregs = regsOf o.wide d →
      ∃ t z z', exec (.xswap o) s = .next t ∧ t.group? g.id = some z ∧ t.group? p = some z' ∧ z.xswap = none ∧
        z'.xswap = none ∧ (∀ e ∈ z'.pend, e.n ≠ xs.n) ∧ ∀ x, x < 64 → ∀ k, k = 0 ∨ (k = 1 ∧ o.wide = true) →
          (x ∈ g.executing o.h → xs.lanes.getLsbD x = true →
            (y.live.getLsbD x = true → z'.fileV (d + k) x = g.readV g.issued (o.a.toNat + k) x) ∧
            (∀ u, (∀ u', (2 * x + k, u') ∈ xs.vals ↔ u' = u) → g.live.getLsbD x = true →
              z.fileV (o.d.toNat + k) x = u)) ∧
          (¬ (x ∈ g.executing o.h ∧ xs.lanes.getLsbD x = true) →
            z.fileV (o.d.toNat + k) x = g.fileV (o.d.toNat + k) x ∧ z'.fileV (d + k) x = y.fileV (d + k) x))

/-- R106, R110, R115 to R131: every well-formed instruction with words is what its words decode to, whatever its operands
are; and words that decode to an instruction are its encoding, and it is well formed. -/
def Claims.DecodeAfterEncode : Prop :=
  (∀ i, wellFormed i = true → encode i ≠ [] → decode (encode i) = .ok i) ∧
  ∀ ws i, decode ws = .ok i → encode i = ws ∧ wellFormed i = true

/-- R115 to R130: words written out bit by bit from the encodings of the manual, and what they stand for. -/
def Claims.SpecWordsDecode : Prop :=
  let h : Head := ⟨0, none⟩
  decode [0xE000000000000005] = .ok (.trap ⟨h, 5⟩) ∧
  decode [0xE040000000000000] = .ok (.rtt ⟨h, .plain⟩) ∧
  decode [0xE040010000000000] = .ok (.rtt ⟨h, .skip⟩) ∧
  decode [0xE040021C00000000] = .ok (.rtt ⟨h, .reg 7⟩) ∧
  decode [0xE080000000000001] = .ok (.bkpt ⟨h, 1⟩) ∧
  decode [0xE0C0000000000000] = .ok (.halt ⟨h⟩) ∧
  decode [0xE100001050000000] = .ok (.launch ⟨h, 4, 5⟩) ∧
  decode [0xE140000800000000] = .ok (.sets ⟨h, 2⟩) ∧
  decode [0xE180000C00000000] = .ok (.tlbinv ⟨h, some 3⟩) ∧
  decode [0xE180010000000000] = .ok (.tlbinv ⟨h, none⟩) ∧
  decode [0xE1C0001800000000] = .ok (.pres ⟨h, 6, none⟩) ∧
  decode [0xC500000002000000] = .ok (.creply ⟨h, 2⟩) ∧
  decode [0xC540000000000000] = .ok (.cdone ⟨h⟩) ∧
  decode [0xC440000000000140] = .ok (.objdel ⟨h, 20⟩) ∧
  decode [0xC4C0000000000140] = .ok (.orel ⟨h, 20⟩) ∧
  decode [0] = .error .unassigned ∧ decode [0xE000000000010005] = .error .reserved

/-- R393, R425, R428, R432, R288, R405, R323, R3: the machine at reset. The queue mask names queue 63 alone; the accept
mask is zero and no part number is set; the power cap is 5,800 W; the translation root is 0; every tile is FREE with
zero residues, acc64, E = 254 and clear status; no queue pair is established, the next message has SEQ 0, and
nothing is under way. What memory and the other registers hold at reset is the model's own choice (logs 3, 4, 5). -/
def Claims.ResetValues : Prop :=
  let s := State.reset
  (∀ k < 64, (s.mgmt.super.getLsbD k = true ↔ k = 63)) ∧ s.mgmt.closed = 0 ∧ s.mgmt.accepted = 0 ∧ s.partNum = none ∧
  s.mgmt.cap = 5800 ∧ s.troot = 0 ∧
  (∀ p t, let x := s.tile p t
    x.holder = .free ∧ x.res = [] ∧ x.fmt = .acc64 ∧ x.e = 254 ∧ x.scale = false ∧ x.ovf = false ∧ x.ccount = 0) ∧
  (∀ p, (Sparse.get Station.down s.stations p).up = false) ∧ s.qps = [] ∧ s.seq = 0 ∧ s.launches = [] ∧ s.groups = [] ∧
  s.ops = [] ∧ s.mem = []

/-- The canonical forms of the part's memory and of every L1 (log 3, log 7: the model's own) hold at reset. -/
def Claims.SafeAtReset : Prop := Safe State.reset

/-- Every step of the part, whatever happens in it, keeps the part's memory and every L1 in the canonical form (log 3,
log 7: the model's own), so that equal memories are equal data. -/
def Claims.SafeKeptByEveryStep : Prop := ∀ s t : State, Safe s → step s = .next t → Safe t

/-! ### The statements: what is claimed, assembled -/

/-- A step runs the instruction that the words at the group's slot decode to -/
def Obligations.StepRunsDecodedInstruction : Prop :=
  Claims.StepRunsDecodedInstruction

/-- What decides whether an instruction issues, and what happens when it does not -/
def Obligations.IssueRules : Prop :=
  Claims.OverdueStopIsForced ∧ Claims.UndecodableWordTrapsIllegal ∧ Claims.DecodeBreachTraps ∧
  Claims.InstructionWaitsWithoutEffect ∧ Claims.InstructionIssuesAtItsClock ∧ Claims.FailedGuardHasNoEffect ∧
  Claims.DeferredTrapTakenAtReader ∧ Claims.PoisonedRegisterTraps ∧ Claims.NothingIssuesWithoutAGroup

/-- What issuing leaves in the group beside the effect of the instruction -/
def Obligations.IssueCountsAndMovesOn : Prop :=
  Claims.IssueCountsAndMovesOn

/-- Every lane instruction without a runner operand completes, with its frame -/
def Obligations.LaneInstructions : Prop :=
  Claims.LaneInstructionsComplete ∧ Claims.LaneCommitFrame

/-- IADD, ISUB, IMUL, the bitwise operations and the shifts write the values of their rules -/
def Obligations.IntegerValues : Prop :=
  Claims.IntegerArithmetic32 ∧ Claims.IntegerArithmetic64 ∧ Claims.BitwiseValues ∧ Claims.ShiftValues

/-- IDIV and IREM of every integer type: quotient x divisor + remainder = dividend, and the corner cases -/
def Obligations.DivisionGivesTheDividendBack : Prop :=
  Claims.DivisionGivesTheDividendBack

/-- POPC, CLZ, CTZ and BREV of both raw types -/
def Obligations.BitCounts : Prop :=
  Claims.BitCounts

/-- ISETP, SEL and MOVI write what their rules say, in the executing lanes alone -/
def Obligations.CompareSelectAndMoveImmediate : Prop :=
  Claims.CompareAndSelect ∧ Claims.MoveImmediate

/-- A transient result is read by the next three instructions and never written -/
def Obligations.TransientResultIsReadForThreeInstructions : Prop :=
  Claims.TransientResultIsReadForThreeInstructions

/-- NaN operands give the canonical NaN, and a rounding gives the neighbour that its mode names -/
def Obligations.FloatResults : Prop :=
  Claims.NanOperandsGiveTheCanonicalNan ∧ Claims.RoundingFollowsItsMode

/-- Reconstruction answers the integer whose residues it reads -/
def Obligations.ReconstructionAnswersTheInteger : Prop :=
  Claims.ReconstructionAnswersTheInteger

/-- One wrong residue on any channel of the format is found and corrected -/
def Obligations.OneWrongResidueIsCorrected : Prop :=
  Claims.OneWrongResidueIsCorrected

/-- The scalar instructions complete, and a scalar result goes to its one place -/
def Obligations.ScalarInstructions : Prop :=
  Claims.ScalarInstructionsComplete ∧ Claims.ScalarWriteFrame

/-- SSETP, PLOG and GETS complete with their effects -/
def Obligations.PredicateAndSpecialInstructionsComplete : Prop :=
  Claims.PredicateAndSpecialInstructionsComplete

/-- WGROW and WSHRINK set the window, wait or trap as their rules say -/
def Obligations.WindowInstructions : Prop :=
  Claims.WindowInstructionsComplete ∧ Claims.BadWindowSizeTraps

/-- Runner reads, publishes and PUB, lane by lane -/
def Obligations.RunnerInstructions : Prop :=
  Claims.RunnerInstructionsComplete ∧ Claims.PubPublishesTheRegister

/-- Transfers of control, YIELD and SAFE complete and go where the manual says -/
def Obligations.TransfersYieldAndSafe : Prop :=
  Claims.TransfersComplete ∧ Claims.YieldAndSafe

/-- BRD forks, JOIN switches path or merges, and the merge keeps the right scalars -/
def Obligations.Divergence : Prop :=
  Claims.BrdForks ∧ Claims.JoinMergesOrSwitchesPath ∧ Claims.MergedScalars

/-- EXIT takes its lanes out of every mask and goes on, or ends the group -/
def Obligations.Exit : Prop :=
  Claims.ExitCompletes ∧ Claims.ExitedLanesLeaveEveryMask

/-- SIGCHK clears a signature that matches and traps on one that does not -/
def Obligations.SignatureCheck : Prop :=
  Claims.SignatureCheck

/-- XSWAP exchanges lanes with the partner that names it, or waits, or traps -/
def Obligations.XswapExchanges : Prop :=
  Claims.XswapExchanges

/-- Memory and a core's L1 hold what was stored; release writes back and acquire lets go -/
def Obligations.MemoryAndL1 : Prop :=
  Claims.MemoryHoldsWhatIsWritten ∧ Claims.L1HoldsWhatItsCoreStores ∧ Claims.ReleaseWritesBackAndAcquireLetsGo

/-- LD, ST, LDS and STS without a record: their effect, and the trap or wait without one -/
def Obligations.PlainAccesses : Prop :=
  Claims.PlainLoadsComplete ∧ Claims.PlainStoresComplete ∧ Claims.RefusedAccessHasNoEffect

/-- LD, ST, LDS and STS through a layout record complete -/
def Obligations.RecordAccessesComplete : Prop :=
  Claims.RecordAccessesComplete

/-- What a store and a load leave unchanged -/
def Obligations.AccessFrames : Prop :=
  Claims.StoreFrame ∧ Claims.LoadFrame

/-- ATOM and RED complete and perform their operation on memory -/
def Obligations.Atomics : Prop :=
  Claims.AtomicsComplete ∧ Claims.AtomicValues

/-- FENCE, PREF, CFLUSH, CINV, FETCH and POST complete with their effects -/
def Obligations.FencesHintsAndLineTransfers : Prop :=
  Claims.FenceCompletes ∧ Claims.CacheHintsComplete ∧ Claims.LineTransfersStart

/-- SEAL closes the open batch; WAITB and YIELDB wait, acquire, or report a failure -/
def Obligations.Batches : Prop :=
  Claims.SealClosesTheOpenBatch ∧ Claims.WaitsOnBatchesComplete ∧ Claims.WaitReportsABatchFailure

/-- CPY, CPYM and CBLD join the open batch and are under way; CSTAT sends its words -/
def Obligations.CopiesStart : Prop :=
  Claims.CopiesStart ∧ Claims.IssuedOperationJoinsTheOpenBatch ∧ Claims.CstatCompletes

/-- LAND arms its slot, and LANDW waits for it to fill -/
def Obligations.LandingSlots : Prop :=
  Claims.LandArmsItsSlot ∧ Claims.LandwCompletes

/-- The tile instructions complete at the holder of the tile and trap elsewhere -/
def Obligations.TileInstructions : Prop :=
  Claims.TileInstructionsComplete ∧ Claims.TileTokenIsChecked

/-- MZERO clears its tile and records formats and exponent -/
def Obligations.MzeroClearsItsTile : Prop :=
  Claims.MzeroClearsItsTile

/-- MMA arrives at its latch; DRAIN, DRAINM, ACST and ACLD are under way -/
def Obligations.MatrixOperationsStart : Prop :=
  Claims.MmaArrives ∧ Claims.DrainsAndImagesStart

/-- A pass adds the exact products to the tile -/
def Obligations.PassAddsExactProducts : Prop :=
  Claims.PassAddsExactProducts

/-- Grant, start, completion and aging of passes, and the pattern pass -/
def Obligations.Passes : Prop :=
  Claims.RendezvousGrantAndPassStart ∧ Claims.ReservationAgingRaisesALevel ∧ Claims.PassCompleteUpdatesItsTile ∧
  Claims.PatternPassRunsOnAFreeTile

/-- A drain completes, and that of an exact element is the element -/
def Obligations.Drains : Prop :=
  Claims.DrainCompletes ∧ Claims.DrainOfAnExactElement

/-- Matrix transfers, copies, book images and CPYM arrivals complete -/
def Obligations.EngineTransfersComplete : Prop :=
  Claims.MatrixTransfersComplete ∧ Claims.CopiesComplete ∧ Claims.BookImageEntries ∧ Claims.CpymArrivalMeetsItsSlot

/-- Results, acknowledgements and line transfers land -/
def Obligations.ResultsLand : Prop :=
  Claims.ResultsLand ∧ Claims.WriteAcknowledged ∧ Claims.LineTransfersEnd

/-- BAR, BARA, BARW, BARQ and BINIT complete; the last arrival releases every waiter -/
def Obligations.Barriers : Prop :=
  Claims.BarrierInstructionsComplete ∧ Claims.LastArrivalReleasesEveryWaiter ∧ Claims.BarrierCountTraps

/-- Object instructions complete, and requests are sent, accepted and answered -/
def Obligations.Objects : Prop :=
  Claims.ObjectInstructionsComplete ∧ Claims.OcallSendsItsRequests ∧ Claims.RequestsAreAcceptedAndAnswered

/-- A wave starts, answers, ends, and is held at its time limit -/
def Obligations.Waves : Prop :=
  Claims.WaveStarts ∧ Claims.WaveInstructionsComplete ∧ Claims.WaveTimeLimitHoldsTheObject

/-- Taking a trap: the handler is entered with what the rules save, or the group halts -/
def Obligations.Traps : Prop :=
  Claims.TrapEntersTheHandler ∧ Claims.TrapWithoutAHandlerHalts

/-- TRAP and BKPT take their traps, or are skipped by their guard -/
def Obligations.SoftwareTraps : Prop :=
  Claims.SoftwareTraps

/-- HALT halts the group, or is skipped by its guard -/
def Obligations.HaltHalts : Prop :=
  Claims.HaltHalts

/-- RTT returns from the handler as R402 says -/
def Obligations.ReturnsFromTheHandler : Prop :=
  Claims.ReturnsFromTheHandler

/-- LAUNCH, SETS, TLBINV and PRES complete, and trap without privilege -/
def Obligations.SystemInstructions : Prop :=
  Claims.LaunchSubmitsARecord ∧ Claims.TranslationInstructionsComplete ∧ Claims.ReleaseLetsFaultsGo ∧
  Claims.PrivilegedInstructionsTrap

/-- Clause entry, and the deferred trap taken there -/
def Obligations.ClauseBoundaries : Prop :=
  Claims.ClauseEntry ∧ Claims.DeferredTrapAtABoundary

/-- Active places of a core, runner values that arrive, and the WGROW stalemate -/
def Obligations.PlacesAndRunnerEvents : Prop :=
  Claims.RunnerEvents ∧ Claims.PlacesOfACore ∧ Claims.WgrowStalemate ∧ Claims.DivisionIsFound

/-- Page walks end, and fault records are written -/
def Obligations.WalksAndRecords : Prop :=
  Claims.WalksEnd ∧ Claims.RecordsAreWritten

/-- The host's commands complete, an abort stops its launch, a good record is accepted, object files load -/
def Obligations.HostCommands : Prop :=
  Claims.HostCommandsComplete ∧ Claims.AbortStopsTheLaunch ∧ Claims.RecordsAreAccepted ∧ Claims.ObjectFilesLoad

/-- RDMA accesses, peers' requests and the loss of a station -/
def Obligations.RemoteAccessesComplete : Prop :=
  Claims.RemoteAccessesComplete

/-- Groups start, teams are dispatched and taken over, pre-emption is requested -/
def Obligations.Placement : Prop :=
  Claims.NewGroupsStart ∧ Claims.TeamsAreDispatched ∧ Claims.PreemptionIsRequested

/-- Saved groups keep their state; units are saved and come back -/
def Obligations.Saves : Prop :=
  Claims.SavedGroupsKeepTheirState ∧ Claims.UnitsAreSavedAndRestored

/-- Groups retire, launches complete, pods are lost -/
def Obligations.Ends : Prop :=
  Claims.GroupsRetire ∧ Claims.LaunchesComplete ∧ Claims.PodsAreLost

/-- Storage errors, repair, refresh, power, reset, in-field tests, time and links -/
def Obligations.Reliability : Prop :=
  Claims.StorageErrors ∧ Claims.LastingErrors ∧ Claims.MemoryUpkeep ∧ Claims.PowerAndReset ∧
  Claims.PowerEventsComplete ∧ Claims.UpkeepEventsComplete

/-- Management commands do their one thing and are answered; frames are checked -/
def Obligations.Management : Prop :=
  Claims.ManagementCommandsComplete ∧ Claims.FramesAreChecked

/-- Decoding the words of a well-formed instruction gives it back, every operand at every value -/
def Obligations.DecodeAfterEncode : Prop :=
  Claims.DecodeAfterEncode

/-- Every step keeps the part's memory and every L1 in canonical form -/
def Obligations.SafeKeptByEveryStep : Prop :=
  Claims.SafeKeptByEveryStep

/-- The canonical form holds at reset, and reset has the values that the manual gives -/
def Obligations.SafeAtReset : Prop :=
  Claims.SafeAtReset ∧ Claims.ResetValues

/-- A few words of the manual decode to the instructions they stand for -/
def Obligations.SpecWordsDecode : Prop :=
  Claims.SpecWordsDecode
end

