-- ==== Sys2Proof/Laws/Codec.lean ====
section
/-! SUPPORT. The words of an instruction, read back field by field: what each format writes is what it
reads, and so each instruction's encoding has one candidate, the instruction itself. -/

namespace Sys2Proof.Laws

/-! ### Every format reads back what it writes -/

theorem VRaw_toWord_bit (r : VRaw) (k : Nat) :
    r.toWord.getLsbD k = (r.opc ++ r.hd ++ r.mod ++ r.d ++ r.a ++ r.b ++ r.c ++ r.k ++ r.pb ++ r.tr ++ r.bs ++ r.cs).getLsbD k := rfl

@[simp] theorem VRaw_ofWord_toWord (r : VRaw) : VRaw.ofWord r.toWord = r := by
  obtain ⟨x0, x1, x2, x3, x4, x5, x6, x7, x8, x9, x10, x11⟩ := r
  simp only [VRaw.ofWord, bits, VRaw.mk.injEq]
  refine ⟨?_, ?_, ?_, ?_, ?_, ?_, ?_, ?_, ?_, ?_, ?_, ?_⟩ <;>
  · apply BitVec.eq_of_getLsbD_eq
    intro i hi
    rw [BitVec.getLsbD_extractLsb', VRaw_toWord_bit]
    simp only [BitVec.getLsbD_append, hi, decide_true, Bool.true_and]
    simp (disch := omega) only [if_neg, if_pos, Nat.sub_sub]
    congr 1; try omega

@[simp] theorem VRaw_toWord_opcode (r : VRaw) : bits r.toWord 54 10 = r.opc :=
  congrArg VRaw.opc (VRaw_ofWord_toWord r)

@[simp] theorem VRaw_toWord_head (r : VRaw) : bits r.toWord 46 8 = r.hd :=
  congrArg VRaw.hd (VRaw_ofWord_toWord r)

theorem SRaw_toWord_bit (r : SRaw) (k : Nat) :
    r.toWord.getLsbD k = (r.opc ++ r.hd ++ r.mod ++ r.i ++ r.d ++ r.a ++ r.b ++ r.imm).getLsbD k := rfl

@[simp] theorem SRaw_ofWord_toWord (r : SRaw) : SRaw.ofWord r.toWord = r := by
  obtain ⟨x0, x1, x2, x3, x4, x5, x6, x7⟩ := r
  simp only [SRaw.ofWord, bits, SRaw.mk.injEq]
  refine ⟨?_, ?_, ?_, ?_, ?_, ?_, ?_, ?_⟩ <;>
  · apply BitVec.eq_of_getLsbD_eq
    intro i hi
    rw [BitVec.getLsbD_extractLsb', SRaw_toWord_bit]
    simp only [BitVec.getLsbD_append, hi, decide_true, Bool.true_and]
    simp (disch := omega) only [if_neg, if_pos, Nat.sub_sub]
    congr 1; try omega

@[simp] theorem SRaw_toWord_opcode (r : SRaw) : bits r.toWord 54 10 = r.opc :=
  congrArg SRaw.opc (SRaw_ofWord_toWord r)

@[simp] theorem SRaw_toWord_head (r : SRaw) : bits r.toWord 46 8 = r.hd :=
  congrArg SRaw.hd (SRaw_ofWord_toWord r)

theorem CRaw_toWord_bit (r : CRaw) (k : Nat) :
    r.toWord.getLsbD k = (r.opc ++ r.hd ++ r.s ++ r.p ++ r.pi ++ r.tgt ++ r.aux).getLsbD k := rfl

@[simp] theorem CRaw_ofWord_toWord (r : CRaw) : CRaw.ofWord r.toWord = r := by
  obtain ⟨x0, x1, x2, x3, x4, x5, x6⟩ := r
  simp only [CRaw.ofWord, bits, CRaw.mk.injEq]
  refine ⟨?_, ?_, ?_, ?_, ?_, ?_, ?_⟩ <;>
  · apply BitVec.eq_of_getLsbD_eq
    intro i hi
    rw [BitVec.getLsbD_extractLsb', CRaw_toWord_bit]
    simp only [BitVec.getLsbD_append, hi, decide_true, Bool.true_and]
    simp (disch := omega) only [if_neg, if_pos, Nat.sub_sub]
    congr 1; try omega

@[simp] theorem CRaw_toWord_opcode (r : CRaw) : bits r.toWord 54 10 = r.opc :=
  congrArg CRaw.opc (CRaw_ofWord_toWord r)

@[simp] theorem CRaw_toWord_head (r : CRaw) : bits r.toWord 46 8 = r.hd :=
  congrArg CRaw.hd (CRaw_ofWord_toWord r)

theorem MRaw_toWord_bit (r : MRaw) (k : Nat) :
    r.toWord.getLsbD k = (r.opc ++ r.hd ++ r.ty ++ r.pol ++ r.d ++ r.sb ++ r.vx ++ r.sh ++ r.xe ++ r.scope ++ r.op ++ r.l ++ r.ofs).getLsbD k := rfl

@[simp] theorem MRaw_ofWord_toWord (r : MRaw) : MRaw.ofWord r.toWord = r := by
  obtain ⟨x0, x1, x2, x3, x4, x5, x6, x7, x8, x9, x10, x11, x12⟩ := r
  simp only [MRaw.ofWord, bits, MRaw.mk.injEq]
  refine ⟨?_, ?_, ?_, ?_, ?_, ?_, ?_, ?_, ?_, ?_, ?_, ?_, ?_⟩ <;>
  · apply BitVec.eq_of_getLsbD_eq
    intro i hi
    rw [BitVec.getLsbD_extractLsb', MRaw_toWord_bit]
    simp only [BitVec.getLsbD_append, hi, decide_true, Bool.true_and]
    simp (disch := omega) only [if_neg, if_pos, Nat.sub_sub]
    congr 1; try omega

@[simp] theorem MRaw_toWord_opcode (r : MRaw) : bits r.toWord 54 10 = r.opc :=
  congrArg MRaw.opc (MRaw_ofWord_toWord r)

@[simp] theorem MRaw_toWord_head (r : MRaw) : bits r.toWord 46 8 = r.hd :=
  congrArg MRaw.hd (MRaw_ofWord_toWord r)

theorem PRaw_toWord_bit (r : PRaw) (k : Nat) :
    r.toWord.getLsbD k = (r.opc ++ r.hd ++ r.mod ++ r.srec ++ r.drec ++ r.sa ++ r.sb ++ r.sc ++ r.slot ++ r.cls ++ r.n).getLsbD k := rfl

@[simp] theorem PRaw_ofWord_toWord (r : PRaw) : PRaw.ofWord r.toWord = r := by
  obtain ⟨x0, x1, x2, x3, x4, x5, x6, x7, x8, x9, x10⟩ := r
  simp only [PRaw.ofWord, bits, PRaw.mk.injEq]
  refine ⟨?_, ?_, ?_, ?_, ?_, ?_, ?_, ?_, ?_, ?_, ?_⟩ <;>
  · apply BitVec.eq_of_getLsbD_eq
    intro i hi
    rw [BitVec.getLsbD_extractLsb', PRaw_toWord_bit]
    simp only [BitVec.getLsbD_append, hi, decide_true, Bool.true_and]
    simp (disch := omega) only [if_neg, if_pos, Nat.sub_sub]
    congr 1; try omega

@[simp] theorem PRaw_toWord_opcode (r : PRaw) : bits r.toWord 54 10 = r.opc :=
  congrArg PRaw.opc (PRaw_ofWord_toWord r)

@[simp] theorem PRaw_toWord_head (r : PRaw) : bits r.toWord 46 8 = r.hd :=
  congrArg PRaw.hd (PRaw_ofWord_toWord r)

theorem XRaw_toWord_bit (r : XRaw) (k : Nat) :
    r.toWord.getLsbD k = (r.opc ++ r.hd ++ r.ta ++ r.tb ++ r.tc ++ r.td ++ r.tile ++ r.ra ++ r.rb ++ r.book ++ r.trp ++ r.aux).getLsbD k := rfl

@[simp] theorem XRaw_ofWord_toWord (r : XRaw) : XRaw.ofWord r.toWord = r := by
  obtain ⟨x0, x1, x2, x3, x4, x5, x6, x7, x8, x9, x10, x11⟩ := r
  simp only [XRaw.ofWord, bits, XRaw.mk.injEq]
  refine ⟨?_, ?_, ?_, ?_, ?_, ?_, ?_, ?_, ?_, ?_, ?_, ?_⟩ <;>
  · apply BitVec.eq_of_getLsbD_eq
    intro i hi
    rw [BitVec.getLsbD_extractLsb', XRaw_toWord_bit]
    simp only [BitVec.getLsbD_append, hi, decide_true, Bool.true_and]
    simp (disch := omega) only [if_neg, if_pos, Nat.sub_sub]
    congr 1; try omega

@[simp] theorem XRaw_toWord_opcode (r : XRaw) : bits r.toWord 54 10 = r.opc :=
  congrArg XRaw.opc (XRaw_ofWord_toWord r)

@[simp] theorem XRaw_toWord_head (r : XRaw) : bits r.toWord 46 8 = r.hd :=
  congrArg XRaw.hd (XRaw_ofWord_toWord r)

theorem YRaw_toWord_bit (r : YRaw) (k : Nat) :
    r.toWord.getLsbD k = (r.opc ++ r.hd ++ r.mod ++ r.d ++ r.a ++ r.b ++ r.bar ++ r.s ++ r.rsv).getLsbD k := rfl

@[simp] theorem YRaw_ofWord_toWord (r : YRaw) : YRaw.ofWord r.toWord = r := by
  obtain ⟨x0, x1, x2, x3, x4, x5, x6, x7, x8⟩ := r
  simp only [YRaw.ofWord, bits, YRaw.mk.injEq]
  refine ⟨?_, ?_, ?_, ?_, ?_, ?_, ?_, ?_, ?_⟩ <;>
  · apply BitVec.eq_of_getLsbD_eq
    intro i hi
    rw [BitVec.getLsbD_extractLsb', YRaw_toWord_bit]
    simp only [BitVec.getLsbD_append, hi, decide_true, Bool.true_and]
    simp (disch := omega) only [if_neg, if_pos, Nat.sub_sub]
    congr 1; try omega

@[simp] theorem YRaw_toWord_opcode (r : YRaw) : bits r.toWord 54 10 = r.opc :=
  congrArg YRaw.opc (YRaw_ofWord_toWord r)

@[simp] theorem YRaw_toWord_head (r : YRaw) : bits r.toWord 46 8 = r.hd :=
  congrArg YRaw.hd (YRaw_ofWord_toWord r)

theorem ZRaw_toWord_bit (r : ZRaw) (k : Nat) :
    r.toWord.getLsbD k = (r.opc ++ r.hd ++ r.mod ++ r.sa ++ r.sb ++ r.rsv ++ r.imm).getLsbD k := rfl

@[simp] theorem ZRaw_ofWord_toWord (r : ZRaw) : ZRaw.ofWord r.toWord = r := by
  obtain ⟨x0, x1, x2, x3, x4, x5, x6⟩ := r
  simp only [ZRaw.ofWord, bits, ZRaw.mk.injEq]
  refine ⟨?_, ?_, ?_, ?_, ?_, ?_, ?_⟩ <;>
  · apply BitVec.eq_of_getLsbD_eq
    intro i hi
    rw [BitVec.getLsbD_extractLsb', ZRaw_toWord_bit]
    simp only [BitVec.getLsbD_append, hi, decide_true, Bool.true_and]
    simp (disch := omega) only [if_neg, if_pos, Nat.sub_sub]
    congr 1; try omega

@[simp] theorem ZRaw_toWord_opcode (r : ZRaw) : bits r.toWord 54 10 = r.opc :=
  congrArg ZRaw.opc (ZRaw_ofWord_toWord r)

@[simp] theorem ZRaw_toWord_head (r : ZRaw) : bits r.toWord 46 8 = r.hd :=
  congrArg ZRaw.hd (ZRaw_ofWord_toWord r)

/-! ### Codes and operands read back -/

@[simp] theorem flag1_bit1 (b : Bool) : flag1 (bit1 b) = b := by cases b <;> rfl
@[simp] theorem flag1_one : flag1 1 = true := rfl
@[simp] theorem flag1_zero : flag1 0 = false := rfl

@[simp] theorem Head_ofBits_toBits (h : Head) : Head.ofBits h.toBits = h := by
  obtain ⟨s, g⟩ := h
  rcases g with _ | ⟨i, p⟩
  · revert s; decide
  · cases i <;> revert s p <;> decide

@[simp] theorem RMode_ofCode_code (m : RMode) : RMode.ofCode m.code = m := by cases m <;> rfl
@[simp] theorem Cls_ofCode_code (m : Cls) : Cls.ofCode m.code = m := by cases m <;> rfl
@[simp] theorem Pol_ofCode_code (m : Pol) : Pol.ofCode m.code = m := by cases m <;> rfl
@[simp] theorem InTy_ofCode_code (t : InTy) : InTy.ofCode t.code.toNat = some t := by cases t <;> rfl
@[simp] theorem AccFmt_ofCode_code (t : AccFmt) : AccFmt.ofCode t.code.toNat = some t := by cases t <;> rfl
@[simp] theorem ResTy_ofCode_code (t : ResTy) : ResTy.ofCode t.code.toNat = some t := by cases t <;> rfl
@[simp] theorem drainTdOf_drainTd (t : Option ResTy) : drainTdOf (drainTd t).toNat = some t := by
  rcases t with _ | t
  · rfl
  · cases t <;> rfl
@[simp] theorem Special_ofCode_code (t : Special) : Special.ofCode t.code.toNat = some t := by cases t <;> rfl
@[simp] theorem FenceKind_ofCode_code (t : FenceKind) : FenceKind.ofCode t.code.toNat = some t := by
  cases t <;> rfl
@[simp] theorem PrefLvl_ofCode_code (t : PrefLvl) : PrefLvl.ofCode t.code.toNat = some t := by cases t <;> rfl
@[simp] theorem CpyDir_ofCode_code (t : CpyDir) : CpyDir.ofCode t.code.toNat = some t := by cases t <;> rfl
@[simp] theorem MinjMode_ofCode_code (t : MinjMode) : MinjMode.ofCode t.code.toNat = some t := by
  cases t <;> rfl
@[simp] theorem Ty_ofCode_code4 (t : Ty) : Ty.ofCode (BitVec.ofNat 4 t.code).toNat = some t := by cases t <;> rfl
@[simp] theorem Ty_ofCode_code8 (t : Ty) : Ty.ofCode (BitVec.ofNat 8 t.code).toNat = some t := by cases t <;> rfl
@[simp] theorem Scope_ofCode_code (t : Scope) : Scope.ofCode (BitVec.ofNat 3 t.code).toNat = some t := by
  cases t <;> rfl
@[simp] theorem XferTy_ofCode_code (t : XferTy) : XferTy.ofCode (BitVec.ofNat 5 t.code).toNat = some t := by
  cases t <;> rfl
@[simp] theorem narrow6 (r : BitVec 6) : (r.setWidth 8).setWidth 6 = r := by revert r; decide
@[simp] theorem narrow3 (r : BitVec 3) : (r.setWidth 8).setWidth 3 = r := by revert r; decide
@[simp] theorem SReg_ofCode_code (r : SReg) : SReg.ofCode r.code = r := by
  cases r with
  | em => rfl
  | s r => revert r; decide
@[simp] theorem PReg_ofCode_code (r : PReg) : PReg.ofCode r.code = r := by
  cases r with
  | em => rfl
  | p r => revert r; decide

/-- TYPE with OPT below it (R119). -/
theorem Ty_ofCode_opt (t : Ty) (k : Nat) (h : k < 4) :
    Ty.ofCode ((BitVec.ofNat 6 (t.code * 4 + k)).toNat / 4) = some t := by
  rcases k with _ | _ | _ | _ | k
  · cases t <;> rfl
  · cases t <;> rfl
  · cases t <;> rfl
  · cases t <;> rfl
  · omega

@[simp] theorem Ty_ofCode_flag (t : Ty) (b : Bool) :
    Ty.ofCode ((BitVec.ofNat 6 (t.code * 4 + b2n b)).toNat / 4) = some t :=
  Ty_ofCode_opt t _ (by cases b <;> decide)

@[simp] theorem Ty_ofCode_rm (t : Ty) (m : RMode) :
    Ty.ofCode ((BitVec.ofNat 6 (t.code * 4 + m.code.toNat)).toNat / 4) = some t :=
  Ty_ofCode_opt t _ m.code.isLt

@[simp] theorem opt_flag (t : Ty) (b : Bool) : (BitVec.ofNat 6 (t.code * 4 + b2n b)).getLsbD 0 = b := by
  cases t <;> cases b <;> rfl

@[simp] theorem opt_rm (t : Ty) (m : RMode) :
    RMode.ofCode ((BitVec.ofNat 6 (t.code * 4 + m.code.toNat)).setWidth 2) = m := by
  cases t <;> cases m <;> rfl

@[simp] theorem VSrc_eta (a : VSrc) : (⟨a.reg, a.k⟩ : VSrc) = a := rfl
@[simp] theorem VDst_eta (d : VDst) : (⟨d.reg, d.pub, d.tr⟩ : VDst) = d := rfl

theorem imm_halves (i : BitVec 16) : i.extractLsb' 8 8 ++ i.extractLsb' 0 8 = i := by
  apply BitVec.eq_of_getLsbD_eq
  intro k hk
  simp only [BitVec.getLsbD_append, BitVec.getLsbD_extractLsb']
  by_cases h : k < 8
  · simp [h]
  · simp [h, show k - 8 < 8 by omega, show 8 + (k - 8) = k by omega]

theorem imm_thirds (n : BitVec 24) : n.extractLsb' 16 8 ++ n.extractLsb' 8 8 ++ n.extractLsb' 0 8 = n := by
  apply BitVec.eq_of_getLsbD_eq
  intro k hk
  simp only [BitVec.getLsbD_append, BitVec.getLsbD_extractLsb']
  by_cases h : k < 8
  · simp [h]
  · by_cases h2 : k - 8 < 8
    · simp [h, h2, show 8 + (k - 8) = k by omega]
    · simp [h, h2, show k - 8 - 8 < 8 by omega, show 16 + (k - 8 - 8) = k by omega]

theorem sig_halves (i : BitVec 32) :
    (((i.extractLsb' 16 16).setWidth 20).setWidth 16 : BitVec 16) ++ i.extractLsb' 0 16 = i := by
  apply BitVec.eq_of_getLsbD_eq
  intro k hk
  simp only [BitVec.getLsbD_append, BitVec.getLsbD_extractLsb', BitVec.getLsbD_setWidth]
  by_cases h : k < 16
  · simp [h]
  · simp [h, show k - 16 < 16 by omega, show k - 16 < 20 by omega, show 16 + (k - 16) = k by omega]

theorem Ty_ofCode_zero (t : Ty) : Ty.ofCode ((BitVec.ofNat 6 (t.code * 4 + 0)).toNat / 4) = some t :=
  Ty_ofCode_opt t 0 (by decide)

theorem Ty_ofCode_inv (t : Ty) (b : Bool) :
    Ty.ofCode ((BitVec.ofNat 6 (t.code * 4 + 2 * b2n b)).toNat / 4) = some t :=
  Ty_ofCode_opt t _ (by cases b <;> decide)

theorem opt_inv (t : Ty) (b : Bool) : (BitVec.ofNat 6 (t.code * 4 + 2 * b2n b)).getLsbD 1 = b := by
  cases t <;> cases b <;> rfl

theorem Ty_ofCode_shift (t : Ty) (k : BitVec 2) :
    Ty.ofCode ((BitVec.ofNat 6 (t.code * 4 + k.toNat)).toNat / 4) = some t :=
  Ty_ofCode_opt t _ k.isLt

theorem opt_shift (t : Ty) (k : BitVec 2) : (BitVec.ofNat 6 (t.code * 4 + k.toNat)).setWidth 2 = k := by
  cases t <;> revert k <;> decide

theorem dotc_book (b : BitVec 2) (s : Bool) : (0#2 ++ b ++ 0#1 ++ bit1 s).extractLsb' 2 2 = b := by
  revert b s; decide

theorem dotc_sat (b : BitVec 2) (s : Bool) : (0#2 ++ b ++ 0#1 ++ bit1 s).getLsbD 0 = s := by
  revert b s; decide

theorem cdec_form (f b k : BitVec 2) : (f ++ b ++ k).toNat / 16 = f.toNat := by revert f b k; decide

theorem cdec_book (f b k : BitVec 2) : (f ++ b ++ k).extractLsb' 2 2 = b := by revert f b k; decide

theorem cdec_sel (f b k : BitVec 2) : (f ++ b ++ k).setWidth 2 = k := by revert f b k; decide

theorem narrow54 (r : BitVec 4) : (r.setWidth 5).setWidth 4 = r := by revert r; decide
theorem narrow42 (r : BitVec 2) : (r.setWidth 4).setWidth 2 = r := by revert r; decide

theorem yieldb_cls (c : Cls) (n : BitVec 4) : Cls.ofCode ((0#10 ++ c.code ++ n).extractLsb' 4 2) = c := by
  cases c <;> revert n <;> decide

theorem yieldb_n (c : Cls) (n : BitVec 4) : (0#10 ++ c.code ++ n).setWidth 4 = n := by
  cases c <;> revert n <;> decide

theorem gang_a (b a : BitVec 2) : (0#4 ++ b ++ a).setWidth 2 = a := by revert a b; decide
theorem gang_b (b a : BitVec 2) : (0#4 ++ b ++ a).extractLsb' 2 2 = b := by revert a b; decide

theorem call_reg (t : BitVec 6) : (1#1 ++ 0#9 ++ t).setWidth 6 = t := by revert t; decide
theorem call_mark (t : BitVec 6) : (1#1 ++ 0#9 ++ t).getLsbD 15 = true := by revert t; decide

theorem Ty_code_lt (t : Ty) : t.code < 14 := by cases t <;> decide

/-- CMP with a type number below it (R178, R203). -/
theorem Cmp_ofCode_type (c : Cmp) (k : Nat) (h : k < 8) :
    Cmp.ofCode ((BitVec.ofNat 6 (c.code * 8 + k)).toNat / 8) = some c ∧
      (BitVec.ofNat 6 (c.code * 8 + k)).toNat % 8 = k := by
  interval_cases k <;> cases c <;> exact ⟨rfl, rfl⟩

/-- MSEL with a type number below it (R184). -/
theorem ModSel_ofCode_type (m : ModSel) (k : Nat) (h : k < 4) (hm : WF.modSel m = true) :
    ModSel.ofCode ((BitVec.ofNat 6 (m.code * 4 + k)).toNat / 4) = some m ∧
      (BitVec.ofNat 6 (m.code * 4 + k)).toNat % 4 = k := by
  cases m with
  | operand => interval_cases k <;> exact ⟨rfl, rfl⟩
  | chan i =>
    have hi : i.toNat ≤ 9 := by simpa [WF.modSel] using hm
    have h1 : (i.toNat * 4 + k) % 64 = i.toNat * 4 + k := Nat.mod_eq_of_lt (by omega)
    have h2 : (i.toNat * 4 + k) / 4 = i.toNat := by omega
    simp [ModSel.code, ModSel.ofCode, h1, h2, hi]; omega

theorem RedOp_ofCode_rm (op : RedOp) (m : RMode) :
    RedOp.ofCode ((BitVec.ofNat 6 (op.code * 4 + m.code.toNat)).toNat / 4) = some op := by
  cases op <;> cases m <;> rfl

theorem red_rm (op : RedOp) (m : RMode) :
    RMode.ofCode ((BitVec.ofNat 6 (op.code * 4 + m.code.toNat)).setWidth 2) = m := by
  cases op <;> cases m <;> rfl

theorem Ty_ofCode_excl (t : Ty) (b : Bool) :
    Ty.ofCode ((BitVec.ofNat 8 (t.code + b2n b * 16)).toNat % 16) = some t := by
  cases t <;> cases b <;> rfl

theorem scan_excl (t : Ty) (b : Bool) : (BitVec.ofNat 8 (t.code + b2n b * 16)).getLsbD 4 = b := by
  cases t <;> cases b <;> rfl

theorem AtomOp_ofCodes_code (op : AtomOp) : AtomOp.ofCodes op.opCode.toNat op.tyCode = some op := by
  cases op with
  | add t | min t | max t => cases t <;> rfl
  | and w | or w | xor w | exch w | cas w => cases w <;> rfl
  | radd c => rfl

theorem deep_bit (b : Bool) : (BitVec.ofNat 4 (b2n b)).getLsbD 0 = b := by cases b <;> rfl
theorem loc_bit (b : Bool) : (BitVec.ofNat 2 (b2n b)).getLsbD 0 = b := by cases b <;> rfl

theorem record_lay (l : BitVec 6) : (l.setWidth 7).setWidth 6 = l := by revert l; decide

/-- An address reads back, from a word whose address fields were empty. -/
theorem getMem_setMem (r : MRaw) (a : MAddr) (h1 : r.l = 0) (h2 : r.xe = 0) :
    (r.setMem a).getMem a.lits = a := by
  cases a with
  | plain m =>
    obtain ⟨sb, idx, off⟩ := m
    rcases idx with _ | ⟨v, s⟩ <;> cases off <;>
      simp [MRaw.setMem, MRaw.getMem, MRaw.setAddr, MRaw.getAddr, MRaw.setOff, MRaw.getOff, MAddr.lits,
        MOff.lits, h1, h2, flag1]
  | record lay sb vx => simp [MRaw.setMem, MRaw.getMem, flag1]

theorem getAddr_setAddr (r : MRaw) (m : MPlain) (h2 : r.xe = 0) :
    (r.setAddr m).getAddr m.off.lits = m := by
  obtain ⟨sb, idx, off⟩ := m
  rcases idx with _ | ⟨v, s⟩ <;> cases off <;>
    simp [MRaw.setAddr, MRaw.getAddr, MRaw.setOff, MRaw.getOff, MOff.lits, h2, flag1]

theorem setAddr_opc (r : MRaw) (m : MPlain) : (r.setAddr m).opc = r.opc := by
  obtain ⟨sb, idx, off⟩ := m
  rcases idx with _ | ⟨v, s⟩ <;> cases off <;> rfl

theorem setAddr_hd (r : MRaw) (m : MPlain) : (r.setAddr m).hd = r.hd := by
  obtain ⟨sb, idx, off⟩ := m
  rcases idx with _ | ⟨v, s⟩ <;> cases off <;> rfl

theorem setAddr_ty (r : MRaw) (m : MPlain) : (r.setAddr m).ty = r.ty := by
  obtain ⟨sb, idx, off⟩ := m
  rcases idx with _ | ⟨v, s⟩ <;> cases off <;> rfl

theorem setAddr_pol (r : MRaw) (m : MPlain) : (r.setAddr m).pol = r.pol := by
  obtain ⟨sb, idx, off⟩ := m
  rcases idx with _ | ⟨v, s⟩ <;> cases off <;> rfl

theorem setAddr_d (r : MRaw) (m : MPlain) : (r.setAddr m).d = r.d := by
  obtain ⟨sb, idx, off⟩ := m
  rcases idx with _ | ⟨v, s⟩ <;> cases off <;> rfl

theorem setAddr_scope (r : MRaw) (m : MPlain) : (r.setAddr m).scope = r.scope := by
  obtain ⟨sb, idx, off⟩ := m
  rcases idx with _ | ⟨v, s⟩ <;> cases off <;> rfl

theorem setAddr_op (r : MRaw) (m : MPlain) : (r.setAddr m).op = r.op := by
  obtain ⟨sb, idx, off⟩ := m
  rcases idx with _ | ⟨v, s⟩ <;> cases off <;> rfl

theorem setMem_opc (r : MRaw) (a : MAddr) : (r.setMem a).opc = r.opc := by
  cases a with
  | plain m => exact setAddr_opc r m
  | record lay sb vx => rfl

theorem setMem_hd (r : MRaw) (a : MAddr) : (r.setMem a).hd = r.hd := by
  cases a with
  | plain m => exact setAddr_hd r m
  | record lay sb vx => rfl

theorem setMem_ty (r : MRaw) (a : MAddr) : (r.setMem a).ty = r.ty := by
  cases a with
  | plain m => exact setAddr_ty r m
  | record lay sb vx => rfl

theorem setMem_pol (r : MRaw) (a : MAddr) : (r.setMem a).pol = r.pol := by
  cases a with
  | plain m => exact setAddr_pol r m
  | record lay sb vx => rfl

theorem setMem_d (r : MRaw) (a : MAddr) : (r.setMem a).d = r.d := by
  cases a with
  | plain m => exact setAddr_d r m
  | record lay sb vx => rfl


/-! ### Each kind of instruction -/

theorem V1_roundtrip (opc : BitVec 10) (o : V1) (w : Word) (l : List Word) (he : o.enc opc = w :: l) :
    bits w 54 10 = opc ∧ V1.cand w = some o := by
  obtain ⟨h, t, sat, d, a⟩ := o
  simp only [V1.enc, List.cons.injEq] at he
  obtain ⟨rfl, rfl⟩ := he
  refine ⟨VRaw_toWord_opcode _, ?_⟩
  simp only [V1.cand, VRaw.setD, VRaw.setA, VRaw.setTy, VRaw.getD, VRaw.getA, VRaw.getTy, VRaw.head,
    VRaw.mk0, VRaw_ofWord_toWord, Head_ofBits_toBits, Option.bind_eq_bind, Option.bind_some, pure,
    Ty_ofCode_flag, opt_flag, flag1_bit1]

theorem V2_roundtrip (opc : BitVec 10) (o : V2) (w : Word) (l : List Word) (he : o.enc opc = w :: l) :
    bits w 54 10 = opc ∧ V2.cand w l = some o := by
  obtain ⟨h, t, sat, d, a, b⟩ := o
  cases b <;>
  · simp only [V2.enc, List.cons.injEq] at he
    obtain ⟨rfl, rfl⟩ := he
    refine ⟨VRaw_toWord_opcode _, ?_⟩
    simp only [V2.cand, VRaw.setD, VRaw.setA, VRaw.setB, VRaw.setTy, VRaw.getD, VRaw.getA, VRaw.getB,
      VRaw.getTy, VRaw.head, VRaw.mk0, OpB.lits, VRaw_ofWord_toWord, Head_ofBits_toBits,
      Option.bind_eq_bind, Option.bind_some, pure, Ty_ofCode_flag, opt_flag, flag1_bit1, flag1_one,
      flag1_zero, narrow6, if_true, if_false, Bool.false_eq_true]

theorem V3_roundtrip (opc : BitVec 10) (o : V3) (w : Word) (l : List Word) (he : o.enc opc = w :: l) :
    bits w 54 10 = opc ∧ V3.cand w l = some o := by
  obtain ⟨h, t, sat, d, a, b, c⟩ := o
  cases b <;> cases c <;>
  · simp only [V3.enc, List.cons.injEq] at he
    obtain ⟨rfl, rfl⟩ := he
    refine ⟨VRaw_toWord_opcode _, ?_⟩
    simp only [V3.cand, VRaw.setD, VRaw.setA, VRaw.setB, VRaw.setC, VRaw.setTy, VRaw.getD, VRaw.getA,
      VRaw.getB, VRaw.getC, VRaw.getTy, VRaw.head, VRaw.mk0, OpB.lits, VRaw_ofWord_toWord,
      Head_ofBits_toBits, Option.bind_eq_bind, Option.bind_some, pure, Ty_ofCode_flag, opt_flag,
      flag1_bit1, flag1_one, flag1_zero, narrow6, if_true, if_false, Bool.false_eq_true]

theorem VImm_roundtrip (opc : BitVec 10) (o : VImm) (w : Word) (l : List Word) (he : o.enc opc = w :: l) :
    bits w 54 10 = opc ∧ VImm.cand w = some o := by
  obtain ⟨h, t, sat, d, a, imm⟩ := o
  simp only [VImm.enc, List.cons.injEq] at he
  obtain ⟨rfl, rfl⟩ := he
  refine ⟨VRaw_toWord_opcode _, ?_⟩
  simp only [VImm.cand, VRaw.setD, VRaw.setA, VRaw.setTy, VRaw.setImm, VRaw.getD, VRaw.getA, VRaw.getTy,
    VRaw.getImm, VRaw.head, VRaw.mk0, VRaw_ofWord_toWord, Head_ofBits_toBits, Option.bind_eq_bind,
    Option.bind_some, pure, Ty_ofCode_flag, opt_flag, flag1_bit1, imm_halves]

theorem VSel_roundtrip (opc : BitVec 10) (o : VSel) (w : Word) (l : List Word) (he : o.enc opc = w :: l) :
    bits w 54 10 = opc ∧ VSel.cand w l = some o := by
  obtain ⟨h, t, inv, p, d, a, b⟩ := o
  cases b <;>
  · simp only [VSel.enc, List.cons.injEq] at he
    obtain ⟨rfl, rfl⟩ := he
    refine ⟨VRaw_toWord_opcode _, ?_⟩
    simp only [VSel.cand, VRaw.setD, VRaw.setA, VRaw.setB, VRaw.setTy, VRaw.getD, VRaw.getA, VRaw.getB,
      VRaw.getTy, VRaw.head, VRaw.mk0, OpB.lits, VRaw_ofWord_toWord, Head_ofBits_toBits,
      Option.bind_eq_bind, Option.bind_some, pure, flag1_bit1, flag1_one, flag1_zero, narrow6, narrow3,
      if_true, if_false, Bool.false_eq_true, Ty_ofCode_inv, opt_inv]

theorem VMov_roundtrip (opc : BitVec 10) (o : VMov) (w : Word) (l : List Word) (he : o.enc opc = w :: l) :
    bits w 54 10 = opc ∧ VMov.cand w l = some o := by
  obtain ⟨h, t, d, src⟩ := o
  cases src <;>
  · simp only [VMov.enc, List.cons.injEq] at he
    obtain ⟨rfl, rfl⟩ := he
    refine ⟨VRaw_toWord_opcode _, ?_⟩
    simp only [VMov.cand, VRaw.setD, VRaw.setA, VRaw.setB, VRaw.setTy, VRaw.getD, VRaw.getA, VRaw.getTy,
      VRaw.head, VRaw.mk0, VRaw_ofWord_toWord, Head_ofBits_toBits, Option.bind_eq_bind, Option.bind_some,
      pure, flag1_bit1, flag1_one, flag1_zero, narrow6, if_true, if_false, Bool.false_eq_true,
      Ty_ofCode_zero]

theorem VMovi_roundtrip (opc : BitVec 10) (o : VMovi) (w : Word) (l : List Word) (he : o.enc opc = w :: l) :
    bits w 54 10 = opc ∧ VMovi.cand w = some o := by
  obtain ⟨h, t, d, imm⟩ := o
  simp only [VMovi.enc, List.cons.injEq] at he
  obtain ⟨rfl, rfl⟩ := he
  refine ⟨VRaw_toWord_opcode _, ?_⟩
  simp only [VMovi.cand, VRaw.setD, VRaw.setTy, VRaw.setImm, VRaw.getD, VRaw.getTy, VRaw.getImm,
    VRaw.head, VRaw.mk0, VRaw_ofWord_toWord, Head_ofBits_toBits, Option.bind_eq_bind, Option.bind_some,
    pure, flag1_bit1, imm_halves, Ty_ofCode_zero]

theorem VCvti_roundtrip (opc : BitVec 10) (o : VCvti) (w : Word) (l : List Word) (he : o.enc opc = w :: l) :
    bits w 54 10 = opc ∧ VCvti.cand w = some o := by
  obtain ⟨h, td, ts, sat, d, a⟩ := o
  simp only [VCvti.enc, List.cons.injEq] at he
  obtain ⟨rfl, rfl⟩ := he
  refine ⟨VRaw_toWord_opcode _, ?_⟩
  simp only [VCvti.cand, VRaw.setD, VRaw.setA, VRaw.setTy, VRaw.getD, VRaw.getA, VRaw.getTy, VRaw.head,
    VRaw.mk0, VRaw_ofWord_toWord, Head_ofBits_toBits, Option.bind_eq_bind, Option.bind_some, pure,
    Ty_ofCode_code8, Ty_ofCode_flag, opt_flag, flag1_bit1]

theorem VLea_roundtrip (opc : BitVec 10) (o : VLea) (w : Word) (l : List Word) (he : o.enc opc = w :: l) :
    bits w 54 10 = opc ∧ VLea.cand w l = some o := by
  obtain ⟨h, t, k, d, a, b⟩ := o
  cases b <;>
  · simp only [VLea.enc, List.cons.injEq] at he
    obtain ⟨rfl, rfl⟩ := he
    refine ⟨VRaw_toWord_opcode _, ?_⟩
    simp only [VLea.cand, VRaw.setD, VRaw.setA, VRaw.setB, VRaw.setTy, VRaw.getD, VRaw.getA, VRaw.getB,
      VRaw.getTy, VRaw.head, VRaw.mk0, OpB.lits, VRaw_ofWord_toWord, Head_ofBits_toBits,
      Option.bind_eq_bind, Option.bind_some, pure, flag1_bit1, flag1_one, flag1_zero, narrow6, if_true,
      if_false, Bool.false_eq_true, Ty_ofCode_shift, opt_shift]

theorem F1_roundtrip (opc : BitVec 10) (o : F1) (w : Word) (l : List Word) (he : o.enc opc = w :: l) :
    bits w 54 10 = opc ∧ F1.cand w = some o := by
  obtain ⟨h, t, rm, d, a⟩ := o
  simp only [F1.enc, List.cons.injEq] at he
  obtain ⟨rfl, rfl⟩ := he
  refine ⟨VRaw_toWord_opcode _, ?_⟩
  simp only [F1.cand, VRaw.setD, VRaw.setA, VRaw.setTy, VRaw.getD, VRaw.getA, VRaw.getTy, VRaw.head,
    VRaw.rm, VRaw.mk0, VRaw_ofWord_toWord, Head_ofBits_toBits, Option.bind_eq_bind, Option.bind_some,
    pure, Ty_ofCode_rm, opt_rm, flag1_bit1]

theorem F2_roundtrip (opc : BitVec 10) (o : F2) (w : Word) (l : List Word) (he : o.enc opc = w :: l) :
    bits w 54 10 = opc ∧ F2.cand w l = some o := by
  obtain ⟨h, t, rm, d, a, b⟩ := o
  cases b <;>
  · simp only [F2.enc, List.cons.injEq] at he
    obtain ⟨rfl, rfl⟩ := he
    refine ⟨VRaw_toWord_opcode _, ?_⟩
    simp only [F2.cand, VRaw.setD, VRaw.setA, VRaw.setB, VRaw.setTy, VRaw.getD, VRaw.getA, VRaw.getB,
      VRaw.getTy, VRaw.head, VRaw.rm, VRaw.mk0, OpB.lits, VRaw_ofWord_toWord, Head_ofBits_toBits,
      Option.bind_eq_bind, Option.bind_some, pure, Ty_ofCode_rm, opt_rm, flag1_bit1, flag1_one,
      flag1_zero, narrow6, if_true, if_false, Bool.false_eq_true]

theorem F3_roundtrip (opc : BitVec 10) (o : F3) (w : Word) (l : List Word) (he : o.enc opc = w :: l) :
    bits w 54 10 = opc ∧ F3.cand w l = some o := by
  obtain ⟨h, t, rm, d, a, b, c⟩ := o
  cases b <;> cases c <;>
  · simp only [F3.enc, List.cons.injEq] at he
    obtain ⟨rfl, rfl⟩ := he
    refine ⟨VRaw_toWord_opcode _, ?_⟩
    simp only [F3.cand, VRaw.setD, VRaw.setA, VRaw.setB, VRaw.setC, VRaw.setTy, VRaw.getD, VRaw.getA,
      VRaw.getB, VRaw.getC, VRaw.getTy, VRaw.head, VRaw.rm, VRaw.mk0, OpB.lits, VRaw_ofWord_toWord,
      Head_ofBits_toBits, Option.bind_eq_bind, Option.bind_some, pure, Ty_ofCode_rm, opt_rm, flag1_bit1,
      flag1_one, flag1_zero, narrow6, if_true, if_false, Bool.false_eq_true]

theorem VFcvt_roundtrip (opc : BitVec 10) (o : VFcvt) (w : Word) (l : List Word) (he : o.enc opc = w :: l) :
    bits w 54 10 = opc ∧ VFcvt.cand w = some o := by
  obtain ⟨h, td, ts, rm, d, a⟩ := o
  simp only [VFcvt.enc, List.cons.injEq] at he
  obtain ⟨rfl, rfl⟩ := he
  refine ⟨VRaw_toWord_opcode _, ?_⟩
  simp only [VFcvt.cand, VRaw.setD, VRaw.setA, VRaw.setTy, VRaw.getD, VRaw.getA, VRaw.getTy, VRaw.head,
    VRaw.rm, VRaw.mk0, VRaw_ofWord_toWord, Head_ofBits_toBits, Option.bind_eq_bind, Option.bind_some,
    pure, Ty_ofCode_code8, Ty_ofCode_rm, opt_rm, flag1_bit1]

theorem VDotc_roundtrip (opc : BitVec 10) (o : VDotc) (w : Word) (l : List Word) (he : o.enc opc = w :: l) :
    bits w 54 10 = opc ∧ VDotc.cand w l = some o := by
  obtain ⟨h, book, sat, d, a, b, c⟩ := o
  cases b <;> cases c <;>
  · simp only [VDotc.enc, List.cons.injEq] at he
    obtain ⟨rfl, rfl⟩ := he
    refine ⟨VRaw_toWord_opcode _, ?_⟩
    simp only [VDotc.cand, VRaw.setD, VRaw.setA, VRaw.setB, VRaw.setC, VRaw.getD, VRaw.getA, VRaw.getB,
      VRaw.getC, VRaw.head, VRaw.mk0, OpB.lits, VRaw_ofWord_toWord, Head_ofBits_toBits, flag1_bit1,
      flag1_one, flag1_zero, narrow6, if_true, if_false, Bool.false_eq_true, dotc_book, dotc_sat]

theorem VUnpk_roundtrip (opc : BitVec 10) (o : VUnpk) (w : Word) (l : List Word) (he : o.enc opc = w :: l) :
    bits w 54 10 = opc ∧ VUnpk.cand w l = some o := by
  obtain ⟨h, signed, d, a, b, c⟩ := o
  cases signed <;> cases b <;> cases c <;>
  · simp only [VUnpk.enc, List.cons.injEq] at he
    obtain ⟨rfl, rfl⟩ := he
    refine ⟨VRaw_toWord_opcode _, ?_⟩
    simp only [VUnpk.cand, VRaw.setD, VRaw.setB, VRaw.setC, VRaw.setTy, VRaw.getD, VRaw.getB, VRaw.getC,
      VRaw.getTy, VRaw.head, VRaw.mk0, OpB.lits, VRaw_ofWord_toWord, Head_ofBits_toBits,
      Option.bind_eq_bind, pure, flag1_bit1, flag1_one, flag1_zero, narrow6, if_true, if_false,
      Bool.false_eq_true]
    rfl

theorem VShfl_roundtrip (opc : BitVec 10) (o : VShfl) (w : Word) (l : List Word) (he : o.enc opc = w :: l) :
    bits w 54 10 = opc ∧ VShfl.cand w l = some o := by
  obtain ⟨h, mode, wide, d, a, b⟩ := o
  cases mode <;> cases wide <;> cases b <;>
  · simp only [VShfl.enc, List.cons.injEq] at he
    obtain ⟨rfl, rfl⟩ := he
    refine ⟨VRaw_toWord_opcode _, ?_⟩
    simp only [VShfl.cand, VRaw.setD, VRaw.setB, VRaw.getD, VRaw.getB, VRaw.head, VRaw.mk0, OpB.lits,
      VRaw_ofWord_toWord, Head_ofBits_toBits, Option.bind_eq_bind, pure, flag1_bit1, flag1_one, flag1_zero,
      narrow6, if_true, if_false, Bool.false_eq_true]
    rfl

theorem VVote_roundtrip (opc : BitVec 10) (o : VVote) (w : Word) (l : List Word) (he : o.enc opc = w :: l) :
    bits w 54 10 = opc ∧ VVote.cand w = some o := by
  obtain ⟨h, mode, neg, p⟩ := o
  cases mode <;> cases neg <;>
  · simp only [VVote.enc, List.cons.injEq] at he
    obtain ⟨rfl, rfl⟩ := he
    refine ⟨VRaw_toWord_opcode _, ?_⟩
    simp only [VVote.cand, VRaw.setD, VRaw.getD, VRaw.head, VRaw.mk0, VRaw_ofWord_toWord,
      Head_ofBits_toBits, pure, flag1_bit1, flag1_zero, narrow3]
    rfl

theorem VRed_roundtrip (opc : BitVec 10) (o : VRed) (w : Word) (l : List Word) (he : o.enc opc = w :: l) :
    bits w 54 10 = opc ∧ VRed.cand w = some o := by
  obtain ⟨h, op, rm, t, d, a⟩ := o
  simp only [VRed.enc, List.cons.injEq] at he
  obtain ⟨rfl, rfl⟩ := he
  refine ⟨VRaw_toWord_opcode _, ?_⟩
  simp only [VRed.cand, VRaw.setD, VRaw.getD, VRaw.head, VRaw.rm, VRaw.mk0, VRaw_ofWord_toWord,
    Head_ofBits_toBits, Option.bind_eq_bind, Option.bind_some, pure, Ty_ofCode_code8, flag1_bit1,
    RedOp_ofCode_rm, red_rm]

theorem VScan_roundtrip (opc : BitVec 10) (o : VScan) (w : Word) (l : List Word) (he : o.enc opc = w :: l) :
    bits w 54 10 = opc ∧ VScan.cand w = some o := by
  obtain ⟨h, op, rm, t, excl, d, a⟩ := o
  simp only [VScan.enc, List.cons.injEq] at he
  obtain ⟨rfl, rfl⟩ := he
  refine ⟨VRaw_toWord_opcode _, ?_⟩
  simp only [VScan.cand, VRaw.setD, VRaw.getD, VRaw.head, VRaw.rm, VRaw.mk0, VRaw_ofWord_toWord,
    Head_ofBits_toBits, Option.bind_eq_bind, Option.bind_some, pure, flag1_bit1, RedOp_ofCode_rm, red_rm,
    Ty_ofCode_excl, scan_excl]

theorem VXswap_roundtrip (opc : BitVec 10) (o : VXswap) (w : Word) (l : List Word) (he : o.enc opc = w :: l) :
    bits w 54 10 = opc ∧ VXswap.cand w = some o := by
  obtain ⟨h, wide, d, a, b⟩ := o
  cases wide <;>
  · simp only [VXswap.enc, List.cons.injEq] at he
    obtain ⟨rfl, rfl⟩ := he
    refine ⟨VRaw_toWord_opcode _, ?_⟩
    simp only [VXswap.cand, VRaw.setTy, VRaw.getTy, VRaw.head, VRaw.mk0, VRaw_ofWord_toWord,
      Head_ofBits_toBits, Option.bind_eq_bind, pure, narrow6]
    rfl

theorem S2_roundtrip (opc : BitVec 10) (o : S2) (w : Word) (l : List Word) (he : o.enc opc = w :: l) :
    bits w 54 10 = opc ∧ S2.cand w l = some o := by
  obtain ⟨h, d, a, y⟩ := o
  cases y <;>
  · simp only [S2.enc, List.cons.injEq] at he
    obtain ⟨rfl, rfl⟩ := he
    refine ⟨SRaw_toWord_opcode _, ?_⟩
    simp only [S2.cand, SRaw.setY, SRaw.getY, SRaw.head, SRaw.mk0, SSrc.lits, SRaw_ofWord_toWord,
      Head_ofBits_toBits, SReg_ofCode_code, flag1_one, flag1_zero, if_true, if_false, Bool.false_eq_true]

theorem SShr_roundtrip (opc : BitVec 10) (o : SShr) (w : Word) (l : List Word) (he : o.enc opc = w :: l) :
    bits w 54 10 = opc ∧ SShr.cand w l = some o := by
  obtain ⟨h, arith, d, a, y⟩ := o
  cases arith <;> cases y <;>
  · simp only [SShr.enc, List.cons.injEq] at he
    obtain ⟨rfl, rfl⟩ := he
    refine ⟨SRaw_toWord_opcode _, ?_⟩
    simp only [SShr.cand, SRaw.setY, SRaw.getY, SRaw.head, SRaw.mk0, SSrc.lits, SRaw_ofWord_toWord,
      Head_ofBits_toBits, SReg_ofCode_code, flag1_one, flag1_zero, if_true, if_false, Bool.false_eq_true]
    rfl

theorem SMov_roundtrip (opc : BitVec 10) (o : SMov) (w : Word) (l : List Word) (he : o.enc opc = w :: l) :
    bits w 54 10 = opc ∧ SMov.cand w = some o := by
  obtain ⟨h, d, a⟩ := o
  simp only [SMov.enc, List.cons.injEq] at he
  obtain ⟨rfl, rfl⟩ := he
  refine ⟨SRaw_toWord_opcode _, ?_⟩
  simp only [SMov.cand, SRaw.head, SRaw.mk0, SRaw_ofWord_toWord, Head_ofBits_toBits, SReg_ofCode_code]

theorem SMovl_roundtrip (opc : BitVec 10) (o : SMovl) (w : Word) (l : List Word) (he : o.enc opc = w :: l) :
    bits w 54 10 = opc ∧ SMovl.cand w l = some o := by
  obtain ⟨h, d, lit⟩ := o
  simp only [SMovl.enc, List.cons.injEq] at he
  obtain ⟨rfl, rfl⟩ := he
  refine ⟨SRaw_toWord_opcode _, ?_⟩
  simp only [SMovl.cand, SRaw.head, SRaw.mk0, SRaw_ofWord_toWord, Head_ofBits_toBits, SReg_ofCode_code]

theorem SSetp_roundtrip (opc : BitVec 10) (o : SSetp) (w : Word) (l : List Word) (he : o.enc opc = w :: l) :
    bits w 54 10 = opc ∧ SSetp.cand w l = some o := by
  obtain ⟨h, cmp, signed, p, a, y⟩ := o
  cases cmp <;> cases signed <;> cases y <;>
  · simp only [SSetp.enc, List.cons.injEq] at he
    obtain ⟨rfl, rfl⟩ := he
    refine ⟨SRaw_toWord_opcode _, ?_⟩
    simp only [SSetp.cand, SRaw.setY, SRaw.getY, SRaw.head, SRaw.mk0, SSrc.lits, SRaw_ofWord_toWord,
      Head_ofBits_toBits, Option.bind_eq_bind, pure, SReg_ofCode_code, flag1_one, flag1_zero, narrow3,
      if_true, if_false, Bool.false_eq_true]
    rfl

theorem SVget_roundtrip (opc : BitVec 10) (o : SVget) (w : Word) (l : List Word) (he : o.enc opc = w :: l) :
    bits w 54 10 = opc ∧ SVget.cand w l = some o := by
  obtain ⟨h, t, d, a, y⟩ := o
  cases y <;>
  · simp only [SVget.enc, List.cons.injEq] at he
    obtain ⟨rfl, rfl⟩ := he
    refine ⟨SRaw_toWord_opcode _, ?_⟩
    simp only [SVget.cand, SRaw.setY, SRaw.getY, SRaw.head, SRaw.mk0, SSrc.lits, SRaw_ofWord_toWord,
      Head_ofBits_toBits, Option.bind_eq_bind, Option.bind_some, pure, XferTy_ofCode_code, SReg_ofCode_code,
      flag1_one, flag1_zero, if_true, if_false, Bool.false_eq_true]

theorem SVput_roundtrip (opc : BitVec 10) (o : SVput) (w : Word) (l : List Word) (he : o.enc opc = w :: l) :
    bits w 54 10 = opc ∧ SVput.cand w l = some o := by
  obtain ⟨h, wide, d, a, y⟩ := o
  cases wide <;> cases y <;>
  · simp only [SVput.enc, List.cons.injEq] at he
    obtain ⟨rfl, rfl⟩ := he
    refine ⟨SRaw_toWord_opcode _, ?_⟩
    simp only [SVput.cand, SRaw.setY, SRaw.getY, SRaw.head, SRaw.mk0, SSrc.lits, SRaw_ofWord_toWord,
      Head_ofBits_toBits, SReg_ofCode_code, flag1_one, flag1_zero, if_true, if_false, Bool.false_eq_true]
    rfl

theorem SGets_roundtrip (opc : BitVec 10) (o : SGets) (w : Word) (l : List Word) (he : o.enc opc = w :: l) :
    bits w 54 10 = opc ∧ SGets.cand w = some o := by
  obtain ⟨h, clr, d, src⟩ := o
  cases clr <;>
  · simp only [SGets.enc, List.cons.injEq] at he
    obtain ⟨rfl, rfl⟩ := he
    refine ⟨SRaw_toWord_opcode _, ?_⟩
    simp only [SGets.cand, SRaw.head, SRaw.mk0, SRaw_ofWord_toWord, Head_ofBits_toBits, Option.bind_eq_bind,
      Option.bind_some, pure, Special_ofCode_code]
    rfl

theorem SPlog_roundtrip (opc : BitVec 10) (o : SPlog) (w : Word) (l : List Word) (he : o.enc opc = w :: l) :
    bits w 54 10 = opc ∧ SPlog.cand w = some o := by
  obtain ⟨h, lut, d, a, b⟩ := o
  simp only [SPlog.enc, List.cons.injEq] at he
  obtain ⟨rfl, rfl⟩ := he
  refine ⟨SRaw_toWord_opcode _, ?_⟩
  simp only [SPlog.cand, SRaw.head, SRaw.mk0, SRaw_ofWord_toWord, Head_ofBits_toBits, PReg_ofCode_code,
    narrow54]

theorem SWin_roundtrip (opc : BitVec 10) (o : SWin) (w : Word) (l : List Word) (he : o.enc opc = w :: l) :
    bits w 54 10 = opc ∧ SWin.cand w l = some o := by
  obtain ⟨h, n⟩ := o
  cases n <;>
  · simp only [SWin.enc, List.cons.injEq] at he
    obtain ⟨rfl, rfl⟩ := he
    refine ⟨SRaw_toWord_opcode _, ?_⟩
    simp only [SWin.cand, SRaw.setY, SRaw.getY, SRaw.head, SRaw.mk0, SSrc.lits, SRaw_ofWord_toWord,
      Head_ofBits_toBits, flag1_one, flag1_zero, if_true, if_false, Bool.false_eq_true, SReg_ofCode_code]

theorem CBra_roundtrip (opc : BitVec 10) (o : CBra) (w : Word) (l : List Word) (he : o.enc opc = w :: l) :
    bits w 54 10 = opc ∧ CBra.cand w = some o := by
  obtain ⟨h, tgt⟩ := o
  simp only [CBra.enc, List.cons.injEq] at he
  obtain ⟨rfl, rfl⟩ := he
  refine ⟨CRaw_toWord_opcode _, ?_⟩
  simp only [CBra.cand, CRaw.head, CRaw.mk0, CRaw_ofWord_toWord, Head_ofBits_toBits]

theorem CBrd_roundtrip (opc : BitVec 10) (o : CBrd) (w : Word) (l : List Word) (he : o.enc opc = w :: l) :
    bits w 54 10 = opc ∧ CBrd.cand w = some o := by
  obtain ⟨h, p, inv, tgt, join⟩ := o
  simp only [CBrd.enc, List.cons.injEq] at he
  obtain ⟨rfl, rfl⟩ := he
  refine ⟨CRaw_toWord_opcode _, ?_⟩
  simp only [CBrd.cand, CRaw.head, CRaw.mk0, CRaw_ofWord_toWord, Head_ofBits_toBits, flag1_bit1]

theorem CCall_roundtrip (opc : BitVec 10) (o : CCall) (w : Word) (l : List Word) (he : o.enc opc = w :: l) :
    bits w 54 10 = opc ∧ CCall.cand w = some o := by
  obtain ⟨h, link, dest⟩ := o
  cases dest <;>
  · simp only [CCall.enc, List.cons.injEq] at he
    obtain ⟨rfl, rfl⟩ := he
    refine ⟨CRaw_toWord_opcode _, ?_⟩
    simp only [CCall.cand, CRaw.head, CRaw.mk0, CRaw_ofWord_toWord, Head_ofBits_toBits, if_true, call_reg,
      call_mark] <;> rfl

theorem CRet_roundtrip (opc : BitVec 10) (o : CRet) (w : Word) (l : List Word) (he : o.enc opc = w :: l) :
    bits w 54 10 = opc ∧ CRet.cand w = some o := by
  obtain ⟨h, s⟩ := o
  simp only [CRet.enc, List.cons.injEq] at he
  obtain ⟨rfl, rfl⟩ := he
  refine ⟨CRaw_toWord_opcode _, ?_⟩
  simp only [CRet.cand, CRaw.head, CRaw.mk0, CRaw_ofWord_toWord, Head_ofBits_toBits]

theorem CBri_roundtrip (opc : BitVec 10) (o : CBri) (w : Word) (l : List Word) (he : o.enc opc = w :: l) :
    bits w 54 10 = opc ∧ CBri.cand w = some o := by
  obtain ⟨h, s, tgt, n⟩ := o
  simp only [CBri.enc, List.cons.injEq] at he
  obtain ⟨rfl, rfl⟩ := he
  refine ⟨CRaw_toWord_opcode _, ?_⟩
  simp only [CBri.cand, CRaw.head, CRaw.mk0, CRaw_ofWord_toWord, Head_ofBits_toBits]

theorem CLoop_roundtrip (opc : BitVec 10) (o : CLoop) (w : Word) (l : List Word) (he : o.enc opc = w :: l) :
    bits w 54 10 = opc ∧ CLoop.cand w = some o := by
  obtain ⟨h, s, tgt⟩ := o
  simp only [CLoop.enc, List.cons.injEq] at he
  obtain ⟨rfl, rfl⟩ := he
  refine ⟨CRaw_toWord_opcode _, ?_⟩
  simp only [CLoop.cand, CRaw.head, CRaw.mk0, CRaw_ofWord_toWord, Head_ofBits_toBits]

theorem CExit_roundtrip (opc : BitVec 10) (o : CExit) (w : Word) (l : List Word) (he : o.enc opc = w :: l) :
    bits w 54 10 = opc ∧ CExit.cand w = some o := by
  obtain ⟨h, sel⟩ := o
  cases sel <;>
  · simp only [CExit.enc, List.cons.injEq] at he
    obtain ⟨rfl, rfl⟩ := he
    refine ⟨CRaw_toWord_opcode _, ?_⟩
    simp only [CExit.cand, CRaw.head, CRaw.mk0, CRaw_ofWord_toWord, Head_ofBits_toBits, flag1_bit1,
      flag1_zero]
    rfl

theorem CSafe_roundtrip (opc : BitVec 10) (o : CSafe) (w : Word) (l : List Word) (he : o.enc opc = w :: l) :
    bits w 54 10 = opc ∧ CSafe.cand w l = some o := by
  obtain ⟨h, vmask, smask⟩ := o
  simp only [CSafe.enc, List.cons.injEq] at he
  obtain ⟨rfl, rfl⟩ := he
  refine ⟨CRaw_toWord_opcode _, ?_⟩
  simp only [CSafe.cand, CRaw.head, CRaw.mk0, CRaw_ofWord_toWord, Head_ofBits_toBits]

theorem CSig_roundtrip (opc : BitVec 10) (o : CSig) (w : Word) (l : List Word) (he : o.enc opc = w :: l) :
    bits w 54 10 = opc ∧ CSig.cand w = some o := by
  obtain ⟨h, imm⟩ := o
  simp only [CSig.enc, List.cons.injEq] at he
  obtain ⟨rfl, rfl⟩ := he
  refine ⟨CRaw_toWord_opcode _, ?_⟩
  simp only [CSig.cand, CRaw.head, CRaw.mk0, CRaw_ofWord_toWord, Head_ofBits_toBits, sig_halves]

theorem CPub_roundtrip (opc : BitVec 10) (o : CPub) (w : Word) (l : List Word) (he : o.enc opc = w :: l) :
    bits w 54 10 = opc ∧ CPub.cand w = some o := by
  obtain ⟨h, d⟩ := o
  simp only [CPub.enc, List.cons.injEq] at he
  obtain ⟨rfl, rfl⟩ := he
  refine ⟨VRaw_toWord_opcode _, ?_⟩
  simp only [CPub.cand, VRaw.head, VRaw.mk0, VRaw_ofWord_toWord, Head_ofBits_toBits]

theorem MFence_roundtrip (opc : BitVec 10) (o : MFence) (w : Word) (l : List Word) (he : o.enc opc = w :: l) :
    bits w 54 10 = opc ∧ MFence.cand w = some o := by
  obtain ⟨h, kind, scope⟩ := o
  simp only [MFence.enc, List.cons.injEq] at he
  obtain ⟨rfl, rfl⟩ := he
  refine ⟨MRaw_toWord_opcode _, ?_⟩
  simp only [MFence.cand, MRaw.head, MRaw.mk0, MRaw_ofWord_toWord, Head_ofBits_toBits,
    Option.bind_eq_bind, Option.bind_some, pure, FenceKind_ofCode_code, Scope_ofCode_code]

theorem MXfer_roundtrip (opc : BitVec 10) (o : MXfer) (w : Word) (l : List Word) (he : o.enc opc = w :: l) :
    bits w 54 10 = opc ∧ MXfer.cand w l = some o := by
  obtain ⟨h, d, sb, off⟩ := o
  cases off <;>
  · simp only [MXfer.enc, List.cons.injEq] at he
    obtain ⟨rfl, rfl⟩ := he
    refine ⟨MRaw_toWord_opcode _, ?_⟩
    simp only [MXfer.cand, MRaw.setOff, MRaw.getOff, MRaw.head, MRaw.mk0, MOff.lits, MRaw_ofWord_toWord,
      Head_ofBits_toBits, narrow6]

theorem PCpy_roundtrip (opc : BitVec 10) (o : PCpy) (w : Word) (l : List Word) (he : o.enc opc = w :: l) :
    bits w 54 10 = opc ∧ PCpy.cand w = some o := by
  obtain ⟨h, dir, srec, drec, sa, sb, sc⟩ := o
  simp only [PCpy.enc, List.cons.injEq] at he
  obtain ⟨rfl, rfl⟩ := he
  refine ⟨PRaw_toWord_opcode _, ?_⟩
  simp only [PCpy.cand, PRaw.head, PRaw.mk0, PRaw_ofWord_toWord, Head_ofBits_toBits, Option.bind_eq_bind,
    Option.bind_some, pure, CpyDir_ofCode_code]

theorem PCpym_roundtrip (opc : BitVec 10) (o : PCpym) (w : Word) (l : List Word) (he : o.enc opc = w :: l) :
    bits w 54 10 = opc ∧ PCpym.cand w = some o := by
  obtain ⟨h, loc, srec, drec, sa, sb, sc, slot⟩ := o
  cases loc <;>
  · simp only [PCpym.enc, List.cons.injEq] at he
    obtain ⟨rfl, rfl⟩ := he
    refine ⟨PRaw_toWord_opcode _, ?_⟩
    simp only [PCpym.cand, PRaw.head, PRaw.mk0, PRaw_ofWord_toWord, Head_ofBits_toBits, if_true, if_false,
      Bool.false_eq_true]
    rfl

theorem PLand_roundtrip (opc : BitVec 10) (o : PLand) (w : Word) (l : List Word) (he : o.enc opc = w :: l) :
    bits w 54 10 = opc ∧ PLand.cand w = some o := by
  obtain ⟨h, slot, args⟩ := o
  cases args <;>
  · simp only [PLand.enc, List.cons.injEq] at he
    obtain ⟨rfl, rfl⟩ := he
    refine ⟨PRaw_toWord_opcode _, ?_⟩
    simp only [PLand.cand, PRaw.head, PRaw.mk0, PRaw_ofWord_toWord, Head_ofBits_toBits]
    rfl

theorem PLandw_roundtrip (opc : BitVec 10) (o : PLandw) (w : Word) (l : List Word) (he : o.enc opc = w :: l) :
    bits w 54 10 = opc ∧ PLandw.cand w = some o := by
  obtain ⟨h, slot⟩ := o
  simp only [PLandw.enc, List.cons.injEq] at he
  obtain ⟨rfl, rfl⟩ := he
  refine ⟨PRaw_toWord_opcode _, ?_⟩
  simp only [PLandw.cand, PRaw.head, PRaw.mk0, PRaw_ofWord_toWord, Head_ofBits_toBits]

theorem PSeal_roundtrip (opc : BitVec 10) (o : PSeal) (w : Word) (l : List Word) (he : o.enc opc = w :: l) :
    bits w 54 10 = opc ∧ PSeal.cand w = some o := by
  obtain ⟨h, cls⟩ := o
  simp only [PSeal.enc, List.cons.injEq] at he
  obtain ⟨rfl, rfl⟩ := he
  refine ⟨PRaw_toWord_opcode _, ?_⟩
  simp only [PSeal.cand, PRaw.head, PRaw.mk0, PRaw_ofWord_toWord, Head_ofBits_toBits, Cls_ofCode_code]

theorem PWait_roundtrip (opc : BitVec 10) (o : PWait) (w : Word) (l : List Word) (he : o.enc opc = w :: l) :
    bits w 54 10 = opc ∧ PWait.cand w = some o := by
  obtain ⟨h, cls, n⟩ := o
  simp only [PWait.enc, List.cons.injEq] at he
  obtain ⟨rfl, rfl⟩ := he
  refine ⟨PRaw_toWord_opcode _, ?_⟩
  simp only [PWait.cand, PRaw.head, PRaw.mk0, PRaw_ofWord_toWord, Head_ofBits_toBits, Cls_ofCode_code]

theorem PYieldb_roundtrip (opc : BitVec 10) (o : PYieldb) (w : Word) (l : List Word) (he : o.enc opc = w :: l) :
    bits w 54 10 = opc ∧ PYieldb.cand w = some o := by
  obtain ⟨h, cls, n, tgt⟩ := o
  simp only [PYieldb.enc, List.cons.injEq] at he
  obtain ⟨rfl, rfl⟩ := he
  refine ⟨CRaw_toWord_opcode _, ?_⟩
  simp only [PYieldb.cand, CRaw.head, CRaw.mk0, CRaw_ofWord_toWord, Head_ofBits_toBits, yieldb_cls,
    yieldb_n]

theorem PCstat_roundtrip (opc : BitVec 10) (o : PCstat) (w : Word) (l : List Word) (he : o.enc opc = w :: l) :
    bits w 54 10 = opc ∧ PCstat.cand w = some o := by
  obtain ⟨h, sa, sb⟩ := o
  simp only [PCstat.enc, List.cons.injEq] at he
  obtain ⟨rfl, rfl⟩ := he
  refine ⟨PRaw_toWord_opcode _, ?_⟩
  simp only [PCstat.cand, PRaw.head, PRaw.mk0, PRaw_ofWord_toWord, Head_ofBits_toBits]

theorem PCbld_roundtrip (opc : BitVec 10) (o : PCbld) (w : Word) (l : List Word) (he : o.enc opc = w :: l) :
    bits w 54 10 = opc ∧ PCbld.cand w = some o := by
  obtain ⟨h, book, sa, sc⟩ := o
  simp only [PCbld.enc, List.cons.injEq] at he
  obtain ⟨rfl, rfl⟩ := he
  refine ⟨PRaw_toWord_opcode _, ?_⟩
  simp only [PCbld.cand, PRaw.head, PRaw.mk0, PRaw_ofWord_toWord, Head_ofBits_toBits, narrow42]

theorem XGang_roundtrip (opc : BitVec 10) (o : XGang) (w : Word) (l : List Word) (he : o.enc opc = w :: l) :
    bits w 54 10 = opc ∧ XGang.cand w = some o := by
  obtain ⟨h, a, b, m⟩ := o
  simp only [XGang.enc, List.cons.injEq] at he
  obtain ⟨rfl, rfl⟩ := he
  refine ⟨XRaw_toWord_opcode _, ?_⟩
  simp only [XGang.cand, XRaw.head, XRaw.mk0, XRaw_ofWord_toWord, Head_ofBits_toBits, narrow6, gang_a,
    gang_b]

theorem XMzero_roundtrip (opc : BitVec 10) (o : XMzero) (w : Word) (l : List Word) (he : o.enc opc = w :: l) :
    bits w 54 10 = opc ∧ XMzero.cand w = some o := by
  obtain ⟨h, fmt, td, tile, e⟩ := o
  simp only [XMzero.enc, List.cons.injEq] at he
  obtain ⟨rfl, rfl⟩ := he
  refine ⟨XRaw_toWord_opcode _, ?_⟩
  simp only [XMzero.cand, XRaw.head, XRaw.mk0, XRaw_ofWord_toWord, Head_ofBits_toBits,
    Option.bind_eq_bind, Option.bind_some, pure, AccFmt_ofCode_code, ResTy_ofCode_code, narrow6]

theorem XTok_roundtrip (opc : BitVec 10) (o : XTok) (w : Word) (l : List Word) (he : o.enc opc = w :: l) :
    bits w 54 10 = opc ∧ XTok.cand w = some o := by
  obtain ⟨h, tile⟩ := o
  simp only [XTok.enc, List.cons.injEq] at he
  obtain ⟨rfl, rfl⟩ := he
  refine ⟨XRaw_toWord_opcode _, ?_⟩
  simp only [XTok.cand, XRaw.head, XRaw.mk0, XRaw_ofWord_toWord, Head_ofBits_toBits]

theorem XMma_roundtrip (opc : BitVec 10) (o : XMma) (w : Word) (l : List Word) (he : o.enc opc = w :: l) :
    bits w 54 10 = opc ∧ XMma.cand w = some o := by
  obtain ⟨h, ta, tb, fmt, td, tile, ra, rb, book, trp, aux⟩ := o
  simp only [XMma.enc, List.cons.injEq] at he
  obtain ⟨rfl, rfl⟩ := he
  refine ⟨XRaw_toWord_opcode _, ?_⟩
  simp only [XMma.cand, XRaw.head, XRaw.mk0, XRaw_ofWord_toWord, Head_ofBits_toBits, Option.bind_eq_bind,
    Option.bind_some, pure, InTy_ofCode_code, AccFmt_ofCode_code, ResTy_ofCode_code, flag1_bit1]

theorem XScale_roundtrip (opc : BitVec 10) (o : XScale) (w : Word) (l : List Word) (he : o.enc opc = w :: l) :
    bits w 54 10 = opc ∧ XScale.cand w = some o := by
  obtain ⟨h, tile, n⟩ := o
  simp only [XScale.enc, List.cons.injEq] at he
  obtain ⟨rfl, rfl⟩ := he
  refine ⟨XRaw_toWord_opcode _, ?_⟩
  simp only [XScale.cand, XRaw.head, XRaw.mk0, XRaw_ofWord_toWord, Head_ofBits_toBits]

theorem XDrain_roundtrip (opc : BitVec 10) (o : XDrain) (w : Word) (l : List Word) (he : o.enc opc = w :: l) :
    bits w 54 10 = opc ∧ XDrain.cand w = some o := by
  obtain ⟨h, td, tile, d, r, rm, trp, shift⟩ := o
  simp only [XDrain.enc, List.cons.injEq] at he
  obtain ⟨rfl, rfl⟩ := he
  refine ⟨XRaw_toWord_opcode _, ?_⟩
  simp only [XDrain.cand, XRaw.head, XRaw.mk0, XRaw_ofWord_toWord, Head_ofBits_toBits,
    Option.bind_eq_bind, Option.bind_some, pure, RMode_ofCode_code, drainTdOf_drainTd, flag1_bit1, narrow6]

theorem XDrainm_roundtrip (opc : BitVec 10) (o : XDrainm) (w : Word) (l : List Word) (he : o.enc opc = w :: l) :
    bits w 54 10 = opc ∧ XDrainm.cand w = some o := by
  obtain ⟨h, loc, tile, lay, b, rm, trp, shift⟩ := o
  cases loc <;>
  · simp only [XDrainm.enc, List.cons.injEq] at he
    obtain ⟨rfl, rfl⟩ := he
    refine ⟨XRaw_toWord_opcode _, ?_⟩
    simp only [XDrainm.cand, XRaw.head, XRaw.mk0, XRaw_ofWord_toWord, Head_ofBits_toBits, RMode_ofCode_code,
      flag1_bit1, narrow6]
    rfl

theorem XAcld_roundtrip (opc : BitVec 10) (o : XAcld) (w : Word) (l : List Word) (he : o.enc opc = w :: l) :
    bits w 54 10 = opc ∧ XAcld.cand w = some o := by
  obtain ⟨h, add, fmt, td, tile, b, loc⟩ := o
  cases add <;> cases loc <;>
  · simp only [XAcld.enc, List.cons.injEq] at he
    obtain ⟨rfl, rfl⟩ := he
    refine ⟨XRaw_toWord_opcode _, ?_⟩
    simp only [XAcld.cand, XRaw.head, XRaw.mk0, XRaw_ofWord_toWord, Head_ofBits_toBits, Option.bind_eq_bind,
      Option.bind_some, pure, AccFmt_ofCode_code, ResTy_ofCode_code, narrow6]
    rfl

theorem XMstat_roundtrip (opc : BitVec 10) (o : XMstat) (w : Word) (l : List Word) (he : o.enc opc = w :: l) :
    bits w 54 10 = opc ∧ XMstat.cand w = some o := by
  obtain ⟨h, d, tile⟩ := o
  simp only [XMstat.enc, List.cons.injEq] at he
  obtain ⟨rfl, rfl⟩ := he
  refine ⟨XRaw_toWord_opcode _, ?_⟩
  simp only [XMstat.cand, XRaw.head, XRaw.mk0, XRaw_ofWord_toWord, Head_ofBits_toBits, narrow6]

theorem XCont_roundtrip (opc : BitVec 10) (o : XCont) (w : Word) (l : List Word) (he : o.enc opc = w :: l) :
    bits w 54 10 = opc ∧ XCont.cand w = some o := by
  obtain ⟨h, d⟩ := o
  simp only [XCont.enc, List.cons.injEq] at he
  obtain ⟨rfl, rfl⟩ := he
  refine ⟨XRaw_toWord_opcode _, ?_⟩
  simp only [XCont.cand, XRaw.head, XRaw.mk0, XRaw_ofWord_toWord, Head_ofBits_toBits, narrow6]

theorem XMinj_roundtrip (opc : BitVec 10) (o : XMinj) (w : Word) (l : List Word) (he : o.enc opc = w :: l) :
    bits w 54 10 = opc ∧ XMinj.cand w = some o := by
  obtain ⟨h, mode, tile, r⟩ := o
  simp only [XMinj.enc, List.cons.injEq] at he
  obtain ⟨rfl, rfl⟩ := he
  refine ⟨XRaw_toWord_opcode _, ?_⟩
  simp only [XMinj.cand, XRaw.head, XRaw.mk0, XRaw_ofWord_toWord, Head_ofBits_toBits, Option.bind_eq_bind,
    Option.bind_some, pure, MinjMode_ofCode_code, narrow6]

theorem YBar_roundtrip (opc : BitVec 10) (o : YBar) (w : Word) (l : List Word) (he : o.enc opc = w :: l) :
    bits w 54 10 = opc ∧ YBar.cand w = some o := by
  obtain ⟨h, bar, n⟩ := o
  cases n <;>
  · simp only [YBar.enc, List.cons.injEq] at he
    obtain ⟨rfl, rfl⟩ := he
    refine ⟨YRaw_toWord_opcode _, ?_⟩
    simp only [YBar.cand, YRaw.setCount, YRaw.getCount, YRaw.head, YRaw.mk0, YRaw_ofWord_toWord,
      Head_ofBits_toBits, narrow6, imm_thirds]
    rfl

theorem YBara_roundtrip (opc : BitVec 10) (o : YBara) (w : Word) (l : List Word) (he : o.enc opc = w :: l) :
    bits w 54 10 = opc ∧ YBara.cand w = some o := by
  obtain ⟨h, t, bar, n⟩ := o
  cases n <;>
  · simp only [YBara.enc, List.cons.injEq] at he
    obtain ⟨rfl, rfl⟩ := he
    refine ⟨YRaw_toWord_opcode _, ?_⟩
    simp only [YBara.cand, YRaw.setCount, YRaw.getCount, YRaw.head, YRaw.mk0, YRaw_ofWord_toWord,
      Head_ofBits_toBits, narrow6, imm_thirds]
    rfl

theorem YTok_roundtrip (opc : BitVec 10) (o : YTok) (w : Word) (l : List Word) (he : o.enc opc = w :: l) :
    bits w 54 10 = opc ∧ YTok.cand w = some o := by
  obtain ⟨h, bar, t⟩ := o
  simp only [YTok.enc, List.cons.injEq] at he
  obtain ⟨rfl, rfl⟩ := he
  refine ⟨YRaw_toWord_opcode _, ?_⟩
  simp only [YTok.cand, YRaw.head, YRaw.mk0, YRaw_ofWord_toWord, Head_ofBits_toBits]

theorem YObj_roundtrip (opc : BitVec 10) (o : YObj) (w : Word) (l : List Word) (he : o.enc opc = w :: l) :
    bits w 54 10 = opc ∧ YObj.cand w = some o := by
  obtain ⟨h, s⟩ := o
  simp only [YObj.enc, List.cons.injEq] at he
  obtain ⟨rfl, rfl⟩ := he
  refine ⟨YRaw_toWord_opcode _, ?_⟩
  simp only [YObj.cand, YRaw.head, YRaw.mk0, YRaw_ofWord_toWord, Head_ofBits_toBits]

theorem YOcall_roundtrip (opc : BitVec 10) (o : YOcall) (w : Word) (l : List Word) (he : o.enc opc = w :: l) :
    bits w 54 10 = opc ∧ YOcall.cand w = some o := by
  obtain ⟨h, d, a, b⟩ := o
  simp only [YOcall.enc, List.cons.injEq] at he
  obtain ⟨rfl, rfl⟩ := he
  refine ⟨YRaw_toWord_opcode _, ?_⟩
  simp only [YOcall.cand, YRaw.head, YRaw.mk0, YRaw_ofWord_toWord, Head_ofBits_toBits]

theorem YCreply_roundtrip (opc : BitVec 10) (o : YCreply) (w : Word) (l : List Word) (he : o.enc opc = w :: l) :
    bits w 54 10 = opc ∧ YCreply.cand w = some o := by
  obtain ⟨h, a⟩ := o
  simp only [YCreply.enc, List.cons.injEq] at he
  obtain ⟨rfl, rfl⟩ := he
  refine ⟨YRaw_toWord_opcode _, ?_⟩
  simp only [YCreply.cand, YRaw.head, YRaw.mk0, YRaw_ofWord_toWord, Head_ofBits_toBits]

theorem ZTrap_roundtrip (opc : BitVec 10) (o : ZTrap) (w : Word) (l : List Word) (he : o.enc opc = w :: l) :
    bits w 54 10 = opc ∧ ZTrap.cand w = some o := by
  obtain ⟨h, imm⟩ := o
  simp only [ZTrap.enc, List.cons.injEq] at he
  obtain ⟨rfl, rfl⟩ := he
  refine ⟨ZRaw_toWord_opcode _, ?_⟩
  simp only [ZTrap.cand, ZRaw.head, ZRaw.mk0, ZRaw_ofWord_toWord, Head_ofBits_toBits]

theorem ZRtt_roundtrip (opc : BitVec 10) (o : ZRtt) (w : Word) (l : List Word) (he : o.enc opc = w :: l) :
    bits w 54 10 = opc ∧ ZRtt.cand w = some o := by
  obtain ⟨h, dest⟩ := o
  cases dest <;>
  · simp only [ZRtt.enc, List.cons.injEq] at he
    obtain ⟨rfl, rfl⟩ := he
    refine ⟨ZRaw_toWord_opcode _, ?_⟩
    simp only [ZRtt.cand, ZRaw.head, ZRaw.mk0, ZRaw_ofWord_toWord, Head_ofBits_toBits, Option.bind_eq_bind,
      pure]
    rfl

theorem ZLaunch_roundtrip (opc : BitVec 10) (o : ZLaunch) (w : Word) (l : List Word) (he : o.enc opc = w :: l) :
    bits w 54 10 = opc ∧ ZLaunch.cand w = some o := by
  obtain ⟨h, sa, sb⟩ := o
  simp only [ZLaunch.enc, List.cons.injEq] at he
  obtain ⟨rfl, rfl⟩ := he
  refine ⟨ZRaw_toWord_opcode _, ?_⟩
  simp only [ZLaunch.cand, ZRaw.head, ZRaw.mk0, ZRaw_ofWord_toWord, Head_ofBits_toBits]

theorem ZSets_roundtrip (opc : BitVec 10) (o : ZSets) (w : Word) (l : List Word) (he : o.enc opc = w :: l) :
    bits w 54 10 = opc ∧ ZSets.cand w = some o := by
  obtain ⟨h, sa⟩ := o
  simp only [ZSets.enc, List.cons.injEq] at he
  obtain ⟨rfl, rfl⟩ := he
  refine ⟨ZRaw_toWord_opcode _, ?_⟩
  simp only [ZSets.cand, ZRaw.head, ZRaw.mk0, ZRaw_ofWord_toWord, Head_ofBits_toBits]

theorem ZTlbinv_roundtrip (opc : BitVec 10) (o : ZTlbinv) (w : Word) (l : List Word) (he : o.enc opc = w :: l) :
    bits w 54 10 = opc ∧ ZTlbinv.cand w = some o := by
  obtain ⟨h, page⟩ := o
  cases page <;>
  · simp only [ZTlbinv.enc, List.cons.injEq] at he
    obtain ⟨rfl, rfl⟩ := he
    refine ⟨ZRaw_toWord_opcode _, ?_⟩
    simp only [ZTlbinv.cand, ZRaw.head, ZRaw.mk0, ZRaw_ofWord_toWord, Head_ofBits_toBits]
    rfl

theorem ZPres_roundtrip (opc : BitVec 10) (o : ZPres) (w : Word) (l : List Word) (he : o.enc opc = w :: l) :
    bits w 54 10 = opc ∧ ZPres.cand w = some o := by
  obtain ⟨h, sa, sb⟩ := o
  cases sb <;>
  · simp only [ZPres.enc, List.cons.injEq] at he
    obtain ⟨rfl, rfl⟩ := he
    refine ⟨ZRaw_toWord_opcode _, ?_⟩
    simp only [ZPres.cand, ZRaw.head, ZRaw.mk0, ZRaw_ofWord_toWord, Head_ofBits_toBits]
    rfl

theorem VCdec_roundtrip (opc : BitVec 10) (o : VCdec) (w : Word) (l : List Word) (he : o.enc opc = w :: l) :
    bits w 54 10 = opc ∧ VCdec.cand w = some o := by
  obtain ⟨h, form, book, d, a⟩ := o
  simp only [VCdec.enc, List.cons.injEq] at he
  obtain ⟨rfl, rfl⟩ := he
  refine ⟨VRaw_toWord_opcode _, ?_⟩
  cases form <;> simp [VCdec.cand, VRaw.setD, VRaw.setA, VRaw.getD, VRaw.getA, VRaw.head, VRaw.mk0, cdec_form,
      cdec_book, cdec_sel, -BitVec.toNat_append]

theorem VCmp_roundtrip (opc : BitVec 10) (ty : Ty → Nat) (ofTy : Nat → Option Ty) (o : VCmp) (w : Word)
    (l : List Word) (ht : ty o.t < 8) (hb : ofTy (ty o.t) = some o.t) (he : o.enc opc ty = w :: l) :
    bits w 54 10 = opc ∧ VCmp.cand ofTy w l = some o := by
  obtain ⟨h, c, t, p, a, b⟩ := o
  obtain ⟨k1, k2⟩ := Cmp_ofCode_type c (ty t) ht
  simp only [VCmp.enc, List.cons.injEq] at he
  obtain ⟨rfl, rfl⟩ := he
  refine ⟨by cases b <;> exact VRaw_toWord_opcode _, ?_⟩
  cases b <;>
  · simp only [VCmp.cand, VRaw_ofWord_toWord, VRaw.setCmp, VRaw.setA, VRaw.setB, VRaw.getA, VRaw.getB,
    VRaw.mk0, VRaw.head, OpB.lits, k1, k2, hb, Head_ofBits_toBits, narrow3, narrow6, Option.bind_eq_bind,
    Option.bind_some, pure, flag1_zero, flag1_one, Bool.false_eq_true, reduceIte]

theorem VCmpImm_roundtrip (opc : BitVec 10) (o : VCmpImm) (w : Word) (l : List Word) (ht : o.t.code < 8)
    (he : o.enc opc = w :: l) : bits w 54 10 = opc ∧ VCmpImm.cand w = some o := by
  obtain ⟨h, c, t, p, a, i⟩ := o
  obtain ⟨k1, k2⟩ := Cmp_ofCode_type c t.code ht
  have k3 : Ty.ofCode t.code = some t := by cases t <;> rfl
  simp only [VCmpImm.enc, List.cons.injEq] at he
  obtain ⟨rfl, rfl⟩ := he
  refine ⟨VRaw_toWord_opcode _, ?_⟩
  simp only [VCmpImm.cand, VRaw_ofWord_toWord, VRaw.setCmp, VRaw.setA, VRaw.setImm, VRaw.getA, VRaw.getImm,
    VRaw.mk0, VRaw.head, k1, k2, k3, Head_ofBits_toBits, narrow3, imm_halves, Option.bind_eq_bind,
    Option.bind_some, pure]

theorem VModRed_roundtrip (opc : BitVec 10) (o : VModRed) (w : Word) (l : List Word) (hm : WF.modSel o.m = true)
    (ht : o.t.code < 4) (hb : o.m = .operand ↔ o.b.isSome) (he : o.enc opc = w :: l) :
    bits w 54 10 = opc ∧ VModRed.cand w l = some o := by
  obtain ⟨h, m, t, d, a, b⟩ := o
  obtain ⟨k1, k2⟩ := ModSel_ofCode_type m t.code ht hm
  have k3 : Ty.ofCode t.code = some t := by cases t <;> rfl
  simp only at hb
  rcases b with _ | b
  · simp only [VModRed.enc, List.cons.injEq] at he
    obtain ⟨rfl, rfl⟩ := he
    refine ⟨VRaw_toWord_opcode _, ?_⟩
    simp only [VModRed.cand, VRaw_ofWord_toWord, VRaw.setMod, VRaw.setA, VRaw.setD, VRaw.getD, VRaw.getA,
      VRaw.opt, VRaw.mk0, VRaw.head, k1, k2, k3, hb, flag1_bit1, Head_ofBits_toBits, Option.bind_eq_bind,
      Option.bind_some, pure, Bool.false_eq_true, reduceIte, Option.isSome_none]
  · simp only [VModRed.enc, List.cons.injEq] at he
    obtain ⟨rfl, rfl⟩ := he
    refine ⟨by cases b <;> exact VRaw_toWord_opcode _, ?_⟩
    cases b <;>
    · simp only [VModRed.cand, VRaw_ofWord_toWord, VRaw.setMod, VRaw.setA, VRaw.setD, VRaw.getD, VRaw.getA,
      VRaw.setB, VRaw.getB, OpB.lits, VRaw.opt, VRaw.mk0, VRaw.head, k1, k2, k3, hb, flag1_bit1, narrow6,
      Head_ofBits_toBits, Option.bind_eq_bind, Option.bind_some, pure, flag1_zero, flag1_one,
      Bool.false_eq_true, reduceIte, Option.isSome_some]

theorem VMod_roundtrip (opc : BitVec 10) (o : VMod) (w : Word) (l : List Word) (hm : WF.modSel o.m = true)
    (ht : o.t.code < 4) (hc : o.m = .operand ↔ o.c.isSome) (he : o.enc opc = w :: l) :
    bits w 54 10 = opc ∧ VMod.cand w l = some o := by
  obtain ⟨h, m, t, d, a, b, c⟩ := o
  obtain ⟨k1, k2⟩ := ModSel_ofCode_type m t.code ht hm
  have k3 : Ty.ofCode t.code = some t := by cases t <;> rfl
  simp only at hc
  simp only [VMod.enc, List.cons.injEq] at he
  obtain ⟨rfl, rfl⟩ := he
  refine ⟨by rcases c with _ | c <;> cases b <;> (try cases c) <;> exact VRaw_toWord_opcode _, ?_⟩
  rcases c with _ | c <;> cases b <;> (try cases c) <;>
  · simp only [VMod.cand, VRaw_ofWord_toWord, VRaw.setMod, VRaw.setA, VRaw.setD, VRaw.getD, VRaw.getA,
    VRaw.setB, VRaw.getB, VRaw.setC, VRaw.getC, OpB.lits, VRaw.opt, VRaw.mk0, VRaw.head, k1, k2, k3, hc,
    flag1_bit1, narrow6, Head_ofBits_toBits, Option.bind_eq_bind, Option.bind_some, pure, flag1_zero,
    flag1_one, Bool.false_eq_true, reduceIte, Option.isSome_none, Option.isSome_some]

theorem VModImm_roundtrip (opc : BitVec 10) (o : VModImm) (w : Word) (l : List Word)
    (hm : WF.modSel o.m = true) (ht : o.t.code < 4) (he : o.enc opc = w :: l) :
    bits w 54 10 = opc ∧ VModImm.cand w = some o := by
  obtain ⟨h, m, t, d, a, i⟩ := o
  obtain ⟨k1, k2⟩ := ModSel_ofCode_type m t.code ht hm
  have k3 : Ty.ofCode t.code = some t := by cases t <;> rfl
  simp only [VModImm.enc, List.cons.injEq] at he
  obtain ⟨rfl, rfl⟩ := he
  refine ⟨VRaw_toWord_opcode _, ?_⟩
  simp only [VModImm.cand, VRaw_ofWord_toWord, VRaw.setMod, VRaw.setA, VRaw.setD, VRaw.setImm, VRaw.getD,
    VRaw.getA, VRaw.getImm, VRaw.opt, VRaw.mk0, VRaw.head, k1, k2, k3, flag1_bit1, imm_halves,
    Head_ofBits_toBits, Option.bind_eq_bind, Option.bind_some, pure]

theorem MAcc_roundtrip (opc : BitVec 10) (o : MAcc) (w : Word) (l : List Word) (he : o.enc opc = w :: l) :
    bits w 54 10 = opc ∧ MAcc.cand w l = some o := by
  obtain ⟨h, t, pol, d, addr⟩ := o
  simp only [MAcc.enc, List.cons.injEq] at he
  obtain ⟨rfl, rfl⟩ := he
  refine ⟨(MRaw_toWord_opcode _).trans (setMem_opc _ _), ?_⟩
  simp (disch := rfl) only [MAcc.cand, MRaw_ofWord_toWord, MRaw.head, setMem_hd, setMem_ty, setMem_pol,
    setMem_d, Ty_ofCode_code4, Pol_ofCode_code, getMem_setMem, MRaw.mk0, Head_ofBits_toBits,
    Option.bind_eq_bind, Option.bind_some, pure]

theorem MLoc_roundtrip (opc : BitVec 10) (o : MLoc) (w : Word) (l : List Word) (he : o.enc opc = w :: l) :
    bits w 54 10 = opc ∧ MLoc.cand w l = some o := by
  obtain ⟨h, t, d, addr⟩ := o
  simp only [MLoc.enc, List.cons.injEq] at he
  obtain ⟨rfl, rfl⟩ := he
  refine ⟨(MRaw_toWord_opcode _).trans (setMem_opc _ _), ?_⟩
  simp (disch := rfl) only [MLoc.cand, MRaw_ofWord_toWord, MRaw.head, setMem_hd, setMem_ty, setMem_d,
    Ty_ofCode_code4, getMem_setMem, MRaw.mk0, Head_ofBits_toBits, Option.bind_eq_bind, Option.bind_some, pure]

theorem MAtom_roundtrip (opc : BitVec 10) (o : MAtom) (w : Word) (l : List Word) (he : o.enc opc = w :: l) :
    bits w 54 10 = opc ∧ MAtom.cand w l = some o := by
  obtain ⟨h, op, loc, scope, d, addr⟩ := o
  simp only [MAtom.enc, List.cons.injEq] at he
  obtain ⟨rfl, rfl⟩ := he
  refine ⟨(MRaw_toWord_opcode _).trans (setAddr_opc _ _), ?_⟩
  simp (disch := rfl) only [MAtom.cand, MRaw_ofWord_toWord, MRaw.head, setAddr_hd, setAddr_ty, setAddr_pol,
    setAddr_d, setAddr_scope, setAddr_op, AtomOp_ofCodes_code, Scope_ofCode_code, loc_bit, getAddr_setAddr,
    MRaw.mk0, Head_ofBits_toBits, Option.bind_eq_bind, Option.bind_some, pure]

theorem MPref_roundtrip (opc : BitVec 10) (o : MPref) (w : Word) (l : List Word) (he : o.enc opc = w :: l) :
    bits w 54 10 = opc ∧ MPref.cand w l = some o := by
  obtain ⟨h, lvl, addr⟩ := o
  simp only [MPref.enc, List.cons.injEq] at he
  obtain ⟨rfl, rfl⟩ := he
  refine ⟨(MRaw_toWord_opcode _).trans (setAddr_opc _ _), ?_⟩
  simp (disch := rfl) only [MPref.cand, MRaw_ofWord_toWord, MRaw.head, setAddr_hd, setAddr_op,
    PrefLvl_ofCode_code, getAddr_setAddr, MRaw.mk0, Head_ofBits_toBits, Option.bind_eq_bind,
    Option.bind_some, pure]

theorem MLine_roundtrip (opc : BitVec 10) (o : MLine) (w : Word) (l : List Word) (he : o.enc opc = w :: l) :
    bits w 54 10 = opc ∧ MLine.cand w l = some o := by
  obtain ⟨h, deep, addr⟩ := o
  simp only [MLine.enc, List.cons.injEq] at he
  obtain ⟨rfl, rfl⟩ := he
  refine ⟨(MRaw_toWord_opcode _).trans (setAddr_opc _ _), ?_⟩
  simp (disch := rfl) only [MLine.cand, MRaw_ofWord_toWord, MRaw.head, setAddr_hd, setAddr_op, deep_bit,
    getAddr_setAddr, MRaw.mk0, Head_ofBits_toBits]

theorem BareC_roundtrip (opc : BitVec 10) (o : Bare) (w : Word) (l : List Word) (he : o.encC opc = w :: l) :
    bits w 54 10 = opc ∧ Bare.cand w = some o := by
  simp only [Bare.encC, List.cons.injEq] at he
  obtain ⟨rfl, rfl⟩ := he
  refine ⟨CRaw_toWord_opcode _, ?_⟩
  simp only [Bare.cand, CRaw_toWord_head, CRaw.mk0, Head_ofBits_toBits]

theorem BareY_roundtrip (opc : BitVec 10) (o : Bare) (w : Word) (l : List Word) (he : o.encY opc = w :: l) :
    bits w 54 10 = opc ∧ Bare.cand w = some o := by
  simp only [Bare.encY, List.cons.injEq] at he
  obtain ⟨rfl, rfl⟩ := he
  refine ⟨YRaw_toWord_opcode _, ?_⟩
  simp only [Bare.cand, YRaw_toWord_head, YRaw.mk0, Head_ofBits_toBits]

theorem BareZ_roundtrip (opc : BitVec 10) (o : Bare) (w : Word) (l : List Word) (he : o.encZ opc = w :: l) :
    bits w 54 10 = opc ∧ Bare.cand w = some o := by
  simp only [Bare.encZ, List.cons.injEq] at he
  obtain ⟨rfl, rfl⟩ := he
  refine ⟨ZRaw_toWord_opcode _, ?_⟩
  simp only [Bare.cand, ZRaw_toWord_head, ZRaw.mk0, Head_ofBits_toBits]

theorem XAcst_roundtrip (opc : BitVec 10) (o : XAcst) (w : Word) (l : List Word) (he : o.enc opc = w :: l) :
    bits w 54 10 = opc ∧ XAcst.cand w = some o := by
  obtain ⟨h, tile, b, radd, loc⟩ := o
  simp only [XAcst.enc, List.cons.injEq] at he
  obtain ⟨rfl, rfl⟩ := he
  refine ⟨XRaw_toWord_opcode _, ?_⟩
  simp only [XAcst.cand, XRaw_ofWord_toWord, XRaw.mk0, XRaw.head, Head_ofBits_toBits, narrow6]
  rcases radd with _ | sc
  · cases loc <;> rfl
  · cases sc <;> cases loc <;> rfl

end Sys2Proof.Laws
end

