-- ==== Sys2Proof/Laws/Issue.lean ====
section
/-! SUPPORT. Finding a group after a change, and what `exec` comes to for an instruction that issues: said once for
every instruction, so that a proof about one of them looks at its body only. -/

namespace Sys2Proof.Machine

/-! ### Waits -/

/-- A group waits for what its instruction says, whatever it waited for before, but for a publish that stalls again. -/
theorem Group.await_wait (g : Group) (clock : Nat) (w : Wait) (h : ∀ k n t, w ≠ .publish k n t) :
    (g.await clock w).wait = some w := by
  cases w with
  | publish k n t => exact absurd rfl (h k n t)
  | _ => rfl

/-! ### Finding groups -/

theorem State.group?_id {s : State} {k : GroupId} {g : Group} (h : s.group? k = some g) : g.id = k := by
  simpa using List.find?_some h

theorem State.find_map_self (gs : List Group) (k : GroupId) (f : Group → Group) (g : Group)
    (h : gs.find? (fun x => x.id == k) = some g) (hf : (f g).id = k) :
    (gs.map fun x => if x.id = k then f x else x).find? (fun x => x.id == k) = some (f g) := by
  induction gs with
  | nil => cases h
  | cons a t ih =>
    by_cases e : a.id = k
    · have : a = g := by simpa [List.find?_cons, e] using h
      subst this
      simp [e, hf]
    · have h' : t.find? (fun x => x.id == k) = some g := by
        simpa [List.find?_cons, beq_eq_false_iff_ne.mpr e] using h
      simp only [List.map_cons, if_neg e, List.find?_cons, beq_eq_false_iff_ne.mpr e]
      exact ih h'

theorem State.find_map_other (gs : List Group) (k m : GroupId) (f : Group → Group) (hm : m ≠ k)
    (hf : ∀ g ∈ gs, g.id = k → (f g).id = k) :
    (gs.map fun x => if x.id = k then f x else x).find? (fun x => x.id == m) = gs.find? (fun x => x.id == m) := by
  induction gs with
  | nil => rfl
  | cons a t ih =>
    have ih' := ih fun g hg => hf g (List.mem_cons_of_mem _ hg)
    by_cases e : a.id = k
    · have h1 : ((f a).id == m) = false := by rw [hf a List.mem_cons_self e]; simpa using hm.symm
      have h2 : (a.id == m) = false := by rw [e]; simpa using hm.symm
      simp only [List.map_cons, if_pos e, List.find?_cons, h1, h2]
      exact ih'
    · simp only [List.map_cons, if_neg e, List.find?_cons]
      cases a.id == m
      · exact ih'
      · rfl

/-- A group that is in the part is found as what has been put in its place. -/
theorem State.group?_setGroup_self (s : State) (g g' : Group) (h : s.group? g'.id = some g) :
    (s.setGroup g').group? g'.id = some g' := State.find_map_self s.groups g'.id (fun _ => g') g h rfl

/-- The other groups stay. -/
theorem State.group?_setGroup_other (s : State) (g : Group) (k : GroupId) (h : k ≠ g.id) :
    (s.setGroup g).group? k = s.group? k := State.find_map_other s.groups g.id k (fun _ => g) h fun _ _ _ => rfl

theorem State.group?_onGroup_self (s : State) (k : GroupId) (f : Group → Group) (g : Group) (h : s.group? k = some g)
    (hf : (f g).id = k) : (s.onGroup k f).group? k = some (f g) := State.find_map_self s.groups k f g h hf

theorem State.group?_onGroup_other (s : State) (k m : GroupId) (f : Group → Group) (h : m ≠ k)
    (hf : ∀ g, g.id = k → (f g).id = k) : (s.onGroup k f).group? m = s.group? m :=
  State.find_map_other s.groups k m f h fun g _ => hf g

/-- A group put where a change of it follows is the changed group. -/
theorem State.onGroup_setGroup (s : State) (g : Group) (f : Group → Group) :
    (s.setGroup g).onGroup g.id f = { s with groups := s.groups.map fun x => if x.id = g.id then f g else x } := by
  unfold State.onGroup State.setGroup
  simp only [List.map_map]
  congr 1
  apply List.map_congr_left
  intro x _
  by_cases h : x.id = g.id <;> simp [h]

/-! ### An instruction that issues -/

/-- Every instruction with words issues, with its body. -/
theorem exec_eq_issue {i : Instr} {h : Head} {body : Body} (hb : bodyOf i = some (h, body)) (s : State) :
    exec i s = .next (issue i h body s) := by
  cases i <;> simp only [bodyOf, Option.some.injEq, Prod.mk.injEq, reduceCtorEq] at hb <;>
    (obtain ⟨rfl, rfl⟩ := hb; rfl)

/-- A group that may issue at the present clock: no time passes. -/
theorem State.advance_of_le (s : State) {t : Nat} (h : t ≤ s.clock) : s.advance t = s := by
  simp [State.advance, h]

/-- Whatever its body, an instruction of a group that stands at a slot is issued there. -/
theorem issue_of_stands {i : Instr} {h : Head} {s : State} {g : Group} {l : Launch} {hdr j : Nat} {hw : Word}
    (st : Stands s g l hdr j hw) (body : Body) : issue i h body s = issueAt i h body s g l hdr j hw := by
  obtain ⟨hg, hl, hp, hr⟩ := st
  simp [issue, hg, hl, hp, hr]

/-- An instruction that issues, once it acts, comes to what its body comes to. -/
theorem issue_of_acts {i : Instr} {h : Head} {s : State} {g : Group} {l : Launch} {hdr j : Nat} {hw : Word}
    (ac : Acts i h s g l hdr j hw) (body : Body) :
    issue i h body s = s.settle g h (usesIn i h g l) (writeLanes i h (usesIn i h g l) g) hdr j hw (encode i).length
      (body s g l) := by
  obtain ⟨⟨st, hd, hm, hs, hz, hst⟩, hgd, hdue, hpoi⟩ := ac
  have hid : s.group? g.id = some g := by rw [State.group?_id st.1]; exact st.1
  rw [issue_of_stands st]
  unfold usesIn at *
  simp only [issueAt, hd, hm, hz, max_eq_left hs, hst, State.advance_of_le s hs, hid, Option.getD_some, hdue, hpoi]
  have : (!((usesOf l.layouts g i).guarded h).lanes && !g.guardHolds h) = false := by
    rcases hgd with e | e <;> simp [e]
  simp [this]

/-- What an instruction that acts leaves, when it takes effect. -/
theorem exec_go {i : Instr} {h : Head} {body : Body} (hb : bodyOf i = some (h, body)) {s s' : State} {g : Group}
    {l : Launch} {hdr j : Nat} {hw : Word} (ac : Acts i h s g l hdr j hw) {c : Ctl} {vals : Sparse Lane}
    (e : body s g l = .go s' c vals) : exec i s = .next (issued i h s g l hdr j hw s' c vals) := by
  rw [exec_eq_issue hb, issue_of_acts ac, e]; rfl

/-- What an instruction that acts leaves, when it traps. -/
theorem exec_trap {i : Instr} {h : Head} {body : Body} (hb : bodyOf i = some (h, body)) {s : State} {g : Group}
    {l : Launch} {hdr j : Nat} {hw : Word} (ac : Acts i h s g l hdr j hw) {c : Nat} {tv : Word}
    (e : body s g l = .trap c tv) : exec i s = .next (trapped s g hdr j c tv) := by
  rw [exec_eq_issue hb, issue_of_acts ac, e]; rfl

/-- What an instruction that acts leaves, when it has to wait. -/
theorem exec_wait {i : Instr} {h : Head} {body : Body} (hb : bodyOf i = some (h, body)) {s : State} {g : Group}
    {l : Launch} {hdr j : Nat} {hw : Word} (ac : Acts i h s g l hdr j hw) {w : Wait}
    (e : body s g l = .wait w) : exec i s = .next (waiting s g w) := by
  rw [exec_eq_issue hb, issue_of_acts ac, e]; rfl

/-- A group-wide instruction whose guard fails is counted, and has no other effect. -/
theorem exec_guard_fails {i : Instr} {h : Head} {body : Body} (hb : bodyOf i = some (h, body)) {s : State} {g : Group}
    {l : Launch} {hdr j : Nat} {hw : Word} (is : Issues i h s g l hdr j hw)
    (hl : (usesIn i h g l).lanes = false) (hg : g.guardHolds h = false) :
    exec i s = .next (skipped i h s g l hdr j hw) := by
  obtain ⟨st, hd, hm, hs, hz, hst⟩ := is
  have hid : s.group? g.id = some g := by rw [State.group?_id st.1]; exact st.1
  rw [exec_eq_issue hb, issue_of_stands st]
  unfold usesIn at *
  simp [issueAt, skipped, hd, hm, hz, max_eq_left hs, hst, State.advance_of_le s hs, hid, hl, hg]

/-- The guard of an instruction adds to what is read; the lane flag stays. -/
@[simp] theorem Uses.guarded_lanes (u : Uses) (h : Head) : (u.guarded h).lanes = u.lanes := by
  unfold Uses.guarded; split <;> rfl

/-! ### Counting and following keep what they do not name -/

/-- Without lanes behind, an instruction waits for results alone (R136). -/
theorem mustWait_together (l : Launch) (g : Group) (h : Head) (u : Uses) (hb : g.backlog = []) :
    mustWait l g h u = none ∨ ∃ k : PendKind, mustWait l g h u = some k.wait := by
  unfold mustWait
  split
  · exact .inr ⟨_, rfl⟩
  · split
    · exact .inr ⟨.load, rfl⟩
    · simp [hb]

@[simp] theorem State.group?_noteIssue (s : State) (c : Nat) (k : GroupId) : (s.noteIssue c).group? k = s.group? k := rfl
@[simp] theorem State.noteIssue_clock (s : State) (c : Nat) : (s.noteIssue c).clock = s.clock := rfl
@[simp] theorem State.noteIssue_mem (s : State) (c : Nat) : (s.noteIssue c).mem = s.mem := rfl

@[simp] theorem Group.count_id (g : Group) (c : Nat) (h : Head) (u : Uses) (a : Addr) (m : Mask) (v : Sparse Lane) :
    (g.count c h u a m v).id = g.id := rfl
@[simp] theorem Group.count_vregs (g : Group) (c : Nat) (h : Head) (u : Uses) (a : Addr) (m : Mask) (v : Sparse Lane) :
    (g.count c h u a m v).vregs = g.vregs := rfl
@[simp] theorem Group.count_sregs (g : Group) (c : Nat) (h : Head) (u : Uses) (a : Addr) (m : Mask) (v : Sparse Lane) :
    (g.count c h u a m v).sregs = g.sregs := rfl
@[simp] theorem Group.count_preds (g : Group) (c : Nat) (h : Head) (u : Uses) (a : Addr) (m : Mask) (v : Sparse Lane) :
    (g.count c h u a m v).preds = g.preds := rfl

/-- The own group after an instruction whose effect `s'` leaves it as `x`. -/
theorem group_issued_next {i : Instr} {h : Head} {s s' : State} {g : Group} {l : Launch} {hdr j : Nat} {hw : Word}
    {vals : Sparse Lane} {x : Group} (hx : s'.group? g.id = some x) :
    (issued i h s g l hdr j hw s' .next vals).group? g.id =
      some { x.count s.clock h (usesIn i h g l) (slotAddr hdr j)
        (writeLanes i h (usesIn i h g l) g) vals with
        pos := nextPlace hdr j hw (encode i).length } := by
  have hi := State.group?_id hx
  unfold issued State.follow
  rw [State.group?_noteIssue]
  exact State.group?_onGroup_self _ _ _ _ (State.group?_onGroup_self s' g.id _ x hx hi) hi

/-- Another group after it is as `s'` has it. -/
theorem group_issued_next_other {i : Instr} {h : Head} {s s' : State} {g : Group} {l : Launch} {hdr j : Nat} {hw : Word}
    {vals : Sparse Lane} {k : GroupId} (hk : k ≠ g.id) :
    (issued i h s g l hdr j hw s' .next vals).group? k = s'.group? k := by
  unfold issued State.follow
  rw [State.group?_noteIssue, State.group?_onGroup_other _ _ _ _ hk (by intro x hx; exact hx),
    State.group?_onGroup_other _ _ _ _ hk (by intro x hx; exact hx)]

end Sys2Proof.Machine
end

