-- ==== Sys2Proof/Laws/Sparse.lean ====
section
/-! SUPPORT. What reading and writing a numbered entry does, and that the canonical form is kept. -/

namespace Sys2Proof.Machine

theorem Sparse.get_insert {α : Type} (d : α) (m : Sparse α) (n k : Nat) (x : α) :
    Sparse.get d (Sparse.insert m n x) k = if k = n then x else Sparse.get d m k := by
  induction m with
  | nil => by_cases h : k = n <;> simp [Sparse.insert, Sparse.get, h]
  | cons p t ih =>
    obtain ⟨a, v⟩ := p
    simp only [Sparse.insert]
    split
    · by_cases h : k = n <;> simp [Sparse.get, h]
    · split
      · next h1 h2 => subst h2; by_cases h : k = n <;> simp [Sparse.get, h]
      · next h1 h2 =>
        by_cases h : k = a
        · subst h; simp [Sparse.get, Ne.symm h2]
        · simp [Sparse.get, h, ih]

theorem Sparse.get_filter_ne {α : Type} (d : α) (m : Sparse α) (n k : Nat) :
    Sparse.get d (Sparse.erase m n) k = if k = n then d else Sparse.get d m k := by
  induction m with
  | nil => simp [Sparse.erase, Sparse.get]
  | cons p t ih =>
    obtain ⟨a, v⟩ := p
    simp only [Sparse.erase] at ih
    by_cases h : a = n
    · subst h
      by_cases h2 : k = a
      · subst h2; simpa [Sparse.erase, Sparse.get] using ih
      · simp [Sparse.erase, Sparse.get, ih, h2]
    · by_cases h2 : k = a
      · subst h2; simp [Sparse.erase, Sparse.get, h]
      · simp [Sparse.erase, Sparse.get, h, h2, ih]

/-- What a read after a write gives: the value at the number written, what was there before elsewhere. -/
theorem Sparse.get_set {α : Type} [DecidableEq α] (d : α) (m : Sparse α) (n k : Nat) (x : α) :
    Sparse.get d (Sparse.set d m n x) k = if k = n then x else Sparse.get d m k := by
  unfold Sparse.set
  split
  · next h => rw [Sparse.get_filter_ne, h]
  · exact Sparse.get_insert d m n k x

@[simp] theorem Sparse.get_set_self {α : Type} [DecidableEq α] (d : α) (m : Sparse α) (n : Nat) (x : α) :
    Sparse.get d (Sparse.set d m n x) n = x := by simp [Sparse.get_set]

theorem Sparse.get_set_other {α : Type} [DecidableEq α] (d : α) (m : Sparse α) (n k : Nat) (x : α) (h : k ≠ n) :
    Sparse.get d (Sparse.set d m n x) k = Sparse.get d m k := by simp [Sparse.get_set, h]

/-- What several writes leave where none of them was. -/
theorem Sparse.get_setAll_other {α : Type} [DecidableEq α] (d : α) (l : List (Nat × α)) (k : Nat) :
    ∀ m : Sparse α, (∀ p ∈ l, p.1 ≠ k) → Sparse.get d (Sparse.setAll d m l) k = Sparse.get d m k := by
  induction l with
  | nil => intro m _; rfl
  | cons p t ih =>
    intro m h
    have := ih (Sparse.set d m p.1 p.2) (fun q hq => h q (List.mem_cons_of_mem _ hq))
    rw [show Sparse.setAll d m (p :: t) = Sparse.setAll d (Sparse.set d m p.1 p.2) t from rfl, this,
      Sparse.get_set_other d m p.1 k p.2 (h p List.mem_cons_self).symm]

/-- What several writes leave where the last of them to a number was, when each number is written once. -/
theorem Sparse.get_setAll_mem {α : Type} [DecidableEq α] (d : α) (l : List (Nat × α)) (k : Nat) (x : α) :
    ∀ m : Sparse α, (∀ p ∈ l, p.1 = k → p.2 = x) → (∃ p ∈ l, p.1 = k) →
      Sparse.get d (Sparse.setAll d m l) k = x := by
  induction l with
  | nil => rintro m _ ⟨p, hp, _⟩; cases hp
  | cons p t ih =>
    intro m h1 h2
    rw [show Sparse.setAll d m (p :: t) = Sparse.setAll d (Sparse.set d m p.1 p.2) t from rfl]
    by_cases h : ∃ q ∈ t, q.1 = k
    · exact ih _ (fun q hq => h1 q (List.mem_cons_of_mem _ hq)) h
    · rw [Sparse.get_setAll_other d t k _ (fun q hq e => h ⟨q, hq, e⟩)]
      obtain ⟨q, hq, e⟩ := h2
      rcases List.mem_cons.mp hq with rfl | hq
      · rw [← e]; simp [h1 q List.mem_cons_self e]
      · exact absurd ⟨q, hq, e⟩ h

/-! ### The canonical form is kept -/

theorem Sparse.above_mono {α : Type} [DecidableEq α] (d : α) (m : Sparse α) (a b : Nat) (h : a ≤ b)
    (w : Sparse.above d b m = true) : Sparse.above d a m = true := by
  cases m with
  | nil => rfl
  | cons p t =>
    simp only [Sparse.above, Bool.and_eq_true, decide_eq_true_eq] at w ⊢
    exact ⟨⟨by omega, w.1.2⟩, w.2⟩

theorem Sparse.above_insert {α : Type} [DecidableEq α] (d : α) (m : Sparse α) (b n : Nat) (x : α) (hx : x ≠ d)
    (hb : b < n) (w : Sparse.above d b m = true) : Sparse.above d b (Sparse.insert m n x) = true := by
  induction m generalizing b with
  | nil => simp [Sparse.insert, Sparse.above, hb, hx]
  | cons p t ih =>
    obtain ⟨k, v⟩ := p
    simp only [Sparse.above, Bool.and_eq_true, decide_eq_true_eq] at w
    simp only [Sparse.insert]
    split
    · next h => simp [Sparse.above, hb, hx, h, w.1.2, w.2]
    · split
      · next h1 h2 => subst h2; simp [Sparse.above, hb, hx, w.2]
      · next h1 h2 => simp [Sparse.above, w.1.1, w.1.2, ih k (by omega) w.2]

theorem Sparse.above_filter {α : Type} [DecidableEq α] (d : α) (p : Nat × α → Bool) (m : Sparse α) (b : Nat)
    (w : Sparse.above d b m = true) : Sparse.above d b (m.filter p) = true := by
  induction m generalizing b with
  | nil => rfl
  | cons q t ih =>
    simp only [Sparse.above, Bool.and_eq_true, decide_eq_true_eq] at w
    rw [List.filter_cons]
    split
    · simp [Sparse.above, w.1.1, w.1.2, ih q.1 w.2]
    · exact ih b (Sparse.above_mono d t b q.1 (by omega) w.2)

theorem Sparse.wf_of_above {α : Type} [DecidableEq α] (d : α) (m : Sparse α) (b : Nat)
    (w : Sparse.above d b m = true) : Sparse.wf d m = true := by
  cases m with
  | nil => rfl
  | cons p t =>
    simp only [Sparse.above, Bool.and_eq_true, decide_eq_true_eq] at w
    simp [Sparse.wf, w.1.2, w.2]

theorem Sparse.wf_filter {α : Type} [DecidableEq α] (d : α) (p : Nat × α → Bool) (m : Sparse α)
    (w : Sparse.wf d m = true) : Sparse.wf d (m.filter p) = true := by
  cases m with
  | nil => rfl
  | cons q t =>
    simp only [Sparse.wf, Bool.and_eq_true, decide_eq_true_eq] at w
    rw [List.filter_cons]
    split
    · simp [Sparse.wf, w.1, Sparse.above_filter d p t q.1 w.2]
    · exact Sparse.wf_of_above d _ q.1 (Sparse.above_filter d p t q.1 w.2)

theorem Sparse.wf_insert {α : Type} [DecidableEq α] (d : α) (m : Sparse α) (n : Nat) (x : α) (hx : x ≠ d)
    (w : Sparse.wf d m = true) : Sparse.wf d (Sparse.insert m n x) = true := by
  cases m with
  | nil => simp [Sparse.insert, Sparse.wf, Sparse.above, hx]
  | cons p t =>
    obtain ⟨k, v⟩ := p
    simp only [Sparse.wf, Bool.and_eq_true, decide_eq_true_eq] at w
    simp only [Sparse.insert]
    split
    · next h => simp [Sparse.wf, Sparse.above, hx, h, w.1, w.2]
    · split
      · next h1 h2 => subst h2; simp [Sparse.wf, hx, w.2]
      · next h1 h2 => simp [Sparse.wf, w.1, Sparse.above_insert d t k n x hx (by omega) w.2]

/-- A write keeps the canonical form. -/
theorem Sparse.wf_set {α : Type} [DecidableEq α] (d : α) (m : Sparse α) (n : Nat) (x : α)
    (w : Sparse.wf d m = true) : Sparse.wf d (Sparse.set d m n x) = true := by
  unfold Sparse.set
  split
  · exact Sparse.wf_filter d _ m w
  · next h => exact Sparse.wf_insert d m n x h w

/-- Several writes keep it. -/
theorem Sparse.wf_setAll {α : Type} [DecidableEq α] (d : α) (l : List (Nat × α)) :
    ∀ m : Sparse α, Sparse.wf d m = true → Sparse.wf d (Sparse.setAll d m l) = true := by
  induction l with
  | nil => intro m w; exact w
  | cons p t ih => intro m w; exact ih _ (Sparse.wf_set d m p.1 p.2 w)

/-- Changing values, none of them into the default, keeps it. -/
theorem Sparse.above_map {α : Type} [DecidableEq α] (d : α) (f : Nat × α → α) (hf : ∀ p, p.2 ≠ d → f p ≠ d)
    (m : Sparse α) (b : Nat) (w : Sparse.above d b m = true) :
    Sparse.above d b (m.map fun p => (p.1, f p)) = true := by
  induction m generalizing b with
  | nil => rfl
  | cons q t ih =>
    simp only [Sparse.above, Bool.and_eq_true, decide_eq_true_eq] at w
    simp [Sparse.above, w.1.1, hf q w.1.2, ih q.1 w.2]

theorem Sparse.wf_map {α : Type} [DecidableEq α] (d : α) (f : Nat × α → α) (hf : ∀ p, p.2 ≠ d → f p ≠ d)
    (m : Sparse α) (w : Sparse.wf d m = true) : Sparse.wf d (m.map fun p => (p.1, f p)) = true := by
  cases m with
  | nil => rfl
  | cons q t =>
    simp only [Sparse.wf, Bool.and_eq_true, decide_eq_true_eq] at w
    simp [Sparse.wf, hf q w.1, Sparse.above_map d f hf t q.1 w.2]

theorem Sparse.above_shift {α : Type} [DecidableEq α] (d : α) (a b : Nat) (m : Sparse α) (k : Nat) (h : a ≤ k)
    (hm : ∀ q ∈ m, a ≤ q.1) (w : Sparse.above d k m = true) :
    Sparse.above d (k - a + b) (m.map fun x => (x.1 - a + b, x.2)) = true := by
  induction m generalizing k with
  | nil => rfl
  | cons q t ih =>
    simp only [Sparse.above, Bool.and_eq_true, decide_eq_true_eq] at w
    have hq := hm q List.mem_cons_self
    have := ih q.1 hq (fun x hx => hm x (List.mem_cons_of_mem _ hx)) w.2
    simp only [List.map_cons, Sparse.above, Bool.and_eq_true, decide_eq_true_eq]
    exact ⟨⟨by omega, w.1.2⟩, this⟩

/-- A range of entries that takes other numbers keeps it. -/
theorem Sparse.wf_shift {α : Type} [DecidableEq α] (d : α) (a b len : Nat) (m : Sparse α)
    (w : Sparse.wf d m = true) : Sparse.wf d (Sparse.shift a b len m) = true := by
  have h := Sparse.wf_filter d (fun x => decide (a ≤ x.1) && decide (x.1 < a + len)) m w
  have hm : ∀ q ∈ m.filter (fun x => decide (a ≤ x.1) && decide (x.1 < a + len)), a ≤ q.1 := by
    intro q hq
    simp only [List.mem_filter, Bool.and_eq_true, decide_eq_true_eq] at hq
    exact hq.2.1
  unfold Sparse.shift
  revert h hm
  generalize m.filter _ = n
  intro h hm
  cases n with
  | nil => rfl
  | cons q t =>
    simp only [Sparse.wf, Bool.and_eq_true, decide_eq_true_eq] at h
    simp only [List.map_cons, Sparse.wf, Bool.and_eq_true, decide_eq_true_eq]
    exact ⟨h.1, Sparse.above_shift d a b t q.1 (hm q List.mem_cons_self)
      (fun x hx => hm x (List.mem_cons_of_mem _ hx)) h.2⟩

/-- Every entry that is read from a list whose entries are all well formed is well formed. -/
theorem Sparse.get_all {α : Type} (d : α) (p : α → Bool) (hd : p d = true) (m : Sparse α) (n : Nat)
    (h : m.all (fun c => p c.2) = true) : p (Sparse.get d m n) = true := by
  induction m with
  | nil => exact hd
  | cons q t ih =>
    simp only [List.all_cons, Bool.and_eq_true] at h
    simp only [Sparse.get]
    split
    · exact h.1
    · exact ih h.2

theorem Sparse.all_insert {α : Type} (p : α → Bool) (m : Sparse α) (n : Nat) (x : α) (hx : p x = true)
    (h : m.all (fun c => p c.2) = true) : (Sparse.insert m n x).all (fun c => p c.2) = true := by
  induction m with
  | nil => simp [Sparse.insert, hx]
  | cons q t ih =>
    obtain ⟨k, v⟩ := q
    simp only [List.all_cons, Bool.and_eq_true] at h
    simp only [Sparse.insert]
    split
    · rw [List.all_cons, List.all_cons, hx, h.1, h.2]; rfl
    · split
      · rw [List.all_cons, hx, h.2]; rfl
      · rw [List.all_cons, h.1, ih h.2]; rfl

theorem Sparse.all_set {α : Type} [DecidableEq α] (d : α) (p : α → Bool) (m : Sparse α) (n : Nat) (x : α)
    (hx : p x = true) (h : m.all (fun c => p c.2) = true) : (Sparse.set d m n x).all (fun c => p c.2) = true := by
  unfold Sparse.set
  split
  · rw [List.all_eq_true] at h ⊢
    exact fun c hc => h c (List.mem_of_mem_filter hc)
  · exact Sparse.all_insert p m n x hx h

end Sys2Proof.Machine
end

