-- ==== Sys2Proof/Laws/Memory.lean ====
section
/-! SUPPORT. What each operation over memory and L1 does, and that it keeps their canonical forms. -/

namespace Sys2Proof.Machine

/-- The canonical forms depend on memory and on the L1s alone. -/
theorem safe_of_eq {s t : State} (h : Safe s) (hm : t.mem = s.mem) (hl : t.l1 = s.l1) : Safe t := by
  unfold Safe at *; rw [hm, hl]; exact h

theorem State.memGet_memSet (s : State) (pa k : Addr) (b : Byte) :
    (s.memSet pa b).memGet k = if k = pa then b else s.memGet k := Sparse.get_set ..

theorem State.l1Of_setL1 (s : State) (core k : Nat) (c : Sparse (Option Cached)) :
    (s.setL1 core c).l1Of k = if k = core then c else s.l1Of k := Sparse.get_set ..

theorem State.get_l1Put (s : State) (core pa k a : Nat) (c : Option Cached) :
    Sparse.get none ((s.l1Put core pa c).l1Of k) a =
      if k = core ∧ a = pa then c else Sparse.get none (s.l1Of k) a := by
  unfold State.l1Put
  rw [State.l1Of_setL1]
  by_cases h : k = core
  · subst h; rw [if_pos rfl, Sparse.get_set]; simp
  · simp [h]

/-- A byte stored into a core's L1 is what that core sees there, and nothing else that a core sees changes. -/
theorem State.l1Get_l1Put (s : State) (core pa k a : Nat) (x : Cached) :
    (s.l1Put core pa (some x)).l1Get k a = if k = core ∧ a = pa then x.val else s.l1Get k a := by
  unfold State.l1Get
  rw [State.get_l1Put]
  by_cases h : k = core ∧ a = pa
  · simp [h]
  · rw [if_neg h, if_neg h]; rfl

theorem State.memSet_safe (s : State) (pa : Addr) (b : Byte) (h : Safe s) : Safe (s.memSet pa b) :=
  ⟨Sparse.wf_set _ _ _ _ h.1, h.2⟩

theorem State.memWrite_safe (l : List Byte) : ∀ (s : State) (pa : Addr), Safe s → Safe (s.memWrite pa l) := by
  induction l with
  | nil => intro s _ h; exact h
  | cons b t ih => intro s pa h; exact ih _ _ (s.memSet_safe pa b h)

theorem State.setAll_safe (s : State) (l : List (Nat × Byte)) (h : Safe s) :
    Safe { s with mem := Sparse.setAll Config.emptyByte s.mem l } := ⟨Sparse.wf_setAll _ l _ h.1, h.2⟩

theorem State.clearPoison_safe (s : State) (pa len : Nat) (h : Safe s) : Safe (s.clearPoison pa len) := h

theorem State.l1Of_wf (s : State) (core : Nat) (h : Safe s) : Sparse.wf none (s.l1Of core) = true :=
  Sparse.get_all [] (fun c => Sparse.wf none c) rfl s.l1 core h.2.2

theorem State.setL1_safe (s : State) (core : Nat) (c : Sparse (Option Cached)) (hc : Sparse.wf none c = true)
    (h : Safe s) : Safe (s.setL1 core c) :=
  ⟨h.1, Sparse.wf_set _ _ _ _ h.2.1, Sparse.all_set [] (fun c => Sparse.wf none c) s.l1 core c hc h.2.2⟩

theorem State.l1Put_safe (s : State) (core pa : Nat) (c : Option Cached) (h : Safe s) : Safe (s.l1Put core pa c) :=
  s.setL1_safe core _ (Sparse.wf_set _ _ _ _ (s.l1Of_wf core h)) h

theorem State.l1Fill_safe (core : Nat) (obj : Bool) (l : List Nat) :
    ∀ s : State, Safe s → Safe (s.l1Fill core obj l) := by
  induction l with
  | nil => intro s h; exact h
  | cons a t ih =>
    intro s h
    unfold State.l1Fill
    split
    · exact ih _ h
    · exact ih _ (s.l1Put_safe core a _ h)

theorem State.l1Write_safe (core : Nat) (obj : Bool) (l : List Byte) :
    ∀ (s : State) (pa : Nat), Safe s → Safe (s.l1Write core pa obj l) := by
  induction l with
  | nil => intro s _ h; exact h
  | cons b t ih => intro s pa h; exact ih _ _ (s.l1Put_safe core pa _ h)

/-! ### The levels of the memory path (R17) -/

/-- All that one MSC set without room does: sectors leave it. -/
theorem State.fitMsc_cases (s : State) (k : Nat) : ∃ x, s.fitMsc k = { s with sectors := x } := by
  unfold State.fitMsc
  split
  · exact ⟨_, rfl⟩
  · dsimp only
    split
    · exact ⟨_, rfl⟩
    · split
      · exact ⟨_, rfl⟩
      · exact ⟨_, rfl⟩

/-- All that an L2 slice without room does. -/
theorem State.fitL2_cases (s : State) (k : Nat) : ∃ x, s.fitL2 k = { s with sectors := x } := by
  unfold State.fitL2
  split
  · exact ⟨_, rfl⟩
  · dsimp only
    split
    · exact ⟨_, rfl⟩
    · split
      · rename_i c _
        obtain ⟨x, e⟩ := (s.onSector c.1 Sector.leaveL2).fitMsc_cases c.1
        exact ⟨x, by rw [e]; rfl⟩
      · exact ⟨_, rfl⟩

theorem State.reachSector_cases (s : State) (far : Nat) (obj write : Bool) (k : Nat) :
    ∃ x, s.reachSector far obj write k = { s with sectors := x } := by
  unfold State.reachSector
  obtain ⟨x, e⟩ := (s.onSector k fun x => x.reached far (sliceOf (32 * k) obj) write (s.heldAt (32 * k))).fitL2_cases k
  obtain ⟨y, f⟩ := State.fitMsc_cases ({ (s.onSector k fun x =>
    x.reached far (sliceOf (32 * k) obj) write (s.heldAt (32 * k))) with sectors := x }) k
  exact ⟨y, by rw [e, f]; rfl⟩

/-- All that accesses below L1 do to the levels there: what these hold changes, and nothing else. -/
theorem State.touch_cases (s : State) (pas : List Nat) (obj write : Bool) (far : Nat) :
    ∃ x, s.touch pas obj write far = { s with sectors := x } := by
  unfold State.touch
  suffices h : ∀ (l : List Nat) (t : State), ∃ x,
      l.foldl (fun s k => s.reachSector far obj write k) t = { t with sectors := x } from h _ _
  intro l
  induction l with
  | nil => intro t; exact ⟨t.sectors, rfl⟩
  | cons k l ih =>
    intro t
    obtain ⟨x, e⟩ := t.reachSector_cases far obj write k
    obtain ⟨y, f⟩ := ih { t with sectors := x }
    exact ⟨y, by rw [List.foldl_cons, e, f]⟩

@[simp] theorem State.touch_mem (s : State) (l : List Nat) (o w : Bool) (f : Nat) : (s.touch l o w f).mem = s.mem := by
  obtain ⟨x, e⟩ := s.touch_cases l o w f; rw [e]

@[simp] theorem State.touch_l1 (s : State) (l : List Nat) (o w : Bool) (f : Nat) : (s.touch l o w f).l1 = s.l1 := by
  obtain ⟨x, e⟩ := s.touch_cases l o w f; rw [e]

@[simp] theorem State.touch_groups (s : State) (l : List Nat) (o w : Bool) (f : Nat) :
    (s.touch l o w f).groups = s.groups := by
  obtain ⟨x, e⟩ := s.touch_cases l o w f; rw [e]

@[simp] theorem State.touch_launches (s : State) (l : List Nat) (o w : Bool) (f : Nat) :
    (s.touch l o w f).launches = s.launches := by
  obtain ⟨x, e⟩ := s.touch_cases l o w f; rw [e]

@[simp] theorem State.touch_poison (s : State) (l : List Nat) (o w : Bool) (f : Nat) :
    (s.touch l o w f).poison = s.poison := by
  obtain ⟨x, e⟩ := s.touch_cases l o w f; rw [e]

/-- What the levels below L1 hold changes no canonical form. -/
theorem State.touch_safe (s : State) (l : List Nat) (o w : Bool) (f : Nat) (h : Safe s) : Safe (s.touch l o w f) :=
  safe_of_eq h (s.touch_mem l o w f) (s.touch_l1 l o w f)

/-! ### Write back, release and acquire -/

/-- A write back changes the part's memory by the dirty bytes that it names, and nothing else there. -/
theorem State.writeBack_mem (s : State) (core : Nat) (p : Nat → Bool) :
    ∃ l, (s.writeBack core p).mem = Sparse.setAll Config.emptyByte s.mem l := ⟨_, rfl⟩

/-- A write back leaves every line where it is, clean where it was written back. -/
theorem State.writeBack_l1 (s : State) (core : Nat) (p : Nat → Bool) :
    (s.writeBack core p).l1 = (s.setL1 core ((s.l1Of core).map fun q =>
      (q.1, q.2.map fun x => if p q.1 then { x with dirty := false } else x))).l1 := by
  unfold State.writeBack
  dsimp only
  rw [State.touch_l1, State.touch_l1]
  rfl

theorem State.writeBack_safe (s : State) (core : Nat) (p : Nat → Bool) (h : Safe s) : Safe (s.writeBack core p) := by
  have hc : Sparse.wf none ((s.l1Of core).map fun q =>
      (q.1, q.2.map fun x => if p q.1 then { x with dirty := false } else x)) = true :=
    Sparse.wf_map none (fun q => q.2.map fun x => if p q.1 then { x with dirty := false } else x)
      (fun q hq => by cases e : q.2 <;> simp_all) _ (s.l1Of_wf core h)
  have := s.setL1_safe core _ hc h
  obtain ⟨l, e⟩ := s.writeBack_mem core p
  unfold Safe
  rw [State.writeBack_l1, e]
  exact ⟨Sparse.wf_setAll _ _ _ h.1, this.2⟩

theorem State.dropClean_safe (s : State) (core : Nat) (p : Nat → Bool) (h : Safe s) : Safe (s.dropClean core p) :=
  s.setL1_safe core _ (Sparse.wf_filter none _ _ (s.l1Of_wf core h)) h

theorem State.release_safe (s : State) (core : Nat) (h : Safe s) : Safe (s.release core) := s.writeBack_safe core _ h

/-- The part's own memory keeps the canonical forms when the part takes another number (R425). -/
theorem State.renumber_safe (s : State) (n : Nat) (h : Safe s) : Safe (s.renumber n) := by
  have key : ∀ (l : List (Nat × Sparse (Option Cached))) (t : State), Safe t →
      Safe (l.foldl (fun s c => s.release c.1) t) := by
    intro l
    induction l with
    | nil => intro t ht; exact ht
    | cons c l ih => intro t ht; exact ih _ (t.release_safe c.1 ht)
  have ht := key s.l1 s h
  unfold State.renumber
  exact ⟨Sparse.wf_shift _ _ _ _ _ ht.1, rfl, rfl⟩

theorem State.acquire_safe (s : State) (core : Nat) (h : Safe s) : Safe (s.acquire core) := s.dropClean_safe core _ h

theorem State.advance_safe (s : State) (t : Nat) (h : Safe s) : Safe (s.advance t) := by
  unfold State.advance; split
  · exact h
  · exact h

/-- All that an L1 without room does: it writes back lines and drops their clean copies (R153). -/
theorem State.fitL1_cases (s : State) (core : Nat) :
    s.fitL1 core = s ∨ ∃ p, s.fitL1 core = (s.writeBack core p).dropClean core p := by
  unfold State.fitL1
  dsimp only
  split
  · exact .inl rfl
  · exact .inr ⟨_, rfl⟩

theorem State.fitL1_safe (s : State) (core : Nat) (h : Safe s) : Safe (s.fitL1 core) := by
  obtain e | ⟨p, e⟩ := s.fitL1_cases core
  · rwa [e]
  · rw [e]; exact State.dropClean_safe _ _ _ (s.writeBack_safe core p h)

/-- A group's own change keeps the canonical forms. -/
theorem State.onGroup_safe (s : State) (g : GroupId) (f : Group → Group) (h : Safe s) : Safe (s.onGroup g f) := h

theorem State.setGroup_safe (s : State) (g : Group) (h : Safe s) : Safe (s.setGroup g) := h

theorem State.onLaunch_safe (s : State) (l : Nat) (f : Launch → Launch) (h : Safe s) : Safe (s.onLaunch l f) := h

theorem State.setPod_safe (s : State) (p : Nat) (x : Pod) (h : Safe s) : Safe (s.setPod p x) := h

end Sys2Proof.Machine
end

