-- ==== Sys2Proof/Laws/PerInstr.lean ====
section
/-! SUPPORT. One lemma for each instruction: the fields of its words stand for it and for nothing else. -/

namespace Sys2Proof.Laws.Codec

/-- The words of a well-formed instruction have the instruction as their one candidate. -/
def Statement (i : Instr) : Prop :=
  wellFormed i = true → ∀ w l, encode i = w :: l → candidate w l = some i

theorem candidate0 (w : Word) (l : List Word) (n : BitVec 10) (h : bits w 54 10 = n) (hn : n.toNat < 0x80) :
    candidate w l = cand0 n.toNat w l := by
  have e : opcodeOf w = n.toNat := congrArg BitVec.toNat h
  simp only [candidate, classOf, e, show n.toNat / 0x80 = 0 by omega]

theorem candidate1 (w : Word) (l : List Word) (n : BitVec 10) (h : bits w 54 10 = n)
    (h1 : 0x80 ≤ n.toNat) (h2 : n.toNat < 0x100) : candidate w l = cand1 n.toNat w l := by
  have e : opcodeOf w = n.toNat := congrArg BitVec.toNat h
  simp only [candidate, classOf, e, show n.toNat / 0x80 = 1 by omega]

theorem candidate2 (w : Word) (l : List Word) (n : BitVec 10) (h : bits w 54 10 = n)
    (h1 : 0x100 ≤ n.toNat) (h2 : n.toNat < 0x180) : candidate w l = cand2 n.toNat w l := by
  have e : opcodeOf w = n.toNat := congrArg BitVec.toNat h
  simp only [candidate, classOf, e, show n.toNat / 0x80 = 2 by omega]

theorem candidate34 (w : Word) (l : List Word) (n : BitVec 10) (h : bits w 54 10 = n)
    (h1 : 0x180 ≤ n.toNat) (h2 : n.toNat < 0x280) : candidate w l = cand34 n.toNat w l := by
  have e : opcodeOf w = n.toNat := congrArg BitVec.toNat h
  rcases (by omega : n.toNat / 0x80 = 3 ∨ n.toNat / 0x80 = 4) with h3 | h3 <;>
    simp only [candidate, classOf, e, h3]

theorem candidate567 (w : Word) (l : List Word) (n : BitVec 10) (h : bits w 54 10 = n)
    (h1 : 0x280 ≤ n.toNat) : candidate w l = cand567 n.toNat w := by
  have e : opcodeOf w = n.toNat := congrArg BitVec.toNat h
  have h3 : 5 ≤ n.toNat / 0x80 := by omega
  obtain ⟨k, hk⟩ : ∃ k, n.toNat / 0x80 = k + 5 := ⟨n.toNat / 0x80 - 5, by omega⟩
  simp only [candidate, classOf, e, hk]

theorem iadd (o : V2) : Statement (.iadd o) := by
  intro _ w l he
  obtain ⟨ho, hc⟩ := V2_roundtrip 0x001 o w l he
  rw [candidate0 w l _ ho (by decide)]
  exact congrArg (Option.map Instr.iadd) hc

theorem isub (o : V2) : Statement (.isub o) := by
  intro _ w l he
  obtain ⟨ho, hc⟩ := V2_roundtrip 0x002 o w l he
  rw [candidate0 w l _ ho (by decide)]
  exact congrArg (Option.map Instr.isub) hc

theorem imul (o : V2) : Statement (.imul o) := by
  intro _ w l he
  obtain ⟨ho, hc⟩ := V2_roundtrip 0x003 o w l he
  rw [candidate0 w l _ ho (by decide)]
  exact congrArg (Option.map Instr.imul) hc

theorem imulh (o : V2) : Statement (.imulh o) := by
  intro _ w l he
  obtain ⟨ho, hc⟩ := V2_roundtrip 0x004 o w l he
  rw [candidate0 w l _ ho (by decide)]
  exact congrArg (Option.map Instr.imulh) hc

theorem imad (o : V3) : Statement (.imad o) := by
  intro _ w l he
  obtain ⟨ho, hc⟩ := V3_roundtrip 0x005 o w l he
  rw [candidate0 w l _ ho (by decide)]
  exact congrArg (Option.map Instr.imad) hc

theorem idiv (o : V2) : Statement (.idiv o) := by
  intro _ w l he
  obtain ⟨ho, hc⟩ := V2_roundtrip 0x006 o w l he
  rw [candidate0 w l _ ho (by decide)]
  exact congrArg (Option.map Instr.idiv) hc

theorem irem (o : V2) : Statement (.irem o) := by
  intro _ w l he
  obtain ⟨ho, hc⟩ := V2_roundtrip 0x007 o w l he
  rw [candidate0 w l _ ho (by decide)]
  exact congrArg (Option.map Instr.irem) hc

theorem imin (o : V2) : Statement (.imin o) := by
  intro _ w l he
  obtain ⟨ho, hc⟩ := V2_roundtrip 0x008 o w l he
  rw [candidate0 w l _ ho (by decide)]
  exact congrArg (Option.map Instr.imin) hc

theorem imax (o : V2) : Statement (.imax o) := by
  intro _ w l he
  obtain ⟨ho, hc⟩ := V2_roundtrip 0x009 o w l he
  rw [candidate0 w l _ ho (by decide)]
  exact congrArg (Option.map Instr.imax) hc

theorem iabs (o : V1) : Statement (.iabs o) := by
  intro _ w l he
  obtain ⟨ho, hc⟩ := V1_roundtrip 0x00A o w l he
  rw [candidate0 w l _ ho (by decide)]
  exact congrArg (Option.map Instr.iabs) hc

theorem ineg (o : V1) : Statement (.ineg o) := by
  intro _ w l he
  obtain ⟨ho, hc⟩ := V1_roundtrip 0x00B o w l he
  rw [candidate0 w l _ ho (by decide)]
  exact congrArg (Option.map Instr.ineg) hc

theorem iclamp (o : V3) : Statement (.iclamp o) := by
  intro _ w l he
  obtain ⟨ho, hc⟩ := V3_roundtrip 0x00C o w l he
  rw [candidate0 w l _ ho (by decide)]
  exact congrArg (Option.map Instr.iclamp) hc

theorem and (o : V2) : Statement (.and o) := by
  intro _ w l he
  obtain ⟨ho, hc⟩ := V2_roundtrip 0x00D o w l he
  rw [candidate0 w l _ ho (by decide)]
  exact congrArg (Option.map Instr.and) hc

theorem or (o : V2) : Statement (.or o) := by
  intro _ w l he
  obtain ⟨ho, hc⟩ := V2_roundtrip 0x00E o w l he
  rw [candidate0 w l _ ho (by decide)]
  exact congrArg (Option.map Instr.or) hc

theorem xor (o : V2) : Statement (.xor o) := by
  intro _ w l he
  obtain ⟨ho, hc⟩ := V2_roundtrip 0x00F o w l he
  rw [candidate0 w l _ ho (by decide)]
  exact congrArg (Option.map Instr.xor) hc

theorem andn (o : V2) : Statement (.andn o) := by
  intro _ w l he
  obtain ⟨ho, hc⟩ := V2_roundtrip 0x010 o w l he
  rw [candidate0 w l _ ho (by decide)]
  exact congrArg (Option.map Instr.andn) hc

theorem shl (o : V2) : Statement (.shl o) := by
  intro _ w l he
  obtain ⟨ho, hc⟩ := V2_roundtrip 0x011 o w l he
  rw [candidate0 w l _ ho (by decide)]
  exact congrArg (Option.map Instr.shl) hc

theorem shr (o : V2) : Statement (.shr o) := by
  intro _ w l he
  obtain ⟨ho, hc⟩ := V2_roundtrip 0x012 o w l he
  rw [candidate0 w l _ ho (by decide)]
  exact congrArg (Option.map Instr.shr) hc

theorem sar (o : V2) : Statement (.sar o) := by
  intro _ w l he
  obtain ⟨ho, hc⟩ := V2_roundtrip 0x013 o w l he
  rw [candidate0 w l _ ho (by decide)]
  exact congrArg (Option.map Instr.sar) hc

theorem rot (o : V2) : Statement (.rot o) := by
  intro _ w l he
  obtain ⟨ho, hc⟩ := V2_roundtrip 0x014 o w l he
  rw [candidate0 w l _ ho (by decide)]
  exact congrArg (Option.map Instr.rot) hc

theorem popc (o : V1) : Statement (.popc o) := by
  intro _ w l he
  obtain ⟨ho, hc⟩ := V1_roundtrip 0x015 o w l he
  rw [candidate0 w l _ ho (by decide)]
  exact congrArg (Option.map Instr.popc) hc

theorem clz (o : V1) : Statement (.clz o) := by
  intro _ w l he
  obtain ⟨ho, hc⟩ := V1_roundtrip 0x016 o w l he
  rw [candidate0 w l _ ho (by decide)]
  exact congrArg (Option.map Instr.clz) hc

theorem ctz (o : V1) : Statement (.ctz o) := by
  intro _ w l he
  obtain ⟨ho, hc⟩ := V1_roundtrip 0x017 o w l he
  rw [candidate0 w l _ ho (by decide)]
  exact congrArg (Option.map Instr.ctz) hc

theorem brev (o : V1) : Statement (.brev o) := by
  intro _ w l he
  obtain ⟨ho, hc⟩ := V1_roundtrip 0x018 o w l he
  rw [candidate0 w l _ ho (by decide)]
  exact congrArg (Option.map Instr.brev) hc

theorem bfx (o : V2) : Statement (.bfx o) := by
  intro _ w l he
  obtain ⟨ho, hc⟩ := V2_roundtrip 0x019 o w l he
  rw [candidate0 w l _ ho (by decide)]
  exact congrArg (Option.map Instr.bfx) hc

theorem bfi (o : V3) : Statement (.bfi o) := by
  intro _ w l he
  obtain ⟨ho, hc⟩ := V3_roundtrip 0x01A o w l he
  rw [candidate0 w l _ ho (by decide)]
  exact congrArg (Option.map Instr.bfi) hc

theorem permb (o : V3) : Statement (.permb o) := by
  intro _ w l he
  obtain ⟨ho, hc⟩ := V3_roundtrip 0x01B o w l he
  rw [candidate0 w l _ ho (by decide)]
  exact congrArg (Option.map Instr.permb) hc

theorem Ty_ofCode_code (t : Ty) : Ty.ofCode t.code = some t := by cases t <;> rfl

theorem isInt_code_lt {t : Ty} (h : t.isInt = true) : t.code < 8 := by
  cases t <;> first | decide | exact absurd h (by decide)

theorem fcmpTy_lt (t : Ty) : fcmpTy t < 8 := by cases t <;> decide

theorem fcmpTyOf_fcmpTy {t : Ty} (h : t.isFloat = true) : fcmpTyOf (fcmpTy t) = some t := by
  cases t <;> first | rfl | exact absurd h (by decide)

theorem modTy_code_lt {t : Ty} (h : WF.modTy t = true) : t.code < 4 := by
  cases t <;> first | decide | exact absurd h (by decide)

theorem modred_fields {o : VModRed} (h : wellFormed (.modred o) = true) :
    WF.modSel o.m = true ∧ o.t.code < 4 ∧ (o.m = .operand ↔ o.b.isSome) := by
  obtain ⟨hd, m, t, d, a, b⟩ := o
  simp only [wellFormed, Bool.and_eq_true] at h
  refine ⟨h.1.1.1.1, modTy_code_lt h.1.1.1.2, ?_⟩
  cases m <;> cases b <;> simp_all

theorem mod_fields {o : VMod} (h : wellFormed (.modadd o) = true) :
    WF.modSel o.m = true ∧ o.t.code < 4 ∧ (o.m = .operand ↔ o.c.isSome) := by
  obtain ⟨hd, m, t, d, a, b, c⟩ := o
  simp only [wellFormed, Bool.and_eq_true, Bool.or_eq_true, beq_iff_eq] at h
  refine ⟨h.1.1.1.1.1, by rcases h.1.1.1.1.2 with h | h <;> simp [h, Ty.code], ?_⟩
  cases m <;> cases c <;> simp_all

theorem modredVI_fields {o : VModImm} (h : wellFormed (.modredVI o) = true) :
    WF.modSel o.m = true ∧ o.t.code < 4 := by
  simp only [wellFormed, Bool.and_eq_true, beq_iff_eq] at h
  exact ⟨by rw [h.1.1.1]; rfl, modTy_code_lt h.1.1.2⟩

theorem modVI_fields {o : VModImm} (h : wellFormed (.modaddVI o) = true) :
    WF.modSel o.m = true ∧ o.t.code < 4 := by
  simp only [wellFormed, Bool.and_eq_true, Bool.or_eq_true, beq_iff_eq] at h
  exact ⟨h.1.1.1.1, by rcases h.1.1.2 with h | h <;> rw [h] <;> decide⟩

theorem isetp (o : VCmp) : Statement (.isetp o) := by
  intro hw w l he
  have ht : o.t.isInt = true := by simp only [wellFormed, Bool.and_eq_true] at hw; exact hw.1.1.2
  obtain ⟨ho, hc⟩ := VCmp_roundtrip 0x01C Ty.code Ty.ofCode o w l (isInt_code_lt ht) (Ty_ofCode_code _) he
  rw [candidate0 w l _ ho (by decide)]
  exact congrArg (Option.map Instr.isetp) hc

theorem sel (o : VSel) : Statement (.sel o) := by
  intro _ w l he
  obtain ⟨ho, hc⟩ := VSel_roundtrip 0x01D o w l he
  rw [candidate0 w l _ ho (by decide)]
  exact congrArg (Option.map Instr.sel) hc

theorem mov (o : VMov) : Statement (.mov o) := by
  intro _ w l he
  obtain ⟨ho, hc⟩ := VMov_roundtrip 0x01E o w l he
  rw [candidate0 w l _ ho (by decide)]
  exact congrArg (Option.map Instr.mov) hc

theorem movi (o : VMovi) : Statement (.movi o) := by
  intro _ w l he
  obtain ⟨ho, hc⟩ := VMovi_roundtrip 0x01F o w l he
  rw [candidate0 w l _ ho (by decide)]
  exact congrArg (Option.map Instr.movi) hc

theorem cvti (o : VCvti) : Statement (.cvti o) := by
  intro _ w l he
  obtain ⟨ho, hc⟩ := VCvti_roundtrip 0x020 o w l he
  rw [candidate0 w l _ ho (by decide)]
  exact congrArg (Option.map Instr.cvti) hc

theorem lea (o : VLea) : Statement (.lea o) := by
  intro _ w l he
  obtain ⟨ho, hc⟩ := VLea_roundtrip 0x021 o w l he
  rw [candidate0 w l _ ho (by decide)]
  exact congrArg (Option.map Instr.lea) hc

theorem modred (o : VModRed) : Statement (.modred o) := by
  intro hw w l he
  obtain ⟨hm, ht, hb⟩ := modred_fields hw
  obtain ⟨ho, hc⟩ := VModRed_roundtrip 0x022 o w l hm ht hb he
  rw [candidate0 w l _ ho (by decide)]
  exact congrArg (Option.map Instr.modred) hc

theorem modadd (o : VMod) : Statement (.modadd o) := by
  intro hw w l he
  obtain ⟨hm, ht, hb⟩ := mod_fields hw
  obtain ⟨ho, hc⟩ := VMod_roundtrip 0x023 o w l hm ht hb he
  rw [candidate0 w l _ ho (by decide)]
  exact congrArg (Option.map Instr.modadd) hc

theorem modmul (o : VMod) : Statement (.modmul o) := by
  intro hw w l he
  obtain ⟨hm, ht, hb⟩ := mod_fields hw
  obtain ⟨ho, hc⟩ := VMod_roundtrip 0x024 o w l hm ht hb he
  rw [candidate0 w l _ ho (by decide)]
  exact congrArg (Option.map Instr.modmul) hc

theorem iaddVI (o : VImm) : Statement (.iaddVI o) := by
  intro _ w l he
  obtain ⟨ho, hc⟩ := VImm_roundtrip 0x041 o w l he
  rw [candidate0 w l _ ho (by decide)]
  exact congrArg (Option.map Instr.iaddVI) hc

theorem isubVI (o : VImm) : Statement (.isubVI o) := by
  intro _ w l he
  obtain ⟨ho, hc⟩ := VImm_roundtrip 0x042 o w l he
  rw [candidate0 w l _ ho (by decide)]
  exact congrArg (Option.map Instr.isubVI) hc

theorem imulVI (o : VImm) : Statement (.imulVI o) := by
  intro _ w l he
  obtain ⟨ho, hc⟩ := VImm_roundtrip 0x043 o w l he
  rw [candidate0 w l _ ho (by decide)]
  exact congrArg (Option.map Instr.imulVI) hc

theorem iminVI (o : VImm) : Statement (.iminVI o) := by
  intro _ w l he
  obtain ⟨ho, hc⟩ := VImm_roundtrip 0x048 o w l he
  rw [candidate0 w l _ ho (by decide)]
  exact congrArg (Option.map Instr.iminVI) hc

theorem imaxVI (o : VImm) : Statement (.imaxVI o) := by
  intro _ w l he
  obtain ⟨ho, hc⟩ := VImm_roundtrip 0x049 o w l he
  rw [candidate0 w l _ ho (by decide)]
  exact congrArg (Option.map Instr.imaxVI) hc

theorem andVI (o : VImm) : Statement (.andVI o) := by
  intro _ w l he
  obtain ⟨ho, hc⟩ := VImm_roundtrip 0x04D o w l he
  rw [candidate0 w l _ ho (by decide)]
  exact congrArg (Option.map Instr.andVI) hc

theorem orVI (o : VImm) : Statement (.orVI o) := by
  intro _ w l he
  obtain ⟨ho, hc⟩ := VImm_roundtrip 0x04E o w l he
  rw [candidate0 w l _ ho (by decide)]
  exact congrArg (Option.map Instr.orVI) hc

theorem xorVI (o : VImm) : Statement (.xorVI o) := by
  intro _ w l he
  obtain ⟨ho, hc⟩ := VImm_roundtrip 0x04F o w l he
  rw [candidate0 w l _ ho (by decide)]
  exact congrArg (Option.map Instr.xorVI) hc

theorem andnVI (o : VImm) : Statement (.andnVI o) := by
  intro _ w l he
  obtain ⟨ho, hc⟩ := VImm_roundtrip 0x050 o w l he
  rw [candidate0 w l _ ho (by decide)]
  exact congrArg (Option.map Instr.andnVI) hc

theorem shlVI (o : VImm) : Statement (.shlVI o) := by
  intro _ w l he
  obtain ⟨ho, hc⟩ := VImm_roundtrip 0x051 o w l he
  rw [candidate0 w l _ ho (by decide)]
  exact congrArg (Option.map Instr.shlVI) hc

theorem shrVI (o : VImm) : Statement (.shrVI o) := by
  intro _ w l he
  obtain ⟨ho, hc⟩ := VImm_roundtrip 0x052 o w l he
  rw [candidate0 w l _ ho (by decide)]
  exact congrArg (Option.map Instr.shrVI) hc

theorem sarVI (o : VImm) : Statement (.sarVI o) := by
  intro _ w l he
  obtain ⟨ho, hc⟩ := VImm_roundtrip 0x053 o w l he
  rw [candidate0 w l _ ho (by decide)]
  exact congrArg (Option.map Instr.sarVI) hc

theorem rotVI (o : VImm) : Statement (.rotVI o) := by
  intro _ w l he
  obtain ⟨ho, hc⟩ := VImm_roundtrip 0x054 o w l he
  rw [candidate0 w l _ ho (by decide)]
  exact congrArg (Option.map Instr.rotVI) hc

theorem bfxVI (o : VImm) : Statement (.bfxVI o) := by
  intro _ w l he
  obtain ⟨ho, hc⟩ := VImm_roundtrip 0x059 o w l he
  rw [candidate0 w l _ ho (by decide)]
  exact congrArg (Option.map Instr.bfxVI) hc

theorem isetpVI (o : VCmpImm) : Statement (.isetpVI o) := by
  intro hw w l he
  have ht : o.t.isInt = true := by simp only [wellFormed, Bool.and_eq_true] at hw; exact hw.1.2
  obtain ⟨ho, hc⟩ := VCmpImm_roundtrip 0x05C o w l (isInt_code_lt ht) he
  rw [candidate0 w l _ ho (by decide)]
  exact congrArg (Option.map Instr.isetpVI) hc

theorem modredVI (o : VModImm) : Statement (.modredVI o) := by
  intro hw w l he
  obtain ⟨hm, ht⟩ := modredVI_fields hw
  obtain ⟨ho, hc⟩ := VModImm_roundtrip 0x062 o w l hm ht he
  rw [candidate0 w l _ ho (by decide)]
  exact congrArg (Option.map Instr.modredVI) hc

theorem modaddVI (o : VModImm) : Statement (.modaddVI o) := by
  intro hw w l he
  obtain ⟨hm, ht⟩ := modVI_fields hw
  obtain ⟨ho, hc⟩ := VModImm_roundtrip 0x063 o w l hm ht he
  rw [candidate0 w l _ ho (by decide)]
  exact congrArg (Option.map Instr.modaddVI) hc

theorem modmulVI (o : VModImm) : Statement (.modmulVI o) := by
  intro hw w l he
  obtain ⟨hm, ht⟩ := modVI_fields hw
  obtain ⟨ho, hc⟩ := VModImm_roundtrip 0x064 o w l hm ht he
  rw [candidate0 w l _ ho (by decide)]
  exact congrArg (Option.map Instr.modmulVI) hc

theorem fadd (o : F2) : Statement (.fadd o) := by
  intro _ w l he
  obtain ⟨ho, hc⟩ := F2_roundtrip 0x080 o w l he
  rw [candidate1 w l _ ho (by decide) (by decide)]
  exact congrArg (Option.map Instr.fadd) hc

theorem fsub (o : F2) : Statement (.fsub o) := by
  intro _ w l he
  obtain ⟨ho, hc⟩ := F2_roundtrip 0x081 o w l he
  rw [candidate1 w l _ ho (by decide) (by decide)]
  exact congrArg (Option.map Instr.fsub) hc

theorem fmul (o : F2) : Statement (.fmul o) := by
  intro _ w l he
  obtain ⟨ho, hc⟩ := F2_roundtrip 0x082 o w l he
  rw [candidate1 w l _ ho (by decide) (by decide)]
  exact congrArg (Option.map Instr.fmul) hc

theorem ffma (o : F3) : Statement (.ffma o) := by
  intro _ w l he
  obtain ⟨ho, hc⟩ := F3_roundtrip 0x083 o w l he
  rw [candidate1 w l _ ho (by decide) (by decide)]
  exact congrArg (Option.map Instr.ffma) hc

theorem fmin (o : F2) : Statement (.fmin o) := by
  intro _ w l he
  obtain ⟨ho, hc⟩ := F2_roundtrip 0x084 o w l he
  rw [candidate1 w l _ ho (by decide) (by decide)]
  exact congrArg (Option.map Instr.fmin) hc

theorem fmax (o : F2) : Statement (.fmax o) := by
  intro _ w l he
  obtain ⟨ho, hc⟩ := F2_roundtrip 0x085 o w l he
  rw [candidate1 w l _ ho (by decide) (by decide)]
  exact congrArg (Option.map Instr.fmax) hc

theorem fsetp (o : VCmp) : Statement (.fsetp o) := by
  intro hw w l he
  have ht : o.t.isFloat = true := by simp only [wellFormed, Bool.and_eq_true] at hw; exact hw.1.1
  obtain ⟨ho, hc⟩ := VCmp_roundtrip 0x086 fcmpTy fcmpTyOf o w l (fcmpTy_lt _) (fcmpTyOf_fcmpTy ht) he
  rw [candidate1 w l _ ho (by decide) (by decide)]
  exact congrArg (Option.map Instr.fsetp) hc

theorem fdiv (o : F2) : Statement (.fdiv o) := by
  intro _ w l he
  obtain ⟨ho, hc⟩ := F2_roundtrip 0x087 o w l he
  rw [candidate1 w l _ ho (by decide) (by decide)]
  exact congrArg (Option.map Instr.fdiv) hc

theorem fsqrt (o : F1) : Statement (.fsqrt o) := by
  intro _ w l he
  obtain ⟨ho, hc⟩ := F1_roundtrip 0x088 o w l he
  rw [candidate1 w l _ ho (by decide) (by decide)]
  exact congrArg (Option.map Instr.fsqrt) hc

theorem frcp (o : F1) : Statement (.frcp o) := by
  intro _ w l he
  obtain ⟨ho, hc⟩ := F1_roundtrip 0x089 o w l he
  rw [candidate1 w l _ ho (by decide) (by decide)]
  exact congrArg (Option.map Instr.frcp) hc

theorem fexp2 (o : F1) : Statement (.fexp2 o) := by
  intro _ w l he
  obtain ⟨ho, hc⟩ := F1_roundtrip 0x08A o w l he
  rw [candidate1 w l _ ho (by decide) (by decide)]
  exact congrArg (Option.map Instr.fexp2) hc

theorem flog2 (o : F1) : Statement (.flog2 o) := by
  intro _ w l he
  obtain ⟨ho, hc⟩ := F1_roundtrip 0x08B o w l he
  rw [candidate1 w l _ ho (by decide) (by decide)]
  exact congrArg (Option.map Instr.flog2) hc

theorem fcvt (o : VFcvt) : Statement (.fcvt o) := by
  intro _ w l he
  obtain ⟨ho, hc⟩ := VFcvt_roundtrip 0x08C o w l he
  rw [candidate1 w l _ ho (by decide) (by decide)]
  exact congrArg (Option.map Instr.fcvt) hc

theorem fround (o : F1) : Statement (.fround o) := by
  intro _ w l he
  obtain ⟨ho, hc⟩ := F1_roundtrip 0x08D o w l he
  rw [candidate1 w l _ ho (by decide) (by decide)]
  exact congrArg (Option.map Instr.fround) hc

theorem fclass (o : V1) : Statement (.fclass o) := by
  intro _ w l he
  obtain ⟨ho, hc⟩ := V1_roundtrip 0x08E o w l he
  rw [candidate1 w l _ ho (by decide) (by decide)]
  exact congrArg (Option.map Instr.fclass) hc

theorem dot4 (o : V3) : Statement (.dot4 o) := by
  intro _ w l he
  obtain ⟨ho, hc⟩ := V3_roundtrip 0x090 o w l he
  rw [candidate1 w l _ ho (by decide) (by decide)]
  exact congrArg (Option.map Instr.dot4) hc

theorem dot8 (o : V3) : Statement (.dot8 o) := by
  intro _ w l he
  obtain ⟨ho, hc⟩ := V3_roundtrip 0x091 o w l he
  rw [candidate1 w l _ ho (by decide) (by decide)]
  exact congrArg (Option.map Instr.dot8) hc

theorem dotc4 (o : VDotc) : Statement (.dotc4 o) := by
  intro _ w l he
  obtain ⟨ho, hc⟩ := VDotc_roundtrip 0x092 o w l he
  rw [candidate1 w l _ ho (by decide) (by decide)]
  exact congrArg (Option.map Instr.dotc4) hc

theorem bdot (o : F3) : Statement (.bdot o) := by
  intro _ w l he
  obtain ⟨ho, hc⟩ := F3_roundtrip 0x093 o w l he
  rw [candidate1 w l _ ho (by decide) (by decide)]
  exact congrArg (Option.map Instr.bdot) hc

theorem cdec (o : VCdec) : Statement (.cdec o) := by
  intro _ w l he
  obtain ⟨ho, hc⟩ := VCdec_roundtrip 0x094 o w l he
  rw [candidate1 w l _ ho (by decide) (by decide)]
  exact congrArg (Option.map Instr.cdec) hc

theorem bitunpk (o : VUnpk) : Statement (.bitunpk o) := by
  intro _ w l he
  obtain ⟨ho, hc⟩ := VUnpk_roundtrip 0x095 o w l he
  rw [candidate1 w l _ ho (by decide) (by decide)]
  exact congrArg (Option.map Instr.bitunpk) hc

theorem shfl (o : VShfl) : Statement (.shfl o) := by
  intro _ w l he
  obtain ⟨ho, hc⟩ := VShfl_roundtrip 0x0A0 o w l he
  rw [candidate1 w l _ ho (by decide) (by decide)]
  exact congrArg (Option.map Instr.shfl) hc

theorem vote (o : VVote) : Statement (.vote o) := by
  intro _ w l he
  obtain ⟨ho, hc⟩ := VVote_roundtrip 0x0A1 o w l he
  rw [candidate1 w l _ ho (by decide) (by decide)]
  exact congrArg (Option.map Instr.vote) hc

theorem lred (o : VRed) : Statement (.lred o) := by
  intro _ w l he
  obtain ⟨ho, hc⟩ := VRed_roundtrip 0x0A2 o w l he
  rw [candidate1 w l _ ho (by decide) (by decide)]
  exact congrArg (Option.map Instr.lred) hc

theorem lscan (o : VScan) : Statement (.lscan o) := by
  intro _ w l he
  obtain ⟨ho, hc⟩ := VScan_roundtrip 0x0A3 o w l he
  rw [candidate1 w l _ ho (by decide) (by decide)]
  exact congrArg (Option.map Instr.lscan) hc

theorem xswap (o : VXswap) : Statement (.xswap o) := by
  intro _ w l he
  obtain ⟨ho, hc⟩ := VXswap_roundtrip 0x0A4 o w l he
  rw [candidate1 w l _ ho (by decide) (by decide)]
  exact congrArg (Option.map Instr.xswap) hc

theorem sadd (o : S2) : Statement (.sadd o) := by
  intro _ w l he
  obtain ⟨ho, hc⟩ := S2_roundtrip 0x100 o w l he
  rw [candidate2 w l _ ho (by decide) (by decide)]
  exact congrArg (Option.map Instr.sadd) hc

theorem ssub (o : S2) : Statement (.ssub o) := by
  intro _ w l he
  obtain ⟨ho, hc⟩ := S2_roundtrip 0x101 o w l he
  rw [candidate2 w l _ ho (by decide) (by decide)]
  exact congrArg (Option.map Instr.ssub) hc

theorem smul (o : S2) : Statement (.smul o) := by
  intro _ w l he
  obtain ⟨ho, hc⟩ := S2_roundtrip 0x102 o w l he
  rw [candidate2 w l _ ho (by decide) (by decide)]
  exact congrArg (Option.map Instr.smul) hc

theorem sand (o : S2) : Statement (.sand o) := by
  intro _ w l he
  obtain ⟨ho, hc⟩ := S2_roundtrip 0x103 o w l he
  rw [candidate2 w l _ ho (by decide) (by decide)]
  exact congrArg (Option.map Instr.sand) hc

theorem sor (o : S2) : Statement (.sor o) := by
  intro _ w l he
  obtain ⟨ho, hc⟩ := S2_roundtrip 0x104 o w l he
  rw [candidate2 w l _ ho (by decide) (by decide)]
  exact congrArg (Option.map Instr.sor) hc

theorem sxor (o : S2) : Statement (.sxor o) := by
  intro _ w l he
  obtain ⟨ho, hc⟩ := S2_roundtrip 0x105 o w l he
  rw [candidate2 w l _ ho (by decide) (by decide)]
  exact congrArg (Option.map Instr.sxor) hc

theorem sshl (o : S2) : Statement (.sshl o) := by
  intro _ w l he
  obtain ⟨ho, hc⟩ := S2_roundtrip 0x106 o w l he
  rw [candidate2 w l _ ho (by decide) (by decide)]
  exact congrArg (Option.map Instr.sshl) hc

theorem sshr (o : SShr) : Statement (.sshr o) := by
  intro _ w l he
  obtain ⟨ho, hc⟩ := SShr_roundtrip 0x107 o w l he
  rw [candidate2 w l _ ho (by decide) (by decide)]
  exact congrArg (Option.map Instr.sshr) hc

theorem smov (o : SMov) : Statement (.smov o) := by
  intro _ w l he
  obtain ⟨ho, hc⟩ := SMov_roundtrip 0x108 o w l he
  rw [candidate2 w l _ ho (by decide) (by decide)]
  exact congrArg (Option.map Instr.smov) hc

theorem smovl (o : SMovl) : Statement (.smovl o) := by
  intro _ w l he
  obtain ⟨ho, hc⟩ := SMovl_roundtrip 0x109 o w l he
  rw [candidate2 w l _ ho (by decide) (by decide)]
  exact congrArg (Option.map Instr.smovl) hc

theorem ssetp (o : SSetp) : Statement (.ssetp o) := by
  intro _ w l he
  obtain ⟨ho, hc⟩ := SSetp_roundtrip 0x10A o w l he
  rw [candidate2 w l _ ho (by decide) (by decide)]
  exact congrArg (Option.map Instr.ssetp) hc

theorem vget (o : SVget) : Statement (.vget o) := by
  intro _ w l he
  obtain ⟨ho, hc⟩ := SVget_roundtrip 0x10B o w l he
  rw [candidate2 w l _ ho (by decide) (by decide)]
  exact congrArg (Option.map Instr.vget) hc

theorem vput (o : SVput) : Statement (.vput o) := by
  intro _ w l he
  obtain ⟨ho, hc⟩ := SVput_roundtrip 0x10C o w l he
  rw [candidate2 w l _ ho (by decide) (by decide)]
  exact congrArg (Option.map Instr.vput) hc

theorem gets (o : SGets) : Statement (.gets o) := by
  intro _ w l he
  obtain ⟨ho, hc⟩ := SGets_roundtrip 0x10D o w l he
  rw [candidate2 w l _ ho (by decide) (by decide)]
  exact congrArg (Option.map Instr.gets) hc

theorem plog (o : SPlog) : Statement (.plog o) := by
  intro _ w l he
  obtain ⟨ho, hc⟩ := SPlog_roundtrip 0x10E o w l he
  rw [candidate2 w l _ ho (by decide) (by decide)]
  exact congrArg (Option.map Instr.plog) hc

theorem bra (o : CBra) : Statement (.bra o) := by
  intro _ w l he
  obtain ⟨ho, hc⟩ := CBra_roundtrip 0x110 o w l he
  rw [candidate2 w l _ ho (by decide) (by decide)]
  exact congrArg (Option.map Instr.bra) hc

theorem brd (o : CBrd) : Statement (.brd o) := by
  intro _ w l he
  obtain ⟨ho, hc⟩ := CBrd_roundtrip 0x111 o w l he
  rw [candidate2 w l _ ho (by decide) (by decide)]
  exact congrArg (Option.map Instr.brd) hc

theorem join (o : Bare) : Statement (.join o) := by
  intro _ w l he
  obtain ⟨ho, hc⟩ := BareC_roundtrip 0x112 o w l he
  rw [candidate2 w l _ ho (by decide) (by decide)]
  exact congrArg (Option.map Instr.join) hc

theorem call (o : CCall) : Statement (.call o) := by
  intro _ w l he
  obtain ⟨ho, hc⟩ := CCall_roundtrip 0x113 o w l he
  rw [candidate2 w l _ ho (by decide) (by decide)]
  exact congrArg (Option.map Instr.call) hc

theorem ret (o : CRet) : Statement (.ret o) := by
  intro _ w l he
  obtain ⟨ho, hc⟩ := CRet_roundtrip 0x114 o w l he
  rw [candidate2 w l _ ho (by decide) (by decide)]
  exact congrArg (Option.map Instr.ret) hc

theorem bri (o : CBri) : Statement (.bri o) := by
  intro _ w l he
  obtain ⟨ho, hc⟩ := CBri_roundtrip 0x115 o w l he
  rw [candidate2 w l _ ho (by decide) (by decide)]
  exact congrArg (Option.map Instr.bri) hc

theorem loop (o : CLoop) : Statement (.loop o) := by
  intro _ w l he
  obtain ⟨ho, hc⟩ := CLoop_roundtrip 0x116 o w l he
  rw [candidate2 w l _ ho (by decide) (by decide)]
  exact congrArg (Option.map Instr.loop) hc

theorem exit (o : CExit) : Statement (.exit o) := by
  intro _ w l he
  obtain ⟨ho, hc⟩ := CExit_roundtrip 0x117 o w l he
  rw [candidate2 w l _ ho (by decide) (by decide)]
  exact congrArg (Option.map Instr.exit) hc

theorem nop (o : Bare) : Statement (.nop o) := by
  intro _ w l he
  obtain ⟨ho, hc⟩ := BareC_roundtrip 0x118 o w l he
  rw [candidate2 w l _ ho (by decide) (by decide)]
  exact congrArg (Option.map Instr.nop) hc

theorem safe (o : CSafe) : Statement (.safe o) := by
  intro _ w l he
  obtain ⟨ho, hc⟩ := CSafe_roundtrip 0x119 o w l he
  rw [candidate2 w l _ ho (by decide) (by decide)]
  exact congrArg (Option.map Instr.safe) hc

theorem sigchk (o : CSig) : Statement (.sigchk o) := by
  intro _ w l he
  obtain ⟨ho, hc⟩ := CSig_roundtrip 0x11A o w l he
  rw [candidate2 w l _ ho (by decide) (by decide)]
  exact congrArg (Option.map Instr.sigchk) hc

theorem yield (o : Bare) : Statement (.yield o) := by
  intro _ w l he
  obtain ⟨ho, hc⟩ := BareC_roundtrip 0x11B o w l he
  rw [candidate2 w l _ ho (by decide) (by decide)]
  exact congrArg (Option.map Instr.yield) hc

theorem wgrow (o : SWin) : Statement (.wgrow o) := by
  intro _ w l he
  obtain ⟨ho, hc⟩ := SWin_roundtrip 0x11C o w l he
  rw [candidate2 w l _ ho (by decide) (by decide)]
  exact congrArg (Option.map Instr.wgrow) hc

theorem wshrink (o : SWin) : Statement (.wshrink o) := by
  intro _ w l he
  obtain ⟨ho, hc⟩ := SWin_roundtrip 0x11D o w l he
  rw [candidate2 w l _ ho (by decide) (by decide)]
  exact congrArg (Option.map Instr.wshrink) hc

theorem pub (o : CPub) : Statement (.pub o) := by
  intro _ w l he
  obtain ⟨ho, hc⟩ := CPub_roundtrip 0x11E o w l he
  rw [candidate2 w l _ ho (by decide) (by decide)]
  exact congrArg (Option.map Instr.pub) hc

theorem ld (o : MAcc) : Statement (.ld o) := by
  intro _ w l he
  obtain ⟨ho, hc⟩ := MAcc_roundtrip 0x180 o w l he
  rw [candidate34 w l _ ho (by decide) (by decide)]
  exact congrArg (Option.map Instr.ld) hc

theorem st (o : MAcc) : Statement (.st o) := by
  intro _ w l he
  obtain ⟨ho, hc⟩ := MAcc_roundtrip 0x181 o w l he
  rw [candidate34 w l _ ho (by decide) (by decide)]
  exact congrArg (Option.map Instr.st) hc

theorem lds (o : MLoc) : Statement (.lds o) := by
  intro _ w l he
  obtain ⟨ho, hc⟩ := MLoc_roundtrip 0x182 o w l he
  rw [candidate34 w l _ ho (by decide) (by decide)]
  exact congrArg (Option.map Instr.lds) hc

theorem sts (o : MLoc) : Statement (.sts o) := by
  intro _ w l he
  obtain ⟨ho, hc⟩ := MLoc_roundtrip 0x183 o w l he
  rw [candidate34 w l _ ho (by decide) (by decide)]
  exact congrArg (Option.map Instr.sts) hc

theorem atom (o : MAtom) : Statement (.atom o) := by
  intro _ w l he
  obtain ⟨ho, hc⟩ := MAtom_roundtrip 0x184 o w l he
  rw [candidate34 w l _ ho (by decide) (by decide)]
  exact congrArg (Option.map Instr.atom) hc

theorem red (o : MAtom) : Statement (.red o) := by
  intro _ w l he
  obtain ⟨ho, hc⟩ := MAtom_roundtrip 0x185 o w l he
  rw [candidate34 w l _ ho (by decide) (by decide)]
  exact congrArg (Option.map Instr.red) hc

theorem fence (o : MFence) : Statement (.fence o) := by
  intro _ w l he
  obtain ⟨ho, hc⟩ := MFence_roundtrip 0x186 o w l he
  rw [candidate34 w l _ ho (by decide) (by decide)]
  exact congrArg (Option.map Instr.fence) hc

theorem pref (o : MPref) : Statement (.pref o) := by
  intro _ w l he
  obtain ⟨ho, hc⟩ := MPref_roundtrip 0x187 o w l he
  rw [candidate34 w l _ ho (by decide) (by decide)]
  exact congrArg (Option.map Instr.pref) hc

theorem cflush (o : MLine) : Statement (.cflush o) := by
  intro _ w l he
  obtain ⟨ho, hc⟩ := MLine_roundtrip 0x188 o w l he
  rw [candidate34 w l _ ho (by decide) (by decide)]
  exact congrArg (Option.map Instr.cflush) hc

theorem cinv (o : MLine) : Statement (.cinv o) := by
  intro _ w l he
  obtain ⟨ho, hc⟩ := MLine_roundtrip 0x189 o w l he
  rw [candidate34 w l _ ho (by decide) (by decide)]
  exact congrArg (Option.map Instr.cinv) hc

theorem fetch (o : MXfer) : Statement (.fetch o) := by
  intro _ w l he
  obtain ⟨ho, hc⟩ := MXfer_roundtrip 0x18A o w l he
  rw [candidate34 w l _ ho (by decide) (by decide)]
  exact congrArg (Option.map Instr.fetch) hc

theorem post (o : MXfer) : Statement (.post o) := by
  intro _ w l he
  obtain ⟨ho, hc⟩ := MXfer_roundtrip 0x18B o w l he
  rw [candidate34 w l _ ho (by decide) (by decide)]
  exact congrArg (Option.map Instr.post) hc

theorem cpy (o : PCpy) : Statement (.cpy o) := by
  intro _ w l he
  obtain ⟨ho, hc⟩ := PCpy_roundtrip 0x200 o w l he
  rw [candidate34 w l _ ho (by decide) (by decide)]
  exact congrArg (Option.map Instr.cpy) hc

theorem cpym (o : PCpym) : Statement (.cpym o) := by
  intro _ w l he
  obtain ⟨ho, hc⟩ := PCpym_roundtrip 0x201 o w l he
  rw [candidate34 w l _ ho (by decide) (by decide)]
  exact congrArg (Option.map Instr.cpym) hc

theorem land (o : PLand) : Statement (.land o) := by
  intro _ w l he
  obtain ⟨ho, hc⟩ := PLand_roundtrip 0x202 o w l he
  rw [candidate34 w l _ ho (by decide) (by decide)]
  exact congrArg (Option.map Instr.land) hc

theorem landw (o : PLandw) : Statement (.landw o) := by
  intro _ w l he
  obtain ⟨ho, hc⟩ := PLandw_roundtrip 0x203 o w l he
  rw [candidate34 w l _ ho (by decide) (by decide)]
  exact congrArg (Option.map Instr.landw) hc

theorem sealb (o : PSeal) : Statement (.sealb o) := by
  intro _ w l he
  obtain ⟨ho, hc⟩ := PSeal_roundtrip 0x204 o w l he
  rw [candidate34 w l _ ho (by decide) (by decide)]
  exact congrArg (Option.map Instr.sealb) hc

theorem waitb (o : PWait) : Statement (.waitb o) := by
  intro _ w l he
  obtain ⟨ho, hc⟩ := PWait_roundtrip 0x205 o w l he
  rw [candidate34 w l _ ho (by decide) (by decide)]
  exact congrArg (Option.map Instr.waitb) hc

theorem yieldb (o : PYieldb) : Statement (.yieldb o) := by
  intro _ w l he
  obtain ⟨ho, hc⟩ := PYieldb_roundtrip 0x206 o w l he
  rw [candidate34 w l _ ho (by decide) (by decide)]
  exact congrArg (Option.map Instr.yieldb) hc

theorem cstat (o : PCstat) : Statement (.cstat o) := by
  intro _ w l he
  obtain ⟨ho, hc⟩ := PCstat_roundtrip 0x207 o w l he
  rw [candidate34 w l _ ho (by decide) (by decide)]
  exact congrArg (Option.map Instr.cstat) hc

theorem cbld (o : PCbld) : Statement (.cbld o) := by
  intro _ w l he
  obtain ⟨ho, hc⟩ := PCbld_roundtrip 0x208 o w l he
  rw [candidate34 w l _ ho (by decide) (by decide)]
  exact congrArg (Option.map Instr.cbld) hc

theorem gang (o : XGang) : Statement (.gang o) := by
  intro _ w l he
  obtain ⟨ho, hc⟩ := XGang_roundtrip 0x280 o w l he
  rw [candidate567 w l _ ho (by decide)]
  exact congrArg (Option.map Instr.gang) hc

theorem mzero (o : XMzero) : Statement (.mzero o) := by
  intro _ w l he
  obtain ⟨ho, hc⟩ := XMzero_roundtrip 0x281 o w l he
  rw [candidate567 w l _ ho (by decide)]
  exact congrArg (Option.map Instr.mzero) hc

theorem rel (o : XTok) : Statement (.rel o) := by
  intro _ w l he
  obtain ⟨ho, hc⟩ := XTok_roundtrip 0x282 o w l he
  rw [candidate567 w l _ ho (by decide)]
  exact congrArg (Option.map Instr.rel) hc

theorem acq (o : XTok) : Statement (.acq o) := by
  intro _ w l he
  obtain ⟨ho, hc⟩ := XTok_roundtrip 0x283 o w l he
  rw [candidate567 w l _ ho (by decide)]
  exact congrArg (Option.map Instr.acq) hc

theorem mma (o : XMma) : Statement (.mma o) := by
  intro _ w l he
  obtain ⟨ho, hc⟩ := XMma_roundtrip 0x284 o w l he
  rw [candidate567 w l _ ho (by decide)]
  exact congrArg (Option.map Instr.mma) hc

theorem mscale (o : XScale) : Statement (.mscale o) := by
  intro _ w l he
  obtain ⟨ho, hc⟩ := XScale_roundtrip 0x285 o w l he
  rw [candidate567 w l _ ho (by decide)]
  exact congrArg (Option.map Instr.mscale) hc

theorem drain (o : XDrain) : Statement (.drain o) := by
  intro _ w l he
  obtain ⟨ho, hc⟩ := XDrain_roundtrip 0x286 o w l he
  rw [candidate567 w l _ ho (by decide)]
  exact congrArg (Option.map Instr.drain) hc

theorem drainm (o : XDrainm) : Statement (.drainm o) := by
  intro _ w l he
  obtain ⟨ho, hc⟩ := XDrainm_roundtrip 0x287 o w l he
  rw [candidate567 w l _ ho (by decide)]
  exact congrArg (Option.map Instr.drainm) hc

theorem acst (o : XAcst) : Statement (.acst o) := by
  intro _ w l he
  obtain ⟨ho, hc⟩ := XAcst_roundtrip 0x288 o w l he
  rw [candidate567 w l _ ho (by decide)]
  exact congrArg (Option.map Instr.acst) hc

theorem acld (o : XAcld) : Statement (.acld o) := by
  intro _ w l he
  obtain ⟨ho, hc⟩ := XAcld_roundtrip 0x289 o w l he
  rw [candidate567 w l _ ho (by decide)]
  exact congrArg (Option.map Instr.acld) hc

theorem mstat (o : XMstat) : Statement (.mstat o) := by
  intro _ w l he
  obtain ⟨ho, hc⟩ := XMstat_roundtrip 0x28A o w l he
  rw [candidate567 w l _ ho (by decide)]
  exact congrArg (Option.map Instr.mstat) hc

theorem cont (o : XCont) : Statement (.cont o) := by
  intro _ w l he
  obtain ⟨ho, hc⟩ := XCont_roundtrip 0x28B o w l he
  rw [candidate567 w l _ ho (by decide)]
  exact congrArg (Option.map Instr.cont) hc

theorem minj (o : XMinj) : Statement (.minj o) := by
  intro _ w l he
  obtain ⟨ho, hc⟩ := XMinj_roundtrip 0x28C o w l he
  rw [candidate567 w l _ ho (by decide)]
  exact congrArg (Option.map Instr.minj) hc

theorem bar (o : YBar) : Statement (.bar o) := by
  intro _ w l he
  obtain ⟨ho, hc⟩ := YBar_roundtrip 0x300 o w l he
  rw [candidate567 w l _ ho (by decide)]
  exact congrArg (Option.map Instr.bar) hc

theorem bara (o : YBara) : Statement (.bara o) := by
  intro _ w l he
  obtain ⟨ho, hc⟩ := YBara_roundtrip 0x301 o w l he
  rw [candidate567 w l _ ho (by decide)]
  exact congrArg (Option.map Instr.bara) hc

theorem barw (o : YTok) : Statement (.barw o) := by
  intro _ w l he
  obtain ⟨ho, hc⟩ := YTok_roundtrip 0x302 o w l he
  rw [candidate567 w l _ ho (by decide)]
  exact congrArg (Option.map Instr.barw) hc

theorem barq (o : YTok) : Statement (.barq o) := by
  intro _ w l he
  obtain ⟨ho, hc⟩ := YTok_roundtrip 0x303 o w l he
  rw [candidate567 w l _ ho (by decide)]
  exact congrArg (Option.map Instr.barq) hc

theorem binit (o : YBar) : Statement (.binit o) := by
  intro _ w l he
  obtain ⟨ho, hc⟩ := YBar_roundtrip 0x304 o w l he
  rw [candidate567 w l _ ho (by decide)]
  exact congrArg (Option.map Instr.binit) hc

theorem objreg (o : YObj) : Statement (.objreg o) := by
  intro _ w l he
  obtain ⟨ho, hc⟩ := YObj_roundtrip 0x310 o w l he
  rw [candidate567 w l _ ho (by decide)]
  exact congrArg (Option.map Instr.objreg) hc

theorem objdel (o : YObj) : Statement (.objdel o) := by
  intro _ w l he
  obtain ⟨ho, hc⟩ := YObj_roundtrip 0x311 o w l he
  rw [candidate567 w l _ ho (by decide)]
  exact congrArg (Option.map Instr.objdel) hc

theorem ocall (o : YOcall) : Statement (.ocall o) := by
  intro _ w l he
  obtain ⟨ho, hc⟩ := YOcall_roundtrip 0x312 o w l he
  rw [candidate567 w l _ ho (by decide)]
  exact congrArg (Option.map Instr.ocall) hc

theorem orel (o : YObj) : Statement (.orel o) := by
  intro _ w l he
  obtain ⟨ho, hc⟩ := YObj_roundtrip 0x313 o w l he
  rw [candidate567 w l _ ho (by decide)]
  exact congrArg (Option.map Instr.orel) hc

theorem creply (o : YCreply) : Statement (.creply o) := by
  intro _ w l he
  obtain ⟨ho, hc⟩ := YCreply_roundtrip 0x314 o w l he
  rw [candidate567 w l _ ho (by decide)]
  exact congrArg (Option.map Instr.creply) hc

theorem cdone (o : Bare) : Statement (.cdone o) := by
  intro _ w l he
  obtain ⟨ho, hc⟩ := BareY_roundtrip 0x315 o w l he
  rw [candidate567 w l _ ho (by decide)]
  exact congrArg (Option.map Instr.cdone) hc

theorem trap (o : ZTrap) : Statement (.trap o) := by
  intro _ w l he
  obtain ⟨ho, hc⟩ := ZTrap_roundtrip 0x380 o w l he
  rw [candidate567 w l _ ho (by decide)]
  exact congrArg (Option.map Instr.trap) hc

theorem rtt (o : ZRtt) : Statement (.rtt o) := by
  intro _ w l he
  obtain ⟨ho, hc⟩ := ZRtt_roundtrip 0x381 o w l he
  rw [candidate567 w l _ ho (by decide)]
  exact congrArg (Option.map Instr.rtt) hc

theorem bkpt (o : ZTrap) : Statement (.bkpt o) := by
  intro _ w l he
  obtain ⟨ho, hc⟩ := ZTrap_roundtrip 0x382 o w l he
  rw [candidate567 w l _ ho (by decide)]
  exact congrArg (Option.map Instr.bkpt) hc

theorem halt (o : Bare) : Statement (.halt o) := by
  intro _ w l he
  obtain ⟨ho, hc⟩ := BareZ_roundtrip 0x383 o w l he
  rw [candidate567 w l _ ho (by decide)]
  exact congrArg (Option.map Instr.halt) hc

theorem launch (o : ZLaunch) : Statement (.launch o) := by
  intro _ w l he
  obtain ⟨ho, hc⟩ := ZLaunch_roundtrip 0x384 o w l he
  rw [candidate567 w l _ ho (by decide)]
  exact congrArg (Option.map Instr.launch) hc

theorem sets (o : ZSets) : Statement (.sets o) := by
  intro _ w l he
  obtain ⟨ho, hc⟩ := ZSets_roundtrip 0x385 o w l he
  rw [candidate567 w l _ ho (by decide)]
  exact congrArg (Option.map Instr.sets) hc

theorem tlbinv (o : ZTlbinv) : Statement (.tlbinv o) := by
  intro _ w l he
  obtain ⟨ho, hc⟩ := ZTlbinv_roundtrip 0x386 o w l he
  rw [candidate567 w l _ ho (by decide)]
  exact congrArg (Option.map Instr.tlbinv) hc

theorem pres (o : ZPres) : Statement (.pres o) := by
  intro _ w l he
  obtain ⟨ho, hc⟩ := ZPres_roundtrip 0x387 o w l he
  rw [candidate567 w l _ ho (by decide)]
  exact congrArg (Option.map Instr.pres) hc

theorem clauseEntry (g : GroupId) : Statement (.clauseEntry g) :=
  fun _ _ _ h => nomatch h

theorem deferredTrap (g : GroupId) : Statement (.deferredTrap g) :=
  fun _ _ _ h => nomatch h

theorem loadResponse (g : GroupId) (n : Nat) : Statement (.loadResponse g n) :=
  fun _ _ _ h => nomatch h

theorem atomicResponse (g : GroupId) (n : Nat) : Statement (.atomicResponse g n) :=
  fun _ _ _ h => nomatch h

theorem fetchLineLanded (op : Nat) : Statement (.fetchLineLanded op) :=
  fun _ _ _ h => nomatch h

theorem postAcknowledged (op : Nat) : Statement (.postAcknowledged op) :=
  fun _ _ _ h => nomatch h

theorem copyOperationComplete (op : Nat) : Statement (.copyOperationComplete op) :=
  fun _ _ _ h => nomatch h

theorem cpymArrival (op k : Nat) : Statement (.cpymArrival op k) :=
  fun _ _ _ h => nomatch h

theorem rendezvousGrant (pod latch : Nat) : Statement (.rendezvousGrant pod latch) :=
  fun _ _ _ h => nomatch h

theorem passStart (pod : Nat) : Statement (.passStart pod) :=
  fun _ _ _ h => nomatch h

theorem passComplete (pod : Nat) : Statement (.passComplete pod) :=
  fun _ _ _ h => nomatch h

theorem mxOperationComplete (op : Nat) : Statement (.mxOperationComplete op) :=
  fun _ _ _ h => nomatch h

theorem drainComplete (op : Nat) : Statement (.drainComplete op) :=
  fun _ _ _ h => nomatch h

theorem patternPass (pod : Nat) : Statement (.patternPass pod) :=
  fun _ _ _ h => nomatch h

theorem reservationAging (pod k : Nat) : Statement (.reservationAging pod k) :=
  fun _ _ _ h => nomatch h

theorem runnerValueArrival (g : GroupId) : Statement (.runnerValueArrival g) :=
  fun _ _ _ h => nomatch h

theorem runnerSpillTimeout (g : GroupId) : Statement (.runnerSpillTimeout g) :=
  fun _ _ _ h => nomatch h

theorem ocallRequestAccept (op : Nat) : Statement (.ocallRequestAccept op) :=
  fun _ _ _ h => nomatch h

theorem waveStart (lid obj : Nat) : Statement (.waveStart lid obj) :=
  fun _ _ _ h => nomatch h

theorem ocallReply (op lane : Nat) : Statement (.ocallReply op lane) :=
  fun _ _ _ h => nomatch h

theorem waveTimeLimit (lid obj : Nat) : Statement (.waveTimeLimit lid obj) :=
  fun _ _ _ h => nomatch h

theorem quantumExpiry (g : GroupId) : Statement (.quantumExpiry g) :=
  fun _ _ _ h => nomatch h

theorem pendingAging (g : GroupId) : Statement (.pendingAging g) :=
  fun _ _ _ h => nomatch h

theorem urgentDisplacement (g : GroupId) : Statement (.urgentDisplacement g) :=
  fun _ _ _ h => nomatch h

theorem groupActivation (core : Nat) : Statement (.groupActivation core) :=
  fun _ _ _ h => nomatch h

theorem wgrowStalemate (core : Nat) : Statement (.wgrowStalemate core) :=
  fun _ _ _ h => nomatch h

theorem tableWalk (w : Walker) : Statement (.tableWalk w) :=
  fun _ _ _ h => nomatch h

theorem faultRecordWrite (lid : Nat) : Statement (.faultRecordWrite lid) :=
  fun _ _ _ h => nomatch h

theorem launchRecord (qp : Nat) (r : BitVec 2048) : Statement (.launchRecord qp r) :=
  fun _ _ _ h => nomatch h

theorem badmsgSend (qp len : Nat) : Statement (.badmsgSend qp len) :=
  fun _ _ _ h => nomatch h

theorem abort (qp : Nat) (m : BitVec 512) : Statement (.abort qp m) :=
  fun _ _ _ h => nomatch h

theorem resume (qp : Nat) (m : BitVec 512) : Statement (.resume qp m) :=
  fun _ _ _ h => nomatch h

theorem region (qp : Nat) (m : BitVec 512) : Statement (.region qp m) :=
  fun _ _ _ h => nomatch h

theorem unregion (qp : Nat) (m : BitVec 512) : Statement (.unregion qp m) :=
  fun _ _ _ h => nomatch h

theorem rdmaRead (qp rkey va len : Nat) : Statement (.rdmaRead qp rkey va len) :=
  fun _ _ _ h => nomatch h

theorem rdmaWrite (qp rkey va : Nat) (data : List Byte) : Statement (.rdmaWrite qp rkey va data) :=
  fun _ _ _ h => nomatch h

theorem ualinkInboundRequest (src : Nat) (r : PeerReq) : Statement (.ualinkInboundRequest src r) :=
  fun _ _ _ h => nomatch h

theorem linkLoss (port : Nat) : Statement (.linkLoss port) :=
  fun _ _ _ h => nomatch h

theorem teamDispatch (core : Nat) : Statement (.teamDispatch core) :=
  fun _ _ _ h => nomatch h

theorem steal (tower : Nat) : Statement (.steal tower) :=
  fun _ _ _ h => nomatch h

theorem preemptionRequest (tower : Nat) : Statement (.preemptionRequest tower) :=
  fun _ _ _ h => nomatch h

theorem forcedStop (g : GroupId) : Statement (.forcedStop g) :=
  fun _ _ _ h => nomatch h

theorem unitSave (lid : Nat) (team : Option Nat) : Statement (.unitSave lid team) :=
  fun _ _ _ h => nomatch h

theorem unitRestore (lid : Nat) (team : Option Nat) (core : Nat) : Statement (.unitRestore lid team core) :=
  fun _ _ _ h => nomatch h

theorem groupRetirement (g : GroupId) : Statement (.groupRetirement g) :=
  fun _ _ _ h => nomatch h

theorem launchCompletion (lid : Nat) : Statement (.launchCompletion lid) :=
  fun _ _ _ h => nomatch h

theorem podLost (pod : Nat) : Statement (.podLost pod) :=
  fun _ _ _ h => nomatch h

theorem softRepair (stack row : Nat) : Statement (.softRepair stack row) :=
  fun _ _ _ h => nomatch h

theorem quiesceEnd (stack row : Nat) : Statement (.quiesceEnd stack row) :=
  fun _ _ _ h => nomatch h

theorem activationCounterEvent (stack row : Nat) (corrupt : Bool) : Statement (.activationCounterEvent stack row corrupt) :=
  fun _ _ _ h => nomatch h

theorem selfRefreshEnter (stack : Nat) : Statement (.selfRefreshEnter stack) :=
  fun _ _ _ h => nomatch h

theorem selfRefreshExit (stack : Nat) : Statement (.selfRefreshExit stack) :=
  fun _ _ _ h => nomatch h

theorem criticalShutdown : Statement (.criticalShutdown) :=
  fun _ _ _ h => nomatch h

theorem infieldTestRun (u : TestUnit) (test : Nat) (signed first second : Bool) : Statement (.infieldTestRun u test signed first second) :=
  fun _ _ _ h => nomatch h

theorem powerCapWindow (demand : Nat) : Statement (.powerCapWindow demand) :=
  fun _ _ _ h => nomatch h

theorem provision (f : Frame) : Statement (.provision f) :=
  fun _ _ _ h => nomatch h

theorem qpset (f : Frame) : Statement (.qpset f) :=
  fun _ _ _ h => nomatch h

theorem qmask (f : Frame) : Statement (.qmask f) :=
  fun _ _ _ h => nomatch h

theorem partnum (f : Frame) : Statement (.partnum f) :=
  fun _ _ _ h => nomatch h

theorem accept (f : Frame) : Statement (.accept f) :=
  fun _ _ _ h => nomatch h

theorem jread (f : Frame) : Statement (.jread f) :=
  fun _ _ _ h => nomatch h

theorem jack (f : Frame) : Statement (.jack f) :=
  fun _ _ _ h => nomatch h

theorem attest (f : Frame) : Statement (.attest f) :=
  fun _ _ _ h => nomatch h

theorem pcap (f : Frame) : Statement (.pcap f) :=
  fun _ _ _ h => nomatch h

theorem telem (f : Frame) : Statement (.telem f) :=
  fun _ _ _ h => nomatch h

theorem unfreeze (f : Frame) : Statement (.unfreeze f) :=
  fun _ _ _ h => nomatch h

theorem fwload (f : Frame) : Statement (.fwload f) :=
  fun _ _ _ h => nomatch h

theorem reset (f : Frame) : Statement (.reset f) :=
  fun _ _ _ h => nomatch h

theorem powerOn : Statement (.powerOn) :=
  fun _ _ _ h => nomatch h

theorem ptpSync (ns : Nat) : Statement (.ptpSync ns) :=
  fun _ _ _ h => nomatch h

theorem linkTraining (port : Nat) (vendor : Bool) : Statement (.linkTraining port vendor) :=
  fun _ _ _ h => nomatch h

theorem writeAcknowledgement (g : GroupId) (n : Nat) (ok : Bool) : Statement (.writeAcknowledgement g n ok) :=
  fun _ _ _ h => nomatch h

theorem variableLatencyResult (g : GroupId) (n : Nat) : Statement (.variableLatencyResult g n) :=
  fun _ _ _ h => nomatch h

end Sys2Proof.Laws.Codec
end

