-- ==== Sys2Proof/Laws/Serve.lean ====
section
/-! SUPPORT. What a request for pre-emption can do: it marks groups of launches of lower priority, and nothing else. -/

namespace Sys2Proof.Machine

@[simp] theorem State.noteReady_mem (s : State) : s.noteReady.mem = s.mem := rfl
@[simp] theorem State.noteReady_l1 (s : State) : s.noteReady.l1 = s.l1 := rfl
@[simp] theorem State.noteReady_launches (s : State) : s.noteReady.launches = s.launches := rfl
@[simp] theorem State.stopGroups_mem (s : State) (p : GroupId → Bool) : (s.stopGroups p).mem = s.mem := rfl
@[simp] theorem State.stopGroups_launches (s : State) (p : GroupId → Bool) : (s.stopGroups p).launches = s.launches := rfl

/-- A unit that is asked to stop loses nothing, and memory keeps every byte. -/
theorem State.stopUnit_frame (s : State) (l : Launch) (t : Nat) :
    (s.stopUnit l t).mem = s.mem ∧ (s.stopUnit l t).launches = s.launches := ⟨rfl, rfl⟩

/-- Making room changes no memory and no launch. -/
theorem State.makeRoom_frame (met : State → Bool) (vs : List (Launch × Nat)) (s : State) :
    (State.makeRoom met vs s).mem = s.mem ∧ (State.makeRoom met vs s).launches = s.launches := by
  induction vs generalizing s with
  | nil => exact ⟨rfl, rfl⟩
  | cons v vs ih =>
    simp only [State.makeRoom]
    split
    · exact ⟨rfl, rfl⟩
    · split
      · exact ih s
      · obtain ⟨h1, h2⟩ := ih (s.stopUnit v.1 v.2)
        obtain ⟨h3, h4⟩ := s.stopUnit_frame v.1 v.2
        exact ⟨h1.trans h3, h2.trans h4⟩

/-- A group that is to stop was to stop before, or belongs to a victim. -/
def Asked (u t : State) (p : Launch → Prop) : Prop :=
  ∀ g ∈ t.groups, g.stopAt.isSome = true →
    (∃ y ∈ u.groups, y.id = g.id ∧ y.stopAt.isSome = true) ∨ ∃ v, p v ∧ v.lid = lidOf g.id

theorem State.stopUnit_asked (s : State) (l : Launch) (t : Nat) (p : Launch → Prop) (hp : p l) :
    Asked s (s.stopUnit l t) p := by
  intro g hg h
  simp only [State.stopUnit, State.stopGroups, List.mem_map] at hg
  obtain ⟨x, hx, rfl⟩ := hg
  split at h
  · rename_i hm
    refine .inr ⟨l, hp, ?_⟩
    simp only [Bool.and_eq_true, beq_iff_eq] at hm
    simp [hm, Group.askStop]
  · rename_i hm
    rw [if_neg hm]
    exact .inl ⟨x, hx, rfl, h⟩

/-- Making room asks only groups of the victims to stop. -/
theorem State.makeRoom_asked (met : State → Bool) (p : Launch → Prop) (vs : List (Launch × Nat)) (s : State)
    (hp : ∀ v ∈ vs, p v.1) : Asked s (State.makeRoom met vs s) p := by
  induction vs generalizing s with
  | nil => exact fun g hg h => .inl ⟨g, hg, rfl, h⟩
  | cons v vs ih =>
    have hvs : ∀ v ∈ vs, p v.1 := fun x hx => hp x (by simp [hx])
    simp only [State.makeRoom]
    split
    · exact fun g hg h => .inl ⟨g, hg, rfl, h⟩
    · split
      · exact ih s hvs
      · intro g hg h
        rcases ih (s.stopUnit v.1 v.2) hvs g hg h with ⟨y, hy, hid, hs⟩ | hv
        · rcases s.stopUnit_asked v.1 v.2 p (hp v (by simp)) y hy hs with ⟨z, hz, hz', hs'⟩ | ⟨w, hw, hl⟩
          · exact .inl ⟨z, hz, hz'.trans hid, hs'⟩
          · exact .inr ⟨w, hw, by rw [hl, hid]⟩
        · exact .inr hv

end Sys2Proof.Machine
end

