-- ==== Sys2Proof/Laws/State.lean ====
section
/-! SUPPORT. What each update of the state or of a group leaves in every field that it does not name: one lemma a
field, true by definition, so that no proof unfolds a record update. -/

namespace Sys2Proof.Machine

@[simp] theorem State.setGroup_agenda (s : State) (g : Group) : (s.setGroup g).agenda = s.agenda := rfl
@[simp] theorem State.setGroup_cur (s : State) (g : Group) : (s.setGroup g).cur = s.cur := rfl
@[simp] theorem State.setGroup_free (s : State) (g : Group) : (s.setGroup g).free = s.free := rfl
@[simp] theorem State.setGroup_nextOp (s : State) (g : Group) : (s.setGroup g).nextOp = s.nextOp := rfl
@[simp] theorem State.setGroup_power (s : State) (g : Group) : (s.setGroup g).power = s.power := rfl
@[simp] theorem State.setGroup_clock (s : State) (g : Group) : (s.setGroup g).clock = s.clock := rfl
@[simp] theorem State.setGroup_mem (s : State) (g : Group) : (s.setGroup g).mem = s.mem := rfl
@[simp] theorem State.setGroup_poison (s : State) (g : Group) : (s.setGroup g).poison = s.poison := rfl
@[simp] theorem State.setGroup_l1 (s : State) (g : Group) : (s.setGroup g).l1 = s.l1 := rfl
@[simp] theorem State.setGroup_sectors (s : State) (g : Group) : (s.setGroup g).sectors = s.sectors := rfl
@[simp] theorem State.setGroup_tlb (s : State) (g : Group) : (s.setGroup g).tlb = s.tlb := rfl
@[simp] theorem State.setGroup_troot (s : State) (g : Group) : (s.setGroup g).troot = s.troot := rfl
@[simp] theorem State.setGroup_partNum (s : State) (g : Group) : (s.setGroup g).partNum = s.partNum := rfl
@[simp] theorem State.setGroup_pods (s : State) (g : Group) : (s.setGroup g).pods = s.pods := rfl
@[simp] theorem State.setGroup_launches (s : State) (g : Group) : (s.setGroup g).launches = s.launches := rfl
@[simp] theorem State.setGroup_ops (s : State) (g : Group) : (s.setGroup g).ops = s.ops := rfl
@[simp] theorem State.setGroup_nextAge (s : State) (g : Group) : (s.setGroup g).nextAge = s.nextAge := rfl
@[simp] theorem State.setGroup_podsOut (s : State) (g : Group) : (s.setGroup g).podsOut = s.podsOut := rfl
@[simp] theorem State.setGroup_coresOut (s : State) (g : Group) : (s.setGroup g).coresOut = s.coresOut := rfl
@[simp] theorem State.setGroup_toRetire (s : State) (g : Group) : (s.setGroup g).toRetire = s.toRetire := rfl
@[simp] theorem State.setGroup_lasting (s : State) (g : Group) : (s.setGroup g).lasting = s.lasting := rfl
@[simp] theorem State.setGroup_spares (s : State) (g : Group) : (s.setGroup g).spares = s.spares := rfl
@[simp] theorem State.setGroup_coreIssue (s : State) (g : Group) : (s.setGroup g).coreIssue = s.coreIssue := rfl
@[simp] theorem State.setGroup_podMap (s : State) (g : Group) : (s.setGroup g).podMap = s.podMap := rfl
@[simp] theorem State.setGroup_qps (s : State) (g : Group) : (s.setGroup g).qps = s.qps := rfl
@[simp] theorem State.setGroup_regions (s : State) (g : Group) : (s.setGroup g).regions = s.regions := rfl
@[simp] theorem State.setGroup_nextRegion (s : State) (g : Group) : (s.setGroup g).nextRegion = s.nextRegion := rfl
@[simp] theorem State.setGroup_seq (s : State) (g : Group) : (s.setGroup g).seq = s.seq := rfl
@[simp] theorem State.setGroup_held (s : State) (g : Group) : (s.setGroup g).held = s.held := rfl
@[simp] theorem State.setGroup_sent (s : State) (g : Group) : (s.setGroup g).sent = s.sent := rfl
@[simp] theorem State.setGroup_mgmt (s : State) (g : Group) : (s.setGroup g).mgmt = s.mgmt := rfl
@[simp] theorem State.setGroup_journal (s : State) (g : Group) : (s.setGroup g).journal = s.journal := rfl
@[simp] theorem State.setGroup_ptp (s : State) (g : Group) : (s.setGroup g).ptp = s.ptp := rfl
@[simp] theorem State.setGroup_hbm (s : State) (g : Group) : (s.setGroup g).hbm = s.hbm := rfl
@[simp] theorem State.setGroup_stations (s : State) (g : Group) : (s.setGroup g).stations = s.stations := rfl
@[simp] theorem State.setGroup_toPeers (s : State) (g : Group) : (s.setGroup g).toPeers = s.toPeers := rfl
@[simp] theorem State.setGroup_owed (s : State) (g : Group) : (s.setGroup g).owed = s.owed := rfl
@[simp] theorem State.setGroup_throttled (s : State) (g : Group) : (s.setGroup g).throttled = s.throttled := rfl

@[simp] theorem State.onGroup_agenda (s : State) (k : GroupId) (f : Group → Group) : (s.onGroup k f).agenda = s.agenda := rfl
@[simp] theorem State.onGroup_cur (s : State) (k : GroupId) (f : Group → Group) : (s.onGroup k f).cur = s.cur := rfl
@[simp] theorem State.onGroup_free (s : State) (k : GroupId) (f : Group → Group) : (s.onGroup k f).free = s.free := rfl
@[simp] theorem State.onGroup_nextOp (s : State) (k : GroupId) (f : Group → Group) : (s.onGroup k f).nextOp = s.nextOp := rfl
@[simp] theorem State.onGroup_power (s : State) (k : GroupId) (f : Group → Group) : (s.onGroup k f).power = s.power := rfl
@[simp] theorem State.onGroup_clock (s : State) (k : GroupId) (f : Group → Group) : (s.onGroup k f).clock = s.clock := rfl
@[simp] theorem State.onGroup_mem (s : State) (k : GroupId) (f : Group → Group) : (s.onGroup k f).mem = s.mem := rfl
@[simp] theorem State.onGroup_poison (s : State) (k : GroupId) (f : Group → Group) : (s.onGroup k f).poison = s.poison := rfl
@[simp] theorem State.onGroup_l1 (s : State) (k : GroupId) (f : Group → Group) : (s.onGroup k f).l1 = s.l1 := rfl
@[simp] theorem State.onGroup_sectors (s : State) (k : GroupId) (f : Group → Group) : (s.onGroup k f).sectors = s.sectors := rfl
@[simp] theorem State.onGroup_tlb (s : State) (k : GroupId) (f : Group → Group) : (s.onGroup k f).tlb = s.tlb := rfl
@[simp] theorem State.onGroup_troot (s : State) (k : GroupId) (f : Group → Group) : (s.onGroup k f).troot = s.troot := rfl
@[simp] theorem State.onGroup_partNum (s : State) (k : GroupId) (f : Group → Group) : (s.onGroup k f).partNum = s.partNum := rfl
@[simp] theorem State.onGroup_pods (s : State) (k : GroupId) (f : Group → Group) : (s.onGroup k f).pods = s.pods := rfl
@[simp] theorem State.onGroup_launches (s : State) (k : GroupId) (f : Group → Group) : (s.onGroup k f).launches = s.launches := rfl
@[simp] theorem State.onGroup_ops (s : State) (k : GroupId) (f : Group → Group) : (s.onGroup k f).ops = s.ops := rfl
@[simp] theorem State.onGroup_nextAge (s : State) (k : GroupId) (f : Group → Group) : (s.onGroup k f).nextAge = s.nextAge := rfl
@[simp] theorem State.onGroup_podsOut (s : State) (k : GroupId) (f : Group → Group) : (s.onGroup k f).podsOut = s.podsOut := rfl
@[simp] theorem State.onGroup_coresOut (s : State) (k : GroupId) (f : Group → Group) : (s.onGroup k f).coresOut = s.coresOut := rfl
@[simp] theorem State.onGroup_toRetire (s : State) (k : GroupId) (f : Group → Group) : (s.onGroup k f).toRetire = s.toRetire := rfl
@[simp] theorem State.onGroup_lasting (s : State) (k : GroupId) (f : Group → Group) : (s.onGroup k f).lasting = s.lasting := rfl
@[simp] theorem State.onGroup_spares (s : State) (k : GroupId) (f : Group → Group) : (s.onGroup k f).spares = s.spares := rfl
@[simp] theorem State.onGroup_coreIssue (s : State) (k : GroupId) (f : Group → Group) : (s.onGroup k f).coreIssue = s.coreIssue := rfl
@[simp] theorem State.onGroup_podMap (s : State) (k : GroupId) (f : Group → Group) : (s.onGroup k f).podMap = s.podMap := rfl
@[simp] theorem State.onGroup_qps (s : State) (k : GroupId) (f : Group → Group) : (s.onGroup k f).qps = s.qps := rfl
@[simp] theorem State.onGroup_regions (s : State) (k : GroupId) (f : Group → Group) : (s.onGroup k f).regions = s.regions := rfl
@[simp] theorem State.onGroup_nextRegion (s : State) (k : GroupId) (f : Group → Group) : (s.onGroup k f).nextRegion = s.nextRegion := rfl
@[simp] theorem State.onGroup_seq (s : State) (k : GroupId) (f : Group → Group) : (s.onGroup k f).seq = s.seq := rfl
@[simp] theorem State.onGroup_held (s : State) (k : GroupId) (f : Group → Group) : (s.onGroup k f).held = s.held := rfl
@[simp] theorem State.onGroup_sent (s : State) (k : GroupId) (f : Group → Group) : (s.onGroup k f).sent = s.sent := rfl
@[simp] theorem State.onGroup_mgmt (s : State) (k : GroupId) (f : Group → Group) : (s.onGroup k f).mgmt = s.mgmt := rfl
@[simp] theorem State.onGroup_journal (s : State) (k : GroupId) (f : Group → Group) : (s.onGroup k f).journal = s.journal := rfl
@[simp] theorem State.onGroup_ptp (s : State) (k : GroupId) (f : Group → Group) : (s.onGroup k f).ptp = s.ptp := rfl
@[simp] theorem State.onGroup_hbm (s : State) (k : GroupId) (f : Group → Group) : (s.onGroup k f).hbm = s.hbm := rfl
@[simp] theorem State.onGroup_stations (s : State) (k : GroupId) (f : Group → Group) : (s.onGroup k f).stations = s.stations := rfl
@[simp] theorem State.onGroup_toPeers (s : State) (k : GroupId) (f : Group → Group) : (s.onGroup k f).toPeers = s.toPeers := rfl
@[simp] theorem State.onGroup_owed (s : State) (k : GroupId) (f : Group → Group) : (s.onGroup k f).owed = s.owed := rfl
@[simp] theorem State.onGroup_throttled (s : State) (k : GroupId) (f : Group → Group) : (s.onGroup k f).throttled = s.throttled := rfl

@[simp] theorem State.onLaunch_agenda (s : State) (k : Nat) (f : Launch → Launch) : (s.onLaunch k f).agenda = s.agenda := rfl
@[simp] theorem State.onLaunch_cur (s : State) (k : Nat) (f : Launch → Launch) : (s.onLaunch k f).cur = s.cur := rfl
@[simp] theorem State.onLaunch_free (s : State) (k : Nat) (f : Launch → Launch) : (s.onLaunch k f).free = s.free := rfl
@[simp] theorem State.onLaunch_nextOp (s : State) (k : Nat) (f : Launch → Launch) : (s.onLaunch k f).nextOp = s.nextOp := rfl
@[simp] theorem State.onLaunch_power (s : State) (k : Nat) (f : Launch → Launch) : (s.onLaunch k f).power = s.power := rfl
@[simp] theorem State.onLaunch_clock (s : State) (k : Nat) (f : Launch → Launch) : (s.onLaunch k f).clock = s.clock := rfl
@[simp] theorem State.onLaunch_mem (s : State) (k : Nat) (f : Launch → Launch) : (s.onLaunch k f).mem = s.mem := rfl
@[simp] theorem State.onLaunch_poison (s : State) (k : Nat) (f : Launch → Launch) : (s.onLaunch k f).poison = s.poison := rfl
@[simp] theorem State.onLaunch_l1 (s : State) (k : Nat) (f : Launch → Launch) : (s.onLaunch k f).l1 = s.l1 := rfl
@[simp] theorem State.onLaunch_sectors (s : State) (k : Nat) (f : Launch → Launch) : (s.onLaunch k f).sectors = s.sectors := rfl
@[simp] theorem State.onLaunch_tlb (s : State) (k : Nat) (f : Launch → Launch) : (s.onLaunch k f).tlb = s.tlb := rfl
@[simp] theorem State.onLaunch_troot (s : State) (k : Nat) (f : Launch → Launch) : (s.onLaunch k f).troot = s.troot := rfl
@[simp] theorem State.onLaunch_partNum (s : State) (k : Nat) (f : Launch → Launch) : (s.onLaunch k f).partNum = s.partNum := rfl
@[simp] theorem State.onLaunch_pods (s : State) (k : Nat) (f : Launch → Launch) : (s.onLaunch k f).pods = s.pods := rfl
@[simp] theorem State.onLaunch_groups (s : State) (k : Nat) (f : Launch → Launch) : (s.onLaunch k f).groups = s.groups := rfl
@[simp] theorem State.onLaunch_ops (s : State) (k : Nat) (f : Launch → Launch) : (s.onLaunch k f).ops = s.ops := rfl
@[simp] theorem State.onLaunch_nextAge (s : State) (k : Nat) (f : Launch → Launch) : (s.onLaunch k f).nextAge = s.nextAge := rfl
@[simp] theorem State.onLaunch_podsOut (s : State) (k : Nat) (f : Launch → Launch) : (s.onLaunch k f).podsOut = s.podsOut := rfl
@[simp] theorem State.onLaunch_coresOut (s : State) (k : Nat) (f : Launch → Launch) : (s.onLaunch k f).coresOut = s.coresOut := rfl
@[simp] theorem State.onLaunch_toRetire (s : State) (k : Nat) (f : Launch → Launch) : (s.onLaunch k f).toRetire = s.toRetire := rfl
@[simp] theorem State.onLaunch_lasting (s : State) (k : Nat) (f : Launch → Launch) : (s.onLaunch k f).lasting = s.lasting := rfl
@[simp] theorem State.onLaunch_spares (s : State) (k : Nat) (f : Launch → Launch) : (s.onLaunch k f).spares = s.spares := rfl
@[simp] theorem State.onLaunch_coreIssue (s : State) (k : Nat) (f : Launch → Launch) : (s.onLaunch k f).coreIssue = s.coreIssue := rfl
@[simp] theorem State.onLaunch_podMap (s : State) (k : Nat) (f : Launch → Launch) : (s.onLaunch k f).podMap = s.podMap := rfl
@[simp] theorem State.onLaunch_qps (s : State) (k : Nat) (f : Launch → Launch) : (s.onLaunch k f).qps = s.qps := rfl
@[simp] theorem State.onLaunch_regions (s : State) (k : Nat) (f : Launch → Launch) : (s.onLaunch k f).regions = s.regions := rfl
@[simp] theorem State.onLaunch_nextRegion (s : State) (k : Nat) (f : Launch → Launch) : (s.onLaunch k f).nextRegion = s.nextRegion := rfl
@[simp] theorem State.onLaunch_seq (s : State) (k : Nat) (f : Launch → Launch) : (s.onLaunch k f).seq = s.seq := rfl
@[simp] theorem State.onLaunch_held (s : State) (k : Nat) (f : Launch → Launch) : (s.onLaunch k f).held = s.held := rfl
@[simp] theorem State.onLaunch_sent (s : State) (k : Nat) (f : Launch → Launch) : (s.onLaunch k f).sent = s.sent := rfl
@[simp] theorem State.onLaunch_mgmt (s : State) (k : Nat) (f : Launch → Launch) : (s.onLaunch k f).mgmt = s.mgmt := rfl
@[simp] theorem State.onLaunch_journal (s : State) (k : Nat) (f : Launch → Launch) : (s.onLaunch k f).journal = s.journal := rfl
@[simp] theorem State.onLaunch_ptp (s : State) (k : Nat) (f : Launch → Launch) : (s.onLaunch k f).ptp = s.ptp := rfl
@[simp] theorem State.onLaunch_hbm (s : State) (k : Nat) (f : Launch → Launch) : (s.onLaunch k f).hbm = s.hbm := rfl
@[simp] theorem State.onLaunch_stations (s : State) (k : Nat) (f : Launch → Launch) : (s.onLaunch k f).stations = s.stations := rfl
@[simp] theorem State.onLaunch_toPeers (s : State) (k : Nat) (f : Launch → Launch) : (s.onLaunch k f).toPeers = s.toPeers := rfl
@[simp] theorem State.onLaunch_owed (s : State) (k : Nat) (f : Launch → Launch) : (s.onLaunch k f).owed = s.owed := rfl
@[simp] theorem State.onLaunch_throttled (s : State) (k : Nat) (f : Launch → Launch) : (s.onLaunch k f).throttled = s.throttled := rfl

@[simp] theorem State.setPod_agenda (s : State) (p : Nat) (x : Pod) : (s.setPod p x).agenda = s.agenda := rfl
@[simp] theorem State.setPod_cur (s : State) (p : Nat) (x : Pod) : (s.setPod p x).cur = s.cur := rfl
@[simp] theorem State.setPod_free (s : State) (p : Nat) (x : Pod) : (s.setPod p x).free = s.free := rfl
@[simp] theorem State.setPod_nextOp (s : State) (p : Nat) (x : Pod) : (s.setPod p x).nextOp = s.nextOp := rfl
@[simp] theorem State.setPod_power (s : State) (p : Nat) (x : Pod) : (s.setPod p x).power = s.power := rfl
@[simp] theorem State.setPod_clock (s : State) (p : Nat) (x : Pod) : (s.setPod p x).clock = s.clock := rfl
@[simp] theorem State.setPod_mem (s : State) (p : Nat) (x : Pod) : (s.setPod p x).mem = s.mem := rfl
@[simp] theorem State.setPod_poison (s : State) (p : Nat) (x : Pod) : (s.setPod p x).poison = s.poison := rfl
@[simp] theorem State.setPod_l1 (s : State) (p : Nat) (x : Pod) : (s.setPod p x).l1 = s.l1 := rfl
@[simp] theorem State.setPod_sectors (s : State) (p : Nat) (x : Pod) : (s.setPod p x).sectors = s.sectors := rfl
@[simp] theorem State.setPod_tlb (s : State) (p : Nat) (x : Pod) : (s.setPod p x).tlb = s.tlb := rfl
@[simp] theorem State.setPod_troot (s : State) (p : Nat) (x : Pod) : (s.setPod p x).troot = s.troot := rfl
@[simp] theorem State.setPod_partNum (s : State) (p : Nat) (x : Pod) : (s.setPod p x).partNum = s.partNum := rfl
@[simp] theorem State.setPod_groups (s : State) (p : Nat) (x : Pod) : (s.setPod p x).groups = s.groups := rfl
@[simp] theorem State.setPod_launches (s : State) (p : Nat) (x : Pod) : (s.setPod p x).launches = s.launches := rfl
@[simp] theorem State.setPod_ops (s : State) (p : Nat) (x : Pod) : (s.setPod p x).ops = s.ops := rfl
@[simp] theorem State.setPod_nextAge (s : State) (p : Nat) (x : Pod) : (s.setPod p x).nextAge = s.nextAge := rfl
@[simp] theorem State.setPod_podsOut (s : State) (p : Nat) (x : Pod) : (s.setPod p x).podsOut = s.podsOut := rfl
@[simp] theorem State.setPod_coresOut (s : State) (p : Nat) (x : Pod) : (s.setPod p x).coresOut = s.coresOut := rfl
@[simp] theorem State.setPod_toRetire (s : State) (p : Nat) (x : Pod) : (s.setPod p x).toRetire = s.toRetire := rfl
@[simp] theorem State.setPod_lasting (s : State) (p : Nat) (x : Pod) : (s.setPod p x).lasting = s.lasting := rfl
@[simp] theorem State.setPod_spares (s : State) (p : Nat) (x : Pod) : (s.setPod p x).spares = s.spares := rfl
@[simp] theorem State.setPod_coreIssue (s : State) (p : Nat) (x : Pod) : (s.setPod p x).coreIssue = s.coreIssue := rfl
@[simp] theorem State.setPod_podMap (s : State) (p : Nat) (x : Pod) : (s.setPod p x).podMap = s.podMap := rfl
@[simp] theorem State.setPod_qps (s : State) (p : Nat) (x : Pod) : (s.setPod p x).qps = s.qps := rfl
@[simp] theorem State.setPod_regions (s : State) (p : Nat) (x : Pod) : (s.setPod p x).regions = s.regions := rfl
@[simp] theorem State.setPod_nextRegion (s : State) (p : Nat) (x : Pod) : (s.setPod p x).nextRegion = s.nextRegion := rfl
@[simp] theorem State.setPod_seq (s : State) (p : Nat) (x : Pod) : (s.setPod p x).seq = s.seq := rfl
@[simp] theorem State.setPod_held (s : State) (p : Nat) (x : Pod) : (s.setPod p x).held = s.held := rfl
@[simp] theorem State.setPod_sent (s : State) (p : Nat) (x : Pod) : (s.setPod p x).sent = s.sent := rfl
@[simp] theorem State.setPod_mgmt (s : State) (p : Nat) (x : Pod) : (s.setPod p x).mgmt = s.mgmt := rfl
@[simp] theorem State.setPod_journal (s : State) (p : Nat) (x : Pod) : (s.setPod p x).journal = s.journal := rfl
@[simp] theorem State.setPod_ptp (s : State) (p : Nat) (x : Pod) : (s.setPod p x).ptp = s.ptp := rfl
@[simp] theorem State.setPod_hbm (s : State) (p : Nat) (x : Pod) : (s.setPod p x).hbm = s.hbm := rfl
@[simp] theorem State.setPod_stations (s : State) (p : Nat) (x : Pod) : (s.setPod p x).stations = s.stations := rfl
@[simp] theorem State.setPod_toPeers (s : State) (p : Nat) (x : Pod) : (s.setPod p x).toPeers = s.toPeers := rfl
@[simp] theorem State.setPod_owed (s : State) (p : Nat) (x : Pod) : (s.setPod p x).owed = s.owed := rfl
@[simp] theorem State.setPod_throttled (s : State) (p : Nat) (x : Pod) : (s.setPod p x).throttled = s.throttled := rfl

@[simp] theorem State.memSet_agenda (s : State) (pa : Addr) (b : Byte) : (s.memSet pa b).agenda = s.agenda := rfl
@[simp] theorem State.memSet_cur (s : State) (pa : Addr) (b : Byte) : (s.memSet pa b).cur = s.cur := rfl
@[simp] theorem State.memSet_free (s : State) (pa : Addr) (b : Byte) : (s.memSet pa b).free = s.free := rfl
@[simp] theorem State.memSet_nextOp (s : State) (pa : Addr) (b : Byte) : (s.memSet pa b).nextOp = s.nextOp := rfl
@[simp] theorem State.memSet_power (s : State) (pa : Addr) (b : Byte) : (s.memSet pa b).power = s.power := rfl
@[simp] theorem State.memSet_clock (s : State) (pa : Addr) (b : Byte) : (s.memSet pa b).clock = s.clock := rfl
@[simp] theorem State.memSet_poison (s : State) (pa : Addr) (b : Byte) : (s.memSet pa b).poison = s.poison := rfl
@[simp] theorem State.memSet_l1 (s : State) (pa : Addr) (b : Byte) : (s.memSet pa b).l1 = s.l1 := rfl
@[simp] theorem State.memSet_sectors (s : State) (pa : Addr) (b : Byte) : (s.memSet pa b).sectors = s.sectors := rfl
@[simp] theorem State.memSet_tlb (s : State) (pa : Addr) (b : Byte) : (s.memSet pa b).tlb = s.tlb := rfl
@[simp] theorem State.memSet_troot (s : State) (pa : Addr) (b : Byte) : (s.memSet pa b).troot = s.troot := rfl
@[simp] theorem State.memSet_partNum (s : State) (pa : Addr) (b : Byte) : (s.memSet pa b).partNum = s.partNum := rfl
@[simp] theorem State.memSet_pods (s : State) (pa : Addr) (b : Byte) : (s.memSet pa b).pods = s.pods := rfl
@[simp] theorem State.memSet_groups (s : State) (pa : Addr) (b : Byte) : (s.memSet pa b).groups = s.groups := rfl
@[simp] theorem State.memSet_launches (s : State) (pa : Addr) (b : Byte) : (s.memSet pa b).launches = s.launches := rfl
@[simp] theorem State.memSet_ops (s : State) (pa : Addr) (b : Byte) : (s.memSet pa b).ops = s.ops := rfl
@[simp] theorem State.memSet_nextAge (s : State) (pa : Addr) (b : Byte) : (s.memSet pa b).nextAge = s.nextAge := rfl
@[simp] theorem State.memSet_podsOut (s : State) (pa : Addr) (b : Byte) : (s.memSet pa b).podsOut = s.podsOut := rfl
@[simp] theorem State.memSet_coresOut (s : State) (pa : Addr) (b : Byte) : (s.memSet pa b).coresOut = s.coresOut := rfl
@[simp] theorem State.memSet_toRetire (s : State) (pa : Addr) (b : Byte) : (s.memSet pa b).toRetire = s.toRetire := rfl
@[simp] theorem State.memSet_lasting (s : State) (pa : Addr) (b : Byte) : (s.memSet pa b).lasting = s.lasting := rfl
@[simp] theorem State.memSet_spares (s : State) (pa : Addr) (b : Byte) : (s.memSet pa b).spares = s.spares := rfl
@[simp] theorem State.memSet_coreIssue (s : State) (pa : Addr) (b : Byte) : (s.memSet pa b).coreIssue = s.coreIssue := rfl
@[simp] theorem State.memSet_podMap (s : State) (pa : Addr) (b : Byte) : (s.memSet pa b).podMap = s.podMap := rfl
@[simp] theorem State.memSet_qps (s : State) (pa : Addr) (b : Byte) : (s.memSet pa b).qps = s.qps := rfl
@[simp] theorem State.memSet_regions (s : State) (pa : Addr) (b : Byte) : (s.memSet pa b).regions = s.regions := rfl
@[simp] theorem State.memSet_nextRegion (s : State) (pa : Addr) (b : Byte) : (s.memSet pa b).nextRegion = s.nextRegion := rfl
@[simp] theorem State.memSet_seq (s : State) (pa : Addr) (b : Byte) : (s.memSet pa b).seq = s.seq := rfl
@[simp] theorem State.memSet_held (s : State) (pa : Addr) (b : Byte) : (s.memSet pa b).held = s.held := rfl
@[simp] theorem State.memSet_sent (s : State) (pa : Addr) (b : Byte) : (s.memSet pa b).sent = s.sent := rfl
@[simp] theorem State.memSet_mgmt (s : State) (pa : Addr) (b : Byte) : (s.memSet pa b).mgmt = s.mgmt := rfl
@[simp] theorem State.memSet_journal (s : State) (pa : Addr) (b : Byte) : (s.memSet pa b).journal = s.journal := rfl
@[simp] theorem State.memSet_ptp (s : State) (pa : Addr) (b : Byte) : (s.memSet pa b).ptp = s.ptp := rfl
@[simp] theorem State.memSet_hbm (s : State) (pa : Addr) (b : Byte) : (s.memSet pa b).hbm = s.hbm := rfl
@[simp] theorem State.memSet_stations (s : State) (pa : Addr) (b : Byte) : (s.memSet pa b).stations = s.stations := rfl
@[simp] theorem State.memSet_toPeers (s : State) (pa : Addr) (b : Byte) : (s.memSet pa b).toPeers = s.toPeers := rfl
@[simp] theorem State.memSet_owed (s : State) (pa : Addr) (b : Byte) : (s.memSet pa b).owed = s.owed := rfl
@[simp] theorem State.memSet_throttled (s : State) (pa : Addr) (b : Byte) : (s.memSet pa b).throttled = s.throttled := rfl

@[simp] theorem State.setL1_agenda (s : State) (k : Nat) (c : Sparse (Option Cached)) : (s.setL1 k c).agenda = s.agenda := rfl
@[simp] theorem State.setL1_cur (s : State) (k : Nat) (c : Sparse (Option Cached)) : (s.setL1 k c).cur = s.cur := rfl
@[simp] theorem State.setL1_free (s : State) (k : Nat) (c : Sparse (Option Cached)) : (s.setL1 k c).free = s.free := rfl
@[simp] theorem State.setL1_nextOp (s : State) (k : Nat) (c : Sparse (Option Cached)) : (s.setL1 k c).nextOp = s.nextOp := rfl
@[simp] theorem State.setL1_power (s : State) (k : Nat) (c : Sparse (Option Cached)) : (s.setL1 k c).power = s.power := rfl
@[simp] theorem State.setL1_clock (s : State) (k : Nat) (c : Sparse (Option Cached)) : (s.setL1 k c).clock = s.clock := rfl
@[simp] theorem State.setL1_mem (s : State) (k : Nat) (c : Sparse (Option Cached)) : (s.setL1 k c).mem = s.mem := rfl
@[simp] theorem State.setL1_poison (s : State) (k : Nat) (c : Sparse (Option Cached)) : (s.setL1 k c).poison = s.poison := rfl
@[simp] theorem State.setL1_sectors (s : State) (k : Nat) (c : Sparse (Option Cached)) : (s.setL1 k c).sectors = s.sectors := rfl
@[simp] theorem State.setL1_tlb (s : State) (k : Nat) (c : Sparse (Option Cached)) : (s.setL1 k c).tlb = s.tlb := rfl
@[simp] theorem State.setL1_troot (s : State) (k : Nat) (c : Sparse (Option Cached)) : (s.setL1 k c).troot = s.troot := rfl
@[simp] theorem State.setL1_partNum (s : State) (k : Nat) (c : Sparse (Option Cached)) : (s.setL1 k c).partNum = s.partNum := rfl
@[simp] theorem State.setL1_pods (s : State) (k : Nat) (c : Sparse (Option Cached)) : (s.setL1 k c).pods = s.pods := rfl
@[simp] theorem State.setL1_groups (s : State) (k : Nat) (c : Sparse (Option Cached)) : (s.setL1 k c).groups = s.groups := rfl
@[simp] theorem State.setL1_launches (s : State) (k : Nat) (c : Sparse (Option Cached)) : (s.setL1 k c).launches = s.launches := rfl
@[simp] theorem State.setL1_ops (s : State) (k : Nat) (c : Sparse (Option Cached)) : (s.setL1 k c).ops = s.ops := rfl
@[simp] theorem State.setL1_nextAge (s : State) (k : Nat) (c : Sparse (Option Cached)) : (s.setL1 k c).nextAge = s.nextAge := rfl
@[simp] theorem State.setL1_podsOut (s : State) (k : Nat) (c : Sparse (Option Cached)) : (s.setL1 k c).podsOut = s.podsOut := rfl
@[simp] theorem State.setL1_coresOut (s : State) (k : Nat) (c : Sparse (Option Cached)) : (s.setL1 k c).coresOut = s.coresOut := rfl
@[simp] theorem State.setL1_toRetire (s : State) (k : Nat) (c : Sparse (Option Cached)) : (s.setL1 k c).toRetire = s.toRetire := rfl
@[simp] theorem State.setL1_lasting (s : State) (k : Nat) (c : Sparse (Option Cached)) : (s.setL1 k c).lasting = s.lasting := rfl
@[simp] theorem State.setL1_spares (s : State) (k : Nat) (c : Sparse (Option Cached)) : (s.setL1 k c).spares = s.spares := rfl
@[simp] theorem State.setL1_coreIssue (s : State) (k : Nat) (c : Sparse (Option Cached)) : (s.setL1 k c).coreIssue = s.coreIssue := rfl
@[simp] theorem State.setL1_podMap (s : State) (k : Nat) (c : Sparse (Option Cached)) : (s.setL1 k c).podMap = s.podMap := rfl
@[simp] theorem State.setL1_qps (s : State) (k : Nat) (c : Sparse (Option Cached)) : (s.setL1 k c).qps = s.qps := rfl
@[simp] theorem State.setL1_regions (s : State) (k : Nat) (c : Sparse (Option Cached)) : (s.setL1 k c).regions = s.regions := rfl
@[simp] theorem State.setL1_nextRegion (s : State) (k : Nat) (c : Sparse (Option Cached)) : (s.setL1 k c).nextRegion = s.nextRegion := rfl
@[simp] theorem State.setL1_seq (s : State) (k : Nat) (c : Sparse (Option Cached)) : (s.setL1 k c).seq = s.seq := rfl
@[simp] theorem State.setL1_held (s : State) (k : Nat) (c : Sparse (Option Cached)) : (s.setL1 k c).held = s.held := rfl
@[simp] theorem State.setL1_sent (s : State) (k : Nat) (c : Sparse (Option Cached)) : (s.setL1 k c).sent = s.sent := rfl
@[simp] theorem State.setL1_mgmt (s : State) (k : Nat) (c : Sparse (Option Cached)) : (s.setL1 k c).mgmt = s.mgmt := rfl
@[simp] theorem State.setL1_journal (s : State) (k : Nat) (c : Sparse (Option Cached)) : (s.setL1 k c).journal = s.journal := rfl
@[simp] theorem State.setL1_ptp (s : State) (k : Nat) (c : Sparse (Option Cached)) : (s.setL1 k c).ptp = s.ptp := rfl
@[simp] theorem State.setL1_hbm (s : State) (k : Nat) (c : Sparse (Option Cached)) : (s.setL1 k c).hbm = s.hbm := rfl
@[simp] theorem State.setL1_stations (s : State) (k : Nat) (c : Sparse (Option Cached)) : (s.setL1 k c).stations = s.stations := rfl
@[simp] theorem State.setL1_toPeers (s : State) (k : Nat) (c : Sparse (Option Cached)) : (s.setL1 k c).toPeers = s.toPeers := rfl
@[simp] theorem State.setL1_owed (s : State) (k : Nat) (c : Sparse (Option Cached)) : (s.setL1 k c).owed = s.owed := rfl
@[simp] theorem State.setL1_throttled (s : State) (k : Nat) (c : Sparse (Option Cached)) : (s.setL1 k c).throttled = s.throttled := rfl

@[simp] theorem Group.setSreg_id (g : Group) (r : Nat) (v : Word) : (g.setSreg r v).id = g.id := rfl
@[simp] theorem Group.setSreg_width (g : Group) (r : Nat) (v : Word) : (g.setSreg r v).width = g.width := rfl
@[simp] theorem Group.setSreg_core (g : Group) (r : Nat) (v : Word) : (g.setSreg r v).core = g.core := rfl
@[simp] theorem Group.setSreg_resident (g : Group) (r : Nat) (v : Word) : (g.setSreg r v).resident = g.resident := rfl
@[simp] theorem Group.setSreg_item0 (g : Group) (r : Nat) (v : Word) : (g.setSreg r v).item0 = g.item0 := rfl
@[simp] theorem Group.setSreg_pos (g : Group) (r : Nat) (v : Word) : (g.setSreg r v).pos = g.pos := rfl
@[simp] theorem Group.setSreg_em (g : Group) (r : Nat) (v : Word) : (g.setSreg r v).em = g.em := rfl
@[simp] theorem Group.setSreg_live (g : Group) (r : Nat) (v : Word) : (g.setSreg r v).live = g.live := rfl
@[simp] theorem Group.setSreg_path (g : Group) (r : Nat) (v : Word) : (g.setSreg r v).path = g.path := rfl
@[simp] theorem Group.setSreg_n (g : Group) (r : Nat) (v : Word) : (g.setSreg r v).n = g.n := rfl
@[simp] theorem Group.setSreg_vregs (g : Group) (r : Nat) (v : Word) : (g.setSreg r v).vregs = g.vregs := rfl
@[simp] theorem Group.setSreg_bad (g : Group) (r : Nat) (v : Word) : (g.setSreg r v).bad = g.bad := rfl
@[simp] theorem Group.setSreg_preds (g : Group) (r : Nat) (v : Word) : (g.setSreg r v).preds = g.preds := rfl
@[simp] theorem Group.setSreg_fflags (g : Group) (r : Nat) (v : Word) : (g.setSreg r v).fflags = g.fflags := rfl
@[simp] theorem Group.setSreg_sig (g : Group) (r : Nat) (v : Word) : (g.setSreg r v).sig = g.sig := rfl
@[simp] theorem Group.setSreg_cause (g : Group) (r : Nat) (v : Word) : (g.setSreg r v).cause = g.cause := rfl
@[simp] theorem Group.setSreg_epc (g : Group) (r : Nat) (v : Word) : (g.setSreg r v).epc = g.epc := rfl
@[simp] theorem Group.setSreg_tval (g : Group) (r : Nat) (v : Word) : (g.setSreg r v).tval = g.tval := rfl
@[simp] theorem Group.setSreg_aside (g : Group) (r : Nat) (v : Word) : (g.setSreg r v).aside = g.aside := rfl
@[simp] theorem Group.setSreg_bypass (g : Group) (r : Nat) (v : Word) : (g.setSreg r v).bypass = g.bypass := rfl
@[simp] theorem Group.setSreg_issued (g : Group) (r : Nat) (v : Word) : (g.setSreg r v).issued = g.issued := rfl
@[simp] theorem Group.setSreg_dist (g : Group) (r : Nat) (v : Word) : (g.setSreg r v).dist = g.dist := rfl
@[simp] theorem Group.setSreg_last (g : Group) (r : Nat) (v : Word) : (g.setSreg r v).last = g.last := rfl
@[simp] theorem Group.setSreg_producers (g : Group) (r : Nat) (v : Word) : (g.setSreg r v).producers = g.producers := rfl
@[simp] theorem Group.setSreg_readyAt (g : Group) (r : Nat) (v : Word) : (g.setSreg r v).readyAt = g.readyAt := rfl
@[simp] theorem Group.setSreg_pend (g : Group) (r : Nat) (v : Word) : (g.setSreg r v).pend = g.pend := rfl
@[simp] theorem Group.setSreg_deferred (g : Group) (r : Nat) (v : Word) : (g.setSreg r v).deferred = g.deferred := rfl
@[simp] theorem Group.setSreg_acks (g : Group) (r : Nat) (v : Word) : (g.setSreg r v).acks = g.acks := rfl
@[simp] theorem Group.setSreg_lost (g : Group) (r : Nat) (v : Word) : (g.setSreg r v).lost = g.lost := rfl
@[simp] theorem Group.setSreg_cp (g : Group) (r : Nat) (v : Word) : (g.setSreg r v).cp = g.cp := rfl
@[simp] theorem Group.setSreg_mx (g : Group) (r : Nat) (v : Word) : (g.setSreg r v).mx = g.mx := rfl
@[simp] theorem Group.setSreg_cb (g : Group) (r : Nat) (v : Word) : (g.setSreg r v).cb = g.cb := rfl
@[simp] theorem Group.setSreg_rm (g : Group) (r : Nat) (v : Word) : (g.setSreg r v).rm = g.rm := rfl
@[simp] theorem Group.setSreg_slots (g : Group) (r : Nat) (v : Word) : (g.setSreg r v).slots = g.slots := rfl
@[simp] theorem Group.setSreg_gang (g : Group) (r : Nat) (v : Word) : (g.setSreg r v).gang = g.gang := rfl
@[simp] theorem Group.setSreg_reserved (g : Group) (r : Nat) (v : Word) : (g.setSreg r v).reserved = g.reserved := rfl
@[simp] theorem Group.setSreg_passFails (g : Group) (r : Nat) (v : Word) : (g.setSreg r v).passFails = g.passFails := rfl
@[simp] theorem Group.setSreg_withdrawn (g : Group) (r : Nat) (v : Word) : (g.setSreg r v).withdrawn = g.withdrawn := rfl
@[simp] theorem Group.setSreg_xswap (g : Group) (r : Nat) (v : Word) : (g.setSreg r v).xswap = g.xswap := rfl
@[simp] theorem Group.setSreg_reads (g : Group) (r : Nat) (v : Word) : (g.setSreg r v).reads = g.reads := rfl
@[simp] theorem Group.setSreg_pubs (g : Group) (r : Nat) (v : Word) : (g.setSreg r v).pubs = g.pubs := rfl
@[simp] theorem Group.setSreg_backlog (g : Group) (r : Nat) (v : Word) : (g.setSreg r v).backlog = g.backlog := rfl
@[simp] theorem Group.setSreg_spillOk (g : Group) (r : Nat) (v : Word) : (g.setSreg r v).spillOk = g.spillOk := rfl
@[simp] theorem Group.setSreg_missAt (g : Group) (r : Nat) (v : Word) : (g.setSreg r v).missAt = g.missAt := rfl
@[simp] theorem Group.setSreg_replies (g : Group) (r : Nat) (v : Word) : (g.setSreg r v).replies = g.replies := rfl
@[simp] theorem Group.setSreg_active (g : Group) (r : Nat) (v : Word) : (g.setSreg r v).active = g.active := rfl
@[simp] theorem Group.setSreg_since (g : Group) (r : Nat) (v : Word) : (g.setSreg r v).since = g.since := rfl
@[simp] theorem Group.setSreg_readySince (g : Group) (r : Nat) (v : Word) : (g.setSreg r v).readySince = g.readySince := rfl
@[simp] theorem Group.setSreg_born (g : Group) (r : Nat) (v : Word) : (g.setSreg r v).born = g.born := rfl
@[simp] theorem Group.setSreg_wait (g : Group) (r : Nat) (v : Word) : (g.setSreg r v).wait = g.wait := rfl
@[simp] theorem Group.setSreg_leave (g : Group) (r : Nat) (v : Word) : (g.setSreg r v).leave = g.leave := rfl
@[simp] theorem Group.setSreg_stopAt (g : Group) (r : Nat) (v : Word) : (g.setSreg r v).stopAt = g.stopAt := rfl
@[simp] theorem Group.setSreg_stopped (g : Group) (r : Nat) (v : Word) : (g.setSreg r v).stopped = g.stopped := rfl
@[simp] theorem Group.setSreg_safe (g : Group) (r : Nat) (v : Word) : (g.setSreg r v).safe = g.safe := rfl
@[simp] theorem Group.setSreg_halted (g : Group) (r : Nat) (v : Word) : (g.setSreg r v).halted = g.halted := rfl
@[simp] theorem Group.setSreg_done (g : Group) (r : Nat) (v : Word) : (g.setSreg r v).done = g.done := rfl
@[simp] theorem Group.setSreg_waveTime (g : Group) (r : Nat) (v : Word) : (g.setSreg r v).waveTime = g.waveTime := rfl

@[simp] theorem Group.writeAll_id (g : Group) (l : List (Nat × Lane)) : (g.writeAll l).id = g.id := rfl
@[simp] theorem Group.writeAll_width (g : Group) (l : List (Nat × Lane)) : (g.writeAll l).width = g.width := rfl
@[simp] theorem Group.writeAll_core (g : Group) (l : List (Nat × Lane)) : (g.writeAll l).core = g.core := rfl
@[simp] theorem Group.writeAll_resident (g : Group) (l : List (Nat × Lane)) : (g.writeAll l).resident = g.resident := rfl
@[simp] theorem Group.writeAll_item0 (g : Group) (l : List (Nat × Lane)) : (g.writeAll l).item0 = g.item0 := rfl
@[simp] theorem Group.writeAll_pos (g : Group) (l : List (Nat × Lane)) : (g.writeAll l).pos = g.pos := rfl
@[simp] theorem Group.writeAll_em (g : Group) (l : List (Nat × Lane)) : (g.writeAll l).em = g.em := rfl
@[simp] theorem Group.writeAll_live (g : Group) (l : List (Nat × Lane)) : (g.writeAll l).live = g.live := rfl
@[simp] theorem Group.writeAll_path (g : Group) (l : List (Nat × Lane)) : (g.writeAll l).path = g.path := rfl
@[simp] theorem Group.writeAll_n (g : Group) (l : List (Nat × Lane)) : (g.writeAll l).n = g.n := rfl
@[simp] theorem Group.writeAll_sregs (g : Group) (l : List (Nat × Lane)) : (g.writeAll l).sregs = g.sregs := rfl
@[simp] theorem Group.writeAll_preds (g : Group) (l : List (Nat × Lane)) : (g.writeAll l).preds = g.preds := rfl
@[simp] theorem Group.writeAll_stack (g : Group) (l : List (Nat × Lane)) : (g.writeAll l).stack = g.stack := rfl
@[simp] theorem Group.writeAll_fflags (g : Group) (l : List (Nat × Lane)) : (g.writeAll l).fflags = g.fflags := rfl
@[simp] theorem Group.writeAll_sig (g : Group) (l : List (Nat × Lane)) : (g.writeAll l).sig = g.sig := rfl
@[simp] theorem Group.writeAll_cause (g : Group) (l : List (Nat × Lane)) : (g.writeAll l).cause = g.cause := rfl
@[simp] theorem Group.writeAll_epc (g : Group) (l : List (Nat × Lane)) : (g.writeAll l).epc = g.epc := rfl
@[simp] theorem Group.writeAll_tval (g : Group) (l : List (Nat × Lane)) : (g.writeAll l).tval = g.tval := rfl
@[simp] theorem Group.writeAll_issued (g : Group) (l : List (Nat × Lane)) : (g.writeAll l).issued = g.issued := rfl
@[simp] theorem Group.writeAll_dist (g : Group) (l : List (Nat × Lane)) : (g.writeAll l).dist = g.dist := rfl
@[simp] theorem Group.writeAll_last (g : Group) (l : List (Nat × Lane)) : (g.writeAll l).last = g.last := rfl
@[simp] theorem Group.writeAll_producers (g : Group) (l : List (Nat × Lane)) : (g.writeAll l).producers = g.producers := rfl
@[simp] theorem Group.writeAll_readyAt (g : Group) (l : List (Nat × Lane)) : (g.writeAll l).readyAt = g.readyAt := rfl
@[simp] theorem Group.writeAll_pend (g : Group) (l : List (Nat × Lane)) : (g.writeAll l).pend = g.pend := rfl
@[simp] theorem Group.writeAll_deferred (g : Group) (l : List (Nat × Lane)) : (g.writeAll l).deferred = g.deferred := rfl
@[simp] theorem Group.writeAll_acks (g : Group) (l : List (Nat × Lane)) : (g.writeAll l).acks = g.acks := rfl
@[simp] theorem Group.writeAll_lost (g : Group) (l : List (Nat × Lane)) : (g.writeAll l).lost = g.lost := rfl
@[simp] theorem Group.writeAll_cp (g : Group) (l : List (Nat × Lane)) : (g.writeAll l).cp = g.cp := rfl
@[simp] theorem Group.writeAll_mx (g : Group) (l : List (Nat × Lane)) : (g.writeAll l).mx = g.mx := rfl
@[simp] theorem Group.writeAll_cb (g : Group) (l : List (Nat × Lane)) : (g.writeAll l).cb = g.cb := rfl
@[simp] theorem Group.writeAll_rm (g : Group) (l : List (Nat × Lane)) : (g.writeAll l).rm = g.rm := rfl
@[simp] theorem Group.writeAll_slots (g : Group) (l : List (Nat × Lane)) : (g.writeAll l).slots = g.slots := rfl
@[simp] theorem Group.writeAll_gang (g : Group) (l : List (Nat × Lane)) : (g.writeAll l).gang = g.gang := rfl
@[simp] theorem Group.writeAll_reserved (g : Group) (l : List (Nat × Lane)) : (g.writeAll l).reserved = g.reserved := rfl
@[simp] theorem Group.writeAll_passFails (g : Group) (l : List (Nat × Lane)) : (g.writeAll l).passFails = g.passFails := rfl
@[simp] theorem Group.writeAll_withdrawn (g : Group) (l : List (Nat × Lane)) : (g.writeAll l).withdrawn = g.withdrawn := rfl
@[simp] theorem Group.writeAll_xswap (g : Group) (l : List (Nat × Lane)) : (g.writeAll l).xswap = g.xswap := rfl
@[simp] theorem Group.writeAll_reads (g : Group) (l : List (Nat × Lane)) : (g.writeAll l).reads = g.reads := rfl
@[simp] theorem Group.writeAll_pubs (g : Group) (l : List (Nat × Lane)) : (g.writeAll l).pubs = g.pubs := rfl
@[simp] theorem Group.writeAll_backlog (g : Group) (l : List (Nat × Lane)) : (g.writeAll l).backlog = g.backlog := rfl
@[simp] theorem Group.writeAll_spillOk (g : Group) (l : List (Nat × Lane)) : (g.writeAll l).spillOk = g.spillOk := rfl
@[simp] theorem Group.writeAll_missAt (g : Group) (l : List (Nat × Lane)) : (g.writeAll l).missAt = g.missAt := rfl
@[simp] theorem Group.writeAll_replies (g : Group) (l : List (Nat × Lane)) : (g.writeAll l).replies = g.replies := rfl
@[simp] theorem Group.writeAll_active (g : Group) (l : List (Nat × Lane)) : (g.writeAll l).active = g.active := rfl
@[simp] theorem Group.writeAll_since (g : Group) (l : List (Nat × Lane)) : (g.writeAll l).since = g.since := rfl
@[simp] theorem Group.writeAll_readySince (g : Group) (l : List (Nat × Lane)) : (g.writeAll l).readySince = g.readySince := rfl
@[simp] theorem Group.writeAll_born (g : Group) (l : List (Nat × Lane)) : (g.writeAll l).born = g.born := rfl
@[simp] theorem Group.writeAll_wait (g : Group) (l : List (Nat × Lane)) : (g.writeAll l).wait = g.wait := rfl
@[simp] theorem Group.writeAll_leave (g : Group) (l : List (Nat × Lane)) : (g.writeAll l).leave = g.leave := rfl
@[simp] theorem Group.writeAll_stopAt (g : Group) (l : List (Nat × Lane)) : (g.writeAll l).stopAt = g.stopAt := rfl
@[simp] theorem Group.writeAll_stopped (g : Group) (l : List (Nat × Lane)) : (g.writeAll l).stopped = g.stopped := rfl
@[simp] theorem Group.writeAll_safe (g : Group) (l : List (Nat × Lane)) : (g.writeAll l).safe = g.safe := rfl
@[simp] theorem Group.writeAll_halted (g : Group) (l : List (Nat × Lane)) : (g.writeAll l).halted = g.halted := rfl
@[simp] theorem Group.writeAll_done (g : Group) (l : List (Nat × Lane)) : (g.writeAll l).done = g.done := rfl
@[simp] theorem Group.writeAll_waveTime (g : Group) (l : List (Nat × Lane)) : (g.writeAll l).waveTime = g.waveTime := rfl

@[simp] theorem Group.setPred_id (g : Group) (p : Nat) (v : Mask) : (g.setPred p v).id = g.id := rfl
@[simp] theorem Group.setPred_width (g : Group) (p : Nat) (v : Mask) : (g.setPred p v).width = g.width := rfl
@[simp] theorem Group.setPred_core (g : Group) (p : Nat) (v : Mask) : (g.setPred p v).core = g.core := rfl
@[simp] theorem Group.setPred_resident (g : Group) (p : Nat) (v : Mask) : (g.setPred p v).resident = g.resident := rfl
@[simp] theorem Group.setPred_item0 (g : Group) (p : Nat) (v : Mask) : (g.setPred p v).item0 = g.item0 := rfl
@[simp] theorem Group.setPred_pos (g : Group) (p : Nat) (v : Mask) : (g.setPred p v).pos = g.pos := rfl
@[simp] theorem Group.setPred_em (g : Group) (p : Nat) (v : Mask) : (g.setPred p v).em = g.em := rfl
@[simp] theorem Group.setPred_live (g : Group) (p : Nat) (v : Mask) : (g.setPred p v).live = g.live := rfl
@[simp] theorem Group.setPred_path (g : Group) (p : Nat) (v : Mask) : (g.setPred p v).path = g.path := rfl
@[simp] theorem Group.setPred_n (g : Group) (p : Nat) (v : Mask) : (g.setPred p v).n = g.n := rfl
@[simp] theorem Group.setPred_vregs (g : Group) (p : Nat) (v : Mask) : (g.setPred p v).vregs = g.vregs := rfl
@[simp] theorem Group.setPred_bad (g : Group) (p : Nat) (v : Mask) : (g.setPred p v).bad = g.bad := rfl
@[simp] theorem Group.setPred_sregs (g : Group) (p : Nat) (v : Mask) : (g.setPred p v).sregs = g.sregs := rfl
@[simp] theorem Group.setPred_stack (g : Group) (p : Nat) (v : Mask) : (g.setPred p v).stack = g.stack := rfl
@[simp] theorem Group.setPred_fflags (g : Group) (p : Nat) (v : Mask) : (g.setPred p v).fflags = g.fflags := rfl
@[simp] theorem Group.setPred_sig (g : Group) (p : Nat) (v : Mask) : (g.setPred p v).sig = g.sig := rfl
@[simp] theorem Group.setPred_cause (g : Group) (p : Nat) (v : Mask) : (g.setPred p v).cause = g.cause := rfl
@[simp] theorem Group.setPred_epc (g : Group) (p : Nat) (v : Mask) : (g.setPred p v).epc = g.epc := rfl
@[simp] theorem Group.setPred_tval (g : Group) (p : Nat) (v : Mask) : (g.setPred p v).tval = g.tval := rfl
@[simp] theorem Group.setPred_aside (g : Group) (p : Nat) (v : Mask) : (g.setPred p v).aside = g.aside := rfl
@[simp] theorem Group.setPred_bypass (g : Group) (p : Nat) (v : Mask) : (g.setPred p v).bypass = g.bypass := rfl
@[simp] theorem Group.setPred_issued (g : Group) (p : Nat) (v : Mask) : (g.setPred p v).issued = g.issued := rfl
@[simp] theorem Group.setPred_dist (g : Group) (p : Nat) (v : Mask) : (g.setPred p v).dist = g.dist := rfl
@[simp] theorem Group.setPred_last (g : Group) (p : Nat) (v : Mask) : (g.setPred p v).last = g.last := rfl
@[simp] theorem Group.setPred_producers (g : Group) (p : Nat) (v : Mask) : (g.setPred p v).producers = g.producers := rfl
@[simp] theorem Group.setPred_readyAt (g : Group) (p : Nat) (v : Mask) : (g.setPred p v).readyAt = g.readyAt := rfl
@[simp] theorem Group.setPred_pend (g : Group) (p : Nat) (v : Mask) : (g.setPred p v).pend = g.pend := rfl
@[simp] theorem Group.setPred_deferred (g : Group) (p : Nat) (v : Mask) : (g.setPred p v).deferred = g.deferred := rfl
@[simp] theorem Group.setPred_acks (g : Group) (p : Nat) (v : Mask) : (g.setPred p v).acks = g.acks := rfl
@[simp] theorem Group.setPred_lost (g : Group) (p : Nat) (v : Mask) : (g.setPred p v).lost = g.lost := rfl
@[simp] theorem Group.setPred_cp (g : Group) (p : Nat) (v : Mask) : (g.setPred p v).cp = g.cp := rfl
@[simp] theorem Group.setPred_mx (g : Group) (p : Nat) (v : Mask) : (g.setPred p v).mx = g.mx := rfl
@[simp] theorem Group.setPred_cb (g : Group) (p : Nat) (v : Mask) : (g.setPred p v).cb = g.cb := rfl
@[simp] theorem Group.setPred_rm (g : Group) (p : Nat) (v : Mask) : (g.setPred p v).rm = g.rm := rfl
@[simp] theorem Group.setPred_slots (g : Group) (p : Nat) (v : Mask) : (g.setPred p v).slots = g.slots := rfl
@[simp] theorem Group.setPred_gang (g : Group) (p : Nat) (v : Mask) : (g.setPred p v).gang = g.gang := rfl
@[simp] theorem Group.setPred_reserved (g : Group) (p : Nat) (v : Mask) : (g.setPred p v).reserved = g.reserved := rfl
@[simp] theorem Group.setPred_passFails (g : Group) (p : Nat) (v : Mask) : (g.setPred p v).passFails = g.passFails := rfl
@[simp] theorem Group.setPred_withdrawn (g : Group) (p : Nat) (v : Mask) : (g.setPred p v).withdrawn = g.withdrawn := rfl
@[simp] theorem Group.setPred_xswap (g : Group) (p : Nat) (v : Mask) : (g.setPred p v).xswap = g.xswap := rfl
@[simp] theorem Group.setPred_reads (g : Group) (p : Nat) (v : Mask) : (g.setPred p v).reads = g.reads := rfl
@[simp] theorem Group.setPred_pubs (g : Group) (p : Nat) (v : Mask) : (g.setPred p v).pubs = g.pubs := rfl
@[simp] theorem Group.setPred_backlog (g : Group) (p : Nat) (v : Mask) : (g.setPred p v).backlog = g.backlog := rfl
@[simp] theorem Group.setPred_spillOk (g : Group) (p : Nat) (v : Mask) : (g.setPred p v).spillOk = g.spillOk := rfl
@[simp] theorem Group.setPred_missAt (g : Group) (p : Nat) (v : Mask) : (g.setPred p v).missAt = g.missAt := rfl
@[simp] theorem Group.setPred_replies (g : Group) (p : Nat) (v : Mask) : (g.setPred p v).replies = g.replies := rfl
@[simp] theorem Group.setPred_active (g : Group) (p : Nat) (v : Mask) : (g.setPred p v).active = g.active := rfl
@[simp] theorem Group.setPred_since (g : Group) (p : Nat) (v : Mask) : (g.setPred p v).since = g.since := rfl
@[simp] theorem Group.setPred_readySince (g : Group) (p : Nat) (v : Mask) : (g.setPred p v).readySince = g.readySince := rfl
@[simp] theorem Group.setPred_born (g : Group) (p : Nat) (v : Mask) : (g.setPred p v).born = g.born := rfl
@[simp] theorem Group.setPred_wait (g : Group) (p : Nat) (v : Mask) : (g.setPred p v).wait = g.wait := rfl
@[simp] theorem Group.setPred_leave (g : Group) (p : Nat) (v : Mask) : (g.setPred p v).leave = g.leave := rfl
@[simp] theorem Group.setPred_stopAt (g : Group) (p : Nat) (v : Mask) : (g.setPred p v).stopAt = g.stopAt := rfl
@[simp] theorem Group.setPred_stopped (g : Group) (p : Nat) (v : Mask) : (g.setPred p v).stopped = g.stopped := rfl
@[simp] theorem Group.setPred_safe (g : Group) (p : Nat) (v : Mask) : (g.setPred p v).safe = g.safe := rfl
@[simp] theorem Group.setPred_halted (g : Group) (p : Nat) (v : Mask) : (g.setPred p v).halted = g.halted := rfl
@[simp] theorem Group.setPred_done (g : Group) (p : Nat) (v : Mask) : (g.setPred p v).done = g.done := rfl
@[simp] theorem Group.setPred_waveTime (g : Group) (p : Nat) (v : Mask) : (g.setPred p v).waveTime = g.waveTime := rfl

@[simp] theorem Group.setEm_id (g : Group) (v : Mask) : (g.setEm v).id = g.id := rfl
@[simp] theorem Group.setEm_width (g : Group) (v : Mask) : (g.setEm v).width = g.width := rfl
@[simp] theorem Group.setEm_core (g : Group) (v : Mask) : (g.setEm v).core = g.core := rfl
@[simp] theorem Group.setEm_resident (g : Group) (v : Mask) : (g.setEm v).resident = g.resident := rfl
@[simp] theorem Group.setEm_item0 (g : Group) (v : Mask) : (g.setEm v).item0 = g.item0 := rfl
@[simp] theorem Group.setEm_pos (g : Group) (v : Mask) : (g.setEm v).pos = g.pos := rfl
@[simp] theorem Group.setEm_live (g : Group) (v : Mask) : (g.setEm v).live = g.live := rfl
@[simp] theorem Group.setEm_path (g : Group) (v : Mask) : (g.setEm v).path = g.path := rfl
@[simp] theorem Group.setEm_n (g : Group) (v : Mask) : (g.setEm v).n = g.n := rfl
@[simp] theorem Group.setEm_vregs (g : Group) (v : Mask) : (g.setEm v).vregs = g.vregs := rfl
@[simp] theorem Group.setEm_bad (g : Group) (v : Mask) : (g.setEm v).bad = g.bad := rfl
@[simp] theorem Group.setEm_sregs (g : Group) (v : Mask) : (g.setEm v).sregs = g.sregs := rfl
@[simp] theorem Group.setEm_preds (g : Group) (v : Mask) : (g.setEm v).preds = g.preds := rfl
@[simp] theorem Group.setEm_stack (g : Group) (v : Mask) : (g.setEm v).stack = g.stack := rfl
@[simp] theorem Group.setEm_fflags (g : Group) (v : Mask) : (g.setEm v).fflags = g.fflags := rfl
@[simp] theorem Group.setEm_sig (g : Group) (v : Mask) : (g.setEm v).sig = g.sig := rfl
@[simp] theorem Group.setEm_cause (g : Group) (v : Mask) : (g.setEm v).cause = g.cause := rfl
@[simp] theorem Group.setEm_epc (g : Group) (v : Mask) : (g.setEm v).epc = g.epc := rfl
@[simp] theorem Group.setEm_tval (g : Group) (v : Mask) : (g.setEm v).tval = g.tval := rfl
@[simp] theorem Group.setEm_aside (g : Group) (v : Mask) : (g.setEm v).aside = g.aside := rfl
@[simp] theorem Group.setEm_bypass (g : Group) (v : Mask) : (g.setEm v).bypass = g.bypass := rfl
@[simp] theorem Group.setEm_issued (g : Group) (v : Mask) : (g.setEm v).issued = g.issued := rfl
@[simp] theorem Group.setEm_dist (g : Group) (v : Mask) : (g.setEm v).dist = g.dist := rfl
@[simp] theorem Group.setEm_last (g : Group) (v : Mask) : (g.setEm v).last = g.last := rfl
@[simp] theorem Group.setEm_producers (g : Group) (v : Mask) : (g.setEm v).producers = g.producers := rfl
@[simp] theorem Group.setEm_readyAt (g : Group) (v : Mask) : (g.setEm v).readyAt = g.readyAt := rfl
@[simp] theorem Group.setEm_pend (g : Group) (v : Mask) : (g.setEm v).pend = g.pend := rfl
@[simp] theorem Group.setEm_deferred (g : Group) (v : Mask) : (g.setEm v).deferred = g.deferred := rfl
@[simp] theorem Group.setEm_acks (g : Group) (v : Mask) : (g.setEm v).acks = g.acks := rfl
@[simp] theorem Group.setEm_lost (g : Group) (v : Mask) : (g.setEm v).lost = g.lost := rfl
@[simp] theorem Group.setEm_cp (g : Group) (v : Mask) : (g.setEm v).cp = g.cp := rfl
@[simp] theorem Group.setEm_mx (g : Group) (v : Mask) : (g.setEm v).mx = g.mx := rfl
@[simp] theorem Group.setEm_cb (g : Group) (v : Mask) : (g.setEm v).cb = g.cb := rfl
@[simp] theorem Group.setEm_rm (g : Group) (v : Mask) : (g.setEm v).rm = g.rm := rfl
@[simp] theorem Group.setEm_slots (g : Group) (v : Mask) : (g.setEm v).slots = g.slots := rfl
@[simp] theorem Group.setEm_gang (g : Group) (v : Mask) : (g.setEm v).gang = g.gang := rfl
@[simp] theorem Group.setEm_reserved (g : Group) (v : Mask) : (g.setEm v).reserved = g.reserved := rfl
@[simp] theorem Group.setEm_passFails (g : Group) (v : Mask) : (g.setEm v).passFails = g.passFails := rfl
@[simp] theorem Group.setEm_withdrawn (g : Group) (v : Mask) : (g.setEm v).withdrawn = g.withdrawn := rfl
@[simp] theorem Group.setEm_xswap (g : Group) (v : Mask) : (g.setEm v).xswap = g.xswap := rfl
@[simp] theorem Group.setEm_reads (g : Group) (v : Mask) : (g.setEm v).reads = g.reads := rfl
@[simp] theorem Group.setEm_pubs (g : Group) (v : Mask) : (g.setEm v).pubs = g.pubs := rfl
@[simp] theorem Group.setEm_backlog (g : Group) (v : Mask) : (g.setEm v).backlog = g.backlog := rfl
@[simp] theorem Group.setEm_spillOk (g : Group) (v : Mask) : (g.setEm v).spillOk = g.spillOk := rfl
@[simp] theorem Group.setEm_missAt (g : Group) (v : Mask) : (g.setEm v).missAt = g.missAt := rfl
@[simp] theorem Group.setEm_replies (g : Group) (v : Mask) : (g.setEm v).replies = g.replies := rfl
@[simp] theorem Group.setEm_active (g : Group) (v : Mask) : (g.setEm v).active = g.active := rfl
@[simp] theorem Group.setEm_since (g : Group) (v : Mask) : (g.setEm v).since = g.since := rfl
@[simp] theorem Group.setEm_readySince (g : Group) (v : Mask) : (g.setEm v).readySince = g.readySince := rfl
@[simp] theorem Group.setEm_born (g : Group) (v : Mask) : (g.setEm v).born = g.born := rfl
@[simp] theorem Group.setEm_wait (g : Group) (v : Mask) : (g.setEm v).wait = g.wait := rfl
@[simp] theorem Group.setEm_leave (g : Group) (v : Mask) : (g.setEm v).leave = g.leave := rfl
@[simp] theorem Group.setEm_stopAt (g : Group) (v : Mask) : (g.setEm v).stopAt = g.stopAt := rfl
@[simp] theorem Group.setEm_stopped (g : Group) (v : Mask) : (g.setEm v).stopped = g.stopped := rfl
@[simp] theorem Group.setEm_safe (g : Group) (v : Mask) : (g.setEm v).safe = g.safe := rfl
@[simp] theorem Group.setEm_halted (g : Group) (v : Mask) : (g.setEm v).halted = g.halted := rfl
@[simp] theorem Group.setEm_done (g : Group) (v : Mask) : (g.setEm v).done = g.done := rfl
@[simp] theorem Group.setEm_waveTime (g : Group) (v : Mask) : (g.setEm v).waveTime = g.waveTime := rfl

@[simp] theorem Group.raise_id (g : Group) (f : Flags) : (g.raise f).id = g.id := rfl
@[simp] theorem Group.raise_width (g : Group) (f : Flags) : (g.raise f).width = g.width := rfl
@[simp] theorem Group.raise_core (g : Group) (f : Flags) : (g.raise f).core = g.core := rfl
@[simp] theorem Group.raise_resident (g : Group) (f : Flags) : (g.raise f).resident = g.resident := rfl
@[simp] theorem Group.raise_item0 (g : Group) (f : Flags) : (g.raise f).item0 = g.item0 := rfl
@[simp] theorem Group.raise_pos (g : Group) (f : Flags) : (g.raise f).pos = g.pos := rfl
@[simp] theorem Group.raise_em (g : Group) (f : Flags) : (g.raise f).em = g.em := rfl
@[simp] theorem Group.raise_live (g : Group) (f : Flags) : (g.raise f).live = g.live := rfl
@[simp] theorem Group.raise_path (g : Group) (f : Flags) : (g.raise f).path = g.path := rfl
@[simp] theorem Group.raise_n (g : Group) (f : Flags) : (g.raise f).n = g.n := rfl
@[simp] theorem Group.raise_vregs (g : Group) (f : Flags) : (g.raise f).vregs = g.vregs := rfl
@[simp] theorem Group.raise_bad (g : Group) (f : Flags) : (g.raise f).bad = g.bad := rfl
@[simp] theorem Group.raise_sregs (g : Group) (f : Flags) : (g.raise f).sregs = g.sregs := rfl
@[simp] theorem Group.raise_preds (g : Group) (f : Flags) : (g.raise f).preds = g.preds := rfl
@[simp] theorem Group.raise_stack (g : Group) (f : Flags) : (g.raise f).stack = g.stack := rfl
@[simp] theorem Group.raise_sig (g : Group) (f : Flags) : (g.raise f).sig = g.sig := rfl
@[simp] theorem Group.raise_cause (g : Group) (f : Flags) : (g.raise f).cause = g.cause := rfl
@[simp] theorem Group.raise_epc (g : Group) (f : Flags) : (g.raise f).epc = g.epc := rfl
@[simp] theorem Group.raise_tval (g : Group) (f : Flags) : (g.raise f).tval = g.tval := rfl
@[simp] theorem Group.raise_aside (g : Group) (f : Flags) : (g.raise f).aside = g.aside := rfl
@[simp] theorem Group.raise_bypass (g : Group) (f : Flags) : (g.raise f).bypass = g.bypass := rfl
@[simp] theorem Group.raise_issued (g : Group) (f : Flags) : (g.raise f).issued = g.issued := rfl
@[simp] theorem Group.raise_dist (g : Group) (f : Flags) : (g.raise f).dist = g.dist := rfl
@[simp] theorem Group.raise_last (g : Group) (f : Flags) : (g.raise f).last = g.last := rfl
@[simp] theorem Group.raise_producers (g : Group) (f : Flags) : (g.raise f).producers = g.producers := rfl
@[simp] theorem Group.raise_readyAt (g : Group) (f : Flags) : (g.raise f).readyAt = g.readyAt := rfl
@[simp] theorem Group.raise_pend (g : Group) (f : Flags) : (g.raise f).pend = g.pend := rfl
@[simp] theorem Group.raise_deferred (g : Group) (f : Flags) : (g.raise f).deferred = g.deferred := rfl
@[simp] theorem Group.raise_acks (g : Group) (f : Flags) : (g.raise f).acks = g.acks := rfl
@[simp] theorem Group.raise_lost (g : Group) (f : Flags) : (g.raise f).lost = g.lost := rfl
@[simp] theorem Group.raise_cp (g : Group) (f : Flags) : (g.raise f).cp = g.cp := rfl
@[simp] theorem Group.raise_mx (g : Group) (f : Flags) : (g.raise f).mx = g.mx := rfl
@[simp] theorem Group.raise_cb (g : Group) (f : Flags) : (g.raise f).cb = g.cb := rfl
@[simp] theorem Group.raise_rm (g : Group) (f : Flags) : (g.raise f).rm = g.rm := rfl
@[simp] theorem Group.raise_slots (g : Group) (f : Flags) : (g.raise f).slots = g.slots := rfl
@[simp] theorem Group.raise_gang (g : Group) (f : Flags) : (g.raise f).gang = g.gang := rfl
@[simp] theorem Group.raise_reserved (g : Group) (f : Flags) : (g.raise f).reserved = g.reserved := rfl
@[simp] theorem Group.raise_passFails (g : Group) (f : Flags) : (g.raise f).passFails = g.passFails := rfl
@[simp] theorem Group.raise_withdrawn (g : Group) (f : Flags) : (g.raise f).withdrawn = g.withdrawn := rfl
@[simp] theorem Group.raise_xswap (g : Group) (f : Flags) : (g.raise f).xswap = g.xswap := rfl
@[simp] theorem Group.raise_reads (g : Group) (f : Flags) : (g.raise f).reads = g.reads := rfl
@[simp] theorem Group.raise_pubs (g : Group) (f : Flags) : (g.raise f).pubs = g.pubs := rfl
@[simp] theorem Group.raise_backlog (g : Group) (f : Flags) : (g.raise f).backlog = g.backlog := rfl
@[simp] theorem Group.raise_spillOk (g : Group) (f : Flags) : (g.raise f).spillOk = g.spillOk := rfl
@[simp] theorem Group.raise_missAt (g : Group) (f : Flags) : (g.raise f).missAt = g.missAt := rfl
@[simp] theorem Group.raise_replies (g : Group) (f : Flags) : (g.raise f).replies = g.replies := rfl
@[simp] theorem Group.raise_active (g : Group) (f : Flags) : (g.raise f).active = g.active := rfl
@[simp] theorem Group.raise_since (g : Group) (f : Flags) : (g.raise f).since = g.since := rfl
@[simp] theorem Group.raise_readySince (g : Group) (f : Flags) : (g.raise f).readySince = g.readySince := rfl
@[simp] theorem Group.raise_born (g : Group) (f : Flags) : (g.raise f).born = g.born := rfl
@[simp] theorem Group.raise_wait (g : Group) (f : Flags) : (g.raise f).wait = g.wait := rfl
@[simp] theorem Group.raise_leave (g : Group) (f : Flags) : (g.raise f).leave = g.leave := rfl
@[simp] theorem Group.raise_stopAt (g : Group) (f : Flags) : (g.raise f).stopAt = g.stopAt := rfl
@[simp] theorem Group.raise_stopped (g : Group) (f : Flags) : (g.raise f).stopped = g.stopped := rfl
@[simp] theorem Group.raise_safe (g : Group) (f : Flags) : (g.raise f).safe = g.safe := rfl
@[simp] theorem Group.raise_halted (g : Group) (f : Flags) : (g.raise f).halted = g.halted := rfl
@[simp] theorem Group.raise_done (g : Group) (f : Flags) : (g.raise f).done = g.done := rfl
@[simp] theorem Group.raise_waveTime (g : Group) (f : Flags) : (g.raise f).waveTime = g.waveTime := rfl

end Sys2Proof.Machine
end

