-- ==== Sys2Proof/Tests/Slice0.lean ====
section
/-! SUPPORT. Checks of the model on small states: what `wellFormed` refuses, words of the manual decoded, states
that meet the premises of the statements, and single steps. -/

namespace Sys2Proof.Tests

-- One theorem after the other: each is checked by evaluation, and many at once would ask for too many threads.
set_option Elab.async false

open Sys2Proof.Machine

/-! ### Helpers -/

/-- No stall and no guard. -/
def h0 : Head := ⟨0, none⟩
/-- A plain vector destination. -/
def dst (r : BitVec 8) : VDst := ⟨r, false, false⟩
/-- A plain operand A. -/
def srcA (r : BitVec 8) : VSrc := ⟨r, 0⟩
/-- An address s2 + 0. -/
def mem0 : MPlain := ⟨2, none, .ofs 0⟩

/-- The header of a clause that holds one instruction. -/
def hwOf (i : Instr) : Word := probeHeader (encode i).length

/-- A group of 64 lanes that stands at slot 0 of that clause. -/
def grp (i : Instr) : Group :=
  { Group.fresh probeGroup 64 0 0 256 probeBase (BitVec.allOnes 64) 0 with pos := .slot probeBase 0 (hwOf i), active := true }

/-- A combiner wave that stands there. -/
def wav (i : Instr) : Group :=
  { Group.fresh (.wave 0 64) 32 0 0 32 probeBase (BitVec.ofNat 64 3) 0 with pos := .slot probeBase 0 (hwOf i), active := true }

/-- The part at reset with one launch and one group. -/
def st (g : Group) (l : Launch := probeLaunch) : State :=
  { State.reset with cur := g.id, launches := [l], groups := [g] }

/-- An instruction without guard acts for a group of the launch. -/
abbrev ActsAt (i : Instr) (g : Group) (l : Launch := probeLaunch) (s : State := st g l) : Prop :=
  Acts i h0 s g l probeBase 0 (hwOf i)

/-- What one step of an instruction leaves of its group. -/
def after (i : Instr) (s : State) : Option Group :=
  match exec i s with
  | .next t => t.group? s.cur
  | _ => none

/-! ### `wellFormed` refuses an ill-formed term of each check -/

theorem test_wf_pair_destination : wellFormed (.iadd ⟨h0, .s64, false, dst 5, srcA 6, .vec 8⟩) = false := by decide
theorem test_wf_pair_source_a : wellFormed (.iadd ⟨h0, .s64, false, dst 4, srcA 7, .vec 8⟩) = false := by decide
theorem test_wf_pair_source_b : wellFormed (.iadd ⟨h0, .s64, false, dst 4, srcA 6, .vec 9⟩) = false := by decide
theorem test_wf_pair_source_c : wellFormed (.imad ⟨h0, .n64, false, dst 4, srcA 6, .vec 8, .vec 9⟩) = false := by decide
theorem test_wf_pub_and_transient : wellFormed (.iadd ⟨h0, .s32, false, ⟨4, true, true⟩, srcA 6, .vec 8⟩) = false := by decide
theorem test_wf_pub_of_a_pair : wellFormed (.iadd ⟨h0, .s64, false, ⟨4, true, false⟩, srcA 6, .vec 8⟩) = false := by decide
theorem test_wf_runner_read_of_a_pair : wellFormed (.iadd ⟨h0, .s64, false, dst 4, ⟨6, 1⟩, .vec 8⟩) = false := by decide
theorem test_wf_types : [Instr.iadd ⟨h0, .f32, false, dst 4, srcA 6, .vec 8⟩, .iabs ⟨h0, .n32, false, dst 4, srcA 6⟩,
    .and ⟨h0, .s32, false, dst 4, srcA 6, .vec 8⟩, .bfx ⟨h0, .s8, false, dst 4, srcA 6, .vec 8⟩,
    .permb ⟨h0, .n64, false, dst 4, srcA 6, .vec 8, .vec 9⟩, .lea ⟨h0, .s32, 0, dst 4, srcA 6, .vec 8⟩,
    .movi ⟨h0, .s32, dst 4, 1⟩, .cvti ⟨h0, .f32, .s32, false, dst 4, srcA 6⟩, .fadd ⟨h0, .s32, .rne, dst 4, srcA 6, .vec 8⟩,
    .fcvt ⟨h0, .s32, .n32, .rne, dst 4, srcA 6⟩, .dot4 ⟨h0, .s32, false, dst 4, srcA 6, .vec 8, .vec 9⟩,
    .dot8 ⟨h0, .s8, false, dst 4, srcA 6, .vec 8, .vec 9⟩, .bdot ⟨h0, .f32, .rne, dst 4, srcA 6, .vec 8, .vec 9⟩,
    .ld ⟨h0, .s4, .dflt, 4, .plain mem0⟩, .lds ⟨h0, .s4, 4, .record 0 2 6⟩,
    .modadd ⟨h0, .chan 0, .s64, dst 4, srcA 6, .vec 8, none⟩, .fclass ⟨h0, .s32, false, dst 4, srcA 6⟩].all
      (fun i => !wellFormed i) = true := by decide
theorem test_wf_saturation : wellFormed (.imulh ⟨h0, .s32, true, dst 4, srcA 6, .vec 8⟩) = false := by decide
theorem test_wf_comparison : wellFormed (.isetp ⟨h0, .nan, .s32, 0, srcA 6, .vec 8⟩) = false := by decide
theorem test_wf_scalar_comparison : wellFormed (.ssetp ⟨h0, .num, true, 0, .s 1, .imm 0⟩) = false := by decide
theorem test_wf_modulus_channel : wellFormed (.modred ⟨h0, .chan 10, .s32, dst 4, srcA 6, none⟩) = false := by decide
theorem test_wf_modulus_operand : wellFormed (.modred ⟨h0, .operand, .s32, dst 4, srcA 6, none⟩) = false := by decide
theorem test_wf_modulus_immediate : wellFormed (.modaddVI ⟨h0, .operand, .s32, dst 4, srcA 6, 1⟩) = false := by decide
theorem test_wf_rounding_of_min : wellFormed (.fmin ⟨h0, .f32, .rup, dst 4, srcA 6, .vec 8⟩) = false := by decide
theorem test_wf_reduction_type : wellFormed (.lred ⟨h0, .fadd, .rne, .s32, dst 4, 6⟩) = false := by decide
theorem test_wf_scan_operation : wellFormed (.lscan ⟨h0, .minidx, .rne, .s32, false, dst 4, 6⟩) = false := by decide
theorem test_wf_clear_of_no_flags : wellFormed (.gets ⟨h0, true, 4, .lane⟩) = false := by decide
theorem test_wf_special_to_scalar : wellFormed (.gets ⟨h0, false, 64, .clock⟩) = false := by decide
theorem test_wf_guarded_join : wellFormed (.join ⟨⟨0, some ⟨false, 0⟩⟩⟩) = false := by decide
theorem test_wf_atomic_type : wellFormed (.atom ⟨h0, .add .s8, false, .device, 4, mem0⟩) = false := by decide
theorem test_wf_atomic_quad : wellFormed (.atom ⟨h0, .cas true, false, .device, 6, mem0⟩) = false := by decide
theorem test_wf_atomic_channel : wellFormed (.red ⟨h0, .radd 10, false, .device, 4, mem0⟩) = false := by decide
theorem test_wf_local_atomic_scope : wellFormed (.atom ⟨h0, .add .s32, true, .device, 4, mem0⟩) = false := by decide
theorem test_wf_gang : [Instr.gang ⟨h0, 3, 0, 0⟩, .gang ⟨h0, 0, 3, 0⟩].all (fun i => !wellFormed i) = true := by decide
theorem test_wf_scale : wellFormed (.mscale ⟨h0, 0, 63⟩) = false := by decide
theorem test_wf_drain_pair : wellFormed (.drain ⟨h0, some .s64, 0, 5, 1, .rne, false, 0⟩) = false := by decide
theorem test_wf_image_scope : [Instr.acst ⟨h0, 0, 2, some .group, false⟩, .acst ⟨h0, 0, 2, some .pod, true⟩].all
    (fun i => !wellFormed i) = true := by decide
theorem test_wf_barrier : [Instr.bar ⟨h0, 22, .imm 1⟩, .bara ⟨h0, 4, 22, .imm 1⟩, .barw ⟨h0, 22, 4⟩].all
    (fun i => !wellFormed i) = true := by decide
theorem test_wf_call_pairs : wellFormed (.ocall ⟨h0, 5, 6, 8⟩) = false := by decide

/-! ### Every instruction with words acts in some state: one sample of each -/

/-- Class 0. -/
def samples0 : List Instr := [
  .iadd ⟨h0, .s32, false, dst 4, srcA 6, .vec 8⟩, .isub ⟨h0, .s64, false, dst 4, srcA 6, .scal 3⟩,
  .imul ⟨h0, .n32, true, dst 4, srcA 6, .lit 7⟩, .imulh ⟨h0, .s32, false, dst 4, srcA 6, .vec 8⟩,
  .imad ⟨h0, .s32, false, dst 4, srcA 6, .vec 8, .vec 9⟩, .idiv ⟨h0, .s32, false, dst 4, srcA 6, .vec 8⟩,
  .irem ⟨h0, .s32, false, dst 4, srcA 6, .vec 8⟩, .imin ⟨h0, .s8, false, dst 4, srcA 6, .vec 8⟩,
  .imax ⟨h0, .n16, false, dst 4, srcA 6, .vec 8⟩, .iabs ⟨h0, .s32, false, dst 4, srcA 6⟩,
  .ineg ⟨h0, .s32, false, dst 4, srcA 6⟩, .iclamp ⟨h0, .s32, false, dst 4, srcA 6, .vec 8, .scal 9⟩,
  .and ⟨h0, .b32, false, dst 4, srcA 6, .vec 8⟩, .or ⟨h0, .b32, false, dst 4, srcA 6, .vec 8⟩,
  .xor ⟨h0, .b32, false, dst 4, srcA 6, .vec 8⟩, .andn ⟨h0, .b32, false, dst 4, srcA 6, .vec 8⟩,
  .shl ⟨h0, .b32, false, dst 4, srcA 6, .vec 8⟩, .shr ⟨h0, .b32, false, dst 4, srcA 6, .vec 8⟩,
  .sar ⟨h0, .b32, false, dst 4, srcA 6, .vec 8⟩, .rot ⟨h0, .b32, false, dst 4, srcA 6, .vec 8⟩,
  .popc ⟨h0, .b32, false, dst 4, srcA 6⟩, .clz ⟨h0, .n64, false, dst 4, srcA 6⟩, .ctz ⟨h0, .b32, false, dst 4, srcA 6⟩,
  .brev ⟨h0, .n64, false, dst 4, srcA 6⟩, .bfx ⟨h0, .s32, false, dst 4, srcA 6, .vec 8⟩,
  .bfi ⟨h0, .b32, false, dst 4, srcA 6, .vec 8, .vec 9⟩, .permb ⟨h0, .b32, false, dst 4, srcA 6, .vec 8, .vec 9⟩,
  .isetp ⟨h0, .lt, .s32, 1, srcA 6, .vec 8⟩, .sel ⟨h0, .b32, false, 1, dst 4, srcA 6, .vec 8⟩,
  .mov ⟨h0, .b32, dst 4, .vec (srcA 6)⟩, .movi ⟨h0, .b32, dst 4, 9⟩, .movi ⟨h0, .n64, dst 4, 9⟩,
  .cvti ⟨h0, .s64, .s32, false, dst 4, srcA 6⟩, .lea ⟨h0, .n64, 2, dst 4, srcA 6, .vec 8⟩,
  .modred ⟨h0, .chan 9, .s32, dst 4, srcA 6, none⟩, .modadd ⟨h0, .operand, .s32, dst 4, srcA 6, .vec 8, some (.vec 9)⟩,
  .modmul ⟨h0, .chan 0, .n32, dst 4, srcA 6, .vec 8, none⟩]

/-- Class 0 in format VI. -/
def samplesVI : List Instr := [
  .iaddVI ⟨h0, .s32, false, dst 4, srcA 6, 1⟩, .isubVI ⟨h0, .s32, false, dst 4, srcA 6, 1⟩,
  .imulVI ⟨h0, .s32, false, dst 4, srcA 6, 1⟩, .iminVI ⟨h0, .s32, false, dst 4, srcA 6, 1⟩,
  .imaxVI ⟨h0, .s32, false, dst 4, srcA 6, 1⟩, .andVI ⟨h0, .b32, false, dst 4, srcA 6, 1⟩,
  .orVI ⟨h0, .b32, false, dst 4, srcA 6, 1⟩, .xorVI ⟨h0, .b32, false, dst 4, srcA 6, 1⟩,
  .andnVI ⟨h0, .n64, false, dst 4, srcA 6, 1⟩, .shlVI ⟨h0, .b32, false, dst 4, srcA 6, 1⟩,
  .shrVI ⟨h0, .b32, false, dst 4, srcA 6, 1⟩, .sarVI ⟨h0, .b32, false, dst 4, srcA 6, 1⟩,
  .rotVI ⟨h0, .b32, false, dst 4, srcA 6, 1⟩, .bfxVI ⟨h0, .s32, false, dst 4, srcA 6, 0x804⟩,
  .isetpVI ⟨h0, .ge, .s32, 1, srcA 6, 1⟩, .modredVI ⟨h0, .operand, .s32, dst 4, srcA 6, 13⟩,
  .modaddVI ⟨h0, .chan 9, .s32, dst 4, srcA 6, 1⟩, .modmulVI ⟨h0, .chan 0, .s32, dst 4, srcA 6, 1⟩]

/-- Class 1 without XSWAP. -/
def samples1 : List Instr := [
  .fadd ⟨h0, .f32, .rne, dst 4, srcA 6, .vec 8⟩, .fsub ⟨h0, .f64, .rtz, dst 4, srcA 6, .vec 8⟩,
  .fmul ⟨h0, .f32, .rdn, dst 4, srcA 6, .vec 8⟩, .ffma ⟨h0, .f32, .rup, dst 4, srcA 6, .vec 8, .vec 9⟩,
  .fmin ⟨h0, .f32, .rne, dst 4, srcA 6, .vec 8⟩, .fmax ⟨h0, .f32, .rne, dst 4, srcA 6, .vec 8⟩,
  .fsetp ⟨h0, .num, .f64, 1, srcA 6, .vec 8⟩, .fdiv ⟨h0, .f32, .rne, dst 4, srcA 6, .vec 8⟩,
  .fsqrt ⟨h0, .f32, .rne, dst 4, srcA 6⟩, .frcp ⟨h0, .f32, .rne, dst 4, srcA 6⟩, .fexp2 ⟨h0, .f32, .rne, dst 4, srcA 6⟩,
  .flog2 ⟨h0, .f32, .rne, dst 4, srcA 6⟩, .fcvt ⟨h0, .f32, .s32, .rne, dst 4, srcA 6⟩,
  .fround ⟨h0, .f32, .rne, dst 4, srcA 6⟩, .fclass ⟨h0, .f32, false, dst 4, srcA 6⟩,
  .dot4 ⟨h0, .s8, false, dst 4, srcA 6, .vec 8, .vec 9⟩, .dot8 ⟨h0, .s4, false, dst 4, srcA 6, .vec 8, .vec 9⟩,
  .dotc4 ⟨h0, 1, false, dst 4, srcA 6, .vec 8, .vec 9⟩, .bdot ⟨h0, .s8, .rne, dst 4, srcA 6, .vec 8, .vec 9⟩,
  .cdec ⟨h0, .s32 2, 1, dst 4, srcA 6⟩, .bitunpk ⟨h0, true, dst 4, 6, .vec 8, .vec 9⟩,
  .shfl ⟨h0, .down, false, dst 4, 6, .lit 1⟩, .vote ⟨h0, .ballot (dst 4), false, 1⟩,
  .lred ⟨h0, .add, .rne, .s32, dst 4, 6⟩, .lscan ⟨h0, .max, .rne, .s32, true, dst 4, 6⟩]

/-- Class 2, registers. -/
def samplesS : List Instr := [
  .sadd ⟨h0, .s 4, .s 5, .imm 1⟩, .ssub ⟨h0, .s 4, .s 5, .reg .em⟩, .smul ⟨h0, .s 4, .s 5, .lit 3⟩,
  .sand ⟨h0, .em, .s 5, .imm 1⟩, .sor ⟨h0, .s 4, .s 5, .imm 1⟩, .sxor ⟨h0, .s 4, .s 5, .imm 1⟩,
  .sshl ⟨h0, .s 4, .s 5, .imm 64⟩, .sshr ⟨h0, true, .s 4, .s 5, .imm 64⟩, .smov ⟨h0, .s 4, .em⟩, .smovl ⟨h0, .s 4, 7⟩,
  .ssetp ⟨h0, .lt, true, 1, .s 5, .imm 1⟩, .vget ⟨h0, .s32, .s 4, 6, .imm 0⟩, .vput ⟨h0, true, 6, .s 4, .imm 63⟩,
  .gets ⟨h0, false, 4, .item⟩, .gets ⟨h0, true, 4, .fflags⟩, .plog ⟨h0, 6, .p 1, .p 2, .p 3⟩,
  .plog ⟨h0, 6, .em, .p 2, .em⟩, .nop ⟨h0⟩]

/-- Class 2, control. -/
def samplesC : List Instr := [
  .bra ⟨h0, 2⟩, .brd ⟨h0, 1, false, 4, 8⟩, .join ⟨h0⟩, .call ⟨h0, 4, .label 2⟩, .call ⟨h0, 4, .reg 5⟩, .ret ⟨h0, 5⟩,
  .bri ⟨h0, 5, 2, 1⟩, .bri ⟨h0, 5, 2, 0⟩, .loop ⟨h0, 5, 2⟩, .exit ⟨h0, none⟩, .exit ⟨h0, some ⟨false, 1⟩⟩,
  .safe ⟨h0, 1, 1⟩, .sigchk ⟨h0, 0⟩, .sigchk ⟨h0, 5⟩, .yield ⟨h0⟩, .wgrow ⟨h0, .imm 256⟩, .wshrink ⟨h0, .imm 128⟩,
  .wgrow ⟨h0, .imm 5⟩, .wshrink ⟨h0, .imm 260⟩]

/-- Class 3. -/
def samplesM : List Instr := [
  .ld ⟨h0, .s32, .dflt, 4, .plain mem0⟩, .st ⟨h0, .b32, .bypass, 4, .plain mem0⟩, .lds ⟨h0, .s32, 4, .plain mem0⟩,
  .sts ⟨h0, .s32, 4, .plain mem0⟩, .atom ⟨h0, .cas false, false, .device, 4, mem0⟩,
  .red ⟨h0, .add .s32, true, .team, 4, mem0⟩, .fence ⟨h0, .acq, .team⟩, .fence ⟨h0, .rel, .device⟩,
  .fence ⟨h0, .full, .system⟩, .fence ⟨h0, .rel, .group⟩, .pref ⟨h0, .l2, mem0⟩, .cflush ⟨h0, true, mem0⟩,
  .cinv ⟨h0, false, mem0⟩, .fetch ⟨h0, 4, 2, .ofs 0⟩, .post ⟨h0, 4, 2, .ofs 0⟩]

/-- Classes 4 and 5. -/
def samplesP : List Instr := [
  .cpy ⟨h0, .g2g, 0, 1, 8, 12, 16⟩, .cpym ⟨h0, false, 0, 1, 8, 12, 16, 3⟩, .land ⟨h0, 3, none⟩, .land ⟨h0, 3, some ⟨8, 9, 10⟩⟩,
  .landw ⟨h0, 3⟩, .sealb ⟨h0, .cp⟩, .waitb ⟨h0, .mx, 0⟩, .yieldb ⟨h0, .rm, 0, 2⟩, .cstat ⟨h0, 2, 8⟩, .cbld ⟨h0, 1, 2, 3⟩,
  .gang ⟨h0, 0, 0, 8⟩, .mzero ⟨h0, .acc64, .s64, 2, 8⟩, .rel ⟨h0, 2⟩, .acq ⟨h0, 2⟩,
  .mma ⟨h0, .s8, .s8, .acc64, .s64, 2, 0, 64, 0, false, 0⟩, .mscale ⟨h0, 2, 3⟩, .drain ⟨h0, some .s32, 2, 4, 8, .rne, false, 0⟩,
  .drainm ⟨h0, false, 2, 1, 8, .rne, false, 0⟩, .acst ⟨h0, 2, 8, none, false⟩, .acld ⟨h0, false, .acc64, .s64, 2, 8, false⟩,
  .mstat ⟨h0, 8, 2⟩, .cont ⟨h0, 8⟩, .minj ⟨h0, .soft, 2, 8⟩]

/-- Classes 6 and 7. -/
def samplesZ : List Instr := [
  .bar ⟨h0, 0, .imm 1⟩, .bara ⟨h0, 4, 0, .imm 1⟩, .barw ⟨h0, 0, 4⟩, .barq ⟨h0, 0, 4⟩, .binit ⟨h0, 0, .imm 1⟩,
  .objreg ⟨h0, 8⟩, .objdel ⟨h0, 8⟩, .ocall ⟨h0, 4, 6, 8⟩, .orel ⟨h0, 8⟩, .creply ⟨h0, 4⟩, .cdone ⟨h0⟩,
  .trap ⟨h0, 7⟩, .rtt ⟨h0, .plain⟩, .bkpt ⟨h0, 7⟩, .halt ⟨h0⟩, .launch ⟨h0, 8, 9⟩, .sets ⟨h0, 8⟩, .tlbinv ⟨h0, none⟩,
  .tlbinv ⟨h0, some 8⟩, .pres ⟨h0, 8, none⟩]

theorem wit_class0_acts : ∀ i ∈ samples0, ActsAt i (grp i) := by decide +kernel
theorem wit_vi_acts : ∀ i ∈ samplesVI, ActsAt i (grp i) := by decide +kernel
theorem wit_class1_acts : ∀ i ∈ samples1, ActsAt i (grp i) := by decide +kernel
theorem wit_scalar_acts : ∀ i ∈ samplesS, ActsAt i (grp i) := by decide +kernel
theorem wit_control_acts : ∀ i ∈ samplesC, ActsAt i (grp i) := by decide +kernel
theorem wit_memory_acts : ∀ i ∈ samplesM, ActsAt i (grp i) := by decide +kernel
theorem wit_copy_and_matrix_acts : ∀ i ∈ samplesP, ActsAt i (grp i) := by decide +kernel
theorem wit_system_acts : ∀ i ∈ samplesZ, ActsAt i (grp i) := by decide +kernel
theorem wit_xswap_acts : ActsAt (.xswap ⟨h0, false, 4, 6, 8⟩) (grp (.xswap ⟨h0, false, 4, 6, 8⟩)) := by decide +kernel
theorem wit_pub_acts : let l := { probeLaunch with record := probeLaunch.record ||| BitVec.ofNat 2048 (2 ^ 226 + 2 ^ 202 + 4 * 2 ^ 704) }
    ActsAt (.pub ⟨h0, 4⟩) (grp (.pub ⟨h0, 4⟩)) l := by decide +kernel

/-! ### Premises of the statements: issue, lanes, scalars and control -/

/-- The clause's words that the next step fetches for the group placed by `withFetchWord`. -/
def fetched (w : Nat) : Option (List Word) :=
  let s := State.reset.withFetchWord 64 w
  match s.group? probeGroup with
  | some g => if s.agenda = [.issue probeGroup] ∧ g.pos = .slot probeBase 0 (probeHeader 1) ∧ g.runs = true then
      (match ({ s with agenda := [] } : State).fetchSlot 0 probeBase 0 (probeHeader 1) with
        | .ok (_, ws) => some ws
        | .error _ => none)
      else none
  | none => none

theorem wit_step_runs_instruction : ((fetched 0x4600000000000000).map decode).any fun x => match x with
    | .ok i => i == .nop ⟨h0⟩
    | .error _ => false := by decide +kernel
theorem wit_undecodable_word : ((fetched 0).map decode).any fun x => match x with
    | .ok _ => false
    | .error e => e == .unassigned := by decide +kernel

/-- IADD of v4 from v6 and v8. -/
def add : Instr := .iadd ⟨h0, .s32, false, dst 4, srcA 6, .vec 8⟩
/-- `add` where it breaks a rule, waits, or comes too early; no stop is due. -/
abbrev AddStands (g : Group) : Prop :=
  Stands (st g) g probeLaunch probeBase 0 (hwOf add) ∧ Unstopped add h0 (st g) g probeLaunch
theorem wit_stop_is_due : let g := { grp add with stopAt := some 0 }
    let s := { st g with clock := 4096 }
    Stands s g probeLaunch probeBase 0 (hwOf add) ∧ ¬ Unstopped add h0 s g probeLaunch ∧
      g.stopsBy (max s.clock g.readyAt) = true ∧ (grp add).stopsBy (max s.clock g.readyAt) = false ∧
      (bodyOf add).isSome = true := by decide +kernel

theorem wit_decode_breach : let g := { grp add with n := 8 }
    AddStands g ∧ sizePending g add = false ∧
      decodeFault probeLaunch g (hwOf add) 0 add (usesIn add h0 g probeLaunch) = some (Cause.window, 8) := by
  decide +kernel
theorem wit_waits_for_result : let g := { grp add with pend := [⟨1, 0, 1, .load, 0, [6], [], [], [], 0, none, [], none⟩] }
    AddStands g ∧ sizePending g add = false ∧
      decodeFault probeLaunch g (hwOf add) 0 add (usesIn add h0 g probeLaunch) = none ∧
      mustWait probeLaunch g h0 (usesIn add h0 g probeLaunch) = some .result := by decide +kernel
theorem wit_waits_for_its_size : let i := Instr.drain ⟨h0, some .s32, 2, 4, 8, .rne, false, 0⟩
    let g := { grp i with pend := [⟨1, 0, 1, .load, 0, [], [8], [], [], 0, none, [], none⟩] }
    Stands (st g) g probeLaunch probeBase 0 (hwOf i) ∧ Unstopped i h0 (st g) g probeLaunch ∧ sizePending g i = true := by decide +kernel
theorem wit_waits_for_lanes_behind : let i := Instr.fence ⟨h0, .rel, .device⟩
    let g := { grp i with backlog := [⟨0, 0, encode add, [], 2, none, false⟩] }
    Stands (st g) g probeLaunch probeBase 0 (hwOf i) ∧ Unstopped i h0 (st g) g probeLaunch ∧ sizePending g i = false ∧
      decodeFault probeLaunch g (hwOf i) 0 i (usesIn i h0 g probeLaunch) = none ∧ g.pend = [] ∧ g.deferred = [] ∧
      g.reserved = [] ∧ g.gathers probeLaunch (usesIn i h0 g probeLaunch) = true := by decide +kernel
theorem wit_issues_later : let g := { grp add with readyAt := 9 }
    AddStands g ∧ sizePending g add = false ∧
      decodeFault probeLaunch g (hwOf add) 0 add (usesIn add h0 g probeLaunch) = none ∧
      mustWait probeLaunch g h0 (usesIn add h0 g probeLaunch) = none ∧ g.startAt (usesIn add h0 g probeLaunch) = 9 := by decide +kernel

/-- A guard by p1. -/
def h1 : Head := ⟨2, some ⟨false, 1⟩⟩

theorem wit_guard_fails : ∀ i ∈ [Instr.bra ⟨h1, 2⟩, .sigchk ⟨h1, 0⟩, .trap ⟨h1, 7⟩, .bkpt ⟨h1, 7⟩, .halt ⟨h1⟩],
    Issues i h1 (st (grp i)) (grp i) probeLaunch probeBase 0 (hwOf i) ∧ (grp i).guardHolds h1 = false ∧
      (usesIn i h1 (grp i) probeLaunch).lanes = false := by decide +kernel
theorem wit_poisoned_register : let g := { grp add with bad := [192] }
    Issues add h0 (st g) g probeLaunch probeBase 0 (hwOf add) ∧ (usesIn add h0 g probeLaunch).lanes = true ∧
      dueAt g (usesIn add h0 g probeLaunch) = none ∧
      poisonedRead add h0 (usesIn add h0 g probeLaunch) g = some 0x40000600 := by decide +kernel
theorem wit_deferred_is_due : let d : Deferred := ⟨1, 80, ⟨Cause.memUncorrectable, 64⟩, [6], [], 0, 1⟩
    let g := { grp add with deferred := [d] }
    Issues add h0 (st g) g probeLaunch probeBase 0 (hwOf add) ∧ (usesIn add h0 g probeLaunch).lanes = true ∧
      dueAt g (usesIn add h0 g probeLaunch) = some d := by decide +kernel
theorem wit_nothing_stands : ∀ g l hdr j hw, ¬ Stands State.reset g l hdr j hw := by
  intro g l hdr j hw h; exact absurd h.1 (by simp [State.group?, State.reset])
theorem wit_counted_group : ∃ x, (st (grp add)).group? (grp add).id = some x := ⟨grp add, by decide +kernel⟩

theorem wit_lane_instructions : ∀ i ∈ samples0 ++ samplesVI ++ samples1,
    ((laneOf (st (grp i)) (grp i) i).map (·.1)) = some h0 ∧ (usesOf probeLaunch.layouts (grp i) i).run = none ∧
      (usesOf probeLaunch.layouts (grp i) i).pub = none ∧ (grp i).backlog = [] := by decide +kernel

/-- Integer, raw and transient operands of two sources. -/
def o32 (t : Ty) : V2 := ⟨h0, t, false, dst 4, srcA 6, .vec 8⟩

theorem wit_arithmetic : ∀ t ∈ [Ty.s32, .n32, .s64, .n64], Plain2 (o32 t) (grp (.iadd (o32 t))) ∧
    ActsAt (.iadd (o32 t)) (grp (.iadd (o32 t))) ∧ ActsAt (.isub (o32 t)) (grp (.isub (o32 t))) ∧
    ActsAt (.imul (o32 t)) (grp (.imul (o32 t))) := by decide +kernel
theorem wit_division : ∀ t ∈ [Ty.s32, .n32, .s64, .n64, .s16, .n8], Plain2 (o32 t) (grp (.idiv (o32 t))) ∧
    ActsAt (.idiv (o32 t)) (grp (.idiv (o32 t))) ∧ ActsAt (.irem (o32 t)) (grp (.idiv (o32 t))) := by decide +kernel
theorem wit_bits_and_shifts : Plain2 (o32 .b32) (grp (.and (o32 .b32))) ∧
    ∀ i ∈ [Instr.and (o32 .b32), .or (o32 .b32), .xor (o32 .b32), .andn (o32 .b32), .shl (o32 .b32), .shr (o32 .b32),
      .sar (o32 .b32), .rot (o32 .b32)], ActsAt i (grp i) := by decide +kernel
theorem wit_bit_counts : ∀ t ∈ [Ty.b32, .n64], let o : V1 := ⟨h0, t, false, dst 4, srcA 6⟩
    o.a.k = 0 ∧ ∀ i ∈ [Instr.popc o, .clz o, .ctz o, .brev o], (grp i).backlog = [] ∧ ActsAt i (grp i) := by decide +kernel
theorem wit_bit_count_word : (match decode [0x0540240406000000] with
    | .ok i => i == .popc ⟨h0, .b32, false, dst 4, srcA 6⟩
    | .error _ => false) = true := by decide +kernel
theorem wit_compare_select_move : (grp add).backlog = [] ∧
    ∀ i ∈ [Instr.isetp ⟨h0, .lt, .s32, 1, srcA 6, .vec 8⟩, .sel ⟨h0, .b32, false, 1, dst 4, srcA 6, .vec 8⟩,
      .movi ⟨h0, .b32, dst 4, 9⟩, .movi ⟨h0, .n64, dst 4, 9⟩], ActsAt i (grp i) := by decide +kernel
theorem wit_transient : let o : V2 := ⟨h0, .s32, false, ⟨4, false, true⟩, srcA 6, .vec 8⟩
    (grp (.iadd o)).bypass = [] ∧ (grp (.iadd o)).aside = none ∧ ActsAt (.iadd o) (grp (.iadd o)) := by decide +kernel
theorem wit_nan : (unpack .f32 0x7FC00000).isNan = true ∧ (unpack .f32 0).isNan = false ∧ unpack .f32 0x7F800000 = .inf false ∧
    (match unpack .f32 0 with
      | .fin _ 0 _ => true
      | _ => false) = true := by decide +kernel
theorem wit_reconstruction : -(Rns.offset .acc64 : Int) ≤ 5 ∧ (5 : Int) < (Rns.primary .acc64 : Int) - Rns.offset .acc64 ∧
    9 ∈ Rns.channels .acc64 ∧ 7 < Rns.modulus 9 ∧ 7 ≠ Rns.encode 5 9 := by decide +kernel
theorem wit_windows : isWave (grp add).id = false ∧ badSize 256 = false ∧ badSize 128 = false ∧ badSize 5 = true ∧
    badSize 260 = true ∧ (readY (grp add) (.imm 256)).toNat ≤ (grp add).n := by decide +kernel
theorem wit_window_grows : let i := Instr.wgrow ⟨h0, .imm 256⟩
    let g := { grp i with n := 4 }
    ActsAt i g ∧ storeFits ((st g).teamSizes g 256) probeLaunch.scratchSize probeLaunch.pair = true ∧
      (st g).growFits g 256 = true ∧ (st g).olderBlocked g = false := by decide +kernel
theorem wit_window_waits : let i := Instr.wgrow ⟨h0, .imm 256⟩
    let g := { grp i with n := 4 }
    let s := { st g with groups := g :: (List.range 62).map fun k => { grp add with id := .member 0 0 (k + 1), active := false } }
    ActsAt i g probeLaunch s ∧ storeFits (s.teamSizes g 256) probeLaunch.scratchSize probeLaunch.pair = false ∧
      ActsAt i g probeLaunch (st g) ∧ ({ s with groups := g :: (List.range 62).map fun k =>
        { grp add with id := .member 1 0 k, active := false } } : State).growFits g 256 = false := by decide +kernel
theorem wit_window_shrinks_not : let i := Instr.wshrink ⟨h0, .imm 4⟩
    let g := { grp i with pend := [⟨1, 0, 1, .load, 0, [6], [], [], [], 0, none, [], none⟩] }
    let r := { probeLaunch with record := probeLaunch.record ||| BitVec.ofNat 2048 (2 ^ 226 + 2 ^ 202 + 4 * 2 ^ 704) }
    ActsAt i (grp i) r ∧ (r.runner && (List.range r.nslot).any fun k => decide (4 ≤ r.rreg k)) = true ∧ ActsAt i g ∧
      (g.pend.any fun p => p.vregs.any fun x => decide (4 ≤ x)) = true ∧ probeLaunch.runner = false := by decide +kernel
theorem wit_window_in_a_wave : ∀ i ∈ [Instr.wgrow ⟨h0, .imm 32⟩, .wshrink ⟨h0, .imm 32⟩],
    isWave (wav i).id = true ∧ ActsAt i (wav i) := by decide +kernel

/-- A runner launch of one slot, v4. -/
def runL : Launch := { probeLaunch with record := probeLaunch.record ||| BitVec.ofNat 2048 (2 ^ 226 + 2 ^ 202 + 4 * 2 ^ 704) }

theorem wit_runner_lanes : let i := Instr.pub ⟨h0, 4⟩
    let g := grp i
    ActsAt i g runL ∧ (usesOf runL.layouts g i).pub = some 4 ∧ readLimit runL g h0 (usesOf runL.layouts g i) = false ∧
      g.emLanes ≠ [] ∧
      (match g.emLanes.foldl (runLane runL g h0 (usesOf runL.layouts g i) (lanePub ⟨h0, 4⟩)) (.ok ⟨st g runL, [], []⟩) with
        | .ok r => r.queued == []
        | .error _ => false) = true := by decide +kernel
theorem wit_pub_of_one_lane : let i := Instr.pub ⟨h0, 4⟩
    let g := { grp i with em := 1 }
    ActsAt i g runL ∧ g.executing h0 = [0] ∧ g.backlog = [] ∧ slotFor runL g 4 = some 0 ∧ runL.lid = lidOf g.id ∧
      (st g runL).routeOf runL g 0 0 g.spillOk = .here := by decide +kernel

theorem wit_transfers : ∀ g : Group, g = { grp (.loop ⟨h0, 5, 2⟩) with sregs := [(5, 1)] } →
    ActsAt (.loop ⟨h0, 5, 2⟩) g ∧ g.sreg 5 = 1 ∧ (grp (.loop ⟨h0, 5, 2⟩)).sreg 5 ≠ 1 ∧
      (0 : Nat) < (1 : BitVec 16).toNat ∧ (0 : BitVec 16).toNat ≤ ((grp (.bri ⟨h0, 5, 2, 0⟩)).sreg 5).toNat := by
  intro g hg; subst hg; decide +kernel

/-- A divergence entry: every lane, T of the even ones. -/
def ent (join : Addr) (taken : Bool) : DivEntry :=
  ⟨BitVec.allOnes 64, 0x5555555555555555, join, 0x20000, [], 0, taken, false, [(3, 9)], [3], []⟩

theorem wit_brd_full : let i := Instr.brd ⟨h0, 1, false, 4, 8⟩
    let g := { grp i with stack := List.replicate 16 (ent 8 false) }
    ActsAt i g ∧ 16 ≤ g.stack.length := by decide +kernel
theorem wit_brd_forks : let i := Instr.brd ⟨h0, 1, false, 4, 8⟩
    ActsAt i (grp i) ∧ (grp i).stack.length < 16 ∧ (grp i).scalarsPending = false ∧
      (grp i).em &&& ~~~((grp i).pred 1) ≠ 0 := by decide +kernel
theorem wit_brd_all_taken : let i := Instr.brd ⟨h0, 1, true, 4, 8⟩
    ActsAt i (grp i) ∧ (grp i).em &&& ~~~(~~~((grp i).pred 1)) = 0 := by decide +kernel
theorem wit_join : let i := Instr.join ⟨h0⟩
    let a := slotAddr probeBase 0
    (ActsAt i (grp i) ∧ (grp i).stack = []) ∧
    (let g := { grp i with stack := [ent 8 false] };
      ActsAt i g ∧ (ent 8 false).join ≠ a) ∧
    (let g := { grp i with stack := [ent a false] };
      ActsAt i g ∧ g.scalarsPending = false ∧ g.backlog = [] ∧ (ent a false).t ≠ 0) ∧
    (let g := { grp i with stack := [ent a true] };
      ActsAt i g ∧ g.scalarsPending = false ∧ (ent a true).taken = true) := by decide +kernel
theorem wit_exit_leaves_lanes : let i := Instr.exit ⟨h0, some ⟨false, 1⟩⟩
    let g := { grp i with preds := [(1, 1)] }
    ActsAt i g ∧ probeLaunch.runner = false ∧ g.backlog = [] ∧ g.deferred = [] ∧ g.failing = false ∧
      g.scalarsPending = false ∧ exitLanes ⟨h0, some ⟨false, 1⟩⟩ g = [0] ∧ g.em &&& ~~~(maskOf [0] fun _ => true) ≠ 0 := by decide +kernel
theorem wit_exit_of_none : exitLanes ⟨h0, some ⟨false, 1⟩⟩ (grp (.exit ⟨h0, some ⟨false, 1⟩⟩)) = [] := by decide +kernel
theorem wit_exit_of_all : let g := grp (.exit ⟨h0, none⟩)
    g.live &&& ~~~(maskOf (exitLanes ⟨h0, none⟩ g) fun _ => true) = 0 := by decide +kernel
theorem wit_exit_ends_path : let i := Instr.exit ⟨h0, none⟩
    let g := { grp i with em := 3, path := 3, stack := [ent 8 false] }
    ActsAt i g ∧ g.live &&& ~~~(maskOf (exitLanes ⟨h0, none⟩ g) fun _ => true) ≠ 0 ∧
      g.em &&& ~~~(maskOf (exitLanes ⟨h0, none⟩ g) fun _ => true) = 0 ∧ exitLanes ⟨h0, none⟩ g ≠ [] := by decide +kernel

/-- A launch with a handler 0x100 bytes above its code. -/
def trapL : Launch := { probeLaunch with record := probeLaunch.record ||| BitVec.ofNat 2048 (0x100 * 2 ^ 448) }

theorem wit_signature_differs : let i := Instr.sigchk ⟨h0, 5⟩
    ActsAt i (grp i) trapL ∧ (grp i).sig ≠ 5 ∧ (grp i).aside = none ∧ trapL.trapOfs ≠ 0 := by decide +kernel
theorem wit_safe_stops : let i := Instr.safe ⟨h0, 1, 1⟩
    let g := { grp i with stopAt := some 0 }
    ActsAt i g ∧ g.bypass = [] ∧ g.stopAt ≠ none ∧ g.guardHolds h0 = true := by decide +kernel
theorem wit_safe_in_a_window : let i := Instr.safe ⟨h0, 1, 1⟩
    let g := { grp i with issued := 5, bypass := [⟨4, 72, true, []⟩] }
    ActsAt i g ∧ g.issued ≤ 4 + 3 := by decide +kernel
theorem wit_xswap_alone : let i := Instr.xswap ⟨h0, false, 4, 6, 8⟩
    let l := { probeLaunch with record := probeLaunch.record ||| BitVec.ofNat 2048 (2 ^ 170) }
    let g := { grp i with sregs := [(8, BitVec.ofNat 64 (2 ^ 40))] }
    let y := { grp i with id := .member 0 0 1 }
    let s := { st g l with groups := [g, y] }
    ActsAt i g l s ∧ s.partnerLives l y.id = true ∧ g.xswap = none ∧ 1 < l.groupsPer ∧ y.xswap = none := by decide +kernel
theorem wit_xswap_meets : let i := Instr.xswap ⟨h0, false, 4, 6, 8⟩
    let l := { probeLaunch with record := probeLaunch.record ||| BitVec.ofNat 2048 (2 ^ 170) }
    let g := { grp i with sregs := [(8, BitVec.ofNat 64 (2 ^ 40))] }
    let y := { grp i with id := .member 0 0 1, xswap := some ⟨1, 0, 0, false, 1, [(0, 77)]⟩,
                          pend := [⟨1, 0, 1, .xswap, 0, [5], [], [], [], 0, none, [], none⟩] }
    let s := { st g l with groups := [g, y] }
    ActsAt i g l s ∧ s.partnerLives l y.id = true ∧ s.group? (.member 0 0 1) = some y := by decide +kernel
theorem wit_xswap_bad_partner : let i := Instr.xswap ⟨h0, false, 4, 6, 8⟩
    ActsAt i (grp i) ∧ GroupId.member 0 0 0 = (grp i).id := by decide +kernel
theorem wit_xswap_waits : let i := Instr.xswap ⟨h0, false, 4, 6, 8⟩
    let l := { probeLaunch with record := probeLaunch.record ||| BitVec.ofNat 2048 (2 ^ 170) }
    let g := { grp i with sregs := [(8, BitVec.ofNat 64 (2 ^ 40))], xswap := some ⟨1, 0, 1, false, 1, []⟩ }
    ActsAt i g l ∧ g.xswap ≠ none ∧ isWave (wav i).id = true ∧ ActsAt i (wav i) := by decide +kernel

/-! ### Premises of the statements: memory -/

/-- A launch with 2 KiB of scratchpad. -/
def memL : Launch := { probeLaunch with record := probeLaunch.record ||| BitVec.ofNat 2048 (2 * 2 ^ 182) }

/-- The accesses of one word a lane at s2. -/
def acc4 (g : Group) : List Access := plainAccesses g (g.executing h0) mem0 4

theorem wit_dirty_line : let s := State.reset.l1Write 0 64 false [1, 2]
    Safe s ∧ Sparse.get none (s.l1Of 0) 64 = some ⟨1, true, false, false⟩ ∧ Sparse.get none (s.l1Of 0) 70 = none := by decide +kernel

/-- A guard by a predicate that is false in every lane. -/
def hNone : Head := ⟨0, some ⟨false, 1⟩⟩

theorem wit_plain_loads : ∀ i ∈ [Instr.ld ⟨h0, .s32, .dflt, 4, .plain mem0⟩, .lds ⟨h0, .s32, 4, .plain mem0⟩],
    (grp i).backlog = [] ∧ ActsAt i (grp i) memL ∧ acc4 (grp i) ≠ [] ∧
      (st (grp i) memL).checkGlobal 0 .read (acc4 (grp i)) = none ∧
      checkAll (st (grp i) memL) (grp i) true .read (acc4 (grp i)) = none ∧
      (st (grp i) memL).windowPending (grp i) true (acc4 (grp i)) = false ∧
      ([true, false].all fun loc => match (st (grp i) memL).readAll (grp i) loc .dflt false (acc4 (grp i)) with
        | (_, .ok r) => r.length == 64
        | _ => false) = true := by decide +kernel
theorem wit_plain_access_of_no_lane : ∀ i ∈ [Instr.ld ⟨hNone, .s32, .dflt, 4, .plain mem0⟩,
      .lds ⟨hNone, .s32, 4, .plain mem0⟩, .st ⟨hNone, .b32, .dflt, 4, .plain mem0⟩, .sts ⟨hNone, .s32, 4, .plain mem0⟩,
      .atom ⟨hNone, .add .s32, false, .device, 4, mem0⟩, .red ⟨hNone, .add .s32, false, .device, 4, mem0⟩,
      .cflush ⟨hNone, true, mem0⟩, .cinv ⟨hNone, true, mem0⟩, .fence ⟨hNone, .full, .system⟩],
    Acts i hNone (st (grp i)) (grp i) probeLaunch probeBase 0 (hwOf i) ∧ (grp i).executing hNone = [] := by
  decide +kernel
theorem wit_uncorrectable_load : let i := Instr.ld ⟨h0, .s32, .dflt, 4, .plain mem0⟩
    let s := { st (grp i) with poison := [(0, 31)] }
    ActsAt i (grp i) probeLaunch s ∧ s.checkGlobal 0 .read (acc4 (grp i)) = none ∧
      (match s.readAll (grp i) false .dflt false (acc4 (grp i)) with
        | (_, .error va) => va == 0
        | _ => false) = true := by decide +kernel
theorem wit_plain_stores : ∀ i ∈ [Instr.st ⟨h0, .b32, .bypass, 4, .plain mem0⟩, .sts ⟨h0, .s32, 4, .plain mem0⟩],
    Safe (st (grp i) memL) ∧ (grp i).backlog = [] ∧ ActsAt i (grp i) memL ∧
      (st (grp i) memL).checkGlobal 0 .write (acc4 (grp i)) = none ∧
      (st (grp i) memL).checkLocal (grp i).id (acc4 (grp i)) = none ∧
      (st (grp i) memL).windowPending (grp i) true (acc4 (grp i)) = false := by decide +kernel

/-- A record of rank 1 in encoding s32. -/
def rec32 : BitVec 320 := BitVec.ofNat 320 (1 + 2 ^ 4 + 3 * 2 ^ 7)
/-- A launch with it in lay0, and one at whose s6 a full extent stands. -/
def recL : Launch := { memL with layouts := rec32 :: List.replicate 63 0 }

theorem wit_record_accesses : ∀ i ∈ [Instr.ld ⟨h0, .s32, .dflt, 4, .record 0 2 6⟩, .lds ⟨h0, .s32, 4, .record 0 2 6⟩,
      .st ⟨h0, .s32, .dflt, 4, .record 0 2 6⟩, .sts ⟨h0, .s32, 4, .record 0 2 6⟩],
    let g := { grp i with sregs := [(3, 32)] }
    let parts := (g.executing h0).map fun x => (x, recLane rec32 g 0 2 6 x)
    let acc := parts.flatMap fun p => recReads rec32 0 p.1 p.2
    g.backlog = [] ∧ ActsAt i g recL ∧ recBad rec32 .s32 2 false = false ∧ recBad rec32 .s32 2 true = false ∧
      planeMisaligned rec32 0 acc = none ∧ checkAll (st g recL) g false .read acc = none ∧
      checkAll (st g recL) g true .write acc = none ∧ (st g recL).windowPending g true acc = false ∧ parts ≠ [] ∧ acc ≠ [] ∧
      ([true, false].all fun loc => match (st g recL).readAll g loc .dflt true acc with
        | (_, .ok r) => r.length == 64
        | _ => false) = true := by decide +kernel

theorem wit_refused_accesses : ∀ i ∈ [Instr.ld ⟨h0, .s32, .dflt, 4, .plain mem0⟩, .lds ⟨h0, .s32, 4, .plain mem0⟩,
      .st ⟨h0, .s32, .dflt, 4, .plain mem0⟩, .sts ⟨h0, .s32, 4, .plain mem0⟩],
    let g := { grp i with sregs := [(2, 2)] }
    let s := { st (grp i) memL with troot := 0x100001 }
    ActsAt i g memL ∧ (st g memL).checkGlobal 0 .read (acc4 g) = some (.trap Cause.misaligned 2) ∧
      (st g memL).checkGlobal 0 .write (acc4 g) = some (.trap Cause.misaligned 2) ∧
      (st g memL).checkLocal g.id (acc4 g) = some (.trap Cause.misaligned 2) ∧
      checkAll (st g memL) g true .read (acc4 g) = some (.trap Cause.misaligned 2) ∧
      ActsAt i (grp i) memL s ∧ s.checkGlobal 0 .write (acc4 (grp i)) = some (.walk [0] true) := by decide +kernel

theorem wit_atomics : ∀ i ∈ [Instr.atom ⟨h0, .add .s32, false, .device, 4, mem0⟩,
      .red ⟨h0, .add .s32, false, .device, 4, mem0⟩, .atom ⟨h0, .add .s32, true, .team, 4, mem0⟩,
      .red ⟨h0, .add .s32, true, .team, 4, mem0⟩],
    (grp i).backlog = [] ∧ ActsAt i (grp i) memL ∧ acc4 (grp i) ≠ [] ∧
      ([true, false].all fun loc => checkAll (st (grp i) memL) (grp i) loc .both (acc4 (grp i)) == none &&
        !(st (grp i) memL).windowPending (grp i) loc (acc4 (grp i)) && match atomFails (st (grp i) memL) (grp i) loc (acc4 (grp i)) with
        | (_, none) => true
        | _ => false) = true := by decide +kernel
theorem wit_uncorrectable_atomic : ∀ i ∈ [Instr.atom ⟨h0, .add .s32, false, .device, 4, mem0⟩,
      .red ⟨h0, .add .s32, false, .device, 4, mem0⟩],
    let s := { st (grp i) memL with poison := [(0, 31)] }
    ActsAt i (grp i) memL s ∧ checkAll s (grp i) false .both (acc4 (grp i)) = none ∧
      (atomFails s (grp i) false (acc4 (grp i))).2 = some 0 := by decide +kernel
theorem wit_atomic_on_clean_memory : State.reset.poisonedSpan 64 (atomWidth (.cas false)) = false := by decide +kernel

theorem wit_fences : ∀ k ∈ [FenceKind.acq, .rel, .full], let i := Instr.fence ⟨h0, k, .device⟩
    let g := { grp i with acks := [⟨0, 0, 0, none, []⟩] }
    ((grp i).backlog = [] ∧ ActsAt i (grp i) ∧ (grp i).executing h0 ≠ [] ∧ (st (grp i)).unperformed (grp i) = false ∧ (grp i).lost = []) ∧
    (ActsAt i g ∧ (st g).unperformed g = true) ∧ ActsAt (.fence ⟨h0, k, .group⟩) (grp (.fence ⟨h0, k, .group⟩)) := by decide +kernel
theorem wit_cache_hints : ∀ i ∈ [Instr.pref ⟨h0, .l2, mem0⟩, .cflush ⟨h0, true, mem0⟩, .cinv ⟨h0, false, mem0⟩],
    let acc := plainAccesses (grp i) ((grp i).executing h0) mem0 1
    ActsAt i (grp i) ∧ acc ≠ [] ∧ (st (grp i)).checkGlobal 0 .none_ acc = none := by decide +kernel
theorem wit_line_transfers : ∀ i ∈ [Instr.fetch ⟨h0, 4, 2, .ofs 0⟩, .post ⟨h0, 4, 2, .ofs 0⟩],
    let g := grp i
    let full := { g with slots := List.range 8 }
    ActsAt i g memL ∧ xferAddr g ⟨h0, 4, 2, .ofs 0⟩ = 0 ∧ (st g memL).scratchAt g.id 0 128 = true ∧
      ([Right.read, .write].all fun r => match (st g memL).reach 0 0 r with
        | .at_ pa _ => pa == 0
        | _ => false) = true ∧ g.slots.length < 8 ∧ ActsAt i full memL ∧ 8 ≤ full.slots.length ∧
      (st g memL).localBad g.id 0 128 = false := by
  decide +kernel

theorem wit_post_of_a_poisoned_line : let i := Instr.post ⟨h0, 4, 2, .ofs 0⟩
    let l := { memL with teams := memL.teams.map fun t => { t with bad := [0] } }
    ActsAt i (grp i) l ∧ (st (grp i) l).localBad (grp i).id 0 128 = true := by decide +kernel

/-! ### Premises of the statements: batches, copies and landing slots -/

/-- A batch whose operation 0 is under way, one that is complete, and one that holds a failure. -/
def running0 : Batch := ⟨[0], [], 0⟩
def failed0 : Batch := ⟨[], [(0, ⟨Cause.protection, 64⟩)], 0⟩

theorem wit_seal : let i := Instr.sealb ⟨h0, .cp⟩
    let full := { grp i with cp := ⟨Batch.empty, List.replicate 15 running0, 15⟩ }
    (ActsAt i (grp i) ∧ ((grp i).batches .cp).incomplete < 15) ∧ ActsAt i full ∧ 15 ≤ (full.batches .cp).incomplete := by
  decide +kernel
theorem wit_waits_on_batches : ∀ c ∈ [Cls.cp, .mx, .cb, .rm], let i := Instr.waitb ⟨h0, c, 0⟩
    let busy := (grp i).setBatches c ⟨Batch.empty, [Batch.empty, running0], 2⟩
    let done := (grp i).setBatches c ⟨Batch.empty, [Batch.empty], 1⟩
    (ActsAt i busy ∧ 0 < (busy.batches c).incomplete) ∧
    (ActsAt i done ∧ (done.batches c).incomplete ≤ 0 ∧ done.lost = [] ∧ (done.batches c).failure = none) := by
  decide +kernel
theorem wit_yields_on_batches : ∀ c ∈ [Cls.cp, .mx, .cb, .rm], let y := Instr.yieldb ⟨h0, c, 0, 2⟩
    let w := Wait.yieldb c 0 (slotAddr probeBase 0) (targetOf probeBase 2)
    let busy := (grp y).setBatches c ⟨Batch.empty, [Batch.empty, running0], 2⟩
    let back := { (grp y).setBatches c ⟨Batch.empty, [Batch.empty], 1⟩ with wait := some w }
    (ActsAt y busy ∧ busy.wait ≠ some w) ∧
    (ActsAt y back ∧ back.wait = some w ∧ (back.batches c).incomplete ≤ 0 ∧ back.lost = [] ∧
      (back.batches c).failure = none) := by
  decide +kernel
theorem wit_wait_meets_a_failure : let i := Instr.waitb ⟨h0, .cp, 0⟩
    let g := { grp i with cp := ⟨Batch.empty, [failed0], 1⟩ }
    ActsAt i g ∧ (g.batches .cp).incomplete ≤ 0 ∧ g.lost = [] ∧
      (g.batches .cp).failure = some ⟨Cause.protection, 64⟩ := by decide +kernel

theorem wit_copies : ∀ i ∈ [Instr.cpy ⟨h0, .g2g, 0, 1, 8, 12, 16⟩, .cpym ⟨h0, false, 0, 1, 8, 12, 16, 3⟩,
      .cbld ⟨h0, 1, 2, 3⟩],
    let full := { st (grp i) with ops := (List.range 64).map fun n =>
      (⟨n, (grp i).id, some .cp, 0, .cbld 0 0 0 0, none, none⟩ : Op) }
    ActsAt i (grp i) ∧ isWave (grp i).id = false ∧ (grp i).sreg 16 = 0 ∧ (st (grp i)).copiesOf (grp i).id < 64 ∧
      pastScalars 8 4 = false ∧ pastScalars 12 4 = false ∧ pastScalars 16 6 = false ∧ ActsAt i (grp i) probeLaunch full ∧ 64 ≤ full.copiesOf (grp i).id ∧
      (st (grp i)).checkGlobal 0 .write [⟨0, 128, 64⟩] = none := by decide +kernel
theorem wit_cstat : let i := Instr.cstat ⟨h0, 2, 8⟩
    ActsAt i (grp i) ∧ pastScalars 8 8 = false ∧ (st (grp i)).checkGlobal 0 .read [⟨0, 0, 64⟩] = none ∧
      ((st (grp i)).gread 0 false 0 64).2 = some (List.replicate 64 0) ∧
      (({ st (grp i) with poison := [(0, 31)] } : State).gread 0 false 0 64).2 = none := by decide +kernel
theorem wit_land : let i := Instr.land ⟨h0, 3, some ⟨8, 9, 10⟩⟩
    let g := { grp i with sregs := [(8, 32), (9, 992), (10, 65535)] }
    ActsAt i g memL ∧ isWave g.id = false ∧ (g.sreg 8).toNat + (g.sreg 9).toNat ≤ memL.scratchSize ∧
      (g.sreg 10).toNat < 65536 ∧ ActsAt (.land ⟨h0, 3, none⟩) (grp (.land ⟨h0, 3, none⟩)) := by decide +kernel

/-- The one team of `memL` with slot 3 as given. -/
def landT (x : LandState) : Team :=
  { num := 0, core := 0, core2 := none, tower := 0, urgent := false, resident := true, faulted := false,
    scratch := [], bad := [], bars := [], lands := [(3, ⟨x, 0, 32, 1, 0, 0, 1⟩)], tiles := [] }

theorem wit_landw : ∀ x ∈ [LandState.filled, .armed, .idle], let i := Instr.landw ⟨h0, 3⟩
    let l := { memL with teams := [landT x] }
    ActsAt i (grp i) l ∧ isWave (grp i).id = false ∧ (st (grp i) l).team? l.lid (teamOf (grp i).id) = some (landT x) ∧
      (grp i).wait ≠ some (.filled 3) ∧ ((landT x).land 3).st = x := by decide +kernel

/-! ### Premises of the statements: matrix engines -/

/-- The part with tile 2 of pod 0 held as given. -/
def withTile2 (h : Holder) (g : Group) (l : Launch := probeLaunch) : State :=
  (st g l).setTile 0 2 { Tile.zero with holder := h }

theorem wit_tile_instructions : ∀ i ∈ [Instr.mzero ⟨h0, .acc64, .s64, 2, 8⟩, .rel ⟨h0, 2⟩, .mscale ⟨h0, 2, 3⟩,
      .mstat ⟨h0, 8, 2⟩, .cont ⟨h0, 8⟩],
    let s := withTile2 (.group (grp i).id) (grp i)
    ActsAt i (grp i) probeLaunch s ∧ (s.pod 0).stopped = false ∧ s.holds (grp i) 2 = true ∧ s.tileOp (grp i).id = none ∧
      3 ≤ (s.tile 0 2).e ∧ pastScalars 8 2 = false := by decide +kernel
theorem wit_gang : let i := Instr.gang ⟨h0, 0, 0, 8⟩
    let l := { probeLaunch with record := probeLaunch.record ||| BitVec.ofNat 2048 (2 ^ 170) }
    let w : Word := BitVec.ofNat 64 (32 + (1 + 64) * 2 ^ 11)
    let g := { grp i with sregs := [(8, w)] }
    ActsAt i g l ∧ gangOk 0 l.groupsPer w 0 ⟨1, 1, gangMembers w 0⟩ = true := by decide +kernel
theorem wit_acq : ∀ h ∈ [Holder.free, .engine 0], let i := Instr.acq ⟨h0, 2⟩
    let s := withTile2 h (grp i)
    ActsAt i (grp i) probeLaunch s ∧ (grp i).passFailure 2 = none ∧ s.tileOp (grp i).id = none ∧
      (s.pod 0).passInto 2 = false ∧ (s.tile 0 2).holder = h := by decide +kernel
theorem wit_acq_handed : let i := Instr.acq ⟨h0, 2⟩
    let g := { grp i with wait := some (.holding 2) }
    let s := withTile2 (.group g.id) g
    ActsAt i g probeLaunch s ∧ g.passFailure 2 = none ∧ s.tileOp g.id = none ∧ (s.tile 0 2).holder = .group g.id := by
  decide +kernel
theorem wit_minj : let i := Instr.minj ⟨h0, .soft, 2, 8⟩
    let l := { probeLaunch with record := probeLaunch.record ||| BitVec.ofNat 2048 (2 ^ 228) }
    let g := { grp i with sregs := [(8, BitVec.ofNat 64 (2 ^ 14 * 9 + 2 ^ 18))] }
    let s := withTile2 (.group g.id) g l
    ActsAt i g l s ∧ l.diag = true ∧ s.holds g 2 = true ∧ s.tileOp g.id = none ∧
      9 ∈ Rns.channels (s.tile 0 2).fmt ∧ 1 % Rns.modulus 9 ≠ 0 ∧ 9 ∉ (s.pod 0).retired := by decide +kernel
theorem wit_minj_retired : let i := Instr.minj ⟨h0, .soft, 2, 8⟩
    let l := { probeLaunch with record := probeLaunch.record ||| BitVec.ofNat 2048 (2 ^ 228) }
    let g := { grp i with sregs := [(8, BitVec.ofNat 64 (2 ^ 14 * 9 + 2 ^ 18))] }
    let s := (withTile2 (.group g.id) g l).onPod 0 fun p => { p with retired := [9] }
    ActsAt i g l s ∧ s.holds g 2 = true ∧ s.tileOp g.id = none ∧ 9 ∈ Rns.channels (s.tile 0 2).fmt ∧
      9 ∈ (s.pod 0).retired := by decide +kernel
theorem wit_mzero_of_a_large_e : let i := Instr.mzero ⟨h0, .acc64, .s64, 2, 8⟩
    let g := { grp i with sregs := [(8, 512)] }
    let s := withTile2 (.group g.id) g
    ActsAt i g probeLaunch s ∧ s.holds g 2 = true ∧ s.tileOp g.id = none ∧ (g.sreg 8) >>> 9 ≠ 0 ∧
      (withTile2 .free g).holds g 2 = false ∧ ActsAt i g probeLaunch (withTile2 .free g) := by decide +kernel

/-- Two groups of a gang: group 0 brings A and group 1 brings B. -/
def gang01 : Gang := ⟨1, 1, [⟨0, 1, 0, 0⟩, ⟨1, 2, 0, 0⟩]⟩

theorem wit_mma_arrives : let o : XMma := ⟨h0, .s8, .s8, .acc64, .s64, 2, 0, 64, 0, false, 0⟩
    let i := Instr.mma o
    let g := { grp i with gang := some gang01 }
    let s := { withTile2 (.engine 0) g with groups := [g, { g with id := .member 0 0 1 }] }
    ActsAt i g probeLaunch s ∧ isWave g.id = false ∧ (s.pod 0).stopped = false ∧ g.passFailure 2 = none ∧
      (∀ m ∈ gang01.members, s.isGone (.member 0 0 m.grp) = false) ∧ mmaRegs g o ≠ [] ∧ (∀ r ∈ mmaRegs g o, r < g.n) ∧ g.withdrawn = none ∧
      (mmaRegs { g with n := 4 } o).find? (fun r => decide (4 ≤ r)) ≠ none ∧ (s.tile 0 2).holder = .engine probeLaunch.lid ∧
      (s.pod 0).ungranted g.id = false ∧ (s.pod 0).latches.find? (fun y => y.expects g.id) = none ∧
      (s.pod 0).latches.length < 16 := by decide +kernel
theorem wit_mma_joins_a_latch : let o : XMma := ⟨h0, .s8, .s8, .acc64, .s64, 2, 0, 64, 0, false, 0⟩
    let i := Instr.mma o
    let g := { grp i with gang := some gang01 }
    let y : Latch := ⟨0, 0, [⟨.member 0 0 1, 0, 8, o, gang01, []⟩]⟩
    let s := { (withTile2 (.engine 0) g).onPod 0 fun p => { p with latches := [y] } with
      groups := [g, { g with id := .member 0 0 1 }] }
    ActsAt i g probeLaunch s ∧ (s.pod 0).ungranted g.id = false ∧
      (s.pod 0).latches.find? (fun y => y.expects g.id) = some y ∧
      (∀ b ∈ y.arrived.head?, (⟨g.id, s.nextOp, slotAddr probeBase 0, o, gang01, []⟩ : Arrived).agrees b = true) := by
  decide +kernel

theorem wit_drain : let o : XDrain := ⟨h0, some .s32, 2, 4, 8, .rne, false, 0⟩
    let i := Instr.drain o
    let g := { grp i with sregs := [(8, 0x100)] }
    let s := withTile2 (.group g.id) g
    ActsAt i g probeLaunch s ∧ s.tileOp g.id = none ∧ s.holds g 2 = true ∧ rowsBad (g.sreg 8) = false ∧
      drainRegs g .s32 4 8 = [4, 5] ∧ g.pend = [] ∧ g.reserved = [] := by decide +kernel
/-- A record of rank 2 in encoding s32 with rows of 512 bytes. -/
def recRows : BitVec 320 := BitVec.ofNat 320 (1 + 2 * 2 ^ 4 + 3 * 2 ^ 7 + 512 * 2 ^ 64)
theorem wit_drainm : let i := Instr.drainm ⟨h0, false, 2, 1, 8, .rne, false, 0⟩
    let l := { probeLaunch with layouts := 0 :: recRows :: List.replicate 62 0 }
    let g := { grp i with sregs := [(12, 0x8000)] }
    let s := withTile2 (.group g.id) g l
    ActsAt i g l s ∧ s.tileOp g.id = none ∧ s.holds g 2 = true ∧ drainmRecord s g recRows = true ∧
      rowsBad (g.sreg 12) = false ∧ (g.sreg 8).toNat * 8 % Rec.width (Rec.enc recRows) = 0 := by decide +kernel
theorem wit_images : ∀ i ∈ [Instr.acst ⟨h0, 2, 8, none, false⟩, .acld ⟨h0, false, .acc64, .s64, 2, 8, false⟩,
      .acld ⟨h0, true, .acc64, .s64, 2, 8, false⟩],
    let s := withTile2 (.group (grp i).id) (grp i)
    ActsAt i (grp i) probeLaunch s ∧ s.tileOp (grp i).id = none ∧ s.holds (grp i) 2 = true ∧
      imageBad probeLaunch (grp i) 0 false = none ∧ (s.pod 0).stopped = false ∧ (s.tile 0 2).fmt = .acc64 ∧
      (s.tile 0 2).td = .s64 := by decide +kernel
theorem wit_token_checks : ∀ i ∈ [Instr.rel ⟨h0, 2⟩, .drain ⟨h0, some .s32, 2, 4, 8, .rne, false, 0⟩, .mscale ⟨h0, 2, 3⟩,
      .mstat ⟨h0, 8, 2⟩, .acst ⟨h0, 2, 8, none, false⟩, .drainm ⟨h0, false, 2, 1, 8, .rne, false, 0⟩],
    ActsAt i (grp i) ∧ (st (grp i)).holds (grp i) 2 = false := by decide +kernel

/-! ### Premises of the statements: what the engines finish -/

/-- `add`'s group, and the part with one operation of it. -/
def gAdd : Group := grp add
def opSt (k : OpKind) (cls : Option Cls) (l : Launch := memL) (g : Group := gAdd) : State :=
  { st g l with ops := [⟨7, g.id, cls, 8, k, none, none⟩] }

/-- Premises that the part's engines ask of an operation of theirs. -/
abbrev Turn (s : State) (l : Launch) : Prop :=
  ∃ o, s.op? 7 = some o ∧ s.launch? (lidOf o.gid) = some l ∧ o.fault = none ∧ o.walk = none ∧ s.inTurn o = true

theorem wit_turn (k : OpKind) (l : Launch) (h : l.lid = 0) : Turn (opSt k (some .mx) l) l ∧ Turn (opSt k (some .cp) l) l := by
  have e : lidOf gAdd.id = 0 := rfl
  refine ⟨⟨_, rfl, ?_, rfl, rfl, rfl⟩, ⟨_, rfl, ?_, rfl, rfl, rfl⟩⟩ <;>
    simp [State.launch?, opSt, st, e, h]

/-- An MMA, the two members' arrivals, and their latch. -/
def mma01 : XMma := ⟨h0, .s8, .s8, .acc64, .s64, 2, 0, 64, 0, false, 0⟩
def latch01 : Latch := ⟨0, 0, [⟨.member 0 0 0, 0, 8, mma01, gang01, []⟩, ⟨.member 0 0 1, 1, 8, mma01, gang01, []⟩]⟩
theorem wit_grant : let s := (withTile2 (.engine 0) gAdd).onPod 0 fun p => { p with latches := [latch01] }
    (s.pod 0).latches[0]? = some latch01 ∧ s.launch? 0 = some probeLaunch ∧ latch01.full = true ∧
      (s.pod 0).table.length < 16 ∧ mma01.fmt = (s.tile 0 2).fmt ∧ mma01.td = (s.tile 0 2).td ∧ mma01.trp = false := by
  decide +kernel

/-- A pass that adds nothing to tile 2. -/
def pass2 : Pass := ⟨0, [(.member 0 0 0, 7)], 2, [], [], none, 0, 0, 0⟩
theorem wit_pass_starts : let s := State.reset.onPod 0 fun p => { p with table := [pass2] }
    (s.pod 0).running = none ∧ bestPass (s.pod 0).table = some pass2 := by decide +kernel
theorem wit_pass_ages : let s := { State.reset.onPod 0 fun p => { p with table := [pass2] } with clock := 4096 }
    (s.pod 0).table[0]? = some pass2 ∧ pass2.level < 8 ∧ pass2.granted + 4096 * (pass2.level - pass2.prio + 1) ≤ s.clock := by
  decide +kernel
theorem wit_pass_runs : let s := (opSt .mma (some .mx)).onPod 0 fun p => { p with running := some pass2 }
    (s.pod 0).running = some pass2 ∧ (s.op? 7).isSome = true := by decide +kernel
theorem wit_pattern_pass : ∀ hard ∈ [true, false],
    let s := State.reset.onPod 0 fun p => { p with patterns := [⟨3, [(2, 0)], hard⟩] }
    (s.pod 0).patterns = [⟨3, [(2, 0)], hard⟩] ∧ s.freeTile 0 = true ∧ 3 ∉ (s.pod 0).retired := by decide +kernel

/-- A drain of row 0 of tile 2, at the residues given. -/
def drain0 : DrainArgs := ⟨2, 0, 1, .rne, true, 0, BitVec.allOnes 64⟩
def heldTile (res : Sparse Nat) : Tile := { Tile.zero with res := res, holder := .group gAdd.id }
def drainSt (res : Sparse Nat) : State :=
  let g := { gAdd with pend := [⟨7, 0, 1, .drain 7, 8, [4, 5], [], [], [], 0, none, [], none⟩] }
  (opSt (.drain drain0 .s32 4) none memL g).setTile 0 2 (heldTile res)
theorem wit_drain_completes : let s := drainSt []
    (s.group? gAdd.id).isSome = true ∧
      (s.drainRun 0 drain0 (sinkOf (resTy .s32) .rne (drainExp (s.tile 0 2) drain0))).stop = none := by decide +kernel
theorem wit_drain_fails : let s := drainSt [(0, 1), (1, 1)]
    (s.drainRun 0 drain0 (sinkOf (resTy .s32) .rne (drainExp (s.tile 0 2) drain0))).stop =
      some (.fail ⟨Cause.matrixRange, 0⟩) := by decide +kernel

/-- A launch with a scratchpad of 256 KiB, `recRows` in lay1 and `rec32` in lay0. -/
def bigL : Launch :=
  { probeLaunch with record := probeLaunch.record ||| BitVec.ofNat 2048 (256 * 2 ^ 182)
                     layouts := rec32 :: recRows :: List.replicate 62 0 }

/-- A write into the scratchpad does not fail. -/
theorem wit_local_write_succeeds (s : State) (g : GroupId) (l : List Put) : ∃ t, s.engineWrite g true l none = (t, none) := by
  simp [State.engineWrite, State.onPeer]

theorem wit_drainm_completes :
    let s := (opSt (.drainm drain0 true ⟨1, 0, [128, 128]⟩) (some .mx) bigL).setTile 0 2 (heldTile [])
    (∀ o ∈ s.ops, s.mxStop o true .write ((rowPositions 0 1).filterMap fun p =>
      (drainmBit recRows ⟨1, 0, [128, 128]⟩ p).map (elemBytes recRows)) = none) ∧
    (s.drainRun 0 drain0 (encSink recRows (s.book 0 (Rec.book recRows)) .rne (drainExp (s.tile 0 2) drain0))).stop = none := by
  decide +kernel
theorem wit_acst_completes : let s := opSt (.acst 2 0 none true) (some .mx) bigL
    ((s.pod 0).retired.any (Rns.channels (s.tile 0 2).fmt).contains) = false ∧
      ∀ o ∈ s.ops, s.mxStop o true .write (planeLines 0 (acstChannels .acc64 false)) = none := by decide +kernel

theorem wit_acld_completes : let s := opSt (.acld 2 0 false .acc64 .s64 254 true) (some .mx) bigL
    let lines := planeLines 0 ((Rns.channels .acc64).filter fun c => !(s.pod 0).retired.contains c)
    (∀ o ∈ s.ops, s.mxStop o true .read lines = none) ∧
      (s.engineReads gAdd.id true lines).2.2 = none := by decide +kernel

/-- A copy of two s32 elements from 0x100 to 0x200. -/
def copyA : CopyArgs := ⟨false, false, ⟨0, 0x100, [2]⟩, ⟨0, 0x200, [2]⟩, 0, 0, [0], 1⟩
theorem wit_copy_completes : let s := opSt (.cpy copyA) (some .cp) bigL
    (match s.checkCopy gAdd.id 0 bigL.layouts copyA false with
      | .ok p => match s.readBox gAdd.id 0 copyA p with
        | (s1, b, none) => (s1.engineWrite gAdd.id false b.puts none).2 == none && !s.piecesHeld gAdd.id false p.src &&
            !s.piecesHeld gAdd.id false p.dst && !s.piecesHeld gAdd.id false (doneBytes 0)
        | _ => false
      | .error _ => false) = true := by decide +kernel
theorem wit_cbld_completes : let s := opSt (.cbld 1 0 0 1) (some .cp)
    let pieces := (List.range 16).map fun i => (32 * i, 32)
    s.bytesStop gAdd.id false .read pieces = none ∧ s.bytesStop gAdd.id false .write (doneBytes 0) = none ∧
      s.piecesHeld gAdd.id false (pieces ++ doneBytes 0) = false ∧ (s.engineReads gAdd.id false pieces).2.2 = none := by
  decide +kernel

/-- The same elements sent to team 0 by a CPYM, into slot 3. -/
def copyM : CopyArgs := ⟨false, true, ⟨0, 0x100, [2]⟩, ⟨0, 0, [2]⟩, 0, 0, [0], 1⟩
/-- TMASK 1, stride 1. -/
def targets0 : Word := BitVec.ofNat 64 (2 ^ 40 + 2 ^ 56)
theorem wit_cpym_reads : let s := opSt (.cpym copyM 3 targets0 none) (some .cp) bigL
    targetsBad bigL targets0 = false ∧
    (∀ o ∈ s.ops, ∀ y ∈ targetsOf targets0, (s.streamTo o y.2).length < 64) ∧
    (match s.checkCopy gAdd.id 0 bigL.layouts copyM true with
      | .ok p => match s.readBox gAdd.id 0 copyM p with
        | (_, _, none) => !s.piecesHeld gAdd.id false p.src
        | _ => false
      | .error _ => false) = true := by decide +kernel
theorem wit_cpym_ends : ∀ x ∈ [(⟨0, 0, 5, none, some 1⟩ : Arrival)], x.reason ≠ none := by decide +kernel

/-- What that CPYM has read, and the slot that it meets. -/
def box2 : BoxOut := ⟨[⟨0, 32, 5⟩, ⟨32, 32, 6⟩], false, false, false, none, 2⟩
def arrL (x : Land) : Launch := { bigL with teams := [{ landT .idle with lands := [(3, x)] }] }
theorem wit_cpym_arrival :
    (∀ d ∈ [(⟨.armed, 0, 32, 1, 0, 0, 1⟩ : Land), ⟨.idle, 0, 0, 0, 0, 0, 1⟩, ⟨.armed, 0, 32, 1, 1, 0, 1⟩], ∀ gen ∈ [none, some 1],
      let x : Arrival := ⟨0, 0, 5, gen, none⟩
      let s := opSt (.cpym copyM 3 targets0 (some (box2, [x]))) (some .cp) (arrL d)
      [x].find? (fun y => y.k == 0 && y.reason.isNone) = some x ∧
        (match s.team? 0 0 with
          | some tm => decide (tm.land 3 = d)
          | none => false) = true ∧ s.holdsArrival 0 0 3 = false ∧ ∀ o ∈ s.ops, ∀ y ∈ s.streamTo o 0, x.seq ≤ y.seq) ∧
    arrivalFits copyM true (sourceBytes bigL.layouts copyM) ⟨.armed, 0, 32, 1, 0, 0, 1⟩ (arrivalPuts box2 0) = true := by
  decide +kernel
theorem wit_book_image : (List.replicate 512 (0 : Byte)).length = 512 := List.length_replicate

/-! ### Premises of the statements: what comes back -/

theorem wit_results_land : ∀ k ∈ [PendKind.load, .atomic, .scalar], ∀ f ∈ [none, some (⟨Cause.memUncorrectable, 64⟩ : Failure)],
    let p : Pend := ⟨7, 0, 1, k, 8, [4], [], [(vkey 4 0, 9)], [], 0, f, [], none⟩
    let g := { gAdd with pend := [p] }
    let c : List (Nat × Nat) := [(0, 0)]
    (st g).group? g.id = some g ∧ g.pend.find? (fun q => q.n == 7 && q.kind == k) = some p ∧
      p.chans.any (st g).channelHeld = false ∧
      c.any ({ st g with hbm := [(0, ⟨true, [], [], [], []⟩)] } : State).channelHeld = true := by decide +kernel
theorem wit_acknowledgements : ∀ a ∈ [(⟨7, 7, 64, none, []⟩ : Ack), ⟨7, 7, 64, some (2 ^ 43 + 64), []⟩],
    let g := { gAdd with acks := [a] }
    (st g).group? g.id = some g ∧ g.acks.find? (fun x => x.n == 7) = some a ∧ (st g).linked = false ∧
      (a.peer = none → a.chans.any (st g).channelHeld = false) ∧ (st g).journal.full = false ∧
      ({ st g with partNum := some 0, stations := [(0, ⟨true, false⟩)] } : State).linked = true := by decide +kernel
theorem wit_acknowledgement_held : let a : Ack := ⟨7, 7, 64, none, [(0, 0)]⟩
    let s : State := { st { gAdd with acks := [a] } with hbm := [(0, ⟨true, [], [], [], []⟩)] }
    a.chans.any s.channelHeld = true ∧
      ({ s with journal := { s.journal with room := 1 } } : State).journal.full = true := by decide +kernel
/-- A launch whose team has a poisoned first word in its scratchpad. -/
def badL : Launch := { memL with teams := memL.teams.map fun t => { t with bad := [0] } }
theorem wit_line_transfers_end : ∀ k ∈ [OpKind.fetch 0 0 0, .post 0 0 0],
    let s := opSt k (some .rm)
    (∀ o ∈ s.ops, s.op? 7 = some o ∧ o.n = 7 ∧ o.kind = k ∧ s.inTurn o = true) ∧
      s.ops ≠ [] ∧ s.isPeer 0 = false ∧ s.poisonedSpan 0 128 = false ∧ (∀ o ∈ s.ops, s.opHeld o = false) ∧
      s.localBad gAdd.id 0 128 = false ∧ (opSt k (some .rm) badL).localBad gAdd.id 0 128 = true := by
  decide +kernel

/-! ### Premises of the statements: barriers, objects and waves -/

/-- A launch of two groups a team. -/
def twoL : Launch := { probeLaunch with record := probeLaunch.record ||| BitVec.ofNat 2048 (2 ^ 170) }

theorem wit_barriers : ∀ i ∈ [Instr.bar ⟨h0, 0, .imm 1⟩, .bar ⟨h0, 0, .imm 2⟩, .bara ⟨h0, 4, 0, .imm 1⟩,
      .bara ⟨h0, 4, 0, .imm 2⟩, .barw ⟨h0, 0, 4⟩, .barq ⟨h0, 0, 4⟩, .binit ⟨h0, 0, .imm 1⟩],
    let g := grp i
    let s := st g twoL
    ActsAt i g twoL ∧ s.barrier twoL g 0 = some (Barrier.zero, 2) ∧ badCount 1 2 Barrier.zero = false ∧
      badCount 2 2 Barrier.zero = false ∧ countOf g (.imm 1) = 1 ∧ countOf g (.imm 2) = 2 ∧
      ∀ x ∈ s.groups, ¬(sameBarrier twoL g.id x.id 0 = true ∧ x.waitsAt 0 = true) := by decide +kernel
theorem wit_barw_of_another_generation : let i := Instr.barw ⟨h0, 0, 4⟩
    let g := { grp i with sregs := [(4, 1)] }
    ActsAt i g twoL ∧ Barrier.zero.gen ≠ (g.sreg 4).setWidth 16 := by decide +kernel
theorem wit_barrier_of_a_team : let g := grp add
    isWave g.id = false ∧ (st g twoL).launch? twoL.lid = some twoL ∧
      ((st g twoL).team? twoL.lid (teamOf g.id)).isSome = true := by decide +kernel
theorem wit_barrier_count : (∀ i ∈ [Instr.bar ⟨h0, 0, .imm 0⟩, .bar ⟨h0, 0, .imm 3⟩, .bara ⟨h0, 4, 0, .imm 3⟩,
      .binit ⟨h0, 0, .imm 3⟩], ActsAt i (grp i) twoL) ∧ (st (grp add) twoL).barrier twoL (grp add) 16 = none ∧
    ∀ i ∈ [Instr.bar ⟨h0, 16, .imm 1⟩, .bara ⟨h0, 4, 16, .imm 1⟩, .barw ⟨h0, 16, 4⟩, .barq ⟨h0, 16, 4⟩, .binit ⟨h0, 16, .imm 1⟩],
      ActsAt i (grp i) twoL := by decide +kernel
/-- A BINIT of barrier 0 while the other group of the team waits there. -/
theorem wit_barrier_busy : let i := Instr.binit ⟨h0, 0, .imm 1⟩
    let w := { grp i with id := .member 0 0 1, wait := some (.barrier 0 0), active := false }
    let s := { st (grp i) twoL with groups := [grp i, w] }
    ActsAt i (grp i) twoL s ∧ s.barrier twoL (grp i) 0 = some (Barrier.zero, 2) ∧
      ∃ x ∈ s.groups, sameBarrier twoL (grp i).id x.id 0 = true ∧ x.waitsAt 0 = true := by decide +kernel

/-- An object at 0x40000, and a launch that has it. -/
def obj0 (held : Bool) (q : List Request) : Obj := ⟨0x40000, (0, 0), 64, probeBase, 4, 32, 0, q, none, held⟩
def objL (o : Obj) : Launch := { probeLaunch with objects := [o] }
def ask (n : Nat) : Request := ⟨n, .member 0 0 0, 0, 0x40000, some (0, 0), 1, 2, 0⟩

theorem wit_objdel_and_orel : ∀ i ∈ [Instr.objdel ⟨h0, 8⟩, .orel ⟨h0, 8⟩], ∀ held ∈ [true, false],
    let g := { grp i with sregs := [(8, 0x40000)] }
    let s := st g (objL (obj0 held []))
    ActsAt i g (objL (obj0 held [])) ∧ isWave g.id = false ∧ s.object? 0 0x40000 = some (obj0 held []) ∧
      (obj0 held []).wave = none ∧ (obj0 held []).queue = [] ∧ ActsAt i g probeLaunch ∧ (st g).object? 0 0x40000 = none := by
  decide +kernel

/-- The descriptor of `obj0`, cleared on registration, and the part with it at 0. -/
def desc0 : Nat := 64 + 2 ^ 20 + 0x10000 * 2 ^ 128 + 0x40000 * 2 ^ 192
theorem wit_objreg : let i := Instr.objreg ⟨h0, 8⟩
    let g := grp i
    let s := { (st g).memWrite 0 (leBytes 64 desc0) with
      tlb := [(0, [⟨0x40000, 2 ^ 16, BitVec.ofNat 64 (2 ^ 61 + 0x4001F)⟩])] }
    ActsAt i g probeLaunch s ∧ s.checkGlobal 0 .read [⟨0, 0, 64⟩] = none ∧
      (match s.gread 0 false (s.physOf 0 0).1 64 (pteObj (s.physOf 0 0).2) with
        | (s', some bs) => ofBytes bs == desc0 && !descBad desc0 && (s'.known 0 0x40000).isSome &&
            !s'.notObject 0 (descObj desc0) && !s'.registered 0x40000
        | _ => false) = true := by decide +kernel

theorem wit_ocall : let o : YOcall := ⟨h0, 4, 6, 8⟩
    let i := Instr.ocall o
    ActsAt i (grp i) ∧ isWave (grp i).id = false ∧ (grp i).executing h0 ≠ [] ∧
      (∀ r ∈ requestsOf (st (grp i)) (grp i) o 0 ((grp i).executing h0), r.obj < 2 ^ 57 ∧ ((st (grp i)).known 0 r.obj).isSome = true) ∧
      (st (grp i)).callFits (grp i) (requestsOf (st (grp i)) (grp i) o 0 ((grp i).executing h0)) = true := by decide +kernel
theorem wit_ocall_without_room : let o : YOcall := ⟨h0, 4, 6, 8⟩
    let i := Instr.ocall o
    let s := { st (grp i) with ops := [⟨7, (grp i).id, some .cb, 8, .ocall [] 4 [] (List.replicate 200 0), none, none⟩] }
    ActsAt i (grp i) probeLaunch s ∧
      s.callFits (grp i) (requestsOf s (grp i) o 0 ((grp i).executing h0)) = false := by decide +kernel
theorem wit_requests : ∀ held ∈ [true, false], let s := opSt (.ocall [ask 7] 4 [] [0]) (some .cb) (objL (obj0 held []))
    s.object? (lidOf gAdd.id) 0x40000 = some (obj0 held []) ∧ (s.op? 7).isSome = true ∧ ∀ p ∈ s.ops, ¬ p.n < 7 := by
  decide +kernel
theorem wit_replies : ∀ g ∈ [gAdd, { gAdd with live := 2 }], let s := opSt (.ocall [] 4 [(0, 5, 0)] [0]) (some .cb) memL g
    s.group? g.id = some g ∧ g.halted = false ∧ [(0, (5 : Lane), 0)].find? (fun c => c.1 == 0) = some (0, 5, 0) := by
  decide +kernel
theorem wit_wave_starts : let o := obj0 false [ask 7]
    let s := st gAdd (objL o)
    s.object? 0 0x40000 = some o ∧ s.launch? 0 = some (objL o) ∧
      (objL o).savedWhole = false ∧ o.held = false ∧ o.wave = none ∧ o.queue ≠ [] ∧ s.group? (.wave 0 0x40000) = none ∧
      (s.waveCore (o.home.1 * 32 + o.home.2) o.win).isSome = true := by decide +kernel

/-- The launch of `wav`'s wave: its object at 64 serves it for one request. -/
def wavL : Launch := { probeLaunch with objects := [⟨64, (0, 0), 64, probeBase, 4, 32, 0, [], some [ask 7], false⟩] }
theorem wit_wave_instructions :
    (let i := Instr.creply ⟨h0, 4⟩;
      ActsAt i (wav i) ∧ isWave (wav i).id = true ∧ ActsAt i (grp i) ∧ isWave (grp i).id = false) ∧
    (let i := Instr.cdone ⟨h0⟩;
      let s := { st (wav i) wavL with ops := [⟨7, .member 0 0 0, some .cb, 8, .ocall [] 4 [] [0], none, none⟩] };
      ActsAt i (wav i) wavL s ∧ (wav i).id = .wave 0 64 ∧ (wav i).deferred = [] ∧ (wav i).failing = false ∧ (s.op? 7).isSome = true ∧
        (s.object? 0 64).map (·.wave) = some (some [ask 7])) := by decide +kernel
theorem wit_wave_time : ∀ n ∈ [0, 940000], let g := { wav add with waveTime := n }
    let s := st g wavL
    s.group? (.wave 0 64) = some g ∧ (s.object? 0 64).isSome = true ∧ g.halted = false ∧ g.done = false := by decide +kernel

/-! ### Premises of the statements: traps and system instructions -/

/-- A group in its handler, which a trap entered with an empty stack. -/
def inHandler (i : Instr) (p : Pos) : Group := { grp i with aside := some ⟨p, [], 5, BitVec.allOnes 64, 0, 0, none, []⟩ }

theorem wit_trap_enters : (st gAdd trapL).group? gAdd.id = some gAdd ∧ (st gAdd trapL).launch? (lidOf gAdd.id) = some trapL ∧
    gAdd.aside = none ∧ isWave gAdd.id = false ∧ trapL.trapOfs ≠ 0 ∧ probeLaunch.trapOfs = 0 ∧
    (st gAdd).launch? (lidOf gAdd.id) = some probeLaunch ∧ (inHandler add (.header 8 none)).aside ≠ none := by decide +kernel
theorem wit_software_traps : ∀ i ∈ [Instr.trap ⟨h0, 7⟩, .bkpt ⟨h0, 7⟩, .halt ⟨h0⟩],
    ActsAt i (grp i) trapL ∧ ActsAt i (grp i) ∧ ActsAt i (inHandler i (.header 8 none)) trapL ∧ ActsAt i (wav i) ∧
      isWave (wav i).id = true ∧ isWave (grp i).id = false := by decide +kernel
theorem wit_returns : ∀ d ∈ [RttTo.plain, .skip, .reg 5, .both 5], let i := Instr.rtt ⟨h0, d⟩
    let g := inHandler i (.back probeBase 0)
    (Pos.back probeBase 0).skip 8 = some (.after probeBase 0 8) ∧ (Pos.header 8 none).skip 8 = none ∧
    let deep := { g with stack := [ent 8 false] }
    ActsAt i g ∧ g.stack.length = 0 ∧ ActsAt i (grp i) ∧ (grp i).aside = none ∧ ActsAt i deep ∧ deep.stack.length ≠ 0 ∧
      (match (st g).fetch 0 probeBase with
        | .ok _ => true
        | .error _ => false) = true := by decide +kernel

theorem wit_late_return : ∀ d ∈ [RttTo.plain, .skip, .reg 5, .both 5], let i := Instr.rtt ⟨h0, d⟩
    let g := inHandler i (.back probeBase 0)
    let late := { g with aside := some ⟨.back probeBase 0, [], 5, BitVec.allOnes 64, 0, 0, some (3, 2), [⟨3, 80, encode add, [], 2, none, false⟩]⟩ }
    ActsAt i late ∧ late.stack.length = 0 := by decide +kernel

/-- A launch record that keeps every rule: number 5, 64 lanes, 256 registers. -/
def record5 : BitVec 2048 := BitVec.ofNat 2048 (probeBase + 2 * 2 ^ 168 + 64 * 2 ^ 175 + 5 * 2 ^ 240)

theorem wit_launch_submits : let i := Instr.launch ⟨h0, 8, 9⟩
    let s := st (grp i)
    let full := { s with mem := (s.memWrite 0 (leBytes 256 record5.toNat)).mem }
    ActsAt i (grp i) ∧ ActsAt i (grp i) probeLaunch full ∧ s.unperformed (grp i) = false ∧ full.unperformed (grp i) = false ∧ (grp i).lost = [] ∧
      s.checkGlobal 0 .read (recordParts 0) = none ∧ full.checkGlobal 0 .read (recordParts 0) = none ∧
      (match (full.release 0).readRecord 0 0 with
        | (s', some bs) => BitVec.ofNat 2048 (ofBytes bs) == record5 && (s'.accept record5 none).2 == 0 &&
            !s'.mgmt.super.getLsbD (field record5 196 6)
        | _ => false) = true ∧
      (match (s.release 0).readRecord 0 0 with
        | (s', some bs) => (s'.accept (BitVec.ofNat 2048 (ofBytes bs)) none).2 != 0 &&
            (s'.accept (BitVec.ofNat 2048 (ofBytes bs)) none).1.canPost
        | _ => false) = true := by decide +kernel
theorem wit_launch_of_bad_data : let i := Instr.launch ⟨h0, 8, 9⟩
    let s := { st (grp i) with poison := [(0, 31)] }
    ActsAt i (grp i) probeLaunch s ∧ s.checkGlobal 0 .read (recordParts 0) = none ∧
      ((s.release 0).readRecord 0 0).2.isNone = true := by decide +kernel
theorem wit_launch_of_a_supervisor_queue : let i := Instr.launch ⟨h0, 8, 9⟩
    let l := { probeLaunch with supervisor := false }
    let s := { st (grp i) l with mem := ((st (grp i)).memWrite 0 (leBytes 256 (63 * 2 ^ 196))).mem }
    ActsAt i (grp i) l s ∧ s.checkGlobal 0 .read (recordParts 0) = none ∧
      (match (s.release 0).readRecord 0 0 with
        | (s', some bs) => s'.mgmt.super.getLsbD (field (BitVec.ofNat 2048 (ofBytes bs)) 196 6)
        | _ => false) = true := by decide +kernel

theorem wit_translation_instructions : ∀ i ∈ [Instr.sets ⟨h0, 8⟩, .tlbinv ⟨h0, none⟩, .tlbinv ⟨h0, some 8⟩, .pres ⟨h0, 8, none⟩,
      .pres ⟨h0, 8, some 9⟩],
    let bad := { grp i with sregs := [(8, 2)] }
    ActsAt i (grp i) ∧ (st (grp i)).unperformed (grp i) = false ∧ (grp i).lost = [] ∧ rootBad ((grp i).sreg 8) = false ∧
      ((grp i).sreg 8).toNat < 2 ^ 57 ∧ ActsAt i bad ∧ ((bad.sreg 8) >>> 1) &&& 0x7FFF ≠ 0 := by decide +kernel
theorem wit_release : let g := { gAdd with wait := some (.xlate [(64, 0)]) }
    let r := faultRecord g 64 0 false true false 8
    (st g).group? g.id = some g ∧ lidOf g.id = 0 ∧ (st g).launch? 0 = some probeLaunch ∧ probeLaunch.records = [] ∧
      g.raised 0 r = true := by decide +kernel
theorem wit_privileged : ∀ i ∈ [Instr.sets ⟨h0, 8⟩, .tlbinv ⟨h0, none⟩, .pres ⟨h0, 8, none⟩],
    let l := { probeLaunch with supervisor := false }
    Stands (st (grp i) l) (grp i) l probeBase 0 (hwOf i) ∧ Unstopped i h0 (st (grp i) l) (grp i) l ∧ l.supervisor = false ∧ legalAt (grp i) (hwOf i) 0 i = true := by
  decide +kernel

/-! ### Premises of the statements: clauses and cores -/

/-- A group before a header, and the part with that header in memory at `probeBase`. -/
def atHeader (a : Nat) : Group := { gAdd with pos := .header a none }
def stHeader (g : Group) (w : Word) : State := { st g with mem := (State.reset.memWrite probeBase (leBytes 8 w.toNat)).mem }
/-- A header that admits all, with the threshold of CP given. -/
def headerCp (n : BitVec 3) (rsv : BitVec 18) : Word :=
  Header.toWord { eclass := 0, nslot := 0, lmask := 0, wcp := n, wmx := 7, wcb := 7, wrm := 7, rsv := rsv }

/-- What the part finds at `probeBase`. -/
def headerRead (s : State) (p : Header → Bool) : Bool :=
  match s.fetch 0 probeBase with
  | .ok (_, hw) => (match Header.ofWord hw with
    | some h => p h
    | none => false)
  | .error _ => false

theorem wit_clause_entry :
    (∀ g ∈ [atHeader probeBase, atHeader (probeBase + 1)], (st g).group? g.id = some g ∧
      (st g).launch? (lidOf g.id) = some probeLaunch ∧ g.runs = true ∧ g.live ≠ 0 ∧ g.readyAt ≤ (st g).clock ∧
      g.stopsBy (st g).clock = false ∧ (g.em = 0 ∨ g.em &&& ~~~g.lagging ≠ 0) ∧ g.dues = [] ∧ g.leave = false ∧
      (st g).quantumDue g = false) ∧
    (match (st (atHeader (2 ^ 57))).fetch 0 (2 ^ 57) with
      | .error (.protect _) => true
      | _ => false) = true ∧
    (match (stHeader (atHeader probeBase) 5).fetch 0 probeBase with
      | .ok (_, hw) => (Header.ofWord hw).isNone
      | .error _ => false) = true ∧
    headerRead (stHeader (atHeader probeBase) (headerCp 7 1)) (fun h => !h.good) = true ∧
    headerRead (stHeader (atHeader probeBase) (headerCp 0 0)) (fun h => h.good && headerWaits h == [.cp] &&
      decide (h.threshold .cp < (⟨Batch.empty, [running0], 1⟩ : Batches).incomplete)) = true ∧
    headerRead (stHeader (atHeader probeBase) (headerCp 7 0)) (fun h => h.good && (headerWaits h).isEmpty) = true ∧
    headerRead (stHeader (atHeader probeBase) (headerCp 0 0)) (fun h => h.good && headerWaits h == [.cp] &&
      decide (((atHeader probeBase).batches .cp).incomplete ≤ h.threshold .cp)) = true ∧
    headerRead (stHeader { gAdd with pos := .back probeBase 0 } (headerCp 7 0)) (fun h => h.good && !h.literal 0 &&
      decide (0 < h.slots)) = true ∧
    headerRead (stHeader { gAdd with pos := .back probeBase 9 } (headerCp 7 0)) (fun h => decide (h.slots ≤ 9)) = true := by
  decide +kernel
/-- A group before a clause of one IADD of v6 and v8, with v6 under way or not (R147). -/
theorem wit_clause_reads : ∀ n ∈ [5, 6], let g := { atHeader probeBase with
      pend := [⟨1, 0, 1, .load, 0, [n], [], [], [], 0, none, [], none⟩] }
    let s := { st g with mem := (State.reset.memWrite probeBase (leBytes 8 (hwOf add).toNat ++
      leBytes 8 ((encode add).headD 0).toNat)).mem }
    headerRead s (fun h => s.clauseReads probeLaunch g probeBase (hwOf add) h == decide (n = 6)) = true := by decide +kernel
theorem wit_quantum_over : let g := atHeader probeBase
    let s := { st g with clock := 1024, groups := [g, { gAdd with id := .member 0 0 1, active := false }] }
    s.group? g.id = some g ∧ s.launch? (lidOf g.id) = some probeLaunch ∧ g.runs = true ∧ g.live ≠ 0 ∧
      g.readyAt ≤ s.clock ∧ g.stopsBy s.clock = false ∧ s.quantumDue g = true ∧ g.active = true ∧ g.alive = true ∧
      g.since + 1024 ≤ s.clock := by decide +kernel
theorem wit_deferred_at_a_boundary : let g := { atHeader probeBase with deferred := [⟨1, 80, ⟨Cause.memUncorrectable, 64⟩, [], [], 0, 1⟩] }
    (st g).group? g.id = some g ∧ (st g).launch? (lidOf g.id) = some probeLaunch ∧ g.runs = true ∧ g.dues = g.deferred ∧
      (g.deferred.all fun d => !g.olderFails d) = true := by
  decide +kernel

/-- IADD of the item before: v4 a distance of 1. -/
def addPrev : Instr := .iadd ⟨h0, .s32, false, dst 5, ⟨4, 1⟩, .vec 8⟩
theorem wit_runner_value : ∀ n ∈ [0, 64], let g := { grp addPrev with item0 := n, wait := some .runner }
    let s := { st g runL with mem := (State.reset.memWrite probeBase (leBytes 8 (hwOf addPrev).toNat ++
      leBytes 8 ((encode addPrev).headD 0).toNat)).mem }
    s.group? g.id = some g ∧ s.launch? (lidOf g.id) = some runL ∧ g.backlog = [] ∧ g.resident = true ∧
      g.stopped = false ∧ g.halted = false ∧
      (s.onGroup g.id fun x => { x with backlog := [] }).readSatisfied g runL = decide (n = 0) := by decide +kernel
/-- Lane 1 waits for lane 0's first publish, and no longer once it is made (R228, R239). -/
theorem test_waits_ahead : ∀ n ∈ [0, 1], let g := { grp addPrev with
      backlog := [⟨0, 0, encode addPrev, [], 2, none, false⟩], pubs := if n = 0 then [] else [(0, 1)] }
    g.waitsAhead runL 1 = decide (n = 0) ∧ g.waitsAhead runL 0 = false := by decide +kernel
/-- Lane 0 waits for item 63's second publish, which the first of lane 1's is no substitute for: no lane comes to a read
before the lanes below it (R235). -/
theorem test_lowest_lane_reads_first : let g := { grp addPrev with item0 := 64, wait := some .runner, pubs := [(0, 1)] }
    let s := { st g runL with mem := (State.reset.memWrite probeBase (leBytes 8 (hwOf addPrev).toNat ++
      leBytes 8 ((encode addPrev).headD 0).toNat)).mem }
    let l := { runL with publishes := [⟨64, 0, 1, 7, false, false⟩] }
    s.readSatisfied g l = false ∧
      s.readSatisfied g { l with publishes := ⟨63, 0, 1, 7, false, false⟩ :: l.publishes } = true := by decide +kernel
/-- A publish that stalls again has stalled since it first did (R233). -/
theorem test_stall_goes_on : (({ gAdd with wait := some (.publish 0 1 5) } : Group).await 9 (.publish 0 2 9)).wait =
    some (.publish 0 2 5) := rfl
theorem wit_runner_spill : let g := { gAdd with wait := some (.publish 0 1 5) }
    let b := { gAdd with backlog := [⟨0, 0, encode add, [], 2, some 5, false⟩] }
    (st g runL).group? g.id = some g ∧ (st g runL).launch? (lidOf g.id) = some runL ∧
      g.spillOk = false ∧ g.backlog = [] ∧ (st b runL).group? b.id = some b ∧ b.wait = none := by decide +kernel

/-- Groups of a core: `n` active ones and one that is ready. -/
def crowd (n : Nat) : List Group :=
  ((List.range n).map fun k => { gAdd with id := GroupId.member 0 0 (k + 1) }) ++ [{ gAdd with active := false }]
def crowdSt (n : Nat) (l : List Launch) : State := { State.reset with launches := l, groups := crowd n, clock := 9000 }
/-- An urgent launch, and a plain one under number 1. -/
def urgL : Launch := { probeLaunch with record := probeLaunch.record ||| BitVec.ofNat 2048 (2 ^ 195 + 7 * 2 ^ 192) }

theorem wit_activation : (∀ n ∈ [0, 7], ((crowdSt n [probeLaunch]).activeOn 0).length < 8 ∧
    (crowdSt n [probeLaunch]).readyOn 0 ≠ []) ∧ 8 ≤ ((crowdSt 8 [probeLaunch]).activeOn 0).length ∧
    (∃ x ∈ (crowdSt 0 [urgL]).readyOn 0, (crowdSt 0 [urgL]).isUrgent x = true) ∧
    (∀ x ∈ (crowdSt 8 [probeLaunch]).onCore 0, x.withdrawn = none) := by decide +kernel
theorem wit_aged : let s := { crowdSt 0 [probeLaunch] with groups := [{ gAdd with active := false, since := 1 }] }
    (∀ x ∈ s.readyOn 0, s.isUrgent x = false) ∧ ∃ x ∈ s.readyOn 0, s.aged x = true := by decide +kernel
theorem wit_places : let g := { gAdd with active := false }
    let s := crowdSt 8 [probeLaunch]
    gAdd.active = true ∧ gAdd.alive = true ∧ gAdd.since + 1024 ≤ s.clock ∧ s.group? g.id = some g ∧ s.ready g = true ∧
      g.readySince = none := by decide +kernel
theorem wit_displacement :
    let u := { gAdd with id := GroupId.member 0 0 0, active := false, readySince := some 8000 }
    let plain := { probeLaunch with lid := 1 }
    let others := (List.range 8).map fun k => { gAdd with id := GroupId.member 1 0 k }
    let s := { State.reset with launches := [urgL, plain], groups := others ++ [u], clock := 9000 }
    s.group? u.id = some u ∧ s.ready u = true ∧ s.isUrgent u = true ∧ 8000 + 64 ≤ s.clock ∧
      8 ≤ (s.activeOn u.core).length ∧
      (s.lowestRank ((s.activeOn u.core).filter fun y => !s.isUrgent y)).isSome = true := by decide +kernel
theorem wit_forced_stop : let g := { gAdd with stopAt := some 4 }
    let s := { st g with clock := 4100 }
    s.group? g.id = some g ∧ g.alive = true ∧ 4 + 4096 ≤ s.clock := by decide +kernel
theorem wit_stalemate : ∀ n ∈ [256, 65536], let g := { gAdd with wait := some (.store n) }
    let s := { st g with clock := 256 }
    let s1 := ((s.stalemateCores g).flatMap s.onCore).foldl
      (fun (u : State) (x : Group) => ((u.launch? (lidOf x.id)).map u.noteHeader).getD u) s
    s.oldest (s.blockedGrow 0) = some g ∧ (∀ x ∈ s.groups, x.id = g.id → x = g) ∧ s.coreMoves 0 = false ∧
      Sparse.get 0 s.coreIssue 0 + 256 ≤ s.clock ∧ s1.growFits g n = decide (n = 256) ∧
      s1.youngest (s1.victims g) = none ∧ s.rehome g n = none ∧ s1.rehome g n = none := by decide +kernel
theorem wit_stalemate_not_due : let g := { gAdd with wait := some (.store 256) }
    let s := { st g with groups := [g, { gAdd with id := .member 0 0 1, active := false }] }
    s.oldest (s.blockedGrow 0) = some g ∧ s.rehome g 256 = none ∧ s.coreMoves 0 = true ∧
      s.clock < Sparse.get 0 s.coreIssue 0 + 256 := by decide +kernel
/-- A group of a paired launch that asks for more than what its core has left; the other core has room. -/
theorem wit_rehome : let g := { gAdd with wait := some (.store 256), n := 4 }
    let l := { probeLaunch with record := probeLaunch.record ||| BitVec.ofNat 2048 (2 ^ 230) }
    let big := (List.range 29).map fun k => { gAdd with id := .member 1 0 k, n := 256, active := false }
    let s := { st g l with clock := 256, groups := g :: big }
    s.oldest (s.blockedGrow 0) = some g ∧ (∀ x ∈ s.groups, x.id = g.id → x = g) ∧ (s.rehome g 256).isSome = true := by
  decide +kernel
/-- Sizes 3, 2 and 2 fit cores with 4 and 3 of store in one way, and not with one slot on the first (R155). -/
theorem test_division : divide [(3, true), (2, true), (2, false)] 4 2 3 1 = some [false, true, true] ∧
    divide [(3, true), (2, true), (2, false)] 4 1 3 1 = none := by decide +kernel

/-! ### Premises of the statements: walks, records, the host and the peers -/

theorem wit_walks : let g := { gAdd with wait := some (.walk [64] false true) }
    let leaf : Word := BitVec.ofNat 64 (2 ^ 61 + 0x4001F)
    let on := { st g with troot := 0x100001 }
    let op : Op := ⟨7, g.id, some .cp, 8, .cbld 0 0 0 0, none, some (64, true)⟩
    let held := { on with tlb := [(0, [⟨0, 65536, leaf⟩]), (1024, [⟨0, 65536, leaf⟩])] }
    (st g).group? g.id = some g ∧ ((st g).known 0 64).isSome = true ∧ (held.known 0 64).isSome = true ∧
      (held.known 1024 64).isSome = true ∧ on.known 0 64 = none ∧ on.known 1024 64 = none ∧
      (match on.walk 64 with
        | .fail _ none => true
        | _ => false) = true ∧
      on.launch? (lidOf g.id) = some probeLaunch ∧ probeLaunch.runner = false ∧
      ({ on with ops := [op] } : State).op? op.n = some op ∧ op.walk = some (64, true) ∧ on.engineUnit op.gid = 1024 := by
  decide +kernel

/-- A record of a halt, and a launch with it and a fault queue at 0x10000, or none. -/
def rec2 : FaultRec := ⟨2, 3, 0, 0, false, false, false, false, 0, 8, 0, 0, 0, 0⟩
def recordL (fq : Nat) : Launch :=
  { probeLaunch with record := probeLaunch.record ||| BitVec.ofNat 2048 (fq * 2 ^ 576), records := [rec2] }
/-- The part with a queue header of that capacity, and PROD as given. -/
def queueSt (fq prod cap : Nat) : State :=
  { st gAdd (recordL fq) with mem := (State.reset.memWrite 0x10000 (leBytes 8 prod ++ leBytes 8 0 ++ leBytes 4 cap)).mem }

theorem wit_records : (recordL 0).fqueue = 0 ∧ (queueSt 0 0 4).launch? 0 = some (recordL 0) ∧ (queueSt 0 0 4).canPost = true ∧
    (match ((queueSt 0x10000 4 4).findQueue (recordL 0x10000).fqueue).2 with
      | .full => true
      | _ => false) = true ∧
    (match ((queueSt 0x10000 1 4).findQueue (recordL 0x10000).fqueue).2 with
      | .room _ _ pa hdr => decide (pa + 64 ≤ hdr ∨ hdr + 8 ≤ pa)
      | _ => false) = true := by decide +kernel

/-- The part with queue pair 3 established, and one registered region under rkey 5. -/
def hostSt : State := { st gAdd with qps := [3], regions := [⟨5, 0, 65536, true, true⟩] }

theorem wit_host : hostSt.established 3 = true ∧ hostSt.mgmt.hostFrozen = false ∧
    hostSt.mgmt.closed.getLsbD (field record5 196 6) = false ∧
    ({ hostSt with mgmt := { hostSt.mgmt with closed := 1 } } : State).mgmt.closed.getLsbD (field record5 196 6) = true := by
  decide +kernel
/-- A control message: OP, rights, launch, address and length. -/
def ctl (op rights lid addr len : Nat) : BitVec 512 :=
  BitVec.ofNat 512 (op + rights * 2 ^ 8 + lid * 2 ^ 48 + addr * 2 ^ 64 + len * 2 ^ 128)
/-- ABORT and RESUME of launches 0 and 9, a REGION, and an UNREGION of rkeys 5 and 6. -/
theorem wit_control_messages :
    [ctl 1 0 0 0 0, ctl 1 0 9 0 0, ctl 2 0 0 0 0, ctl 2 0 9 0 0, ctl 3 1 0 0 65536, ctl 4 0 0 5 0, ctl 4 0 0 6 0].map
      (fun m => (ctlBad m, ctlOp m)) = [(false, 1), (false, 1), (false, 2), (false, 2), (false, 3), (false, 4), (false, 4)] ∧
      hostSt.launch? (ctlLid (ctl 1 0 0 0 0)) = some probeLaunch ∧ hostSt.launch? (ctlLid (ctl 2 0 9 0 0)) = none ∧
      hostSt.regions.length < 4096 ∧ (hostSt.regions.map fun x => x.rkey.toNat) = [5] ∧ ctlAddr (ctl 4 0 0 5 0) = 5 ∧
      ctlAddr (ctl 4 0 0 6 0) = 6 := by decide +kernel
theorem wit_region_limit : 4096 ≤ (List.replicate 4096 (⟨5, 0, 65536, true, true⟩ : Region)).length := by
  simp only [List.length_replicate, Nat.le_refl]
theorem wit_abort : hostSt.launch? 0 = some probeLaunch ∧ probeLaunch.aborted = false := by decide +kernel
theorem wit_records_accepted : (Launch.make record5 0 none false [] []).recordOk = true ∧
    (Launch.make 0 0 none false [] []).recordOk = false ∧
    (match State.reset.readTable (field record5 320 57) with
      | (s', some lays) => tableOk lays && (s'.refusal (Launch.make record5 0 none false [] [])).isNone
      | _ => false) = true := by decide +kernel
theorem wit_rdma : (hostSt.rdmaPlaces 5 64 4 false).2.isSome = true ∧ hostSt.rdmaPlaces 6 64 4 false = (hostSt, none) ∧
    hostSt.rdmaPlaces 5 64 4 true = (hostSt, some [(64, false), (65, false), (66, false), (67, false)]) ∧
    [64, 65, 66, 67].Nodup ∧ hostSt.rdmaPlaces 5 65536 1 true = (hostSt, none) ∧
    (∀ a ∈ [64, 65, 66, 67], hostSt.poisoned a = false) ∧ hostSt.owed = [] := by decide +kernel

/-- The part linked, with requests of part 1 accepted. -/
def peerSt : State :=
  { State.reset with partNum := some 0, stations := [(4, ⟨true, false⟩)], mgmt := { Mgmt.made with accepted := 2 } }
/-- A load from part 2 whose answer is owed when the one station is lost. -/
theorem wit_link_loss : let g := { gAdd with pend := [⟨7, 0, 1, .load, 8, [4], [], [], [], 0, none, [], some (64, 2 * 2 ^ 43)⟩] }
    let s := { peerSt with groups := [g], launches := [probeLaunch] }
    (match exec (.linkLoss 4) s with
      | .next t => !t.linked && (t.group? g.id).map (fun y => y.pend.map (·.fail)) == some [some (badData 64)]
      | _ => false) = true ∧ s.group? g.id = some g ∧ ∀ x ∈ s.groups, x.id = g.id → x = g := by decide +kernel
theorem wit_peers : peerSt.linked = true ∧ peerSt.mgmt.accepted.getLsbD 1 = true ∧ peerSt.mgmt.accepted.getLsbD 2 = false ∧
    peerSt.peerSpan 64 8 = true ∧ peerSt.poisonedSpan 64 8 = false ∧ 64 % atomWidth (.add .s64) = 0 ∧
    atomWidth (.add .s64) = 8 ∧ (Sparse.get Station.down peerSt.stations 4).up = true := by decide +kernel

/-! ### Premises of the statements: placement, saves and ends -/

/-- A launch whose first range waits on tower 0, for any pod or for one. -/
def waitL (n : Nat) (pod : Option Nat := none) : Launch :=
  { probeLaunch with record := probeLaunch.record ||| BitVec.ofNat 2048 ((n - 1) * 2 ^ 128), teams := [], started := false
                     sentRanges := 1, ranges := [⟨0, n, 0, pod⟩] }
theorem wit_dispatch : let s := { State.reset with launches := [waitL 1] }
    s.power = true ∧ s.coreWorks 5 = true ∧ s.serviceOrder = [waitL 1] ∧ s.launch? (waitL 1).lid = some (waitL 1) ∧
      (waitL 1).cores = false ∧ (waitL 1).podset = false ∧ (waitL 1).reserves = false ∧
      (waitL 1).headsFor 5 = [.fresh ⟨0, 1, 0, none⟩] ∧ s.seatsOn (waitL 1) 5 (waitL 1).newSizes = some [5] ∧
      State.reset.serviceOrder = [] ∧ (waitL 1).width ≤ 64 := by decide +kernel
theorem wit_steal : let s := { State.reset with launches := [waitL 4] }
    s.towerBusy 1 = false ∧ s.towerWorks 1 = true ∧ s.stealable 1 = [(waitL 4, 0, 0)] := by decide +kernel
theorem wit_steal_of_a_pod : let s := { State.reset with launches := [waitL 4 (some 2)] }
    s.podRanges (3 / 32) = [(waitL 4 (some 2), ⟨0, 4, 0, some 2⟩, 2)] ∧ (podCores 3).any s.takes = true ∧
      (waitL 4 (some 2)).runner = false := by decide +kernel

/-- A launch of priority 0 with a save area of 1 MiB at 0x20000 fills core 0 of a tower that has no other core; one of
priority 3 waits. -/
def lowL : Launch := { probeLaunch with record := probeLaunch.record ||| BitVec.ofNat 2048 (0x20000 * 2 ^ 512) }
def highL : Launch :=
  { waitL 1 with lid := 1, record := (waitL 1).record ||| BitVec.ofNat 2048 (3 * 2 ^ 192 + 2 ^ 240), age := 1 }
def fullSt : State :=
  { State.reset with
    launches := [lowL, highL]
    groups := (List.range 58).map fun k => { gAdd with id := GroupId.member 0 0 k, n := 4 }
    coresOut := (List.range 127).map (· + 1)
    mem := (State.reset.memWrite 0x20000 (leBytes 8 (64 * 65536))).mem }
theorem wit_preemption : let u := fullSt.noteAreas 0
    (fullSt.unmet 0).find? (u.canMeet 0) = some (highL, some (.fresh ⟨0, 1, 0, none⟩)) ∧
      u.afterStops.meets 0 highL (some (.fresh ⟨0, 1, 0, none⟩)) = false ∧
      ((u.victimTeams highL.prio 0).find? fun y => !u.stopping y.1.lid y.2 && u.imageFits y.1 y.2).isSome = true := by
  decide +kernel
theorem wit_core_is_held : let s := (fullSt.requestStop 0)
    s.serviceOrder = highL :: s.serviceOrder.tail ∧ s.launch? highL.lid = some highL ∧ highL.cores = false ∧ highL.heads (towerOf 0) ≠ [] ∧
      (highL.headsFor 0).findSome? (s.take highL 0) = none ∧ s.heldFor highL 0 = true := by decide +kernel
theorem wit_saved_groups (x : Option (Word × Word)) : let g := { gAdd with safe := x }
    (st g).group? g.id = some g ∧ (st g).arrivedMma g.id = none := ⟨rfl, rfl⟩

/-- A group that has stopped for a save, and its team once it is saved. -/
def stoppedSt : State :=
  { st { gAdd with stopAt := some 0, stopped := true, active := false } lowL with
    mem := (State.reset.memWrite 0x20000 (leBytes 8 (16 * 65536))).mem }
theorem wit_save : stoppedSt.launch? 0 = some lowL ∧ stoppedSt.canSave lowL (stoppedSt.saveUnit lowL (some 0)) = true ∧
    stoppedSt.saveStop lowL (stoppedSt.unitImage lowL (stoppedSt.saveUnit lowL (some 0))) = none ∧
    stoppedSt.saveUnit lowL (some 0) ≠ [] := by decide +kernel
theorem wit_restore : let tm := { landT .idle with resident := false, lands := [] }
    let l := { lowL with teams := [tm], sentRanges := 1 }
    let s := { stoppedSt with launches := [l], groups := [{ gAdd with resident := false }] }
    s.power = true ∧ s.coreWorks 2 = true ∧ s.serviceOrder = [l] ∧ s.launch? l.lid = some l ∧ l.aborted = false ∧
      l.cores = false ∧ l.headsFor 2 = [.saved tm] ∧ l.heads (towerOf 2) ≠ [] ∧ tm.tower = towerOf 2 ∧
      tm.resident = false ∧ (s.restoreUnit l tm 2).isSome = true ∧ l.together tm = [tm] ∧ l.podset = false ∧
      s.podTakes l [tm] (podOf 2) = true ∧ s.podTakes l (l.together tm) (podOf 128) = false ∧ s.badImage l = none ∧
      (s.seatsOn l 2 ((s.teamGroups l.lid tm.num).map Group.bytes)).isSome = true := by decide +kernel
theorem wit_retire : let g := { gAdd with live := 0, active := false }
    (st g).group? g.id = some g ∧ (st g).over g = true ∧ (st g).quiet g = true := by decide +kernel
theorem wit_completion : let l := { probeLaunch with teams := [], ended := 1 }
    let s := { State.reset with launches := [l] }
    let d := { s.l1Write 3 64 false [5] with coreIssue := [] }
    s.launch? 0 = some l ∧ s.canPost = true ∧ l.toRefuse = false ∧ s.complete l = true ∧ s.dataHeld = false ∧ Safe d ∧
      d.complete l = true ∧ d.dataHeld = false ∧ Sparse.get none (d.l1Of 3) 64 = some ⟨5, true, false, false⟩ := by
  decide +kernel
theorem wit_pod_lost : 3 < 256 ∧ 3 ∉ State.reset.podsOut := by decide +kernel

/-! ### Premises of the statements: upkeep, power and management -/

/-- A file of a code section of one header and one word, a launch template, and one relocation of kind `k` that writes the
address of the code plus 8 into word 0 of the template (R80 to R83). -/
def mkoFile (k : Nat) : List Byte :=
  let w := leBytes 8
  w 0x1014F4B4D ++ w 64 ++ w 3 ++ List.replicate 40 0
    ++ (w 1 ++ w 160 ++ w 16 ++ w 3) ++ (w 6 ++ w 176 ++ w 256 ++ w 0) ++ (w 7 ++ w 432 ++ w 24 ++ w 0)
    ++ (w 11 ++ w 22) ++ (w (2 ^ 60) ++ List.replicate 248 0) ++ (w 0 ++ w (1 + k * 2 ^ 16) ++ w 8)
/-- R83: kind 2 keeps bits 63:57 of the word; the template's WIN, at bit 60 here, stays. -/
theorem test_object_file_loads : (Mko.load (mkoFile 2) fun _ => 0x1000).map (fun x =>
      (x.memory, x.record.toNat)) = some ([(0x1000, leBytes 8 11 ++ leBytes 8 22)], 2 ^ 60 + 0x1008) ∧
    (Mko.load (mkoFile 1) fun _ => 0x1000).map (fun x => x.record.toNat) = some 0x1008 := by decide +kernel
/-- R80, R83: another magic number, an unknown kind of relocation, and a place that is not aligned are rejected. -/
theorem test_object_file_rejected : Mko.load (0 :: (mkoFile 2).tail) (fun _ => 0x1000) = none ∧
    Mko.load (mkoFile 3) (fun _ => 0x1000) = none ∧ Mko.load (mkoFile 2) (fun _ => 0x1004) = none := by decide +kernel
theorem wit_object_files : Mko.headerOk [] = false ∧ (Mko.load (mkoFile 2) fun _ => 0x1000).isSome = true ∧
    ((Mko.sections (mkoFile 2)).bind fun l => Mko.Reloc.apply ⟨0, 1, 0, 2, 8⟩ (fun _ => 0x1000) l).isSome = true := by
  decide +kernel

/-- A register word, one of a scratchpad, and sectors of L2, the MSC and a stack. The last is the one of the manual's
worked example (R423): PART 0, tower 2, stack 0, so stack number 4. -/
theorem wit_storage_sites : let s := st gAdd memL
    s.power = true ∧ s.siteEntry (.reg gAdd.id 192 64) = some (0, 0, 64) ∧
      State.siteEntry { s with launches := [{ memL with teams := [landT .idle] }] } (.scratch 0 0 3 72) = some (0, 0, 72) ∧
      State.siteEntry { s with sectors := [(0x20003400040 / 32, ⟨0, some true, some false, false⟩)] } (.l2 64 0x20003400040 true) = some (1, 64, 0x20003400040) ∧
      State.siteEntry { s with sectors := [(0x20003400040 / 32, ⟨0, none, some false, false⟩)] } (.msc 5 0x20003400040 false) = some (2, 133, 0x20003400040) ∧
      s.siteEntry (.hbm 0x20003400040 0x3400000) = some (3, 4, 0x20003400040) := by decide +kernel
theorem wit_no_spare_left : Sparse.get 0 [((7 : Nat), (4 : Nat))] (64 * (7 / 2 ^ 14) + 7 % 64) = 4 ∧ 7 / 2 ^ 14 ∉ State.reset.coresOut ∧
    State.reset.launches = [] := by decide +kernel
/-- R416: two wrong bits in the word of lanes 0 and 1 of v6; an IADD that reads v6 traps with %tval the word's address. -/
theorem test_poisoned_register_traps :
    (match (st gAdd trapL).perform (.flaw (.reg gAdd.id 192 64) .double) with
      | .next t => (match exec add t with
        | .next u => (u.group? gAdd.id).map fun g => (g.cause, g.tval)
        | _ => none)
      | _ => none) = some (5, 0x40000600) := by decide +kernel
/-- R416: a write of v6 in both lanes clears the poison. -/
theorem test_covering_write_clears_poison :
    ((grp (.movi ⟨h0, .b32, dst 6, 1⟩)).writeAll [(vkey 6 0, 1), (vkey 6 1, 1)]).bad = [] ∧
      ({ gAdd with bad := [192, 193] }.writeAll [(vkey 6 0, 1), (vkey 6 1, 1), (vkey 6 2, 1)]).bad = [193] := by
  decide +kernel
/-- R418: two wrong symbols poison the sector, with kind 5. -/
theorem test_double_error_poisons_the_sector :
    (match State.reset.perform (.flaw (.hbm 64 0) .double) with
      | .next t => t.poison == [(2, 31)] && t.journal.entries.map (fun e => (e.kind, e.src)) == [(5, 3)]
      | _ => false) = true := by decide +kernel
/-- R417, R422: a lasting word in a bank without a spare retires its core, with kind 4 and DETAIL 1. -/
theorem test_bank_without_spare_retires_the_core :
    (match { st gAdd with launches := [], spares := [(0, 4)] }.perform (.flaw (.reg gAdd.id 192 64) (.single true)) with
      | .next t => t.coresOut == [0] && t.lasting == [] &&
          t.journal.entries.map (fun e => (e.kind, e.detail, e.unit)) == [(1, 0, 0), (3, 0, 0), (4, 1, 0)]
      | _ => false) = true := by decide +kernel

/-- R289, R418: writing one word of a poisoned sector mends that word, and the sector stays poisoned; a write of all of
it clears it. -/
theorem test_word_and_sector_mended : let s := State.reset.poisonSector 64
    (s.clearPoison 72 8).badWord 72 = false ∧ (s.clearPoison 72 8).badWord 64 = true ∧ (s.clearPoison 72 8).poisoned 72 = true ∧
      (s.clearPoison 72 4).badWord 72 = true ∧ (s.clearPoison 64 32).poison = [] := by decide +kernel
/-- R336: a reconstruction that is wrong twice makes its engine faulty: RANGE, kind 3 from source 5, and the pod is to be
retired. -/
theorem test_faulty_reconstruction :
    (match State.reset.perform (.misread 9 2) with
      | .next t => (match (t.reconstructAt 9 0 0) with
        | (u, r) => r == .range true && u.toRetire == [(.pod 9, none)] &&
          u.journal.entries.map (fun e => (e.kind, e.src, e.unit)) == [(3, 5, 9)])
      | _ => false) = true := by decide +kernel
/-- R334, R337: a residue that becomes wrong is corrected by the next drain of its element, and the fault is transient. -/
theorem test_upset_is_corrected :
    (match State.reset.perform (.upset 9 0 5 2 1 .soft) with
      | .next t => (match (t.reconstructAt 9 0 5) with
        | (u, r) => r == .corrected 2 0 && (u.tile 9 0).residue 5 2 == 0 &&
          u.journal.entries.map (fun e => (e.kind, e.detail)) == [(1, 0), (2, 1)])
      | _ => false) = true := by decide +kernel

theorem wit_memory_upkeep :
    let s := { State.reset with clock := 200000, hbm := [(2, ⟨false, [(64, 0)], [], [(32, 0)], [(96, 1), (96, 2), (96, 3)]⟩)] }
    (s.stack 2).candidates.find? (fun c => c.1 == 32) = some (32, 0) ∧ s.repairTime 0 ≤ s.clock ∧
      (s.stack 2).quiesced.find? (fun c => c.1 == 64) = some (64, 0) ∧ 0 + 188000 ≤ s.clock ∧ s.power = true ∧
      s.journal.full = false ∧ (s.stack 2).forced = false ∧
      3 ≤ ((s.stack 2).acts.filter fun a => a.1 == 96 && decide (s.clock ≤ a.2 + 30080000)).length ∧
      (({ s with hbm := [(2, ⟨true, [], [], [], []⟩)] } : State).stack 2).forced = true := by decide +kernel
/-- Answers that wait for stack 2, one of which may go. -/
theorem wit_owed : let s := { State.reset with hbm := [(2, ⟨true, [], [], [], []⟩)], owed := [⟨true, 1, [(3, 0)], .nak⟩, ⟨true, 1, [(2, 0)], .nak⟩] }
    s.channelHeld (2, 0) = true ∧ s.channelHeld (3, 0) = false := by decide +kernel
/-- R419: a row that was repaired softly is repaired hard at a reset. -/
theorem test_hard_repair : let s := { State.reset with hbm := [(2, { Stack.zero with soft := [64] })] }
    s.hardRepair.journal.entries.map (fun e => (e.kind, e.detail, e.unit)) = [(7, 2, 2)] ∧ s.hardRepair.hbm = [] := by
  decide +kernel
theorem wit_power : State.reset.power = true ∧ ({ State.reset with power := false } : State).power = false := by decide +kernel
theorem wit_upkeep : testUnitOk (.pod 3) = true ∧ peerSt.partNum ≠ none ∧
    (Sparse.get Station.down peerSt.stations 5).up = false := by decide +kernel

/-- A provisioned part, and a command frame as its controller tags it. -/
def mgmtSt : State := { State.reset with mgmt := { Mgmt.made with key := some 7, source := 9 } }
def cmd (op a b : Nat) (payload : List Byte) : Frame :=
  let hdr := BitVec.ofNat 256 (op + payload.length * 2 ^ 32 + 2 ^ 64 + a * 2 ^ 128 + b * 2 ^ 192)
  ⟨9, hdr, payload, frameTag 7 hdr payload⟩

theorem frame_is_accepted (op a b : Nat) (p : List Byte) (m : Mgmt) (hk : m.key = some 7) (hs : m.source = 9)
    (hl : m.lastSeq = none) (h1 : p.length ≤ 1024) (h2 : p.length = frameLen (cmd op a b p)) :
    m.accepts (cmd op a b p) = true := by
  have e : (cmd op a b p).payload = p := rfl
  have t : (cmd op a b p).tag = frameTag 7 (cmd op a b p).hdr p := rfl
  have r : (cmd op a b p).src = 9 := rfl
  have k : m.useKey = 7 := by simp only [Mgmt.useKey, hk, Option.getD_some]
  simp only [Mgmt.accepts, e, t, r, k, hk, hs, hl, beq_self_eq_true, Bool.and_true, decide_eq_true h1]
  simpa using h2

theorem wit_commands : ∀ x ∈ [(2, 3, 1, 0), (2, 3, 0, 0), (3, 0, 2, 0), (3, 2 ^ 63, 2 ^ 63, 0), (4, 5, 0, 0), (5, 64, 3, 0),
      (6, 0, 0, 0), (7, 0, 0, 0), (8, 0, 0, 32), (9, 4000, 0, 0), (10, 0, 0, 0), (11, 0, 0, 0), (12, 0, 0, 4), (13, 0, 0, 0)],
    let f := cmd x.1 x.2.1 x.2.2.1 (List.replicate x.2.2.2 0)
    mgmtSt.mgmt.accepts f = true ∧ mgmtSt.mgmt.frozen = false ∧ frameReserved f = false ∧ frameOp f = x.1 ∧
      frameArg0 f = x.2.1 ∧ frameArg1 f = x.2.2.1 := by
  intro x hx
  have h2 : (List.replicate x.2.2.2 (0 : Byte)).length = frameLen (cmd x.1 x.2.1 x.2.2.1 (List.replicate x.2.2.2 0)) ∧
      x.2.2.2 ≤ 1024 ∧ frameReserved (cmd x.1 x.2.1 x.2.2.1 (List.replicate x.2.2.2 0)) = false ∧
      frameOp (cmd x.1 x.2.1 x.2.2.1 (List.replicate x.2.2.2 0)) = x.1 ∧
      frameArg0 (cmd x.1 x.2.1 x.2.2.1 (List.replicate x.2.2.2 0)) = x.2.1 ∧
      frameArg1 (cmd x.1 x.2.1 x.2.2.1 (List.replicate x.2.2.2 0)) = x.2.2.1 := by
    revert x; decide +kernel
  exact ⟨frame_is_accepted _ _ _ _ _ rfl rfl rfl (by simpa using h2.2.1) h2.1, rfl, h2.2.2⟩

/-- A PROVISION: 48 bytes of key and a link-local address. -/
def provisioning : List Byte := List.replicate 46 1 ++ [0x80, 0xFE]
theorem wit_provision : let f := cmd 1 0 0 provisioning
    f.payload.length = 48 ∧ linkLocal (BitVec.ofNat 128 (ofBytes (f.payload.drop 32))) = true ∧ frameOp f = 1 ∧
      frameLen f = 48 ∧ frameReserved f = false := by decide +kernel
theorem wit_other_settings : (∀ x ∈ mgmtSt.stations, x.2.up = false) ∧ mgmtSt.launches = [] ∧ (st gAdd).launches ≠ [] ∧
    0 ∉ mgmtSt.journal.exported ∧ 0 ∈ ({ mgmtSt.journal with exported := [0] } : Journal).exported := by decide +kernel

/-! ### Words of the manual, and what they stand for -/

/-- A word decodes to an instruction. -/
def reads (w : Word) (i : Instr) : Bool := match decode [w] with
  | .ok x => x == i
  | .error _ => false

/-- Words that the manual prints beside their assembly (R175, R192, R218, R230): classes 0 to 2. -/
theorem test_words_classes_0_to_2 : [
    reads 0x1700100206FFFB00 (.isetpVI ⟨h0, .lt, .s32, 2, srcA 6, 0xFFFB⟩),
    reads 0x0700000100020002 (.isetp ⟨h0, .eq, .s32, 1, srcA 0, .scal 2⟩),
    reads 0x0240000505070008 (.imax ⟨h0, .s32, false, ⟨5, true, false⟩, srcA 5, .vec 7⟩),
    reads 0x28801C0A04000000 (.lred ⟨h0, .minidx, .rne, .s32, dst 10, 4⟩),
    reads 0x28845C1210000000 (.lred ⟨⟨0, some ⟨false, 1⟩⟩, .minidx, .rne, .s32, dst 18, 16⟩),
    reads 0x4540030000020003 (.bri ⟨h0, 3, 2, 3⟩),
    reads 0x4780000500000000 (.pub ⟨h0, 5⟩),
    reads 0x4600000000000000 (.nop ⟨h0⟩)].all id = true := by decide +kernel
/-- The same: classes 3 and 4 (R267, R277, R279, R282, R298 to R301, R311, R319). -/
theorem test_words_classes_3_and_4 : [
    reads 0x60001004081D8003 (.ld ⟨h0, .s16, .dflt, 4, .plain ⟨2, some (7, 1), .ofs 3⟩⟩),
    reads 0x6000000800088020 (.ld ⟨h0, .s32, .dflt, 8, .plain ⟨0, some (2, 0), .ofs 32⟩⟩),
    reads 0x60C4240A20000000 (.sts ⟨⟨0, some ⟨false, 0⟩⟩, .b32, 10, .plain ⟨8, none, .ofs 0⟩⟩),
    reads 0x6100200628003800 (.atom ⟨h0, .radd 8, false, .device, 6, ⟨10, none, .ofs 0⟩⟩),
    reads 0x6180000000003100 (.fence ⟨h0, .rel, .device⟩),
    reads 0x6280001550000003 (.fetch ⟨h0, 21, 20, .ofs 3⟩),
    reads 0x8100000000000030 (.sealb ⟨h0, .rm⟩), reads 0x8140000000000012 (.waitb ⟨h0, .mx, 2⟩),
    reads 0x8180000000040001 (.yieldb ⟨h0, .cp, 1, 4⟩), reads 0x81C0000007A80000 (.cstat ⟨h0, 30, 40⟩),
    reads 0x8200000001801C80 (.cbld ⟨h0, 2, 6, 7⟩)].all id = true := by decide +kernel
/-- The same: classes 5 to 7 (R344, R347, R350, R366, R370 to R372, R401). -/
theorem test_words_classes_5_to_7 : [
    reads 0xA000000000500005 (.gang ⟨h0, 1, 1, 10⟩),
    reads 0xA100088010818000 (.mma ⟨h0, .s16, .s16, .acc64, .s64, 2, 16, 48, 0, false, 0⟩),
    reads 0xA100088440000000 (.mma ⟨h0, .s16, .s16, .acc32, .s32, 0, 0, 0, 0, false, 0⟩),
    reads 0xA180000041003800 (.drain ⟨h0, some .s32, 0, 32, 7, .rne, false, 0⟩),
    reads 0xC000000000040C00 (.bar ⟨h0, 3, .imm 4⟩), reads 0xC000010000094400 (.bar ⟨h0, 17, .reg 9⟩),
    reads 0xC0400000000200C0 (.bara ⟨h0, 12, 0, .imm 2⟩), reads 0xC0800000000000C0 (.barw ⟨h0, 0, 12⟩),
    reads 0xC0C0000000005450 (.barq ⟨h0, 21, 5⟩), reads 0xC100000000040800 (.binit ⟨h0, 2, .imm 4⟩),
    reads 0xC400000000000140 (.objreg ⟨h0, 20⟩), reads 0xC480000A04060000 (.ocall ⟨h0, 10, 4, 6⟩),
    reads 0xE080000000000001 (.bkpt ⟨h0, 1⟩), reads 0xE100001050000000 (.launch ⟨h0, 4, 5⟩)].all id = true := by
  decide +kernel
/-- The header of R388's example: ECLASS 2, four slots of which two are literals, and a threshold of 1 for RM alone. -/
theorem test_header_word : Header.ofWord 0xFFC8C001BFE40000 = some ⟨2, 3, 6, 7, 7, 7, 1, 0⟩ := by decide +kernel

/-! ### Single steps, with results that the manual works out -/

/-- v4 and v5 of lane 0, and the flags, after an instruction whose lane 0 has these registers. -/
def lane0 (i : Instr) (regs : List (Nat × Nat)) (l : Launch := probeLaunch) : Option (Nat × Nat × Nat) :=
  let g := { grp i with vregs := Sparse.setAll 0 [] (regs.map fun r => (vkey r.1 0, BitVec.ofNat 32 r.2)) }
  (after i (st g l)).map fun y => ((y.fileV 4 0).toNat, (y.fileV 5 0).toNat, y.fflags.toNat)

/-- An operand as 32 bits, two's complement. -/
def n32 (x : Int) : Nat := (BitVec.ofInt 32 x).toNat

/-- The table of edge values of chapter 7. -/
theorem test_iadd_wraps : lane0 (.iadd (o32 .s32)) [(6, 2147483000), (8, 1000)] = some (n32 (-2147483296), 0, 0) := by
  decide +kernel
theorem test_iadd_saturates : lane0 (.iadd ⟨h0, .s32, true, dst 4, srcA 6, .vec 8⟩) [(6, 2147483000), (8, 1000)] =
    some (2147483647, 0, 0) := by decide +kernel
theorem test_imul_wraps : lane0 (.imul (o32 .s32)) [(6, n32 (-3)), (8, 0x40000000)] = some (1073741824, 0, 0) := by
  decide +kernel
theorem test_imulh : lane0 (.imulh (o32 .s32)) [(6, n32 (-3)), (8, 0x40000000)] = some (n32 (-1), 0, 0) := by decide +kernel
theorem test_idiv_truncates : lane0 (.idiv (o32 .s32)) [(6, n32 (-7)), (8, 2)] = some (n32 (-3), 0, 0) := by decide +kernel
theorem test_idiv_by_zero : lane0 (.idiv (o32 .s32)) [(6, n32 (-7))] = some (n32 (-1), 0, 0) := by decide +kernel
theorem test_idiv_least : lane0 (.idiv (o32 .s32)) [(6, 0x80000000), (8, n32 (-1))] = some (0x80000000, 0, 0) := by
  decide +kernel
theorem test_irem : lane0 (.irem (o32 .s32)) [(6, n32 (-7)), (8, 2)] = some (n32 (-1), 0, 0) := by decide +kernel
theorem test_irem_by_zero : lane0 (.irem (o32 .s32)) [(6, n32 (-7))] = some (n32 (-7), 0, 0) := by decide +kernel
theorem test_shr_by_more_than_the_width : lane0 (.shr (o32 .b32)) [(6, 0x80000001), (8, 33)] = some (0, 0, 0) := by
  decide +kernel
theorem test_rot_by_33 : lane0 (.rot (o32 .b32)) [(6, 0x80000001), (8, 33)] = some (3, 0, 0) := by decide +kernel
theorem test_sar_by_40 : lane0 (.sar (o32 .b32)) [(6, 0x80000001), (8, 40)] = some (0xFFFFFFFF, 0, 0) := by decide +kernel
theorem test_shl_by_32 : lane0 (.shl (o32 .b32)) [(6, 5), (8, 32)] = some (0, 0, 0) := by decide +kernel
theorem test_bfx_signed : lane0 (.bfx (o32 .s32)) [(6, 0x0F00), (8, 0x0408)] = some (n32 (-1), 0, 0) := by decide +kernel
theorem test_bfx_natural : lane0 (.bfx (o32 .n32)) [(6, 0x0F00), (8, 0x0408)] = some (15, 0, 0) := by decide +kernel
theorem test_modred_c3 : lane0 (.modred ⟨h0, .chan 3, .s32, dst 4, srcA 6, none⟩) [(6, n32 (-1000))] = some (4, 0, 0) := by
  decide +kernel
theorem test_modred_c8 : lane0 (.modred ⟨h0, .chan 8, .s32, dst 4, srcA 6, none⟩) [(6, n32 (-1000))] = some (28, 0, 0) := by
  decide +kernel
theorem test_isetp_below : (after (.isetpVI ⟨h0, .lt, .s32, 2, srcA 6, 0xFFFB⟩)
    (st { grp (.isetpVI ⟨h0, .lt, .s32, 2, srcA 6, 0xFFFB⟩) with
      vregs := [(vkey 6 0, BitVec.ofInt 32 (-6)), (vkey 6 1, BitVec.ofInt 32 (-5))] })).map (fun y => (y.pred 2).toNat % 4) =
      some 1 := by decide +kernel

/-- The table of conversions of chapter 8. -/
theorem test_fcvt_clamps : lane0 (.fcvt ⟨h0, .s8, .f32, .rne, dst 4, srcA 6⟩) [(6, 0x43488000)] = some (0x7F, 0, 16) := by
  decide +kernel
theorem test_fcvt_half : lane0 (.fcvt ⟨h0, .s8, .f32, .rne, dst 4, srcA 6⟩) [(6, 0xBF000000)] = some (0, 0, 1) := by
  decide +kernel
theorem test_fcvt_half_down : lane0 (.fcvt ⟨h0, .s8, .f32, .rdn, dst 4, srcA 6⟩) [(6, 0xBF000000)] = some (0xFFFFFFFF, 0, 1) := by
  decide +kernel
theorem test_fcvt_nan : lane0 (.fcvt ⟨h0, .n16, .f32, .rne, dst 4, srcA 6⟩) [(6, 0x7FA00000)] = some (0, 0, 16) := by
  decide +kernel
theorem test_fcvt_tie : lane0 (.fcvt ⟨h0, .bf16, .f32, .rne, dst 4, srcA 6⟩) [(6, 0x3F808000)] = some (0x3F80, 0, 1) := by
  decide +kernel
theorem test_fcvt_up : lane0 (.fcvt ⟨h0, .bf16, .f32, .rup, dst 4, srcA 6⟩) [(6, 0x3F808000)] = some (0x3F81, 0, 1) := by
  decide +kernel
theorem test_fround : lane0 (.fround ⟨h0, .f32, .rne, dst 4, srcA 6⟩) [(6, 0x40200000)] = some (0x40000000, 0, 0) := by
  decide +kernel
/-- The worked lane of R211. -/
theorem test_bdot : lane0 (.bdot ⟨h0, .s8, .rne, dst 4, srcA 2, .vec 3, .vec 8⟩)
    [(2, 0x007FFD0A), (3, 0x64FF0502), (8, 0x8278), (4, 0x4B800000)] = some (0x4B7FFFF8, 0, 1) := by decide +kernel
theorem test_bdot_nan : lane0 (.bdot ⟨h0, .s8, .rne, dst 4, srcA 2, .vec 3, .vec 8⟩)
    [(2, 0x007FFD0A), (3, 0x64FF0502), (8, 0x82FF), (4, 0x4B800000)] = some (0x7FC00000, 0, 16) := by decide +kernel
/-- The worked reduction of R218: lane 1 does not execute. -/
theorem test_lred_minidx : (let i := Instr.lred ⟨h0, .minidx, .rne, .s32, dst 10, 4⟩
    let vals := [9, 2, 7, 5, 12, 5, 30, 40, 40, 40, 40, 40, 40, 40, 40, 40]
    let g := { grp i with width := 16, live := 0xFFFF, path := 0xFFFF, em := 0xFFFD,
                          vregs := Sparse.setAll 0 [] (vals.zipIdx.map fun x => (vkey 4 x.2, BitVec.ofNat 32 x.1)) }
    (after i (st g)).map fun y => (List.range 3).map fun k => ((y.fileV 10 k).toNat, (y.fileV 11 k).toNat)) =
      some [(5, 3), (0, 0), (5, 3)] := by decide +kernel

/-- SADD and SSHL of scalars, and the mask of lanes (R185 to R187). -/
theorem test_sadd_immediate : (after (.sadd ⟨h0, .s 4, .s 5, .imm 0xFFFF⟩) (st { grp (.sadd ⟨h0, .s 4, .s 5, .imm 0xFFFF⟩) with
    sregs := [(5, 7)] })).map (fun y => y.sreg 4) = some 6 := by decide +kernel
theorem test_sshl_by_the_width : (after (.sshl ⟨h0, .s 4, .s 5, .imm 64⟩) (st { grp (.sshl ⟨h0, .s 4, .s 5, .imm 64⟩) with
    sregs := [(4, 9), (5, 7)] })).map (fun y => y.sreg 4) = some 0 := by decide +kernel
/-- LOOP decrements and transfers while the counter is not zero (R191). -/
theorem test_loop : ([2, 1].map fun n => (after (.loop ⟨h0, 5, 5⟩) (st { grp (.loop ⟨h0, 5, 5⟩) with
    sregs := [(5, BitVec.ofNat 64 n)] })).map fun y => ((y.sreg 5).toNat, y.pos.addr)) =
      [some (1, probeBase + 40), some (0, probeBase + 16)] := by decide +kernel
/-- radd on a C8 plane word of R278: halves 250 and 100, operand 0xFF05_0010. -/
theorem test_radd : atomNew (.radd 8) 0x006400FA 0xFF050010 0 = 0x00680009 := by decide +kernel
/-- X = 300 in acc64, of R48: its residues reconstruct to 300. -/
theorem test_reconstruct_300 : Rns.reconstruct .acc64 []
    (fun c => [44, 45, 47, 49, 53, 59, 61, 67, 43, 37].getD c 0) = .valid 300 := by decide +kernel
/-- The wrong residue of the example of chapter 14: C0 holds 1 for X = 0. -/
theorem test_reconstruct_a_wrong_residue : Rns.reconstruct .acc64 [] (fun c => if c = 0 then 1 else 0) = .corrected 0 0 := by
  decide +kernel
/-- The drains of R352's table: X = 5,120 at E = 240. -/
theorem test_drain_of_5120 : [(convDrain .f32 .rne (-14) 5120).1, (convDrain .s32 .rne (-14) 5120).1,
    (convDrain .s32 .rup (-14) 5120).1, (convDrain .s32 .rne (-10) 5120).1, (convDrain .s8 .rne (-2) 5120).1] =
    [0x3EA00000, 0, 1, 5, 127] := by decide +kernel
/-- The containment and status words of the same example: after a correction on C0. -/
theorem test_tile_status : Tile.status { Tile.zero with td := .s32, ccount := 1 } = 0x000100007F080000 := by decide +kernel
/-- The gang register of R344's example. -/
theorem test_gang_of_four : gangMembers 0x10850820 0x243 = [⟨0, 1, 0, 0⟩, ⟨1, 1, 1, 0⟩, ⟨2, 2, 0, 0⟩, ⟨3, 2, 0, 1⟩] := by
  decide +kernel
/-- A trap enters the handler 0x100 bytes above CODE with its code in %tval (R383, R401). -/
theorem test_trap : (after (.trap ⟨h0, 5⟩) (st (grp (.trap ⟨h0, 5⟩)) trapL)).map (fun y => (y.cause.toNat, y.tval.toNat, y.pos)) =
    some (22, 5, .header (probeBase + 0x100) none) := by decide +kernel
/-- The first arrival of two at a barrier waits, and the second releases it (R363). -/
theorem test_bar_waits : (after (.bar ⟨h0, 0, .imm 2⟩) (st (grp (.bar ⟨h0, 0, .imm 2⟩)) twoL)).map (·.wait) =
    some (some (.barrier 0 0)) := by decide +kernel
theorem test_bar_alone : (after (.bar ⟨h0, 0, .imm 1⟩) (st (grp (.bar ⟨h0, 0, .imm 1⟩)) twoL)).map (·.wait) = some none := by
  decide +kernel
/-- A fetch of zeroed memory traps with ILLEGAL; a HALT ends its group (R131, R403). -/
theorem test_halt : (after (.halt ⟨h0⟩) (st (grp (.halt ⟨h0⟩)) trapL)).map (fun y => (y.halted, y.live)) = some (true, 0) := by
  decide +kernel

end Sys2Proof.Tests
end

section
/-! PROOFS. Numbers of an integer type (R23 to R25), what a plain lane instruction leaves in its destination (R9, R24,
R168), and from both the division of R26. -/

namespace Sys2Proof.Machine

/-! ### Numbers of a type (R23, R24) -/

/-- A type that is not wide fits its one register. -/
theorem Ty.bits_le_32 {t : Ty} (hw : t.wide = false) : Ty.bits t ≤ 32 := by
  revert hw; cases t <;> decide

theorem Ty.bits_wide {t : Ty} (hw : t.wide = true) : Ty.bits t = 64 := by
  revert hw; cases t <;> decide

/-- Two's complement: a signed type reads the balanced residue of the register bits. -/
theorem intOf_signed {t : Ty} (hs : t.signed = true) (n : Nat) : intOf t n = (n : Int).bmod (2 ^ Ty.bits t) := by
  have hhalf : (2 ^ Ty.bits t + 1) / 2 = 2 ^ (Ty.bits t - 1) := by cases t <;> rfl
  have hcast : ((n % 2 ^ Ty.bits t : Nat) : Int) = (n : Int) % (2 ^ Ty.bits t : Nat) := Int.natCast_mod _ _
  simp only [intOf, hs, Bool.true_and, decide_eq_true_eq, ← hhalf, Int.bmod_def, ← hcast]
  split <;> split <;> omega

/-- A type without sign reads the residue itself. -/
theorem intOf_unsigned {t : Ty} (hs : t.signed = false) (n : Nat) : intOf t n = (n : Int) % (2 ^ Ty.bits t : Nat) := by
  simp [intOf, hs]

/-- Reading looks at the bits of the type alone. -/
theorem intOf_congr {t : Ty} {n m : Nat} (h : n % 2 ^ Ty.bits t = m % 2 ^ Ty.bits t) : intOf t n = intOf t m := by
  simp only [intOf, h]

theorem intOf_emod (t : Ty) (n : Nat) : intOf t n % (2 ^ Ty.bits t : Nat) = (n : Int) % (2 ^ Ty.bits t : Nat) := by
  cases hs : t.signed
  · rw [intOf_unsigned hs, Int.emod_emod]
  · rw [intOf_signed hs, Int.bmod_emod]

/-- `trunc(x, w)` is the residue of `x`. -/
theorem truncTo_cast (w : Nat) (x : Int) : (truncTo w x : Int) = x % (2 ^ w : Nat) :=
  Int.toNat_of_nonneg (Int.emod_nonneg x (by positivity))

theorem truncTo_lt (w : Nat) (x : Int) : truncTo w x < 2 ^ w := by
  have := Int.emod_lt_of_pos x (b := (2 ^ w : Nat)) (by positivity)
  rw [← truncTo_cast] at this
  exact_mod_cast this

/-- Truncating to more bits than are looked at changes nothing. -/
theorem truncTo_mod {v w : Nat} (h : v ≤ w) (x : Int) : (truncTo w x % 2 ^ v : Nat) = x % (2 ^ v : Nat) := by
  rw [Int.natCast_mod, truncTo_cast,
    Int.emod_emod_of_dvd _ (Int.natCast_dvd_natCast.mpr (Nat.pow_dvd_pow 2 h))]

/-- What is read in an integer type is a number of the type. -/
theorem intOf_mem_range {t : Ty} (ht : t.isInt = true) (n : Nat) : tyMin t ≤ intOf t n ∧ intOf t n ≤ tyMax t := by
  cases hs : t.signed
  · rw [intOf_unsigned hs]
    cases t <;> simp_all [Ty.isInt, Ty.signed, Ty.bits, tyMin, tyMax] <;> omega
  · rw [intOf_signed hs]
    have hlo := Int.le_bmod (x := n) (m := 2 ^ Ty.bits t) (by positivity)
    have hhi := Int.bmod_lt (x := n) (m := 2 ^ Ty.bits t) (by positivity)
    cases t <;> simp_all [Ty.isInt, Ty.signed, Ty.bits, tyMin, tyMax] <;> omega

/-- A number of an integer type survives being narrowed to the type and read again. -/
theorem intOf_narrow_of_mem {t : Ty} (ht : t.isInt = true) {x : Int} (hmin : tyMin t ≤ x) (hmax : x ≤ tyMax t) :
    intOf t (narrow t false x) = x := by
  simp only [narrow, Bool.false_eq_true, if_false]
  cases hs : t.signed
  · rw [intOf_unsigned hs, truncTo_cast, Int.emod_emod]
    apply Int.emod_eq_of_lt <;>
      cases t <;> simp_all [Ty.isInt, Ty.signed, Ty.bits, tyMin, tyMax] <;> omega
  · rw [intOf_signed hs, truncTo_cast, Int.emod_bmod]
    apply Int.bmod_eq_of_le <;>
      cases t <;> simp_all [Ty.isInt, Ty.signed, Ty.bits, tyMin, tyMax] <;> omega

/-- The extension of R24 adds nothing to what the type reads. -/
theorem intOf_extend (t : Ty) (n : Nat) : intOf t (extend t n) = intOf t n := by
  apply intOf_congr
  unfold extend
  split
  · next hw => rw [Ty.bits_wide hw, Nat.mod_mod]
  · next hw =>
    have hle := Ty.bits_le_32 (Bool.eq_false_iff.mpr hw)
    split
    · have := truncTo_mod hle (intOf t n)
      rw [intOf_emod] at this
      exact_mod_cast this
    · rw [Nat.mod_mod_of_dvd _ (Nat.pow_dvd_pow 2 hle), Nat.mod_mod]

/-- An extended value fills its register, or its pair, and no more. -/
theorem extend_lt (t : Ty) (n : Nat) : extend t n < 2 ^ (if t.wide then 64 else 32) := by
  unfold extend
  split
  · exact Nat.mod_lt _ (by positivity)
  · split
    · exact truncTo_lt 32 _
    · exact Nat.mod_lt _ (by positivity)

theorem tyMin_nonpos (t : Ty) : tyMin t ≤ 0 := by cases t <;> decide

theorem tyMax_nonneg (t : Ty) : 0 ≤ tyMax t := by cases t <;> decide

theorem tyMin_unsigned {t : Ty} (hs : t.signed = false) : tyMin t = 0 := by
  revert hs; cases t <;> decide

/-- The least number of a signed type, by the width. -/
theorem tyMin_signed {t : Ty} (hs : t.signed = true) : tyMin t = -(2 ^ (Ty.bits t - 1) : Int) := by
  revert hs; cases t <;> decide

/-- A signed type has one number more below 0 than above it. -/
theorem tyMin_eq_neg_tyMax {t : Ty} (hs : t.signed = true) : tyMin t = -(tyMax t + 1) := by
  revert hs; cases t <;> decide

/-! ### Division (R26) -/

/-- A quotient by no number between -1 and 1 has at most half the size of the dividend. -/
theorem natAbs_tdiv_le_half {a b : Int} (hb : 2 ≤ b.natAbs) : (Int.tdiv a b).natAbs ≤ a.natAbs / 2 := by
  rw [Int.natAbs_tdiv]
  exact Nat.div_le_div_left hb (by decide)

/-- A quotient of two numbers of a type is one as well, but for the least number divided by -1. -/
theorem tdiv_mem_range {t : Ty} {a b : Int} (ha : tyMin t ≤ a ∧ a ≤ tyMax t) (hb : tyMin t ≤ b)
    (hc : ¬ (t.signed = true ∧ a = tyMin t ∧ b = -1)) :
    tyMin t ≤ Int.tdiv a b ∧ Int.tdiv a b ≤ tyMax t := by
  have hmin := tyMin_nonpos t
  have hmax := tyMax_nonneg t
  cases hs : t.signed
  · have h0 := tyMin_unsigned hs
    have := Int.tdiv_nonneg (a := a) (b := b) (by omega) (by omega)
    have := Int.natAbs_tdiv_le_natAbs a b
    omega
  · have hm := tyMin_eq_neg_tyMax hs
    obtain rfl | rfl | rfl | h2 : b = 0 ∨ b = 1 ∨ b = -1 ∨ 2 ≤ b.natAbs := by omega
    · rw [Int.tdiv_zero]; omega
    · rw [Int.tdiv_one]; omega
    · have hne : a ≠ tyMin t := fun h => hc ⟨hs, h, rfl⟩
      rw [Int.tdiv_neg, Int.tdiv_one]; omega
    · have := natAbs_tdiv_le_half (a := a) h2
      omega

/-- A remainder lies between 0 and the dividend. -/
theorem tmod_between (a b : Int) :
    (0 ≤ a ∧ 0 ≤ Int.tmod a b ∧ Int.tmod a b ≤ a) ∨ (a < 0 ∧ a ≤ Int.tmod a b ∧ Int.tmod a b ≤ 0) := by
  have habs : (Int.tmod a b).natAbs ≤ a.natAbs := by rw [Int.natAbs_tmod]; exact Nat.mod_le _ _
  rcases lt_or_ge a 0 with ha | ha
  · have := Int.tmod_nonneg b (a := -a) (by omega)
    rw [Int.neg_tmod] at this
    omega
  · have := Int.tmod_nonneg b ha
    omega

/-- A remainder is a number of the dividend's type, whatever the divisor. -/
theorem intOf_narrow_iremInt {t : Ty} (ht : t.isInt = true) {a : Int} (ha : tyMin t ≤ a ∧ a ≤ tyMax t) (b : Int) :
    intOf t (narrow t false (iremInt a b)) = iremInt a b := by
  have hmin := tyMin_nonpos t
  have hmax := tyMax_nonneg t
  unfold iremInt
  split
  · exact intOf_narrow_of_mem ht ha.1 ha.2
  · have := tmod_between a b
    exact intOf_narrow_of_mem ht (by omega) (by omega)

/-- A divisor 0 gives all ones. -/
theorem intOf_narrow_idivInt_zero {t : Ty} (ht : t.isInt = true) (a : Int) :
    intOf t (narrow t false (idivInt a 0)) = if t.signed then -1 else 2 ^ Ty.bits t - 1 := by
  rw [show idivInt a 0 = -1 from rfl]
  revert ht; cases t <;> decide

/-- The least number divided by -1 is above the type, and wraps to itself. -/
theorem intOf_narrow_idivInt_least {t : Ty} (ht : t.isInt = true) (hs : t.signed = true) :
    intOf t (narrow t false (idivInt (tyMin t) (-1))) = tyMin t := by
  revert ht hs; cases t <;> decide

/-- Every other quotient is a number of the type. -/
theorem intOf_narrow_idivInt {t : Ty} (ht : t.isInt = true) {a b : Int} (ha : tyMin t ≤ a ∧ a ≤ tyMax t)
    (hb : tyMin t ≤ b) (hb0 : b ≠ 0) (hc : ¬ (t.signed = true ∧ a = tyMin t ∧ b = -1)) :
    intOf t (narrow t false (idivInt a b)) = Int.tdiv a b := by
  obtain ⟨hlo, hhi⟩ := tdiv_mem_range ha hb hc
  rw [idivInt, if_neg hb0, intOf_narrow_of_mem ht hlo hhi]

/-- Quotient, divisor and remainder give the dividend back; the remainder is smaller than the divisor and has the
sign of the dividend. -/
theorem tdiv_tmod_spec (a : Int) {b : Int} (hb : b ≠ 0) :
    Int.tdiv a b * b + Int.tmod a b = a ∧ (Int.tmod a b).natAbs < b.natAbs ∧
      (Int.tmod a b = 0 ∨ (Int.tmod a b < 0 ↔ a < 0)) := by
  refine ⟨Int.tdiv_mul_add_tmod a b, ?_, ?_⟩
  · rw [Int.natAbs_tmod]
    exact Nat.mod_lt _ (Int.natAbs_pos.mpr hb)
  · have := tmod_between a b
    omega

end Sys2Proof.Machine
end

section
/-! PROOFS. What an instruction that acts lane by lane leaves in its own group (R9, R24, R168). -/

namespace Sys2Proof.Machine

/-! ### Issuing -/

/-- The group that stands at an instruction is found by its number. -/
theorem group?_of_stands {s : State} {g : Group} {l : Launch} {hdr j : Nat} {hw : Word} (st : Stands s g l hdr j hw) :
    s.group? g.id = some g := by
  rw [State.group?_id st.1]; exact st.1

/-- An instruction that passes the checks at decode stands as the rules of its fields demand. -/
theorem wellFormed_of_decodeFault {l : Launch} {g : Group} {hw : Word} {j : Nat} {i : Instr} {u : Uses}
    (hd : decodeFault l g hw j i u = none) : wellFormed i = true := by
  have hlegal : legalAt g hw j i = true := by
    by_contra hn
    rw [Bool.not_eq_true] at hn
    simp [decodeFault, hn] at hd
  unfold legalAt at hlegal
  split at hlegal
  · cases hlegal
  · simp only [Bool.and_eq_true] at hlegal
    obtain ⟨⟨⟨⟨hwf, _⟩, _⟩, _⟩, _⟩ := hlegal
    exact hwf

/-- Without runner operand and with no lane behind, an instruction that acts lane by lane commits what its executing
lanes compute. -/
theorem perLane_together (i : Instr) (h : Head) (f : LaneFn) (s : State) (g : Group) (l : Launch)
    (hrun : (usesOf l.layouts g i).run = none) (hpub : (usesOf l.layouts g i).pub = none) (hbk : g.backlog = []) :
    perLane i h f s g l =
      let c := g.commit (usesOf l.layouts g i).tr ((g.executing h).map fun x => (x, f g g.issued x 0))
      .go (s.setGroup c.1) .next c.2 := by
  simp [perLane, hrun, hpub, hbk]

/-! ### The commit -/

/-- The lanes' register writes, in the order in which a commit makes them. -/
def laneWrites (outs : List (Nat × LaneOut)) : List (Nat × Lane) :=
  outs.flatMap fun o => o.2.regs.map fun r => (vkey r.1 o.1, r.2)

/-- A lane's predicate write, as a commit makes it. -/
def Group.putPred (g : Group) (o : Nat × LaneOut) : Group :=
  match o.2.pred with
  | some (p, b) =>
    g.setPred p (if b then g.pred p ||| BitVec.twoPow 64 o.1 else g.pred p &&& ~~~BitVec.twoPow 64 o.1)
  | none => g

/-- Predicate writes change predicates alone. -/
theorem Group.foldl_putPred_cases (outs : List (Nat × LaneOut)) (g : Group) :
    ∃ preds, outs.foldl Group.putPred g = { g with preds := preds } := by
  induction outs generalizing g with
  | nil => exact ⟨_, rfl⟩
  | cons o t ih =>
    obtain ⟨p, e⟩ : ∃ preds, g.putPred o = { g with preds := preds } := by
      unfold Group.putPred
      split <;> exact ⟨_, rfl⟩
    obtain ⟨q, e'⟩ := ih (g.putPred o)
    exact ⟨q, by rw [List.foldl_cons, e', e]⟩

/-- All that a commit does: it raises the lanes' flags, writes predicates, and writes registers unless the result is
marked transient. -/
theorem Group.commit_cases (g : Group) (tr : Bool) (outs : List (Nat × LaneOut)) :
    ∃ preds, g.commit tr outs =
      let c : Group := { g.raise (Flags.all (outs.map fun o => o.2.flags)) with preds := preds }
      if tr then (c, laneWrites outs) else (c.writeAll (laneWrites outs), []) := by
  obtain ⟨preds, e⟩ := Group.foldl_putPred_cases outs (g.raise (Flags.all (outs.map fun o => o.2.flags)))
  exact ⟨preds, by rw [← e]; rfl⟩

@[simp] theorem Group.commit_id (g : Group) (tr : Bool) (outs : List (Nat × LaneOut)) :
    (g.commit tr outs).1.id = g.id := by
  obtain ⟨preds, e⟩ := g.commit_cases tr outs
  cases tr <;> rw [e] <;> rfl

theorem Group.commit_vregs (g : Group) (outs : List (Nat × LaneOut)) :
    (g.commit false outs).1.vregs = Sparse.setAll 0 g.vregs (laneWrites outs) := by
  obtain ⟨preds, e⟩ := g.commit_cases false outs
  rw [e]; rfl

/-- Registers of different numbers or lanes have different keys. -/
theorem vkey_inj {r r' x x' : Nat} (hx : x < 64) (hx' : x' < 64) (h : vkey r x = vkey r' x') : r = r' ∧ x = x' := by
  unfold vkey at h; omega

/-- The register of a lane holds what the lane wrote to it, where the lane's writes agree. -/
theorem Group.commit_fileV (g : Group) (outs : List (Nat × LaneOut)) (hlt : ∀ o ∈ outs, o.1 < 64)
    {o : Nat × LaneOut} (ho : o ∈ outs) {w : Nat × Lane} (hw : w ∈ o.2.regs)
    (hone : ∀ o' ∈ outs, o'.1 = o.1 → ∀ w' ∈ o'.2.regs, w'.1 = w.1 → w'.2 = w.2) :
    (g.commit false outs).1.fileV w.1 o.1 = w.2 := by
  unfold Group.fileV
  rw [Group.commit_vregs]
  apply Sparse.get_setAll_mem
  · intro p hp hk
    obtain ⟨o', ho', hp⟩ := List.mem_flatMap.mp hp
    obtain ⟨w', hw', rfl⟩ := List.mem_map.mp hp
    obtain ⟨hr, hl⟩ := vkey_inj (hlt o' ho') (hlt o ho) hk
    exact hone o' ho' hl w' hw' hr
  · exact ⟨_, List.mem_flatMap.mpr ⟨o, ho, List.mem_map_of_mem hw⟩, rfl⟩

theorem executing_lt {g : Group} {h : Head} {x : Nat} (hx : x ∈ g.executing h) : x < 64 := by
  have hem := (List.mem_filter.mp hx).2
  simp only [Bool.and_eq_true] at hem
  exact BitVec.lt_of_getLsbD hem.1

/-- When every executing lane computes one result, its register holds what the lane wrote to it. -/
theorem Group.commit_lanes_fileV (g : Group) (h : Head) (f : Nat → LaneOut) {x : Nat} (hx : x ∈ g.executing h)
    {w : Nat × Lane} (hw : w ∈ (f x).regs) (hone : ∀ w' ∈ (f x).regs, w'.1 = w.1 → w'.2 = w.2) :
    (g.commit false ((g.executing h).map fun x => (x, f x))).1.fileV w.1 x = w.2 := by
  refine g.commit_fileV _ ?_ (List.mem_map_of_mem hx) hw ?_
  · intro o ho
    obtain ⟨y, hy, rfl⟩ := List.mem_map.mp ho
    exact executing_lt hy
  · intro o ho hox
    obtain ⟨y, hy, rfl⟩ := List.mem_map.mp ho
    obtain rfl : y = x := hox
    exact hone

/-! ### Registers and pairs as numbers (R24, R168) -/

/-- A pair of registers holds its high word above its low word. -/
theorem toNat_pair (hi lo : Lane) : (hi ++ lo : Word).toNat = lo.toNat + hi.toNat * 2 ^ 32 := by
  rw [BitVec.toNat_append, ← Nat.shiftLeft_add_eq_or_of_lt lo.isLt, Nat.shiftLeft_eq, Nat.add_comm]

theorem readReg_eq_readNat (g : Group) (idx : Nat) (t : Ty) (r lane : Nat) :
    readReg g idx t.wide r lane = readNat g idx t r lane := by
  unfold readReg readNat readPair
  cases t.wide
  · rfl
  · exact (toNat_pair _ _).symm

theorem readB_eq_srcBNat (g : Group) (idx : Nat) (t : Ty) (b : OpB) (lane : Nat) :
    readB g idx t.wide b lane = srcBNat g idx t b lane := by
  cases b with
  | vec r => exact readReg_eq_readNat g idx t r.toNat lane
  | scal r => cases e : t.wide <;> simp [readB, srcBNat, srcB32, srcB64, cut, e]
  | lit w => cases e : t.wide <;> simp [readB, srcBNat, srcB32, srcB64, cut, e]

/-- The destination holds the value that the lane wrote, when it fits. -/
theorem fileNat_commit_put (g : Group) (h : Head) (t : Ty) (d : VDst) (v : Nat → Nat)
    (hv : ∀ x, v x < 2 ^ (if t.wide then 64 else 32)) {x : Nat} (hx : x ∈ g.executing h) :
    fileNat (g.commit false ((g.executing h).map fun x => (x, put t.wide d (v x)))).1 t d.reg.toNat x = v x := by
  have hfile := fun w => g.commit_lanes_fileV h (fun x => put t.wide d (v x)) hx (w := w)
  have hlt := hv x
  unfold fileNat
  cases e : t.wide <;> simp only [e, put, putReg, regsOf, wordsOf, Bool.false_eq_true, if_true, if_false] at hfile hlt ⊢
  · rw [hfile (d.reg.toNat, BitVec.ofNat 32 (v x)) (by simp) (by simp), BitVec.toNat_ofNat, Nat.mod_eq_of_lt hlt]
  · have hlo := hfile (d.reg.toNat, BitVec.ofNat 32 (v x)) (by simp) (by simp)
    have hhi := hfile (d.reg.toNat + 1, BitVec.ofNat 32 (v x / 2 ^ 32)) (by simp) (by simp)
    rw [filePair, hlo, hhi, toNat_pair, BitVec.toNat_ofNat, BitVec.toNat_ofNat]
    omega

/-! ### Plain integer instructions of two sources -/

/-- Without a runner operand and without a publish, a plain instruction of two sources has its vector and scalar
operands alone. -/
theorem use2_plain (lat : Nat) (t : Ty) (bw : Bool) (d : VDst) (a : VSrc) (b : OpB) (hk : a.k = 0)
    (hp : d.pub = false) :
    (use2 lat t bw d a b).run = none ∧ (use2 lat t bw d a b).pub = none ∧ (use2 lat t bw d a b).tr = d.tr := by
  cases b <;> simp [use2, use1, vuse, Uses.withD, Uses.withA, Uses.withB, hk, hp]

/-- The value of a plain integer instruction of two sources in a lane, as its type reads it (R25). -/
def plainResult (f : Int → Int → Int) (o : V2) (g : Group) (x : Nat) : Int :=
  intOf o.t (narrow o.t false (f (intOf o.t (readNat g g.issued o.t o.a.reg.toNat x))
    (intOf o.t (srcBNat g g.issued o.t o.b x))))

/-- What one lane of a plain integer instruction writes reads as its value. -/
theorem intLane2_plain (f : Int → Int → Int) (o : V2) (g : Group) (hsat : o.sat = false) (hk : o.a.k = 0) :
    ∃ v : Nat → Nat, (∀ x, v x < 2 ^ (if o.t.wide then 64 else 32)) ∧ (∀ x, intOf o.t (v x) = plainResult f o g x) ∧
      ∀ x, intLane2 f o g g.issued x 0 = put o.t.wide o.d (v x) := by
  refine ⟨fun x => extend o.t (narrow o.t false (f (intOf o.t (readNat g g.issued o.t o.a.reg.toNat x))
    (intOf o.t (srcBNat g g.issued o.t o.b x)))), fun x => extend_lt _ _, fun x => intOf_extend _ _, fun x => ?_⟩
  simp only [intLane2, readA, hk, hsat, if_true, readReg_eq_readNat, readB_eq_srcBNat]

/-- A plain integer instruction of two sources ends with its value in every executing lane of its destination. -/
theorem endsIn_plainResult {i : Instr} {f : Int → Int → Int} {o : V2} {s : State} {g : Group} {l : Launch} {hdr j : Nat}
    {hw : Word} (hb : bodyOf i = some (o.h, perLane i o.h (intLane2 f o)))
    (hu : ∃ lat bw, usesOf l.layouts g i = use2 lat o.t bw o.d o.a o.b)
    (hp : Plain2 o g) (ac : Acts i o.h s g l hdr j hw) :
    EndsIn i s g fun _ y => ∀ x ∈ g.executing o.h, intOf o.t (fileNat y o.t o.d.reg.toNat x) = plainResult f o g x := by
  obtain ⟨hsat, hk, hpub, htr, hbk⟩ := hp
  obtain ⟨lat, bw, hu⟩ := hu
  obtain ⟨hrun, hnone, htr'⟩ := use2_plain lat o.t bw o.d o.a o.b hk hpub
  rw [← hu] at hrun hnone htr'
  obtain ⟨v, hlt, hval, hput⟩ := intLane2_plain f o g hsat hk
  have hgo := perLane_together i o.h (intLane2 f o) s g l hrun hnone hbk
  simp only [htr', htr, hput] at hgo
  have hid := g.commit_id false ((g.executing o.h).map fun x => (x, put o.t.wide o.d (v x)))
  have hset := State.group?_setGroup_self s g
    (g.commit false ((g.executing o.h).map fun x => (x, put o.t.wide o.d (v x)))).1
    (by rw [hid]; exact group?_of_stands ac.1.1)
  rw [hid] at hset
  refine ⟨_, _, exec_go hb ac hgo, group_issued_next hset, fun x hx => ?_⟩
  rw [← hval, ← fileNat_commit_put g o.h o.t o.d v hlt hx]
  rfl

end Sys2Proof.Machine
end

section
/-! PROOFS. IDIV and IREM (R26). -/

namespace Sys2Proof.Machine

/-- IDIV that acts has an integer type. -/
theorem isInt_of_idiv_acts {o : V2} {s : State} {g : Group} {l : Launch} {hdr j : Nat} {hw : Word}
    (ac : Acts (.idiv o) o.h s g l hdr j hw) : o.t.isInt = true := by
  obtain ⟨⟨_, hd, _⟩, _⟩ := ac
  have hwf := wellFormed_of_decodeFault hd
  simp only [wellFormed, WF.v2, Bool.and_eq_true] at hwf
  obtain ⟨⟨⟨⟨hint, _⟩, _⟩, _⟩, _⟩ := hwf
  exact hint

/-- What the quotient and the remainder of two numbers of a type are, once narrowed to the type (R26). -/
theorem idivInt_iremInt_spec {t : Ty} (ht : t.isInt = true) {a b q r : Int} (ha : tyMin t ≤ a ∧ a ≤ tyMax t)
    (hb : tyMin t ≤ b) (hq : q = intOf t (narrow t false (idivInt a b)))
    (hr : r = intOf t (narrow t false (iremInt a b))) :
    let corner := t.signed = true ∧ a = -(2 ^ (Ty.bits t - 1) : Int) ∧ b = -1
    (b = 0 → q = (if t.signed then -1 else 2 ^ Ty.bits t - 1) ∧ r = a) ∧
    (corner → q = a ∧ r = 0) ∧
    (b ≠ 0 → ¬ corner → q * b + r = a ∧ r.natAbs < b.natAbs ∧ (r = 0 ∨ (r < 0 ↔ a < 0))) := by
  rw [intOf_narrow_iremInt ht ha] at hr
  refine ⟨?_, ?_, fun hb0 hc => ?_⟩
  · rintro rfl
    exact ⟨hq.trans (intOf_narrow_idivInt_zero ht a), hr⟩
  · rintro ⟨hs, rfl, rfl⟩
    rw [← tyMin_signed hs] at hq ⊢
    exact ⟨hq.trans (intOf_narrow_idivInt_least ht hs), by simp [hr, iremInt]⟩
  · have hc' : ¬ (t.signed = true ∧ a = tyMin t ∧ b = -1) := fun ⟨hs, h⟩ => hc ⟨hs, by rwa [← tyMin_signed hs]⟩
    rw [intOf_narrow_idivInt ht ha hb hb0 hc'] at hq
    rw [iremInt, if_neg hb0] at hr
    rw [hq, hr]
    exact tdiv_tmod_spec a hb0

/-- Settles O6: each of the two leaves its number of the type in the destination, and of those the arithmetic holds. -/
theorem divisionGivesTheDividendBack : Obligations.DivisionGivesTheDividendBack := by
  intro o s g l hdr j hw hp acDiv acRem
  have ht := isInt_of_idiv_acts acDiv
  obtain ⟨t, y, ht1, hy, hq⟩ := endsIn_plainResult rfl ⟨_, _, rfl⟩ hp acDiv
  obtain ⟨t', y', ht1', hy', hr⟩ := endsIn_plainResult rfl ⟨_, _, rfl⟩ hp acRem
  refine ⟨t, y, t', y', ht1, hy, ht1', hy', fun x hx => ?_⟩
  exact idivInt_iremInt_spec ht (intOf_mem_range ht _) (intOf_mem_range ht _).1 (hq x hx) (hr x hx)

end Sys2Proof.Machine
end

section
/-! PROOFS. A trap that a group takes in its handler (R383, R384), and SIGCHK (R166). -/

namespace Sys2Proof.Machine

/-! ### A trap at the instruction's own place -/

/-- A trap at an instruction's own place is not deferred: %epc is the resume point (R384). With a handler, outside of
one and in no wave, the group is to enter it, with what it held set aside. -/
theorem trapped_eq_enterHandler {s : State} {g : Group} {l : Launch} {hdr j : Nat} {hw : Word}
    (st : Stands s g l hdr j hw) (ha : g.aside = none) (hwave : isWave g.id = false) (ht : l.trapOfs ≠ 0)
    (cause : Nat) (tval : Word) :
    trapped s g hdr j cause tval = s.setGroup (g.enterHandler ((l.code : Int) + l.trapOfs).toNat cause
      (BitVec.ofNat 64 (slotAddr hdr j)) tval (.back hdr j) false s.nextOp) := by
  have hg := group?_of_stands st
  obtain ⟨_, hl, _, _⟩ := st
  simp [trapped, State.takeTrap, hg, hl, ha, hwave, ht, Pos.addr]

/-- Such a trap leaves the group with its cause and %tval, and sets %sig aside as it was (R383). -/
theorem group_trapped {s : State} {g : Group} {l : Launch} {hdr j : Nat} {hw : Word} (st : Stands s g l hdr j hw)
    (ha : g.aside = none) (hwave : isWave g.id = false) (ht : l.trapOfs ≠ 0) (cause : Nat) (tval : Word) :
    ∃ y a, (trapped s g hdr j cause tval).group? g.id = some y ∧ y.aside = some a ∧ a.sig = g.sig ∧
      y.cause = BitVec.ofNat 64 cause ∧ y.tval = tval := by
  rw [trapped_eq_enterHandler st ha hwave ht]
  exact ⟨_, _, State.group?_setGroup_self s g (g.enterHandler _ cause _ tval _ false _) (group?_of_stands st),
    rfl, rfl, rfl, rfl⟩

/-! ### SIGCHK (R166) -/

theorem sigchkBody_of_match {o : CSig} {g : Group} (h : g.sig = o.imm) (s : State) (l : Launch) :
    sigchkBody o s g l = .group s { g with sig := 0 } := if_pos h

theorem sigchkBody_of_mismatch {o : CSig} {g : Group} (h : g.sig ≠ o.imm) (s : State) (l : Launch) :
    sigchkBody o s g l = .trap Cause.signature (o.imm ++ g.sig) := if_neg h

/-- SIGCHK acts for the whole group (R115): it names no operand of a lane. -/
theorem usesIn_sigchk_lanes (o : CSig) (g : Group) (l : Launch) : (usesIn (.sigchk o) o.h g l).lanes = false :=
  Uses.guarded_lanes _ _

/-- Settles O20: the body of SIGCHK either puts the cleared signature in the group or traps, and what a trap leaves in
the group is said of every trap at the instruction's own place. -/
theorem signatureCheck : Obligations.SignatureCheck := by
  intro o s g l hdr j hw
  have hb : bodyOf (.sigchk o) = some (o.h, sigchkBody o) := rfl
  refine ⟨fun ac => ⟨fun hmatch => ?_, fun hdiff => ⟨?_, fun ha hwave ht => ?_⟩⟩, fun is hguard => ?_⟩
  · exact exec_go hb ac (sigchkBody_of_match hmatch s l)
  · exact exec_trap hb ac (sigchkBody_of_mismatch hdiff s l)
  · obtain ⟨⟨st, _⟩, _⟩ := ac
    exact group_trapped st ha hwave ht _ _
  · exact exec_guard_fails hb is (usesIn_sigchk_lanes o g l) hguard

end Sys2Proof.Machine
end

section
/-! PROOFS. POPC, CLZ, CTZ and BREV (R174): what the four functions say of the bits of a number, what an instruction of
one raw source leaves, and what stands in its word. -/

namespace Sys2Proof.Machine

/-! ### Counts of bits, as numbers -/

theorem popcNat_eq_card (w a : Nat) : popcNat w a = ((Finset.range w).filter fun i => a.testBit i = true).card := by
  simp [popcNat, Finset.card_def, Multiset.range]

theorem popcNat_le (w a : Nat) : popcNat w a ≤ w := by
  simpa [popcNat] using List.length_filter_le a.testBit (List.range w)

theorem clzNat_le (w a : Nat) : clzNat w a ≤ w := by
  unfold clzNat; split <;> omega

/-- The bits above the highest one bit are zeros, and the count stops at that bit. -/
theorem clzNat_spec {w a : Nat} (ha : a < 2 ^ w) :
    (∀ i < clzNat w a, a.testBit (w - 1 - i) = false) ∧
      (clzNat w a < w → a.testBit (w - 1 - clzNat w a) = true) := by
  unfold clzNat
  split
  case isTrue h0 =>
    exact ⟨fun _ _ => by rw [h0, Nat.zero_testBit], fun h => absurd h (lt_irrefl w)⟩
  case isFalse h0 =>
    have hlog : a.log2 < w := (Nat.log2_lt h0).mpr ha
    refine ⟨fun i hi => ?_, fun _ => ?_⟩
    · exact Nat.testBit_lt_two_pow (Nat.lt_log2_self.trans_le (Nat.pow_le_pow_right two_pos (by omega)))
    · rw [show w - 1 - (w - 1 - a.log2) = a.log2 by omega, Nat.testBit_log2 h0]

/-- The bits below the lowest one bit are zeros, and the count stops at that bit. -/
theorem ctzNat_spec (w a : Nat) :
    ctzNat w a ≤ w ∧ (∀ i < ctzNat w a, a.testBit i = false) ∧ (ctzNat w a < w → a.testBit (ctzNat w a) = true) := by
  unfold ctzNat
  cases h : (List.range w).find? a.testBit with
  | none =>
    rw [List.find?_eq_none] at h
    exact ⟨le_rfl, fun i hi => by simpa using h i (List.mem_range.mpr hi), fun hlt => absurd hlt (lt_irrefl w)⟩
  | some n =>
    obtain ⟨hbit, hmem, hbelow⟩ := List.find?_range_eq_some.mp h
    exact ⟨(List.mem_range.mp hmem).le, fun i hi => by simpa using hbelow i hi, fun _ => hbit⟩

/-- A sum of different powers of two has the bits of its exponents. -/
theorem testBit_sum_two_pow (s : Finset Nat) (k : Nat) : (∑ e ∈ s, 2 ^ e).testBit k = true ↔ k ∈ s := by
  rw [← Nat.mem_bitIndices, ← List.mem_toFinset, Finset.toFinset_bitIndices_sum_two_pow]

/-- The positions of the one bits of a number of `w` bits, in reverse order. -/
def reversedBits (w a : Nat) : Finset Nat := (Finset.range w).filter fun e => a.testBit (w - 1 - e) = true

theorem brevNat_eq_sum (w a : Nat) : brevNat w a = ∑ e ∈ reversedBits w a, 2 ^ e := by
  have hlist : brevNat w a = ∑ i ∈ (Finset.range w).filter fun i => a.testBit i = true, 2 ^ (w - 1 - i) := by
    simp [brevNat, Finset.sum, Multiset.range, ← List.foldl_map, ← List.sum_eq_foldl]
  rw [hlist, reversedBits]
  refine Finset.sum_nbij' (w - 1 - ·) (w - 1 - ·) ?_ ?_ ?_ ?_ (fun _ _ => rfl) <;>
    simp only [Finset.mem_filter, Finset.mem_range] <;> rintro i ⟨hi, hb⟩
  · exact ⟨by omega, by rwa [show w - 1 - (w - 1 - i) = i by omega]⟩
  · exact ⟨by omega, hb⟩
  · omega
  · omega

theorem brevNat_lt (w a : Nat) : brevNat w a < 2 ^ w := by
  rw [brevNat_eq_sum]
  exact Nat.geomSum_lt le_rfl fun e he => Finset.mem_range.mp (Finset.mem_filter.mp he).1

/-- Bit `i` moves to bit `w - 1 - i`. -/
theorem testBit_brevNat {w i : Nat} (a : Nat) (hi : i < w) : (brevNat w a).testBit (w - 1 - i) = a.testBit i := by
  rw [Bool.eq_iff_iff, brevNat_eq_sum, testBit_sum_two_pow, reversedBits, Finset.mem_filter, Finset.mem_range,
    show w - 1 - (w - 1 - i) = i by omega]
  exact and_iff_right (by omega)

/-! ### What a lane instruction leaves in its destination -/

/-- An instruction that ends as `p` says ends as anything that `p` gives says. -/
theorem EndsIn.imp {i : Instr} {s : State} {g : Group} {p q : State → Group → Prop} (h : EndsIn i s g p)
    (hpq : ∀ t y, p t y → q t y) : EndsIn i s g q := by
  obtain ⟨t, y, ht, hy, hp⟩ := h
  exact ⟨t, y, ht, hy, hpq t y hp⟩

/-- An instruction whose effect is on its own group alone changes nothing else. -/
theorem onlyGroup_issued_setGroup (i : Instr) (h : Head) (s : State) {g x : Group} (hx : x.id = g.id) (l : Launch)
    (hdr j : Nat) (hw : Word) (vals : Sparse Lane) :
    OnlyGroup s (issued i h s g l hdr j hw (s.setGroup x) .next vals) g.id := by
  refine ⟨fun k hk => ?_, ?_⟩
  · rw [group_issued_next_other hk]
    exact State.group?_setGroup_other s x k (by rwa [hx])
  · simp only [issued, State.follow, State.noteIssue, State.onGroup, State.setGroup]

/-- A lane instruction without runner operand and marks that writes one value, which fits, ends with it in every
executing lane of its destination, and changes no other group. -/
theorem endsIn_put {i : Instr} {h : Head} {f : LaneFn} {s : State} {g : Group} {l : Launch} {hdr j : Nat} {hw : Word}
    {t : Ty} {d : VDst} {v : Nat → Nat} (hb : bodyOf i = some (h, perLane i h f)) (ac : Acts i h s g l hdr j hw)
    (hrun : (usesOf l.layouts g i).run = none) (hpub : (usesOf l.layouts g i).pub = none)
    (htr : (usesOf l.layouts g i).tr = false) (hbk : g.backlog = [])
    (hput : ∀ x, f g g.issued x 0 = put t.wide d (v x)) (hv : ∀ x, v x < 2 ^ (if t.wide then 64 else 32)) :
    EndsIn i s g fun u y => OnlyGroup s u g.id ∧ ∀ x ∈ g.executing h, fileNat y t d.reg.toNat x = v x := by
  have hgo := perLane_together i h f s g l hrun hpub hbk
  simp only [htr, hput] at hgo
  have hid := g.commit_id false ((g.executing h).map fun x => (x, put t.wide d (v x)))
  have hset := State.group?_setGroup_self s g _ (hid ▸ group?_of_stands ac.1.1)
  rw [hid] at hset
  refine ⟨_, _, exec_go hb ac hgo, group_issued_next hset, onlyGroup_issued_setGroup i h s hid l hdr j hw _,
    fun x hx => ?_⟩
  rw [← fileNat_commit_put g h t d v hv hx]
  rfl

/-! ### Instructions of one raw source (R174) -/

/-- The instruction `i` writes `f` of its one source, of a raw type, and stands in a word of format V. -/
structure RawOf1 (i : Instr) (o : V1) (f : Nat → Nat → Nat) : Prop where
  body : bodyOf i = some (o.h, perLane i o.h (rawLane1 f o))
  uses : ∀ lays g, ∃ lat, usesOf lays g i = use1 lat o.t.wide o.t o.d o.a
  wf : wellFormed i = WF.v1 Ty.isRaw false Ty.wide o
  enc : ∃ opc, encode i = o.enc opc

theorem rawOf1_popc (o : V1) : RawOf1 (.popc o) o popcNat := ⟨rfl, fun _ _ => ⟨_, rfl⟩, rfl, ⟨_, rfl⟩⟩
theorem rawOf1_clz (o : V1) : RawOf1 (.clz o) o clzNat := ⟨rfl, fun _ _ => ⟨_, rfl⟩, rfl, ⟨_, rfl⟩⟩
theorem rawOf1_ctz (o : V1) : RawOf1 (.ctz o) o ctzNat := ⟨rfl, fun _ _ => ⟨_, rfl⟩, rfl, ⟨_, rfl⟩⟩
theorem rawOf1_brev (o : V1) : RawOf1 (.brev o) o brevNat := ⟨rfl, fun _ _ => ⟨_, rfl⟩, rfl, ⟨_, rfl⟩⟩

theorem Ty.isRaw_iff {t : Ty} : t.isRaw = true ↔ t = .b32 ∨ t = .n64 := by
  cases t <;> decide

/-- A raw type fills its register, or its pair. -/
theorem Ty.bits_of_isRaw {t : Ty} (h : t.isRaw = true) : Ty.bits t = if t.wide then 64 else 32 := by
  obtain rfl | rfl := Ty.isRaw_iff.mp h <;> rfl

theorem readNat_lt (g : Group) (idx : Nat) (t : Ty) (r lane : Nat) :
    readNat g idx t r lane < 2 ^ (if t.wide then 64 else 32) := by
  unfold readNat
  split <;> exact BitVec.isLt _

/-- Without a runner operand and without a publish, an instruction of one source has its vector operand alone. -/
theorem use1_plain (lat : Nat) (dw : Bool) (t : Ty) {d : VDst} {a : VSrc} (hk : a.k = 0) (hp : d.pub = false) :
    (use1 lat dw t d a).run = none ∧ (use1 lat dw t d a).pub = none ∧ (use1 lat dw t d a).tr = d.tr := by
  simp [use1, vuse, Uses.withD, Uses.withA, hk, hp]

section
variable {i : Instr} {o : V1} {f : Nat → Nat → Nat}

theorem RawOf1.isRaw (hi : RawOf1 i o f) (hwf : wellFormed i = true) : o.t.isRaw = true := by
  simp only [hi.wf, WF.v1, Bool.and_eq_true] at hwf
  obtain ⟨⟨⟨hraw, _⟩, _⟩, _⟩ := hwf
  exact hraw

/-- It ends with the function's value of its source in every executing lane of its destination, when that fits the
type; the source does. -/
theorem RawOf1.endsIn (hi : RawOf1 i o f) (hf : ∀ w a, f w a < 2 ^ w) {s : State} {g : Group} {l : Launch}
    {hdr j : Nat} {hw : Word} (hk : o.a.k = 0) (hpub : o.d.pub = false) (htr : o.d.tr = false) (hbk : g.backlog = [])
    (ac : Acts i o.h s g l hdr j hw) :
    EndsIn i s g fun t y => OnlyGroup s t g.id ∧ ∀ x ∈ g.executing o.h,
      readNat g g.issued o.t o.a.reg.toNat x < 2 ^ Ty.bits o.t ∧
      fileNat y o.t o.d.reg.toNat x = f (Ty.bits o.t) (readNat g g.issued o.t o.a.reg.toNat x) := by
  have ⟨⟨_, hd, _⟩, _⟩ := ac
  have hbits := Ty.bits_of_isRaw (hi.isRaw (wellFormed_of_decodeFault hd))
  obtain ⟨lat, hu⟩ := hi.uses l.layouts g
  obtain ⟨hrun, hnone, htr'⟩ := use1_plain lat o.t.wide o.t hk hpub
  rw [← hu] at hrun hnone htr'
  have hput : ∀ x, rawLane1 f o g g.issued x 0 =
      put o.t.wide o.d (f (Ty.bits o.t) (readNat g g.issued o.t o.a.reg.toNat x)) := fun x => by
    simp only [rawLane1, readA, hk, if_true, readReg_eq_readNat]
  refine (endsIn_put hi.body ac hrun hnone (htr'.trans htr) hbk hput fun x => hbits ▸ hf _ _).imp
    fun t y ⟨honly, hval⟩ => ⟨honly, fun x hx => ⟨?_, hval x hx⟩⟩
  rw [hbits]
  exact readNat_lt g g.issued o.t _ x

end

/-! ### What stands in the word -/

/-- Words that decode are an encoding of what they decode to, which is well formed. -/
theorem encode_wellFormed_of_decode {ws : List Word} {i : Instr} (h : decode ws = .ok i) :
    encode i = ws ∧ wellFormed i = true := by
  cases ws with
  | nil => cases h
  | cons w l =>
    simp only [decode] at h
    split at h
    · cases h
    · split_ifs at h with henc hwf
      cases h
      exact ⟨not_not.mp henc, hwf⟩

/-- A word of one source leaves the fields of B and C and their marks clear, and no literal follows it (R116). -/
theorem reserved_of_enc {opc : BitVec 10} {o : V1} {w : Word} {ls : List Word} (h : o.enc opc = w :: ls) :
    bits w 8 16 = 0 ∧ bits w 0 2 = 0 ∧ ls = [] := by
  obtain ⟨hw, hls⟩ := List.cons.inj h
  have hr := Laws.VRaw_ofWord_toWord ((VRaw.mk0 opc o.h).setTy o.t (b2n o.sat) |>.setD o.d |>.setA o.a)
  rw [hw] at hr
  have hb : bits w 16 8 = 0 := congrArg VRaw.b hr
  have hc : bits w 8 8 = 0 := congrArg VRaw.c hr
  have hbs : bits w 1 1 = 0 := congrArg VRaw.bs hr
  have hcs : bits w 0 1 = 0 := congrArg VRaw.cs hr
  have hfields : bits w 16 8 ++ bits w 8 8 = bits w 8 16 := BitVec.extractLsb'_append_extractLsb'_eq_extractLsb' rfl
  have hmarks : bits w 1 1 ++ bits w 0 1 = bits w 0 2 := BitVec.extractLsb'_append_extractLsb'_eq_extractLsb' rfl
  exact ⟨by rw [← hfields, hb, hc]; rfl, by rw [← hmarks, hbs, hcs]; rfl, hls.symm⟩

/-- Words that decode to an instruction of one raw source have a raw type, and nothing in the fields of B and C. -/
theorem RawOf1.of_decode {i : Instr} {o : V1} {f : Nat → Nat → Nat} (hi : RawOf1 i o f) {w : Word} {ls : List Word}
    (h : decode (w :: ls) = .ok i) :
    (o.t = .b32 ∨ o.t = .n64) ∧ bits w 8 16 = 0 ∧ bits w 0 2 = 0 ∧ ls = [] := by
  obtain ⟨henc, hwf⟩ := encode_wellFormed_of_decode h
  obtain ⟨opc, he⟩ := hi.enc
  exact ⟨Ty.isRaw_iff.mp (hi.isRaw hwf), reserved_of_enc (he.symm.trans henc)⟩

/-- Settles O7: each of the four leaves the value of its function in the destination, of which the bits are as said. -/
theorem bitCounts : Obligations.BitCounts := by
  refine ⟨fun o s g l hdr j hw hk hpub htr hbk => ⟨fun ac => ?popc, fun ac => ?clz, fun ac => ?ctz, fun ac => ?brev⟩, ?_⟩
  case popc =>
    refine ((rawOf1_popc o).endsIn (fun w a => (popcNat_le w a).trans_lt Nat.lt_two_pow_self) hk hpub htr hbk ac).imp
      fun t y ⟨honly, hval⟩ => ⟨honly, fun x hx => ?_⟩
    rw [(hval x hx).2, popcNat_eq_card]
  case clz =>
    refine ((rawOf1_clz o).endsIn (fun w a => (clzNat_le w a).trans_lt Nat.lt_two_pow_self) hk hpub htr hbk ac).imp
      fun t y ⟨honly, hval⟩ => ⟨honly, fun x hx => ?_⟩
    obtain ⟨hlt, hn⟩ := hval x hx
    rw [hn]
    exact ⟨clzNat_le _ _, clzNat_spec hlt⟩
  case ctz =>
    refine ((rawOf1_ctz o).endsIn (fun w a => (ctzNat_spec w a).1.trans_lt Nat.lt_two_pow_self) hk hpub htr hbk ac).imp
      fun t y ⟨honly, hval⟩ => ⟨honly, fun x hx => ?_⟩
    rw [(hval x hx).2]
    exact ctzNat_spec _ _
  case brev =>
    refine ((rawOf1_brev o).endsIn brevNat_lt hk hpub htr hbk ac).imp
      fun t y ⟨honly, hval⟩ => ⟨honly, fun x hx i hi => ?_⟩
    rw [(hval x hx).2, testBit_brevNat _ hi]
  · rintro w ls o (h | h | h | h)
    · exact (rawOf1_popc o).of_decode h
    · exact (rawOf1_clz o).of_decode h
    · exact (rawOf1_ctz o).of_decode h
    · exact (rawOf1_brev o).of_decode h

end Sys2Proof.Machine
end

section
/-! PROOFS. Decoding the words of an instruction gives it back (R106, R110, R115 to R131). -/

namespace Sys2Proof.Laws.Codec

/-- The words of every well-formed instruction have that instruction as their one candidate. -/
theorem candidate_encode : ∀ i : Instr, Statement i
  | .iadd o => iadd o | .isub o => isub o | .imul o => imul o | .imulh o => imulh o | .imad o => imad o
  | .idiv o => idiv o | .irem o => irem o | .imin o => imin o | .imax o => imax o | .iabs o => iabs o
  | .ineg o => ineg o | .iclamp o => iclamp o | .and o => and o | .or o => or o | .xor o => xor o
  | .andn o => andn o | .shl o => shl o | .shr o => shr o | .sar o => sar o | .rot o => rot o | .popc o => popc o
  | .clz o => clz o | .ctz o => ctz o | .brev o => brev o | .bfx o => bfx o | .bfi o => bfi o | .permb o => permb o
  | .isetp o => isetp o | .sel o => sel o | .mov o => mov o | .movi o => movi o | .cvti o => cvti o
  | .lea o => lea o | .modred o => modred o | .modadd o => modadd o | .modmul o => modmul o | .iaddVI o => iaddVI o
  | .isubVI o => isubVI o | .imulVI o => imulVI o | .iminVI o => iminVI o | .imaxVI o => imaxVI o
  | .andVI o => andVI o | .orVI o => orVI o | .xorVI o => xorVI o | .andnVI o => andnVI o | .shlVI o => shlVI o
  | .shrVI o => shrVI o | .sarVI o => sarVI o | .rotVI o => rotVI o | .bfxVI o => bfxVI o | .isetpVI o => isetpVI o
  | .modredVI o => modredVI o | .modaddVI o => modaddVI o | .modmulVI o => modmulVI o | .fadd o => fadd o
  | .fsub o => fsub o | .fmul o => fmul o | .ffma o => ffma o | .fmin o => fmin o | .fmax o => fmax o
  | .fsetp o => fsetp o | .fdiv o => fdiv o | .fsqrt o => fsqrt o | .frcp o => frcp o | .fexp2 o => fexp2 o
  | .flog2 o => flog2 o | .fcvt o => fcvt o | .fround o => fround o | .fclass o => fclass o | .dot4 o => dot4 o
  | .dot8 o => dot8 o | .dotc4 o => dotc4 o | .bdot o => bdot o | .cdec o => cdec o | .bitunpk o => bitunpk o
  | .shfl o => shfl o | .vote o => vote o | .lred o => lred o | .lscan o => lscan o | .xswap o => xswap o
  | .sadd o => sadd o | .ssub o => ssub o | .smul o => smul o | .sand o => sand o | .sor o => sor o
  | .sxor o => sxor o | .sshl o => sshl o | .sshr o => sshr o | .smov o => smov o | .smovl o => smovl o
  | .ssetp o => ssetp o | .vget o => vget o | .vput o => vput o | .gets o => gets o | .plog o => plog o
  | .bra o => bra o | .brd o => brd o | .join o => join o | .call o => call o | .ret o => ret o | .bri o => bri o
  | .loop o => loop o | .exit o => exit o | .nop o => nop o | .safe o => safe o | .sigchk o => sigchk o
  | .yield o => yield o | .wgrow o => wgrow o | .wshrink o => wshrink o | .pub o => pub o | .ld o => ld o
  | .st o => st o | .lds o => lds o | .sts o => sts o | .atom o => atom o | .red o => red o | .fence o => fence o
  | .pref o => pref o | .cflush o => cflush o | .cinv o => cinv o | .fetch o => fetch o | .post o => post o
  | .cpy o => cpy o | .cpym o => cpym o | .land o => land o | .landw o => landw o | .sealb o => sealb o
  | .waitb o => waitb o | .yieldb o => yieldb o | .cstat o => cstat o | .cbld o => cbld o | .gang o => gang o
  | .mzero o => mzero o | .rel o => rel o | .acq o => acq o | .mma o => mma o | .mscale o => mscale o
  | .drain o => drain o | .drainm o => drainm o | .acst o => acst o | .acld o => acld o | .mstat o => mstat o
  | .cont o => cont o | .minj o => minj o | .bar o => bar o | .bara o => bara o | .barw o => barw o
  | .barq o => barq o | .binit o => binit o | .objreg o => objreg o | .objdel o => objdel o | .ocall o => ocall o
  | .orel o => orel o | .creply o => creply o | .cdone o => cdone o | .trap o => trap o | .rtt o => rtt o
  | .bkpt o => bkpt o | .halt o => halt o | .launch o => launch o | .sets o => sets o | .tlbinv o => tlbinv o
  | .pres o => pres o
  -- Events have no words.
  | .clauseEntry .. | .deferredTrap .. | .loadResponse .. | .atomicResponse .. | .fetchLineLanded ..
  | .postAcknowledged .. | .copyOperationComplete .. | .cpymArrival .. | .rendezvousGrant .. | .passStart ..
  | .passComplete .. | .mxOperationComplete .. | .drainComplete .. | .patternPass .. | .reservationAging ..
  | .runnerValueArrival .. | .runnerSpillTimeout .. | .ocallRequestAccept .. | .waveStart .. | .ocallReply ..
  | .waveTimeLimit .. | .quantumExpiry .. | .pendingAging .. | .urgentDisplacement .. | .groupActivation ..
  | .wgrowStalemate .. | .tableWalk .. | .faultRecordWrite .. | .launchRecord .. | .badmsgSend .. | .abort ..
  | .resume .. | .region .. | .unregion .. | .rdmaRead .. | .rdmaWrite .. | .ualinkInboundRequest ..
  | .linkLoss .. | .teamDispatch .. | .steal .. | .preemptionRequest .. | .forcedStop .. | .unitSave ..
  | .unitRestore .. | .groupRetirement .. | .launchCompletion .. | .podLost .. | .softRepair .. | .quiesceEnd ..
  | .activationCounterEvent .. | .selfRefreshEnter .. | .selfRefreshExit .. | .criticalShutdown ..
  | .infieldTestRun .. | .powerCapWindow .. | .provision .. | .qpset .. | .qmask .. | .partnum .. | .accept ..
  | .jread .. | .jack .. | .attest .. | .pcap .. | .telem .. | .unfreeze .. | .fwload .. | .reset .. | .powerOn
  | .ptpSync .. | .linkTraining .. | .writeAcknowledgement .. | .variableLatencyResult .. => fun _ _ _ h => nomatch h

end Sys2Proof.Laws.Codec

namespace Sys2Proof.Machine

/-- Decoding takes a well-formed instruction back from its words. -/
theorem decode_encode {i : Instr} (hwf : wellFormed i = true) (hne : encode i ≠ []) : decode (encode i) = .ok i := by
  obtain ⟨w, l, he⟩ := List.exists_cons_of_ne_nil hne
  rw [he]
  simp [decode, Laws.Codec.candidate_encode i hwf w l he, he, hwf]

/-- Settles O57: the words have the instruction as their one candidate, and `decode` encodes its candidate again. -/
theorem decodeAfterEncode : Obligations.DecodeAfterEncode :=
  ⟨fun _ => decode_encode, fun _ _ => encode_wellFormed_of_decode⟩

end Sys2Proof.Machine
end

section
/-! PROOFS. What decides whether an instruction issues, and what issuing leaves beside the instruction's effect
(R112, R115, R132 to R136, R285, R395, R416). -/

namespace Sys2Proof.Machine

/-! ### The step of a group that is to issue -/

/-- The step of an agenda that lets a group issue. -/
theorem step_of_issue {s : State} {gid : GroupId} {rest : List Act} (h : s.agenda = .issue gid :: rest) :
    step s = noted (({ s with agenda := rest } : State).issueNext gid) := by
  simp [step, h, State.perform]

/-! ### Issuing counts and moves on -/

/-- Counting and following change groups alone, and the core notes when it issued. -/
theorem issued_next_frame (i : Instr) (h : Head) (s s' : State) (g : Group) (l : Launch) (hdr j : Nat) (hw : Word)
    (v : Sparse Lane) :
    { issued i h s g l hdr j hw s' .next v with groups := s'.groups, coreIssue := s'.coreIssue } = s' := rfl

/-- Settles O3: by the lemmas about the own group and about the others after an instruction. -/
theorem issueCountsAndMovesOn : Obligations.IssueCountsAndMovesOn := by
  intro i h s s' g x l hdr j hw v hx
  exact ⟨_, group_issued_next hx, rfl, rfl, rfl, rfl, rfl, rfl, rfl, rfl, rfl, rfl, rfl, rfl, rfl, rfl, rfl, rfl, rfl,
    rfl, fun k hk => group_issued_next_other hk, rfl, issued_next_frame i h s s' g l hdr j hw v⟩

/-! ### Time that passes before an instruction -/

/-- A group with another count of its time, which only a wave has (R379). -/
def Group.timed (g : Group) (v : Nat) : Group := { g with waveTime := v }

/-- A group as time passes: its own time may go on, and nothing else of it changes. -/
theorem State.advance_group {s : State} {k : GroupId} {g : Group} (hg : s.group? k = some g) (t : Nat) :
    ∃ v, (s.advance t).group? k = some (g.timed v) := by
  have hk := State.group?_id hg
  unfold State.advance
  split
  · exact ⟨_, hg⟩
  · split
    · exact ⟨_, hg⟩
    · unfold State.group? at hg ⊢
      rw [List.find?_map]
      have hid : ((fun x : Group => x.id == k) ∘ fun x : Group =>
          if (x.counts && !s.accessHeld x) = true then { x with waveTime := x.waveTime + (t - s.clock) } else x) =
          fun x : Group => x.id == k := by
        funext x; simp only [Function.comp_apply]; split <;> rfl
      rw [hid, hg]
      simp only [Option.map_some]
      split
      · exact ⟨_, rfl⟩
      · exact ⟨g.waveTime, rfl⟩

@[simp] theorem State.advance_launches (s : State) (t : Nat) : (s.advance t).launches = s.launches := by
  unfold State.advance; split <;> rfl

@[simp] theorem State.advance_cur (s : State) (t : Nat) : (s.advance t).cur = s.cur := by
  unfold State.advance; split <;> rfl

@[simp] theorem State.advance_mem (s : State) (t : Nat) : (s.advance t).mem = s.mem := by
  unfold State.advance; split <;> rfl

@[simp] theorem State.advance_clock (s : State) (t : Nat) : (s.advance t).clock = max s.clock t := by
  unfold State.advance; split
  · simp [*]
  · simp only; omega

theorem State.launch?_advance (s : State) (t k : Nat) : (s.advance t).launch? k = s.launch? k := by
  simp [State.launch?]

/-- What an instruction names does not depend on the time of a wave. -/
theorem usesOf_timed (lays : List (BitVec 320)) (g : Group) (v : Nat) (i : Instr) :
    usesOf lays (g.timed v) i = usesOf lays g i := by
  cases i <;> rfl

/-- Nor do the checks at decode. -/
theorem decodeFault_timed (l : Launch) (g : Group) (v : Nat) (hw : Word) (j : Nat) (i : Instr) (u : Uses) :
    decodeFault l (g.timed v) hw j i u = decodeFault l g hw j i u := by
  have hb : ballotOk (g.timed v) i = ballotOk g i := by cases i <;> rfl
  have hlegal : legalAt (g.timed v) hw j i = legalAt g hw j i := by simp only [legalAt, hb]
  simp only [decodeFault, hlegal]
  rfl

theorem Group.waitsAhead_timed (g : Group) (v : Nat) (l : Launch) (lane : Nat) :
    (g.timed v).waitsAhead l lane = g.waitsAhead l lane := by
  simp only [Group.waitsAhead, usesOf_timed]
  rfl

/-- Nor what an instruction waits for. -/
theorem mustWait_timed (l : Launch) (g : Group) (v : Nat) (h : Head) (u : Uses) :
    mustWait l (g.timed v) h u = mustWait l g h u := by
  have hga : (g.timed v).gathers l u = g.gathers l u := by
    simp only [Group.gathers, funext (Group.waitsAhead_timed g v l)]
    rfl
  simp only [mustWait, hga]
  rfl

/-! ### What an instruction comes to at its slot -/

/-- What the issue of an instruction comes to when no stop is forced on it. -/
theorem exec_of_unstopped {i : Instr} {h : Head} {b : Body} (hb : bodyOf i = some (h, b)) {s : State} {g : Group}
    {l : Launch} {hdr j : Nat} {hw : Word} (st : Stands s g l hdr j hw) :
    exec i s = .next (issueAt i h b s g l hdr j hw) := by
  rw [exec_eq_issue hb, issue_of_stands st]

/-- The group of a forced stop leaves the active set where it stands. -/
theorem State.stopNow_group {s : State} {g : Group} (hg : s.group? g.id = some g) :
    ∃ y, (s.stopNow g).group? g.id = some y ∧ y.stopped = true ∧ y.active = false ∧ y.pos = g.pos ∧
      y.vregs = g.vregs ∧ y.sregs = g.sregs ∧ y.preds = g.preds ∧ y.em = g.em ∧ y.wait = g.wait := by
  obtain ⟨v, hv⟩ := State.advance_group hg (g.stopAt.getD s.clock + 4096)
  exact ⟨_, State.group?_onGroup_self _ _ _ _ hv rfl, rfl, rfl, rfl, rfl, rfl, rfl, rfl, rfl⟩

/-! ### The rules of issue -/

theorem overdueStopIsForced : Claims.OverdueStopIsForced := by
  intro i h b s g l hdr j hw hb st hu
  have hstop : g.stopsBy (max s.clock (g.startAt (usesIn i h g l))) = true := by simpa [Unstopped] using hu
  refine ⟨?_, ?_⟩
  · rw [exec_of_unstopped hb st, issueAt]
    simp [hstop]
  · obtain ⟨y, hy, h1, h2, h3, h4, h5, h6, h7, h8⟩ := State.stopNow_group (group?_of_stands st)
    exact ⟨y, hy, h1, h2, h3, h4, h5, h6, h7, h8, by simp [State.stopNow, State.onGroup]⟩

theorem undecodableWordTrapsIllegal : Claims.UndecodableWordTrapsIllegal := by
  intro s s' gid rest g hdr j hw ws e hag hg hpos hrun hstop hf hd
  rw [step_of_issue hag]
  have hg' : ({ s with agenda := rest } : State).group? gid = some g := hg
  simp [State.issueNext, hg', hpos, hrun, hstop, hf, hd, noted]

theorem decodeBreachTraps : Claims.DecodeBreachTraps := by
  intro i h b s g l hdr j hw c tv hb st hu hz hd
  rw [exec_of_unstopped hb st, issueAt]
  simp [hu, hz, hd, trapped]

/-- With lanes behind and nothing else to wait for, an instruction that gathers them waits. -/
theorem mustWait_gathers {l : Launch} {g : Group} {h : Head} {u : Uses} (hp : g.pend = []) (hd : g.deferred = [])
    (hr : g.reserved = []) (hb : g.backlog ≠ []) (hg : g.gathers l u = true) : mustWait l g h u = some .runner := by
  have hdue : dueAt g u = none := by simp [dueAt, Group.dues, hd]
  simp [mustWait, hp, hdue, hr, hb, hg]

theorem instructionWaitsWithoutEffect : Claims.InstructionWaitsWithoutEffect := by
  intro i h b s g l hdr j hw w hb st hu
  have waits : ∀ w, sizePending g i = false → decodeFault l g hw j i (usesIn i h g l) = none →
      mustWait l g h (usesIn i h g l) = some w → exec i s = .next (waiting s g w) := by
    intro w hz hd hm
    rw [exec_of_unstopped hb st, issueAt]
    simp [hu, hz, hd, hm, waiting]
  refine ⟨waits w, fun hz => ?_, fun hz hd hp hde hr hbk hga => waits _ hz hd (mustWait_gathers hp hde hr hbk hga)⟩
  rw [exec_of_unstopped hb st, issueAt]
  simp [hu, hz, waiting]

theorem instructionIssuesAtItsClock : Claims.InstructionIssuesAtItsClock := by
  intro i h b s g l hdr j hw hb st hu hz hd hm
  refine ⟨?_, by simp, by simp⟩
  obtain ⟨hg, hl, hp, hr⟩ := id st
  have hgid := group?_of_stands st
  generalize ht : g.startAt (usesIn i h g l) = t
  obtain ⟨v, hv⟩ := State.advance_group hg t
  have hvid : (s.advance t).group? (g.timed v).id = some (g.timed v) := by
    rw [State.group?_id hv]; exact hv
  have st' : Stands (s.advance t) (g.timed v) l hdr j hw :=
    ⟨by rw [State.advance_cur]; exact hv, by rw [State.launch?_advance]; exact hl, hp, hr⟩
  have hstart : (g.timed v).startAt ((usesOf l.layouts g i).guarded h) = t := ht
  have hsize : sizePending (g.timed v) i = false := hz
  have hgo : g.stopsBy (max s.clock t) = false := by rw [← ht]; exact hu
  have hstop : (g.timed v).stopsBy (max s.clock t) = false := hgo
  unfold usesIn at *
  rw [exec_of_unstopped hb st, exec_of_unstopped hb st', issueAt, issueAt]
  simp only [usesOf_timed, ht, hgo, hz, hd, hm, hstart, hsize, State.advance_clock, max_eq_left, le_max_right, hstop,
    decodeFault_timed, mustWait_timed, State.advance_of_le, hvid, Option.getD_some]
  rw [show g.id = (g.timed v).id from rfl, hvid]
  rfl

theorem failedGuardHasNoEffect : Claims.FailedGuardHasNoEffect := by
  intro i h b s g l hdr j hw hb is hl hg
  exact exec_guard_fails hb is hl hg

/-- An instruction that issues, once its guard lets it, takes a failure's trap, or a poisoned register's, before its own
effect. -/
theorem exec_of_issues {i : Instr} {h : Head} {b : Body} (hb : bodyOf i = some (h, b)) {s : State} {g : Group}
    {l : Launch} {hdr j : Nat} {hw : Word} (is : Issues i h s g l hdr j hw)
    (hgd : (usesIn i h g l).lanes = true ∨ g.guardHolds h = true) :
    exec i s = .next (match dueAt g (usesIn i h g l) with
      | some d => s.takeDeferred g d (.back hdr j)
      | none => match poisonedRead i h (usesIn i h g l) g with
        | some a => trapped s g hdr j Cause.memUncorrectable a
        | none => s.settle g h (usesIn i h g l) (writeLanes i h (usesIn i h g l) g) hdr j hw (encode i).length
            (b s g l)) := by
  obtain ⟨st, hd, hm, hs, hz, hst⟩ := is
  have hid := group?_of_stands st
  have hskip : (!(usesIn i h g l).lanes && !g.guardHolds h) = false := by
    rcases hgd with e | e <;> rw [e] <;> simp
  rw [exec_of_unstopped hb st, issueAt]
  unfold usesIn at *
  simp only [hd, hm, hz, max_eq_left hs, hst, State.advance_of_le s hs, hid, Option.getD_some, hskip]
  rfl

theorem deferredTrapTakenAtReader : Claims.DeferredTrapTakenAtReader := by
  intro i h b s g l hdr j hw d hb is hgd hdue
  rw [exec_of_issues hb is hgd, hdue]
  rfl

theorem poisonedRegisterTraps : Claims.PoisonedRegisterTraps := by
  intro i h b s g l hdr j hw a hb is hgd hdue hpoi
  rw [exec_of_issues hb is hgd, hdue, hpoi]

theorem nothingIssuesWithoutAGroup : Claims.NothingIssuesWithoutAGroup := by
  intro i h b s hb hno
  rw [exec_eq_issue hb, issue]
  split
  · rfl
  · next g hg =>
    split
    · next l hdr j hw hl hp =>
      rw [if_neg fun hr => hno g l hdr j hw ⟨hg, hl, hp, hr⟩]
    · rfl

/-- Settles O2: each rule by what `issueAt` comes to where its condition is the first that holds. -/
theorem issueRules : Obligations.IssueRules :=
  ⟨overdueStopIsForced, undecodableWordTrapsIllegal, decodeBreachTraps, instructionWaitsWithoutEffect,
    instructionIssuesAtItsClock, failedGuardHasNoEffect, deferredTrapTakenAtReader, poisonedRegisterTraps,
    nothingIssuesWithoutAGroup⟩

end Sys2Proof.Machine
end

section
/-! PROOFS. What instructions that act lane by lane on registers leave (R9, R24, R25, R162, R168 to R181). -/

namespace Sys2Proof.Machine

/-! ### The body of a lane instruction -/

/-- A lane instruction's body is that of its lane function. -/
theorem bodyOf_of_laneOf {s : State} {g : Group} {i : Instr} {h : Head} {f : LaneFn} (hl : laneOf s g i = some (h, f)) :
    ∃ b, bodyOf i = some (h, b) ∧ ∀ l, b s g l = perLane i h f s g l := by
  cases i <;> simp only [laneOf, Option.some.injEq, Prod.mk.injEq, reduceCtorEq] at hl <;>
    (obtain ⟨rfl, rfl⟩ := hl; exact ⟨_, rfl, fun _ => rfl⟩)

theorem laneInstructionsComplete : Claims.LaneInstructionsComplete := by
  intro i h f s g l hdr j hw hl ac hrun hpub hbk
  obtain ⟨b, hb, hf⟩ := bodyOf_of_laneOf hl
  exact exec_go hb ac ((hf l).trans (perLane_together i h f s g l hrun hpub hbk))

/-! ### The predicates that a commit writes -/

/-- One lane's predicate write changes that predicate in that lane. -/
theorem Group.getLsbD_putPred (g : Group) (o : Nat × LaneOut) (p : Nat) {x : Nat} (ho : o.1 < 64) (hx : x < 64) :
    ((g.putPred o).pred p).getLsbD x = match o.2.pred with
      | some (q, b) => if q = p ∧ o.1 = x then b else (g.pred p).getLsbD x
      | none => (g.pred p).getLsbD x := by
  unfold Group.putPred
  cases hp : o.2.pred with
  | none => rfl
  | some w =>
    obtain ⟨q, b⟩ := w
    by_cases hq : q = p
    · subst hq
      by_cases hl : o.1 = x
      · subst hl; cases b <;> simp [Group.setPred, Group.pred, ho]
      · cases b <;> simp [Group.setPred, Group.pred, hx, hl, Ne.symm hl]
    · simp [Group.setPred, Group.pred, Sparse.get_set, hq, Ne.symm hq]

/-- The predicate bits that no lane writes stay. -/
theorem Group.getLsbD_foldl_putPred_other {p x : Nat} (hx : x < 64) (outs : List (Nat × LaneOut)) (g : Group)
    (hlt : ∀ o ∈ outs, o.1 < 64) (hno : ∀ o ∈ outs, o.1 = x → ∀ w ∈ o.2.pred, w.1 ≠ p) :
    ((outs.foldl Group.putPred g).pred p).getLsbD x = (g.pred p).getLsbD x := by
  induction outs generalizing g with
  | nil => rfl
  | cons o t ih =>
    rw [List.foldl_cons, ih _ (fun o h => hlt o (by simp [h])) (fun o h => hno o (by simp [h])),
      g.getLsbD_putPred o p (hlt o (by simp)) hx]
    split
    · next q b hq =>
      rw [if_neg]
      rintro ⟨rfl, hl⟩
      exact hno o (by simp) hl _ hq rfl
    · rfl

/-- A predicate bit that lanes write, all alike, is what they write. -/
theorem Group.getLsbD_foldl_putPred {p x : Nat} {b : Bool} (outs : List (Nat × LaneOut)) (g : Group)
    (hlt : ∀ o ∈ outs, o.1 < 64) (hone : ∀ o ∈ outs, o.1 = x → ∀ w ∈ o.2.pred, w.1 = p → w.2 = b)
    (hsome : ∃ o ∈ outs, o.1 = x ∧ ∃ w ∈ o.2.pred, w.1 = p) :
    ((outs.foldl Group.putPred g).pred p).getLsbD x = b := by
  have hx : x < 64 := by obtain ⟨o, ho, rfl, _⟩ := hsome; exact hlt o ho
  induction outs generalizing g with
  | nil => simp at hsome
  | cons o t ih =>
    have hlt' : ∀ o ∈ t, o.1 < 64 := fun o h => hlt o (by simp [h])
    rw [List.foldl_cons]
    by_cases ht : ∃ o ∈ t, o.1 = x ∧ ∃ w ∈ o.2.pred, w.1 = p
    · exact ih _ hlt' (fun o h => hone o (by simp [h])) ht
    · rw [Group.getLsbD_foldl_putPred_other hx t _ hlt' fun o h hl w hw hp => ht ⟨o, h, hl, w, hw, hp⟩,
        g.getLsbD_putPred o p (hlt o (by simp)) hx]
      obtain ⟨o', ho', hl, w, hw, hp⟩ := hsome
      obtain rfl : o' = o := by
        rcases List.mem_cons.mp ho' with h | h
        · exact h
        · exact absurd ⟨o', h, hl, w, hw, hp⟩ ht
      have hval := hone o' (by simp) hl w hw hp
      obtain ⟨q, c⟩ := w
      simp only [Option.mem_def] at hw
      simp only [hw]
      rw [if_pos ⟨hp, hl⟩]
      exact hval

theorem Group.commit_pred (g : Group) (tr : Bool) (outs : List (Nat × LaneOut)) (p : Nat) :
    (g.commit tr outs).1.pred p =
      (outs.foldl Group.putPred (g.raise (Flags.all (outs.map fun o => o.2.flags)))).pred p := by
  cases tr <;> rfl

/-- Lanes that write no predicate leave the predicates. -/
theorem Group.foldl_putPred_none (outs : List (Nat × LaneOut)) (g : Group) (hno : ∀ o ∈ outs, o.2.pred = none) :
    outs.foldl Group.putPred g = g := by
  induction outs generalizing g with
  | nil => rfl
  | cons o t ih =>
    rw [List.foldl_cons, ih _ fun o h => hno o (by simp [h])]
    simp [Group.putPred, hno o (by simp)]

theorem Group.commit_preds_none (g : Group) (tr : Bool) (outs : List (Nat × LaneOut))
    (hno : ∀ o ∈ outs, o.2.pred = none) :
    (g.commit tr outs).1.preds = g.preds := by
  have h : (g.commit tr outs).1.preds =
      (outs.foldl Group.putPred (g.raise (Flags.all (outs.map fun o => o.2.flags)))).preds := by
    cases tr <;> rfl
  rw [h, Group.foldl_putPred_none _ _ hno]
  rfl

/-- A register of a lane that the lane does not write stays. -/
theorem Group.commit_fileV_other (g : Group) (tr : Bool) (outs : List (Nat × LaneOut)) {r x : Nat}
    (hno : ∀ o ∈ outs, o.1 = x → ∀ w ∈ o.2.regs, w.1 ≠ r) (hlt : ∀ o ∈ outs, o.1 < 64) (hx : x < 64) :
    (g.commit tr outs).1.fileV r x = g.fileV r x := by
  cases tr
  · unfold Group.fileV
    rw [Group.commit_vregs, Sparse.get_setAll_other]
    intro p hp
    obtain ⟨o, ho, hp⟩ := List.mem_flatMap.mp hp
    obtain ⟨w, hw, rfl⟩ := List.mem_map.mp hp
    intro he
    obtain ⟨hr, hl⟩ := vkey_inj (hlt o ho) hx he
    exact hno o ho hl w hw hr
  · obtain ⟨preds, e⟩ := g.commit_cases true outs
    rw [e]
    rfl

theorem laneCommitFrame : Claims.LaneCommitFrame := by
  intro g tr outs
  have hframe : ∀ {α : Type} (p : Group → α), (∀ (c : Group) q, p { c with preds := q } = p c) →
      (∀ c ws, p (Group.writeAll c ws) = p c) →
      p (g.commit tr outs).1 = p (g.raise (Flags.all (outs.map fun o => o.2.flags))) := by
    intro α p hq hw
    obtain ⟨preds, e⟩ := g.commit_cases tr outs
    rw [e]
    cases tr
    · exact (hw _ _).trans (hq _ _)
    · exact hq _ _
  refine ⟨?_, fun r x hno hlt hx => g.commit_fileV_other tr outs hno hlt hx, ?_, ?_⟩
  · rintro rfl hlt o ho w hw hone
    exact g.commit_fileV outs hlt ho hw hone
  · rintro rfl
    obtain ⟨preds, e⟩ := g.commit_cases true outs
    simp only [e]
    rfl
  · refine ⟨?_, ?_, ?_, ?_, ?_, ?_, ?_, ?_, ?_, ?_, ?_, ?_, g.commit_preds_none tr outs, ?_, ?_⟩
    iterate 12 exact hframe _ (fun _ _ => rfl) fun _ _ => rfl
    · intro p x hx hlt hno
      rw [g.commit_pred, Group.getLsbD_foldl_putPred_other hx _ _ hlt hno]
      rfl
    · intro hlt o ho w hw hone
      rw [g.commit_pred]
      exact Group.getLsbD_foldl_putPred outs _ hlt hone ⟨o, ho, rfl, w, hw, rfl⟩

/-- Settles O4: a lane instruction's body commits what its lanes compute, and a commit writes what they wrote. -/
theorem laneInstructions : Obligations.LaneInstructions := ⟨laneInstructionsComplete, laneCommitFrame⟩

end Sys2Proof.Machine
end

section
/-! PROOFS. The values of plain integer, bitwise, shift, compare, select and immediate instructions, and what becomes
of a transient result (R25, R162, R171 to R173, R178 to R181). -/

namespace Sys2Proof.Machine

/-! ### Numbers of a type as bit vectors -/

/-- Reading a number of a type and wrapping it again keeps its bits. -/
theorem ofInt_intOf {t : Ty} {w : Nat} (hw : Ty.bits t = w) (n : Nat) : BitVec.ofInt w (intOf t n) = BitVec.ofNat w
    n := by
  subst hw
  apply BitVec.eq_of_toNat_eq
  rw [BitVec.toNat_ofInt, intOf_emod, BitVec.toNat_ofNat]
  simp only [← Int.natCast_mod, Int.toNat_natCast]

/-- The bits that a type without saturation writes are those of the exact result (R25). -/
theorem ofNat_extend_narrow {t : Ty} {w : Nat} (hw : Ty.bits t = w) (x : Int) :
    BitVec.ofNat w (extend t (narrow t false x)) = BitVec.ofInt w x := by
  rw [← ofInt_intOf hw, intOf_extend, ofInt_intOf hw]
  subst hw
  apply BitVec.eq_of_toNat_eq
  rw [BitVec.toNat_ofInt, BitVec.toNat_ofNat, narrow, if_neg (by decide), Nat.mod_eq_of_lt (truncTo_lt _ _)]
  rfl

theorem fileNat_of_narrow {t : Ty} (h : t.wide = false) (y : Group) (r x : Nat) :
    BitVec.ofNat 32 (fileNat y t r x) = y.fileV r x := by
  simp [fileNat, h]

theorem fileNat_of_wide {t : Ty} (h : t.wide = true) (y : Group) (r x : Nat) :
    BitVec.ofNat 64 (fileNat y t r x) = filePair y r x := by
  simp [fileNat, h]

theorem readNat_of_narrow {t : Ty} (h : t.wide = false) (g : Group) (idx r x : Nat) :
    BitVec.ofNat 32 (readNat g idx t r x) = g.readV idx r x := by
  simp [readNat, h]

theorem readNat_of_wide {t : Ty} (h : t.wide = true) (g : Group) (idx r x : Nat) :
    BitVec.ofNat 64 (readNat g idx t r x) = readPair g idx r x := by
  simp [readNat, h]

theorem srcBNat_of_narrow {t : Ty} (h : t.wide = false) (g : Group) (idx : Nat) (b : OpB) (x : Nat) :
    BitVec.ofNat 32 (srcBNat g idx t b x) = srcB32 g idx b x := by
  simp [srcBNat, h]

theorem srcBNat_of_wide {t : Ty} (h : t.wide = true) (g : Group) (idx : Nat) (b : OpB) (x : Nat) :
    BitVec.ofNat 64 (srcBNat g idx t b x) = srcB64 g idx b x := by
  simp [srcBNat, h]

/-! ### Instructions of two sources -/

/-- The instruction `i` acts lane by lane with `f`, on two sources of type `o.t`. -/
structure OfTwo (i : Instr) (o : V2) (f : LaneFn) : Prop where
  body : bodyOf i = some (o.h, perLane i o.h f)
  uses : ∀ lays g, ∃ lat, usesOf lays g i = use2 lat o.t o.t.wide o.d o.a o.b

section
variable {i : Instr} {o : V2} {s : State} {g : Group} {l : Launch} {hdr j : Nat} {hw : Word}

/-- A plain instruction of two sources ends with the one value that a lane writes in its destination. -/
theorem OfTwo.endsIn_put {f : LaneFn} (hi : OfTwo i o f) {v : Nat → Nat} (hp : Plain2 o g)
    (ac : Acts i o.h s g l hdr j hw)
    (hput : ∀ x, f g g.issued x 0 = put o.t.wide o.d (v x)) (hv : ∀ x, v x < 2 ^ (if o.t.wide then 64 else 32)) :
    EndsIn i s g fun u y => OnlyGroup s u g.id ∧ ∀ x ∈ g.executing o.h, fileNat y o.t o.d.reg.toNat x = v x := by
  obtain ⟨_, hk, hpub, htr, hbk⟩ := hp
  obtain ⟨lat, hu⟩ := hi.uses l.layouts g
  obtain ⟨hrun, hnone, htr'⟩ := use2_plain lat o.t o.t.wide o.d o.a o.b hk hpub
  rw [← hu] at hrun hnone htr'
  exact Sys2Proof.Machine.endsIn_put hi.body ac hrun hnone (htr'.trans htr) hbk hput hv

/-- Of exact arithmetic it writes the wrapped result (R25, R171). -/
theorem OfTwo.endsIn_int {f : Int → Int → Int} (hi : OfTwo i o (intLane2 f o)) {w : Nat}
    {F : BitVec w → BitVec w → BitVec w}
    (hF : ∀ a b, BitVec.ofInt w (f a b) = F (BitVec.ofInt w a) (BitVec.ofInt w b))
    (hbits : Ty.bits o.t = w) (hp : Plain2 o g) (ac : Acts i o.h s g l hdr j hw) :
    EndsIn i s g fun u y => OnlyGroup s u g.id ∧ ∀ x ∈ g.executing o.h, BitVec.ofNat w (fileNat y o.t o.d.reg.toNat x) =
      F (BitVec.ofNat w (readNat g g.issued o.t o.a.reg.toNat x)) (BitVec.ofNat w (srcBNat g g.issued o.t o.b x)) := by
  have ⟨hsat, hk, _⟩ := hp
  refine (hi.endsIn_put hp ac (v := fun x => extend o.t (narrow o.t false
    (f (intOf o.t (readNat g g.issued o.t o.a.reg.toNat x)) (intOf o.t (srcBNat g g.issued o.t o.b x)))))
    (fun x => ?_) fun x => extend_lt _ _).imp fun u y ⟨honly, hval⟩ => ⟨honly, fun x hx => ?_⟩
  · simp only [intLane2, readA, hk, hsat, if_true, readReg_eq_readNat, readB_eq_srcBNat]
  · rw [hval x hx, ofNat_extend_narrow hbits, hF, ofInt_intOf hbits, ofInt_intOf hbits]

/-- Of raw bits on a 32-bit type it writes the function's bits, which fit (R172, R173). -/
theorem OfTwo.endsIn_raw {f : Nat → Nat → Nat → Nat} (hi : OfTwo i o (rawLane2 f o)) {F : Lane → Lane → Lane}
    (hF : ∀ a b : Lane, f 32 a.toNat b.toNat = (F a b).toNat) (ht : o.t = .b32) (hp : Plain2 o g)
    (ac : Acts i o.h s g l hdr j hw) :
    EndsIn i s g fun _ y => ∀ x ∈ g.executing o.h,
      y.fileV o.d.reg.toNat x = F (g.readV g.issued o.a.reg.toNat x) (srcB32 g g.issued o.b x) := by
  have ⟨_, hk, _⟩ := hp
  have hn : o.t.wide = false := by rw [ht]; rfl
  refine (hi.endsIn_put hp ac (v := fun x => (F (g.readV g.issued o.a.reg.toNat x) (srcB32 g g.issued o.b x)).toNat)
    (fun x => ?_) fun x => by rw [hn]; exact BitVec.isLt _).imp fun u y ⟨_, hval⟩ x hx => ?_
  · simp only [rawLane2, readA, hk, if_true, readReg_eq_readNat, readB_eq_srcBNat, ← hF]
    simp [ht, Ty.bits, readNat, srcBNat, Ty.wide]
  · rw [← fileNat_of_narrow hn, hval x hx, BitVec.ofNat_toNat, BitVec.setWidth_eq]

end

theorem ofTwo_iadd (o : V2) : OfTwo (.iadd o) o (intLane2 (· + ·) o) := ⟨rfl, fun _ _ => ⟨_, rfl⟩⟩
theorem ofTwo_isub (o : V2) : OfTwo (.isub o) o (intLane2 (· - ·) o) := ⟨rfl, fun _ _ => ⟨_, rfl⟩⟩
theorem ofTwo_imul (o : V2) : OfTwo (.imul o) o (intLane2 (· * ·) o) := ⟨rfl, fun _ _ => ⟨_, rfl⟩⟩
theorem ofTwo_and (o : V2) : OfTwo (.and o) o (rawLane2 (fun _ a b => Nat.land a b) o) := ⟨rfl, fun _ _ => ⟨_, rfl⟩⟩
theorem ofTwo_or (o : V2) : OfTwo (.or o) o (rawLane2 (fun _ a b => Nat.lor a b) o) := ⟨rfl, fun _ _ => ⟨_, rfl⟩⟩
theorem ofTwo_xor (o : V2) : OfTwo (.xor o) o (rawLane2 (fun _ a b => Nat.xor a b) o) := ⟨rfl, fun _ _ => ⟨_, rfl⟩⟩
theorem ofTwo_andn (o : V2) : OfTwo (.andn o) o (rawLane2 andnNat o) := ⟨rfl, fun _ _ => ⟨_, rfl⟩⟩
theorem ofTwo_shl (o : V2) : OfTwo (.shl o) o (rawLane2 shlNat o) := ⟨rfl, fun _ _ => ⟨_, rfl⟩⟩
theorem ofTwo_shr (o : V2) : OfTwo (.shr o) o (rawLane2 shrNat o) := ⟨rfl, fun _ _ => ⟨_, rfl⟩⟩
theorem ofTwo_sar (o : V2) : OfTwo (.sar o) o (rawLane2 sarNat o) := ⟨rfl, fun _ _ => ⟨_, rfl⟩⟩
theorem ofTwo_rot (o : V2) : OfTwo (.rot o) o (rawLane2 rotNat o) := ⟨rfl, fun _ _ => ⟨_, rfl⟩⟩

/-! ### Sums, differences and products (R25, R171) -/

theorem ofInt_sub_eq (w : Nat) (a b : Int) : BitVec.ofInt w (a - b) = BitVec.ofInt w a - BitVec.ofInt w b := by
  rw [Int.sub_eq_add_neg, BitVec.ofInt_add, BitVec.ofInt_neg, BitVec.sub_eq_add_neg]

theorem integerArithmetic32 : Claims.IntegerArithmetic32 := by
  intro o s g l hdr j hw ht hp
  have hbits : Ty.bits o.t = 32 := by rcases ht with h | h <;> rw [h] <;> rfl
  have hn : o.t.wide = false := by rcases ht with h | h <;> rw [h] <;> rfl
  refine ⟨fun ac => ?_, fun ac => ?_, fun ac => ?_⟩
  · simpa only [fileNat_of_narrow hn, readNat_of_narrow hn, srcBNat_of_narrow hn] using
      (ofTwo_iadd o).endsIn_int BitVec.ofInt_add hbits hp ac
  · simpa only [fileNat_of_narrow hn, readNat_of_narrow hn, srcBNat_of_narrow hn] using
      (ofTwo_isub o).endsIn_int (ofInt_sub_eq 32) hbits hp ac
  · simpa only [fileNat_of_narrow hn, readNat_of_narrow hn, srcBNat_of_narrow hn] using
      (ofTwo_imul o).endsIn_int BitVec.ofInt_mul hbits hp ac

theorem integerArithmetic64 : Claims.IntegerArithmetic64 := by
  intro o s g l hdr j hw ht hp
  have hbits : Ty.bits o.t = 64 := by rcases ht with h | h <;> rw [h] <;> rfl
  have hn : o.t.wide = true := by rcases ht with h | h <;> rw [h] <;> rfl
  refine ⟨fun ac => ?_, fun ac => ?_, fun ac => ?_⟩
  · simpa only [fileNat_of_wide hn, readNat_of_wide hn, srcBNat_of_wide hn] using
      (ofTwo_iadd o).endsIn_int BitVec.ofInt_add hbits hp ac
  · simpa only [fileNat_of_wide hn, readNat_of_wide hn, srcBNat_of_wide hn] using
      (ofTwo_isub o).endsIn_int (ofInt_sub_eq 64) hbits hp ac
  · simpa only [fileNat_of_wide hn, readNat_of_wide hn, srcBNat_of_wide hn] using
      (ofTwo_imul o).endsIn_int BitVec.ofInt_mul hbits hp ac

/-! ### Bits and shifts (R172, R173) -/

theorem andnNat_eq (a b : Lane) : andnNat 32 a.toNat b.toNat = (a &&& ~~~b).toNat := by
  simp only [andnNat, BitVec.toNat_and, BitVec.toNat_not, Nat.mod_eq_of_lt b.isLt]
  rfl

theorem bitwiseValues : Claims.BitwiseValues := by
  intro o s g l hdr j hw ht hp
  exact ⟨fun ac => (ofTwo_and o).endsIn_raw (fun _ _ => (BitVec.toNat_and ..).symm) ht hp ac,
    fun ac => (ofTwo_or o).endsIn_raw (fun _ _ => (BitVec.toNat_or ..).symm) ht hp ac,
    fun ac => (ofTwo_xor o).endsIn_raw (fun _ _ => (BitVec.toNat_xor ..).symm) ht hp ac,
    fun ac => (ofTwo_andn o).endsIn_raw andnNat_eq ht hp ac⟩

theorem amount_lane (b : Lane) : amount b.toNat = b.toNat := Nat.mod_eq_of_lt b.isLt

/-- A shift by the width or more leaves no bit. -/
theorem shlNat_eq (a b : Lane) : shlNat 32 a.toNat b.toNat = (a <<< b.toNat).toNat := by
  rw [shlNat, amount_lane, BitVec.toNat_shiftLeft, Nat.shiftLeft_eq]
  split
  · next h =>
    obtain ⟨k, hk⟩ := Nat.exists_eq_add_of_le h
    rw [hk, Nat.pow_add, Nat.mul_left_comm, Nat.mul_mod_right]
  · rfl

theorem shrNat_eq (a b : Lane) : shrNat 32 a.toNat b.toNat = (a >>> b.toNat).toNat := by
  rw [shrNat, amount_lane, BitVec.toNat_ushiftRight, Nat.shiftRight_eq_div_pow]
  split
  · next h => rw [Nat.div_eq_of_lt (a.isLt.trans_le (Nat.pow_le_pow_right two_pos h))]
  · rfl

/-- What is below the width in size is all sign after a shift by the width or more. -/
theorem ediv_two_pow_of_le {s : Int} {n : Nat} (hlo : -2 ^ 31 ≤ s) (hhi : s < 2 ^ 31) (hn : 32 ≤ n) :
    s / (2 ^ n : Nat) = if s < 0 then -1 else 0 := by
  have hpow : (2 ^ 32 : Int) ≤ (2 ^ n : Nat) := by exact_mod_cast Nat.pow_le_pow_right two_pos hn
  split
  · rw [Int.ediv_eq_iff_of_pos (by positivity)]; omega
  · exact Int.ediv_eq_zero_of_lt (by omega) (by omega)

theorem sarNat_eq (a b : Lane) : sarNat 32 a.toNat b.toNat = (a.sshiftRight b.toNat).toNat := by
  have hs : (if 2 ^ (32 - 1) ≤ a.toNat then (a.toNat : Int) - (2 ^ 32 : Nat) else a.toNat) = a.toInt := by
    rw [BitVec.toInt_eq_toNat_cond]
    split <;> split <;> omega
  have hres : (a.sshiftRight b.toNat).toNat = truncTo 32 (a.toInt / (2 ^ b.toNat : Nat)) := by
    rw [truncTo, ← Int.shiftRight_eq_div_pow, ← BitVec.toInt_sshiftRight, ← BitVec.toNat_ofInt, BitVec.ofInt_toInt]
  have hlo := BitVec.le_toInt a
  have hhi := BitVec.toInt_lt (x := a)
  simp only [sarNat, hs, amount_lane, hres]
  split
  · next h =>
    rw [ediv_two_pow_of_le (by simpa using hlo) (by simpa using hhi) h]
    split <;> rfl
  · rfl

theorem rotNat_eq (a b : Lane) : rotNat 32 a.toNat b.toNat = (a.rotateLeft b.toNat).toNat := by
  rw [rotNat, amount_lane, BitVec.toNat_rotateLeft, Nat.shiftLeft_eq, Nat.shiftRight_eq_div_pow]

theorem shiftValues : Claims.ShiftValues := by
  intro o s g l hdr j hw ht hp
  exact ⟨fun ac => (ofTwo_shl o).endsIn_raw (F := fun a b => a <<< b.toNat) shlNat_eq ht hp ac,
    fun ac => (ofTwo_shr o).endsIn_raw (F := fun a b => a >>> b.toNat) shrNat_eq ht hp ac,
    fun ac => (ofTwo_sar o).endsIn_raw (F := fun a b => a.sshiftRight b.toNat) sarNat_eq ht hp ac,
    fun ac => (ofTwo_rot o).endsIn_raw (F := fun a b => a.rotateLeft b.toNat) rotNat_eq ht hp ac⟩

/-- Settles O5: of exact arithmetic the wrapped result is written, of raw bits those of the bit vector's own
    operation. -/
theorem integerValues : Obligations.IntegerValues :=
  ⟨integerArithmetic32, integerArithmetic64, bitwiseValues, shiftValues⟩

/-! ### Compare, select and immediate (R178 to R181) -/

/-- Where no flag is raised, none is. -/
theorem Flags.all_eq_zero {l : List Flags} (h : ∀ f ∈ l, f = 0) : Flags.all l = 0 := by
  induction l with
  | nil => rfl
  | cons f t ih =>
    obtain rfl := h f (by simp)
    exact ih fun f hf => h f (by simp [hf])

theorem Group.commit_fflags (g : Group) (tr : Bool) (outs : List (Nat × LaneOut)) :
    (g.commit tr outs).1.fflags = g.fflags ||| Flags.all (outs.map fun o => o.2.flags) := by
  obtain ⟨preds, e⟩ := g.commit_cases tr outs
  cases tr <;> rw [e] <;> rfl

/-- A commit of lanes that each write one predicate and nothing else. -/
theorem Group.commit_putP (g : Group) (h : Head) (p : BitVec 3) (b : Nat → Bool) :
    let c := (g.commit false ((g.executing h).map fun x => (x, putP p (b x)))).1
    c.vregs = g.vregs ∧ c.fflags = g.fflags ∧ ∀ x, x < 64 →
      (c.pred p.toNat).getLsbD x = if x ∈ g.executing h then b x else (g.pred p.toNat).getLsbD x := by
  have hlt : ∀ o ∈ (g.executing h).map fun x => (x, putP p (b x)), o.1 < 64 := by
    intro o ho
    obtain ⟨x, hx, rfl⟩ := List.mem_map.mp ho
    exact executing_lt hx
  refine ⟨?_, ?_, fun x hx => ?_⟩
  · rw [Group.commit_vregs, show laneWrites _ = [] by simp [laneWrites, putP]]
    rfl
  · rw [Group.commit_fflags, Flags.all_eq_zero (by simp [putP])]
    simp
  · rw [Group.commit_pred]
    split
    · next hmem =>
      refine Group.getLsbD_foldl_putPred _ _ hlt ?_ ⟨_, List.mem_map_of_mem hmem, rfl, _, rfl, rfl⟩
      intro o ho hox w hw _
      obtain ⟨y, _, rfl⟩ := List.mem_map.mp ho
      obtain rfl : y = x := hox
      obtain rfl : (p.toNat, b y) = w := Option.some.inj hw
      rfl
    · next hmem =>
      rw [Group.getLsbD_foldl_putPred_other hx _ _ hlt]
      · rfl
      · intro o ho hox
        obtain ⟨y, hy, rfl⟩ := List.mem_map.mp ho
        obtain rfl : y = x := hox
        exact absurd hy hmem

/-- On s32, less as numbers is less as signed bit vectors. -/
theorem intOf_s32_lt (a b : Lane) : decide (intOf .s32 a.toNat < intOf .s32 b.toNat) = a.slt b := by
  have h : ∀ c : Lane, intOf .s32 c.toNat = c.toInt := fun c => by
    rw [intOf_signed rfl, BitVec.toInt_eq_toNat_bmod]
    rfl
  rw [h, h, BitVec.slt_eq_decide]

theorem compareAndSelect : Claims.CompareAndSelect := by
  refine ⟨fun o s g l hdr j hw ht hc hk hbk ac => ?isetp, fun o s g l hdr j hw ht hk hpub htr hbk ac => ?sel⟩
  case isetp =>
    have hu : (usesOf l.layouts g (.isetp o)).run = none ∧ (usesOf l.layouts g (.isetp o)).pub = none ∧
        (usesOf l.layouts g (.isetp o)).tr = false := by
      cases hb : o.b <;> simp [usesOf, useCmp, vuse, Uses.withA, Uses.withB, hk, hb]
    obtain ⟨hrun, hnone, htr⟩ := hu
    have hlane : ∀ x, laneIsetp o g g.issued x 0 =
        putP o.p ((g.readV g.issued o.a.reg.toNat x).slt (srcB32 g g.issued o.b x)) := fun x => by
      simp only [laneIsetp, readA, hk, if_true, readReg_eq_readNat, readB_eq_srcBNat, hc, ht, cmpInt, ← intOf_s32_lt]
      rfl
    have hgo := perLane_together (.isetp o) o.h (laneIsetp o) s g l hrun hnone hbk
    simp only [htr, hlane] at hgo
    have hid := g.commit_id false ((g.executing o.h).map fun x =>
      (x, putP o.p ((g.readV g.issued o.a.reg.toNat x).slt (srcB32 g g.issued o.b x))))
    have hset := State.group?_setGroup_self s g _ (hid ▸ group?_of_stands ac.1.1)
    rw [hid] at hset
    obtain ⟨hv, hf, hp⟩ := g.commit_putP o.h o.p fun x => (g.readV g.issued o.a.reg.toNat x).slt
        (srcB32 g g.issued o.b x)
    exact ⟨_, _, exec_go rfl ac hgo, group_issued_next hset, onlyGroup_issued_setGroup _ _ s hid l hdr j hw _, hv, hf,
        hp⟩
  case sel =>
    have hu := use2_plain (lat46 o.t) o.t o.t.wide o.d o.a o.b hk hpub
    have hn : o.t.wide = false := by rw [ht]; rfl
    refine (endsIn_put (t := o.t) (d := o.d) (f := laneSel o)
      (v := fun x => (if ((g.pred o.p.toNat).getLsbD x != o.inv) = true then g.readV g.issued o.a.reg.toNat x
        else srcB32 g g.issued o.b x).toNat) rfl ac hu.1 hu.2.1 (hu.2.2.trans htr) hbk (fun x => ?_) fun x => ?_).imp
      fun u y ⟨honly, hval⟩ => ⟨honly, fun x hx => ?_⟩
    · simp only [laneSel, readA, hk, if_true, readReg_eq_readNat, readB_eq_srcBNat, predIn]
      simp only [readNat, srcBNat, hn, Bool.false_eq_true, if_false, apply_ite BitVec.toNat]
    · rw [hn]; exact BitVec.isLt _
    · rw [← fileNat_of_narrow hn, hval x hx, BitVec.ofNat_toNat, BitVec.setWidth_eq]

theorem moveImmediate : Claims.MoveImmediate := by
  intro o s g l hdr j hw hpub htr hbk ac
  have hu : (usesOf l.layouts g (.movi o)).run = none ∧ (usesOf l.layouts g (.movi o)).pub = none ∧
      (usesOf l.layouts g (.movi o)).tr = false := by
    simp [usesOf, vuse, Uses.withD, hpub, htr]
  obtain ⟨hrun, hnone, htr'⟩ := hu
  refine (endsIn_put (t := o.t) (d := o.d) (v := fun _ => o.imm.toNat) rfl ac hrun hnone htr' hbk (fun _ => rfl)
    fun _ => ?_).imp fun u y ⟨honly, hval⟩ => ⟨honly, fun x hx => ⟨fun ht => ?_, fun ht => ?_⟩⟩
  · exact o.imm.isLt.trans_le (Nat.pow_le_pow_right two_pos (by split <;> decide))
  · rw [← fileNat_of_narrow (t := o.t) (by rw [ht]; rfl), hval x hx, BitVec.ofNat_toNat]
  · rw [← fileNat_of_wide (t := o.t) (by rw [ht]; rfl), hval x hx, BitVec.ofNat_toNat]

/-- Settles O8: ISETP's lanes write one predicate each, and SEL's and MOVI's one value each. -/
theorem compareSelectAndMoveImmediate : Obligations.CompareSelectAndMoveImmediate := ⟨compareAndSelect, moveImmediate⟩

/-! ### Transient results (R162) -/

/-- The value that a lane's one register has among what the lanes write. -/
theorem lookup_laneWrites {lanes : List Nat} (hlt : ∀ x ∈ lanes, x < 64) (r : Nat) (v : Nat → Lane) {x : Nat}
    (hx : x ∈ lanes) : (laneWrites (lanes.map fun x => (x, { regs := [(r, v x)] }))).lookup (vkey r x) = some (v x) :=
        by
  induction lanes with
  | nil => cases hx
  | cons y t ih =>
    have hwrites : laneWrites ((y :: t).map fun x => (x, { regs := [(r, v x)] })) =
        (vkey r y, v y) :: laneWrites (t.map fun x => (x, { regs := [(r, v x)] })) := rfl
    rw [hwrites, List.lookup_cons]
    by_cases hxy : x = y
    · subst hxy; simp
    · have hne : (vkey r x == vkey r y) = false :=
        beq_eq_false_iff_ne.mpr fun h => hxy (vkey_inj (hlt x hx) (hlt y (by simp)) h).2
      rw [hne]
      exact ih (fun z hz => hlt z (by simp [hz])) ((List.mem_cons.mp hx).resolve_left hxy)

/-- With one transient result, the three instructions after its own read it, and later ones the file. -/
theorem readV_of_one_bypassed {y : Group} {n : Nat} {a : Addr} {tr : Bool} {vals : Sparse Lane} (ha : y.aside = none)
    (hb : y.bypass = [⟨n, a, tr, vals⟩]) (hn : y.issued = n + 1) {r x : Nat} {v : Lane}
    (hv : vals.lookup (vkey r x) = some v) (k : Nat) :
    y.readV (y.issued + k) r x = if k < 3 then v else y.fileV r x := by
  rw [hn]
  have hle : n + 1 + k ≤ n + 3 ↔ k < 3 := by omega
  have hlt : n < n + 1 + k := by omega
  by_cases hk : k < 3 <;> simp [Group.readV, Group.bypassed, ha, hb, hv, hk, hle, hlt]

/-- Settles O9: the lanes' results go to the bypass under the instruction's number, and to no register. -/
theorem transientResultIsReadForThreeInstructions : Obligations.TransientResultIsReadForThreeInstructions := by
  intro o s g l hdr j hw ht hsat hk hpub htr hbk hby has ac
  have hbits : Ty.bits o.t = 32 := by rcases ht with h | h <;> rw [h] <;> rfl
  have hn : o.t.wide = false := by rcases ht with h | h <;> rw [h] <;> rfl
  obtain ⟨hrun, hnone, htr'⟩ := use2_plain (lat46 o.t) o.t o.t.wide o.d o.a o.b hk hpub
  have hlane : ∀ x, laneIadd o g g.issued x 0 =
      { regs := [(o.d.reg.toNat, g.readV g.issued o.a.reg.toNat x + srcB32 g g.issued o.b x)] } := fun x => by
    have hsum := ofNat_extend_narrow hbits
      (intOf o.t (readNat g g.issued o.t o.a.reg.toNat x) + intOf o.t (srcBNat g g.issued o.t o.b x))
    rw [BitVec.ofInt_add, ofInt_intOf hbits, ofInt_intOf hbits, readNat_of_narrow hn, srcBNat_of_narrow hn] at hsum
    simp only [laneIadd, intLane2, readA, hk, hsat, if_true, readReg_eq_readNat, readB_eq_srcBNat]
    simp only [put, hn, putReg, regsOf, wordsOf, Bool.false_eq_true, if_false, List.zip_cons_cons, List.zip_nil_right,
        hsum]
  have hgo := perLane_together (.iadd o) o.h (laneIadd o) s g l hrun hnone hbk
  simp only [show (usesOf l.layouts g (.iadd o)).tr = true from htr'.trans htr, hlane] at hgo
  generalize houts : (g.executing o.h).map (fun x => (x, ({ regs := [(o.d.reg.toNat,
    g.readV g.issued o.a.reg.toNat x + srcB32 g g.issued o.b x)] } : LaneOut))) = outs at hgo
  obtain ⟨preds, hc⟩ := g.commit_cases true outs
  simp only [if_true] at hc
  have hset := State.group?_setGroup_self s g _ (g.commit_id true outs ▸ group?_of_stands ac.1.1)
  rw [g.commit_id true outs] at hset
  refine ⟨_, _, exec_go rfl ac hgo, group_issued_next hset, ?_, fun x hx k _ => ?_⟩
  · simp only [Group.count_vregs, hc]; rfl
  · have hval := lookup_laneWrites (fun _ => executing_lt) o.d.reg.toNat
      (fun x => g.readV g.issued o.a.reg.toNat x + srcB32 g g.issued o.b x) hx
    rw [houts] at hval
    have hread := readV_of_one_bypassed (n := g.issued) (a := slotAddr hdr j)
      (tr := (usesIn (.iadd o) o.h g l).tr) (vals := laneWrites outs)
      (y := { (g.commit true outs).1.count s.clock o.h (usesIn (.iadd o) o.h g l) (slotAddr hdr j)
        (writeLanes (.iadd o) o.h (usesIn (.iadd o) o.h g l) g) (g.commit true outs).2 with
        pos := nextPlace hdr j hw (encode (.iadd o)).length })
      (by rw [hc]; exact has) (by rw [hc]; simp [Group.count, hby, hbk]) (by rw [hc]; rfl) hval k
    refine ⟨fun hk3 => hread.trans (if_pos hk3), fun hk3 => (hread.trans (if_neg (not_lt.mpr hk3))).trans ?_⟩
    simp only [Group.fileV, Group.count_vregs, hc]
    rfl

end Sys2Proof.Machine
end

section
/-! PROOFS. NaN operands and roundings (R29 to R31, R200). -/

namespace Sys2Proof.Machine

/-! ### NaN operands (R29, R200) -/

theorem Num.neg_isNan (x : Num) : x.neg.isNan = x.isNan := by cases x <;> rfl

theorem finish_of_nan (f : FFmt) (m : RMode) {x y : Num} (h : x.isNan = true ∨ y.isNan = true) (r : Option Num) :
    finish f m [x, y] r = (f.nan, Flags.when (x.isSnan || y.isSnan) Flags.nv) := by
  have hany : [x, y].any Num.isNan = true := by simpa using h
  unfold finish
  rw [if_pos hany, snanFlag]
  simp

theorem fdiv_of_nan (f : FFmt) (m : RMode) {a b : Nat} (h : (unpack f a).isNan = true ∨ (unpack f b).isNan = true) :
    fdiv f m a b = (f.nan, Flags.when ((unpack f a).isSnan || (unpack f b).isSnan) Flags.nv) := by
  have hor : ((unpack f a).isNan || (unpack f b).isNan) = true := by simpa using h
  simp [fdiv, hor, snanFlag]

theorem ffma_of_nan (f : FFmt) (m : RMode) {a b : Nat} (c : Nat)
    (h : (unpack f a).isNan = true ∨ (unpack f b).isNan = true) :
    ffma f m a b c = (f.nan,
      Flags.when ((unpack f a).isSnan || (unpack f b).isSnan || (unpack f c).isSnan) Flags.nv) := by
  have hor : ((unpack f a).isNan || (unpack f b).isNan) = true := by simpa using h
  simp [ffma, hor, snanFlag, Bool.or_assoc]

/-- One of the two is a zero and the other an infinity. -/
def zeroTimesInf (x y : Num) : Prop := (∃ n k e, x = .fin n 0 e ∧ y = .inf k) ∨ ∃ n k e, y = .fin n 0 e ∧ x = .inf k

/-- A product of numbers is not defined just for a zero and an infinity, and is a number where it is defined. -/
theorem mulNum_cases {x y : Num} (hx : x.isNan = false) (hy : y.isNan = false) :
    (zeroTimesInf x y ∧ mulNum x y = none) ∨ (¬ zeroTimesInf x y ∧ ∃ p, mulNum x y = some p ∧ p.isNan = false) := by
  cases x with
  | nan s => cases hx
  | inf a => cases y with
    | nan s => cases hy
    | inf b => exact .inr ⟨by simp [zeroTimesInf], _, rfl, rfl⟩
    | fin n m e =>
      by_cases hm : m = 0
      · exact .inl ⟨.inr ⟨n, a, e, by rw [hm], rfl⟩, by simp [mulNum, hm]⟩
      · exact .inr ⟨by simp [zeroTimesInf, hm], _, by simp only [mulNum, hm, if_false]; rfl, rfl⟩
  | fin n m e => cases y with
    | nan s => cases hy
    | inf b =>
      by_cases hm : m = 0
      · exact .inl ⟨.inl ⟨n, b, e, by rw [hm], rfl⟩, by simp [mulNum, hm]⟩
      · exact .inr ⟨by simp [zeroTimesInf, hm], _, by simp only [mulNum, hm, if_false]; rfl, rfl⟩
    | fin n' m' e' => exact .inr ⟨by simp [zeroTimesInf], _, rfl, rfl⟩

theorem Num.isSnan_of_not_isNan {x : Num} (h : x.isNan = false) : x.isSnan = false := by
  cases x with
  | nan s => cases h
  | inf b => rfl
  | fin n m e => rfl

theorem nanOperandsGiveTheCanonicalNan : Claims.NanOperandsGiveTheCanonicalNan := by
  intro f m a b c
  refine ⟨fun h => ⟨finish_of_nan f m h _, finish_of_nan f m h _, finish_of_nan f m h _, fdiv_of_nan f m h⟩,
    fun h => ffma_of_nan f m c h, fun hc ha hb => ?_⟩
  have hno : ((unpack f a).isNan || (unpack f b).isNan) = false := by simp [ha, hb]
  obtain ⟨hz, hnone⟩ | ⟨hz, p, hp, hnan⟩ := mulNum_cases ha hb
  · exact ⟨fun _ => by simp [ffma, hno, hnone], fun h => absurd hz h⟩
  · refine ⟨fun h => absurd h hz, fun _ => ?_⟩
    simp only [ffma, hno, hp, Bool.false_eq_true, if_false]
    rw [finish_of_nan f m (.inr hc), Num.isSnan_of_not_isNan hnan, Bool.false_or]

/-! ### Roundings (R30, R31) -/

/-- A rounding to a whole number keeps the quotient or the next number, by what remains. -/
theorem quantum_zero (mode : RMode) (neg : Bool) (m s : Nat) :
    quantum mode neg m (-(s : Int)) false 0 =
      (if roundsUp mode neg (m / 2 ^ s % 2 == 1) (2 * (m % 2 ^ s)) (2 ^ s) false then m / 2 ^ s + 1 else m / 2 ^ s,
        m % 2 ^ s != 0) := by
  cases s with
  | zero => simp [quantum, Nat.mod_one]
  | succ s =>
    have hneg : ¬ (0 : Int) ≤ -((s + 1 : Nat) : Int) := by omega
    have hs : (0 - -((s + 1 : Nat) : Int)).toNat = s + 1 := by omega
    simp only [quantum, if_neg hneg, hs, Bool.or_false]

/-- When each mode rounds up. -/
theorem roundsUp_iff (mode : RMode) (neg : Bool) (k r h : Nat) :
    roundsUp mode neg (k % 2 == 1) (2 * r) h false = true ↔ match mode with
      | .rne => h < 2 * r ∨ (2 * r = h ∧ k % 2 = 1)
      | .rtz => False
      | .rdn => neg = true ∧ r ≠ 0
      | .rup => neg = false ∧ r ≠ 0 := by
  cases mode <;> simp [roundsUp]

theorem roundingFollowsItsMode : Claims.RoundingFollowsItsMode := by
  intro mode neg m s
  have hup := roundsUp_iff mode neg (m / 2 ^ s) (m % 2 ^ s) (2 ^ s)
  have hr : m % 2 ^ s < 2 ^ s := Nat.mod_lt _ (by positivity)
  have hm : m = m / 2 ^ s * 2 ^ s + m % 2 ^ s := (Nat.div_add_mod' m (2 ^ s)).symm
  rw [quantum_zero, Nat.dvd_iff_mod_eq_zero]
  generalize hk : m / 2 ^ s = k at *
  generalize hq : m % 2 ^ s = r at *
  generalize 2 ^ s = p at *
  have hsucc : (k + 1) * p = k * p + p := Nat.succ_mul k p
  by_cases hru : roundsUp mode neg (k % 2 == 1) (2 * r) p false = true
  · rw [if_pos hru]
    rw [hup] at hru
    cases mode <;> cases neg <;> simp_all <;> omega
  · rw [if_neg hru]
    rw [hup] at hru
    cases mode <;> cases neg <;> simp_all <;> omega

/-- Settles O10: by cases on what the operands are, and on what remains below the rounding's last place. -/
theorem floatResults : Obligations.FloatResults := ⟨nanOperandsGiveTheCanonicalNan, roundingFollowsItsMode⟩

end Sys2Proof.Machine
end

section
/-! PROOFS. Reconstruction from residues (R43 to R48, R334). -/

namespace Sys2Proof.Machine.Rns

/-! ### Mixed-radix digits (R46) -/

/-- The inverses that conversion needs between these channels, in their order, are inverses (R45). -/
def Inverses (chs : List Nat) : Prop := chs.Pairwise fun i j => modulus i * inv i j % modulus j = 1

theorem modulus_pos (i : Nat) : 0 < modulus i := by
  unfold modulus; split <;> decide

/-- One step of the conversion: what is left of a channel, times the modulus, gives its residue back. -/
theorem add_mul_residue_mod {a y i j : Nat} (hinv : modulus i * inv i j % modulus j = 1) (hy : y < modulus j) {R : Nat}
    (hR : R % modulus j = residue (((y : Int) - a) * inv i j) (modulus j)) : (a + modulus i * R) % modulus j = y := by
  have hpos : (0 : Int) < modulus j := by exact_mod_cast modulus_pos j
  have hR' : (R : Int) ≡ ((y : Int) - a) * inv i j [ZMOD modulus j] := by
    have h := congrArg (Nat.cast : Nat → Int) hR
    rw [residue, Int.toNat_of_nonneg (Int.emod_nonneg _ hpos.ne'), Int.natCast_mod] at h
    exact h
  have hi : (modulus i : Int) * inv i j ≡ 1 [ZMOD modulus j] := by
    have h1 : 1 < modulus j := by
      rcases Nat.lt_or_ge 1 (modulus j) with h | h
      · exact h
      · have := modulus_pos j
        rw [show modulus j = 1 by omega, Nat.mod_one] at hinv
        cases hinv
    rw [← Nat.mod_eq_of_lt h1] at hinv
    exact_mod_cast (Int.natCast_modEq_iff.mpr hinv)
  have hsum : ((a + modulus i * R : Nat) : Int) ≡ y [ZMOD modulus j] := by
    push_cast
    calc (a : Int) + modulus i * R ≡ a + modulus i * (((y : Int) - a) * inv i j) [ZMOD modulus j] :=
          (hR'.mul_left _).add_left _
      _ = a + (modulus i * inv i j) * ((y : Int) - a) := by ring
      _ ≡ a + 1 * ((y : Int) - a) [ZMOD modulus j] := (hi.mul_right _).add_left _
      _ = y := by ring
  have := Int.natCast_modEq_iff.mp hsum
  rwa [Nat.ModEq, Nat.mod_eq_of_lt hy] at this

/-- The number that the digits give has the residues that they were made of, and lies below the product. -/
theorem ofDigits_mrc (n : Nat) : ∀ l : List (Nat × Nat), l.length ≤ n → Inverses (l.map (·.1)) →
    (∀ p ∈ l, p.2 < modulus p.1) → ofDigits (mrc n l) < ((l.map (·.1)).map modulus).prod ∧
      ∀ p ∈ l, ofDigits (mrc n l) % modulus p.1 = p.2 := by
  induction n with
  | zero =>
    intro l hn _ _
    obtain rfl := List.length_eq_zero_iff.mp (Nat.le_zero.mp hn)
    simp [mrc, ofDigits]
  | succ n ih =>
    rintro (_ | ⟨⟨i, a⟩, t⟩) hn hinv hlt
    · simp [mrc, ofDigits]
    have hfst : (t.map fun p : Nat × Nat => (p.1, residue (((p.2 : Int) - a) * inv i p.1) (modulus p.1))).map (·.1) =
        t.map (·.1) := by simp [Function.comp_def]
    obtain ⟨hi, ht⟩ := List.pairwise_cons.mp hinv
    obtain ⟨hbound, hres⟩ := ih (t.map fun p : Nat × Nat =>
        (p.1, residue (((p.2 : Int) - a) * inv i p.1) (modulus p.1)))
      (by simpa using hn) (by rw [hfst]; exact ht) (by
        intro p hp
        obtain ⟨q, hq, rfl⟩ := List.mem_map.mp hp
        have hpos : (0 : Int) < modulus q.1 := by exact_mod_cast modulus_pos q.1
        have := Int.emod_lt_of_pos (((q.2 : Int) - a) * inv i q.1) hpos
        simp only [residue]
        omega)
    rw [hfst] at hbound
    have ha : a < modulus i := hlt (i, a) (by simp)
    have hdigits : ofDigits (mrc (n + 1) ((i, a) :: t)) = a + modulus i * ofDigits (mrc n (t.map fun p : Nat × Nat =>
        (p.1, residue (((p.2 : Int) - a) * inv i p.1) (modulus p.1)))) := rfl
    rw [hdigits]
    generalize ofDigits (mrc n _) = R at hbound hres
    refine ⟨?_, ?_⟩
    · simp only [List.map_cons, List.prod_cons]
      calc a + modulus i * R < modulus i * (R + 1) := by rw [Nat.mul_succ]; omega
        _ ≤ _ := Nat.mul_le_mul_left _ hbound
    · intro p hp
      rcases List.mem_cons.mp hp with rfl | hp
      · simp [Nat.mod_eq_of_lt ha]
      · exact add_mul_residue_mod (hi p.1 (List.mem_map_of_mem hp)) (hlt p (by simp [hp]))
          (hres _ (List.mem_map_of_mem hp))

/-! ### Values over channels (R47, R48) -/

theorem inverses_channels (f : AccFmt) : Inverses (channels f) := by
  unfold Inverses; cases f <;> decide

theorem coprime_channels (f : AccFmt) : (channels f).Pairwise (Function.onFun Nat.Coprime modulus) := by
  cases f <;> decide

theorem nodup_channels (f : AccFmt) : (channels f).Nodup := by
  cases f <;> decide

/-- The channels but two have room for every number that a format holds: two channels are redundant (R47). -/
theorem primary_le_prod (f : AccFmt) : ∀ j ∈ channels f, ∀ k ∈ channels f,
    primary f ≤ (((channels f).filter fun i => i != j && i != k).map modulus).prod := by
  cases f <;> decide

/-- The value over some channels has the residues of the vector there, with the offset added. -/
theorem value_mod {f : AccFmt} {chs : List Nat} (hsub : chs.Sublist (channels f)) (x : Nat → Nat) {i : Nat}
    (hi : i ∈ chs) :
    value f chs x % modulus i = (x i + offset f) % modulus i := by
  have hmap : (chs.map fun i => (i, (x i + offset f) % modulus i)).map (·.1) = chs := by simp [Function.comp_def]
  have hlen : chs.length ≤ 10 := hsub.length_le.trans (by cases f <;> decide)
  obtain ⟨_, hres⟩ := ofDigits_mrc 10 (chs.map fun i => (i, (x i + offset f) % modulus i)) (by simpa using hlen)
    (by rw [hmap]; exact (inverses_channels f).sublist hsub)
    (by intro p hp; obtain ⟨i, _, rfl⟩ := List.mem_map.mp hp; exact Nat.mod_lt _ (modulus_pos i))
  exact hres _ (List.mem_map_of_mem hi)

theorem value_lt {f : AccFmt} {chs : List Nat} (hsub : chs.Sublist (channels f)) (x : Nat → Nat) :
    value f chs x < (chs.map modulus).prod := by
  have hmap : (chs.map fun i => (i, (x i + offset f) % modulus i)).map (·.1) = chs := by simp [Function.comp_def]
  have hlen : chs.length ≤ 10 := hsub.length_le.trans (by cases f <;> decide)
  obtain ⟨hlt, _⟩ := ofDigits_mrc 10 (chs.map fun i => (i, (x i + offset f) % modulus i)) (by simpa using hlen)
    (by rw [hmap]; exact (inverses_channels f).sublist hsub)
    (by intro p hp; obtain ⟨i, _, rfl⟩ := List.mem_map.mp hp; exact Nat.mod_lt _ (modulus_pos i))
  rwa [hmap] at hlt

/-- Two numbers below the product of some channels with the same residues there are one. -/
theorem eq_of_residues {f : AccFmt} {chs : List Nat} (hsub : chs.Sublist (channels f)) {a b : Nat}
    (ha : a < (chs.map modulus).prod) (hb : b < (chs.map modulus).prod) (h : ∀ i ∈ chs, a % modulus i = b % modulus i) :
    a = b := by
  have := (Nat.modEq_list_map_prod_iff ((coprime_channels f).sublist hsub)).mpr h
  rwa [Nat.ModEq, Nat.mod_eq_of_lt ha, Nat.mod_eq_of_lt hb] at this

/-- An integer that a format holds, with the offset added (R47). -/
def shifted (f : AccFmt) (x : Int) : Nat := (x + offset f).toNat

section
variable {f : AccFmt} {x : Int} (hlo : -(offset f : Int) ≤ x) (hhi : x < (primary f : Int) - offset f)
include hlo hhi

theorem shifted_lt : shifted f x < primary f := by unfold shifted; omega

omit hhi in
theorem shifted_sub_offset : (shifted f x : Int) - offset f = x := by unfold shifted; omega

omit hhi in
theorem encode_add_offset_mod (i : Nat) : (encode x i + offset f) % modulus i = shifted f x % modulus i := by
  have hpos : (0 : Int) < modulus i := by exact_mod_cast modulus_pos i
  have hx : ((encode x i : Nat) : Int) = x % modulus i := Int.toNat_of_nonneg (Int.emod_nonneg _ hpos.ne')
  have hs : ((shifted f x : Nat) : Int) = x + offset f := by unfold shifted; omega
  apply Int.natCast_inj.mp
  push_cast
  rw [hx, hs, Int.emod_add_emod]

/-- Where the residues are those of the integer but on one channel at most, a value over enough channels that is
legitimate is the integer. -/
theorem value_eq_shifted {chs : List Nat} (hsub : chs.Sublist (channels f)) {y : Nat → Nat} {j : Nat}
    (hy : ∀ i ∈ chs, i ≠ j → y i = encode x i) (hroom : primary f ≤ ((chs.filter (· != j)).map modulus).prod)
    (hlt : value f chs y < primary f) : value f chs y = shifted f x := by
  have hs := shifted_lt hlo hhi
  refine eq_of_residues (f := f) (List.filter_sublist.trans hsub) (hlt.trans_le hroom) (hs.trans_le hroom) fun i hi =>
      ?_
  obtain ⟨hic, hij⟩ := List.mem_filter.mp hi
  rw [value_mod hsub y hic, hy i hic (by simpa using hij), encode_add_offset_mod hlo]

/-- Without a wrong residue the value is the integer. -/
theorem value_encode {chs : List Nat} (hsub : chs.Sublist (channels f)) {y : Nat → Nat}
    (hy : ∀ i ∈ chs, y i = encode x i) (hroom : primary f ≤ (chs.map modulus).prod) : value f chs y = shifted f x := by
  refine eq_of_residues (f := f) hsub (value_lt hsub y) ((shifted_lt hlo hhi).trans_le hroom) fun i hi => ?_
  rw [value_mod hsub y hi, hy i hi, encode_add_offset_mod hlo]

/-- With a wrong residue on one of enough channels the value is not legitimate. -/
theorem primary_le_value {chs : List Nat} (hsub : chs.Sublist (channels f)) {y : Nat → Nat} {j : Nat} (hj : j ∈ chs)
    (hy : ∀ i ∈ chs, i ≠ j → y i = encode x i) (hroom : primary f ≤ ((chs.filter (· != j)).map modulus).prod)
    (hlt : y j < modulus j) (hne : y j ≠ encode x j) : primary f ≤ value f chs y := by
  by_contra hnot
  have hval := value_eq_shifted hlo hhi hsub hy hroom (not_le.mp hnot)
  have hres := value_mod hsub y hj
  rw [hval, ← encode_add_offset_mod hlo] at hres
  have henc : encode x j < modulus j := by
    have := Int.emod_lt_of_pos x (b := modulus j) (by exact_mod_cast modulus_pos j)
    unfold encode residue
    omega
  have := Nat.ModEq.add_right_cancel' (offset f) hres
  rw [Nat.ModEq, Nat.mod_eq_of_lt henc, Nat.mod_eq_of_lt hlt] at this
  exact hne this.symm

end

/-! ### Reconstruction (R334) -/

/-- The first channel without which the value is legitimate is found. -/
theorem dropOne_eq {f : AccFmt} {chs : List Nat} {y : Nat → Nat} {j : Nat} (t : List Nat) (hj : j ∈ t)
    (hgood : value f (chs.filter (· != j)) y < primary f)
    (hbad : ∀ k ∈ t, k ≠ j → primary f ≤ value f (chs.filter (· != k)) y) :
    dropOne f chs y t = some (j, (value f (chs.filter (· != j)) y : Int) - offset f) := by
  induction t with
  | nil => cases hj
  | cons k t ih =>
    unfold dropOne
    by_cases hk : k = j
    · subst hk
      simp [hgood]
    · have hno : ¬ value f (chs.filter (· != k)) y < primary f := not_lt.mpr (hbad k (by simp) hk)
      simp only [hno, if_false]
      exact ih ((List.mem_cons.mp hj).resolve_left (Ne.symm hk)) fun i hi => hbad i (by simp [hi])

theorem primary_le_prod_channels (f : AccFmt) : primary f ≤ ((channels f).map modulus).prod := by
  cases f <;> decide

theorem primary_le_prod_without (f : AccFmt) : ∀ j ∈ channels f,
    primary f ≤ (((channels f).filter (· != j)).map modulus).prod := by
  cases f <;> decide

theorem filter_not_contains_nil (l : List Nat) : (l.filter fun c => !([] : List Nat).contains c) = l := by simp

end Sys2Proof.Machine.Rns

namespace Sys2Proof.Machine

open Rns in
/-- Settles O11: the value over all channels is the one number below their product with the integer's residues. -/
theorem reconstructionAnswersTheInteger : Obligations.ReconstructionAnswersTheInteger := by
  intro f x hlo hhi
  have hval := value_encode hlo hhi (List.Sublist.refl _) (y := Rns.encode x) (fun _ _ => rfl)
      (primary_le_prod_channels f)
  have hlt := shifted_lt hlo hhi
  simp only [reconstruct, filter_not_contains_nil, hval, if_pos hlt, shifted_sub_offset hlo]

open Rns in
/-- Settles O12: two channels being redundant, no value that takes the wrong residue in is legitimate, and the one
without that channel is the integer. -/
theorem oneWrongResidueIsCorrected : Obligations.OneWrongResidueIsCorrected := by
  intro f x j e hlo hhi hj he hne
  generalize hy : (fun i => if i = j then e else Rns.encode x i) = y
  have hyj : y j = e := by rw [← hy]; simp
  have hother : ∀ i, i ≠ j → y i = Rns.encode x i := fun i hi => by rw [← hy]; simp [hi]
  have hfull : ¬ value f (channels f) y < primary f := not_lt.mpr <|
    primary_le_value hlo hhi (List.Sublist.refl _) hj (fun i _ => hother i) (primary_le_prod_without f j hj)
      (by rw [hyj]; exact he) (by rw [hyj]; exact hne)
  have hwithout : value f ((channels f).filter (· != j)) y = shifted f x :=
    value_encode hlo hhi List.filter_sublist (fun i hi => hother i (by simpa using (List.mem_filter.mp hi).2))
      (primary_le_prod_without f j hj)
  have hdrop : dropOne f (channels f) y (channels f) = some (j, x) := by
    rw [dropOne_eq (channels f) hj (by rw [hwithout]; exact shifted_lt hlo hhi), hwithout, shifted_sub_offset hlo]
    intro k hk hkj
    refine primary_le_value hlo hhi List.filter_sublist (j := j) ?_ (fun i _ => hother i) ?_
      (by rw [hyj]; exact he) (by rw [hyj]; exact hne)
    · exact List.mem_filter.mpr ⟨hj, by simpa using Ne.symm hkj⟩
    · rw [List.filter_filter]
      exact primary_le_prod f j hj k hk
  simp only [reconstruct, filter_not_contains_nil, if_neg hfull, lt_irrefl, if_false, hdrop]

end Sys2Proof.Machine
end

section
/-! PROOFS. The scalar and predicate instructions and those that change the window (R153, R155, R185 to R190, R198). -/

namespace Sys2Proof.Machine

/-! ### Scalar instructions (R185, R186, R189, R195) -/

/-- An amount of the width or more shifts every bit out. -/
theorem sshlWord_eq (a y : Word) : sshlWord a y = a <<< y.toNat := by
  unfold sshlWord
  split
  · next h => exact (BitVec.shiftLeft_eq_zero h).symm
  · rfl

/-- And leaves copies of the sign alone. -/
theorem sshiftRight_min (a : Word) (n : Nat) : a.sshiftRight (min n 64) = a.sshiftRight n := by
  rcases Nat.le_total n 64 with h | h
  · rw [min_eq_left h]
  · rw [min_eq_right h]
    ext i hi
    simp only [BitVec.getElem_sshiftRight]
    rw [dif_neg (by omega), dif_neg (by omega)]

theorem sshrWord_eq (arith : Bool) (a y : Word) :
    sshrWord arith a y = if arith then a.sshiftRight y.toNat else a >>> y.toNat := by
  cases arith
  · simp only [sshrWord, Bool.false_eq_true, if_false]
    split
    · next h => exact (BitVec.ushiftRight_eq_zero h).symm
    · rfl
  · simp only [sshrWord, if_true, sshiftRight_min]

theorem scalarInstructionsComplete : Claims.ScalarInstructionsComplete := by
  intro s g l hdr j hw
  have one : ∀ {i : Instr} {h : Head} {f : State → Group → Group} {x : Group}, bodyOf i = some (h, groupBody f) →
      f s g = x → Acts i h s g l hdr j hw → exec i s = .next (issued i h s g l hdr j hw (s.setGroup x)) :=
    fun hb hx ac => hx ▸ exec_go hb ac rfl
  exact ⟨fun _ => one rfl rfl, fun _ => one rfl rfl, fun _ => one rfl rfl, fun _ => one rfl rfl, fun _ => one rfl rfl,
    fun _ => one rfl rfl, fun o => one rfl (by rw [sshlWord_eq]), fun o => one rfl (by rw [sshrWord_eq]),
    fun _ => one rfl rfl, fun _ => one rfl rfl, fun _ => one rfl rfl, fun _ => one rfl rfl, fun _ => one rfl rfl⟩

theorem scalarWriteFrame : Claims.ScalarWriteFrame := by
  intro g v
  refine ⟨fun r => ?_, rfl⟩
  refine ⟨Sparse.get_set_self .., fun k hk => Sparse.get_set_other _ _ _ _ _ hk, rfl, rfl, rfl, rfl, rfl, rfl, rfl, rfl,
    rfl, rfl, rfl, ?_, fun d t hs => ?_⟩
  · cases hs : g.stack <;> simp [writeS, Group.setSreg, Group.noteWritten, hs]
  · simp [writeS, Group.setSreg, Group.noteWritten, hs]

/-- Settles O13: each body puts what it computes in the group, and a scalar write changes its one place. -/
theorem scalarInstructions : Obligations.ScalarInstructions := ⟨scalarInstructionsComplete, scalarWriteFrame⟩

/-! ### Predicates and special registers (R187, R188, R190) -/

theorem executing_noGuard (g : Group) (h : Head) : g.executing (noGuard h) = g.lanes.filter fun x => g.em.getLsbD x :=
    by
  simp [Group.executing, Group.guardIn, noGuard]

/-- An instruction that acts in every lane of `em`, taken once for its group, commits what these compute. -/
theorem exec_perLane_noGuard {i : Instr} {h : Head} {b : Body} {f : LaneFn} {s : State} {g : Group} {l : Launch}
    {hdr j : Nat} {hw : Word} (hb : bodyOf i = some (h, b)) (hf : b s g l = perLane i (noGuard h) f s g l)
    (hrun : (usesOf l.layouts g i).run = none) (hpub : (usesOf l.layouts g i).pub = none)
    (htr : (usesOf l.layouts g i).tr = false) (hbk : g.backlog = []) (ac : Acts i h s g l hdr j hw) :
    exec i s = .next (issued i h s g l hdr j hw (s.setGroup
      (g.commit false ((g.lanes.filter fun x => g.em.getLsbD x).map fun x => (x, f g g.issued x 0))).1)) := by
  have hgo := hf.trans (perLane_together i (noGuard h) f s g l hrun hpub hbk)
  simp only [htr, executing_noGuard] at hgo
  exact exec_go hb ac hgo

theorem Uses.withS_plain (u : Uses) (r : SReg) :
    (u.withS r).run = u.run ∧ (u.withS r).pub = u.pub ∧ (u.withS r).tr = u.tr := by
  cases r <;> exact ⟨rfl, rfl, rfl⟩

theorem Uses.withY_plain (u : Uses) (y : SSrc) :
    (u.withY y).run = u.run ∧ (u.withY y).pub = u.pub ∧ (u.withY y).tr = u.tr := by
  cases y with
  | imm i => exact ⟨rfl, rfl, rfl⟩
  | lit w => exact ⟨rfl, rfl, rfl⟩
  | reg r => exact u.withS_plain r

theorem Uses.withP_plain (u : Uses) (p : PReg) :
    (u.withP p).run = u.run ∧ (u.withP p).pub = u.pub ∧ (u.withP p).tr = u.tr := by
  cases p <;> exact ⟨rfl, rfl, rfl⟩

/-- Settles O14: the lane forms are commits in the lanes of `em`, the others put one value in the group. -/
theorem predicateAndSpecialInstructionsComplete : Obligations.PredicateAndSpecialInstructionsComplete := by
  intro s g l hdr j hw hbk
  refine ⟨fun o ac => ?ssetp, fun o p hd ac => ?plogP, fun o hd ac => ?plogEm, fun o hsrc ac => ?getsLanes,
    fun o hi hl ac => ?gets⟩
  case ssetp =>
    obtain ⟨hr, hp, ht⟩ := ((suse 2).withS o.a).withY_plain o.y
    obtain ⟨hr', hp', ht'⟩ := (suse 2).withS_plain o.a
    exact exec_perLane_noGuard rfl rfl (hr.trans hr') (hp.trans hp') (ht.trans ht') hbk ac
  case plogP =>
    obtain ⟨hr, hp, ht⟩ := ((suse 2).withP o.a).withP_plain o.b
    obtain ⟨hr', hp', ht'⟩ := (suse 2).withP_plain o.a
    exact exec_perLane_noGuard (b := plogBody o) rfl (by simp [plogBody, hd])
        (by simpa [usesOf, hd, suse] using hr.trans hr')
      (by simpa [usesOf, hd, suse] using hp.trans hp') (by simpa [usesOf, hd, suse] using ht.trans ht') hbk ac
  case plogEm => exact exec_go (body := plogBody o) rfl ac (by simp [plogBody, hd]; rfl)
  case getsLanes =>
    obtain hsrc | hsrc := hsrc <;>
    exact exec_perLane_noGuard (b := getsBody o) rfl (by simp [getsBody, hsrc]) (by simp [usesOf, hsrc, suse])
      (by simp [usesOf, hsrc, suse]) (by simp [usesOf, hsrc, suse]) hbk ac
  case gets =>
    have hgo : getsBody o s g l = .group s { g.setSreg o.d.toNat (specialOf s g o.src) with
        fflags := if o.clr then 0 else g.fflags } := by
      unfold getsBody
      split
      · contradiction
      · contradiction
      · cases o.clr <;> rfl
    exact exec_go rfl ac hgo

end Sys2Proof.Machine
end

section
/-! PROOFS. The instructions that change the window (R153, R155, R198). -/

namespace Sys2Proof.Machine

theorem Sparse.get_keep {α : Type} (d : α) (p : Nat → Bool) (m : Sparse α) (k : Nat) :
    Sparse.get d (Sparse.keep p m) k = if p k then Sparse.get d m k else d := by
  induction m with
  | nil => simp [Sparse.keep, Sparse.get]
  | cons q t ih =>
    obtain ⟨a, v⟩ := q
    simp only [Sparse.keep] at ih
    by_cases ha : p a <;> by_cases hk : k = a
    · subst hk; simp [Sparse.keep, Sparse.get, ha]
    · simp [Sparse.keep, Sparse.get, ha, hk, ih]
    · subst hk; simp [Sparse.keep, ha, ih]
    · simp [Sparse.keep, Sparse.get, ha, hk, ih]

/-- A smaller window keeps the registers below its size, and the others read zero. -/
theorem Group.fileV_shrink (g : Group) (n r x : Nat) (hx : x < 64) :
    (g.shrink n).fileV r x = if r < n then g.fileV r x else 0 := by
  have hk : vkey r x < n * 64 ↔ r < n := by unfold vkey; omega
  simp only [Group.fileV, Group.shrink, Sparse.get_keep, hk, decide_eq_true_eq]

/-- An instruction that changes its own group alone, as it ends. -/
theorem endsIn_group {i : Instr} {h : Head} {b : Body} {s : State} {g : Group} {l : Launch} {hdr j : Nat} {hw : Word}
    {x : Group} {p : State → Group → Prop} (hb : bodyOf i = some (h, b)) (ac : Acts i h s g l hdr j hw)
    (e : b s g l = .group s x) (hid : x.id = g.id)
    (hp : ∀ t y, OnlyGroup s t g.id →
      y = { x.count s.clock h (usesIn i h g l) (slotAddr hdr j) (writeLanes i h (usesIn i h g l) g) [] with
        pos := nextPlace hdr j hw (encode i).length } → p t y) : EndsIn i s g p := by
  have hset := State.group?_setGroup_self s g x (hid ▸ group?_of_stands ac.1.1)
  rw [hid] at hset
  exact ⟨_, _, exec_go hb ac e, group_issued_next hset, hp _ _ (onlyGroup_issued_setGroup i h s hid l hdr j hw _) rfl⟩

theorem windowInstructionsComplete : Claims.WindowInstructionsComplete := by
  intro o s g l hdr j hw n hwave hbad
  have hc : ¬ (isWave g.id || badSize (readY g o.n).toNat) = true := by simp [hwave, hbad, n]
  refine ⟨fun ac hn => ?_, fun ac hn hfit hroom hold => ?_, fun ac hn hfit hno => ?_, fun ac hn hfit => ?_,
    fun ac hn hr => ?_, fun ac hn hr hp => ?_, fun ac hn => ?_, fun ac hn hr hp => ?_⟩
  · exact exec_go rfl ac ((if_neg hc).trans (if_pos hn))
  · exact exec_go rfl ac ((if_neg hc).trans ((if_neg (not_le.mpr hn)).trans ((if_neg (by simpa using hfit)).trans
      (if_pos (by simpa using ⟨hroom, hold⟩)))))
  · exact exec_wait rfl ac ((if_neg hc).trans ((if_neg (not_le.mpr hn)).trans ((if_neg (by simpa using hfit)).trans
      (if_neg (by obtain h | h := hno <;> simp [n, h])))))
  · exact exec_trap rfl ac ((if_neg hc).trans ((if_neg (not_le.mpr hn)).trans (if_pos (by simpa using hfit))))
  · exact exec_trap rfl ac ((if_neg hc).trans ((if_neg (not_le.mpr hn)).trans (if_pos hr)))
  · exact exec_wait rfl ac ((if_neg hc).trans ((if_neg (not_le.mpr hn)).trans
      ((if_neg (ne_true_of_eq_false hr)).trans (if_pos hp))))
  · exact exec_go rfl ac ((if_neg hc).trans (if_pos hn))
  · have hgo : wshrinkBody o s g l = .group s (g.shrink n) := (if_neg hc).trans ((if_neg (not_le.mpr hn)).trans
      ((if_neg (ne_true_of_eq_false hr)).trans (if_neg (ne_true_of_eq_false hp))))
    refine endsIn_group rfl ac hgo rfl fun t y ht hy => ?_
    subst hy
    refine ⟨ht, rfl, fun r x hx hlt => ?_, fun r x hx hle => ?_, rfl, rfl⟩
    · exact (g.fileV_shrink n r x hx).trans (if_pos hlt)
    · exact (g.fileV_shrink n r x hx).trans (if_neg (not_lt.mpr hle))

theorem badWindowSizeTraps : Claims.BadWindowSizeTraps := by
  intro o s g l hdr j hw hbad
  have hc : (isWave g.id || badSize (readY g o.n).toNat) = true := by simpa using hbad
  exact ⟨fun ac => exec_trap rfl ac (if_pos hc), fun ac => exec_trap rfl ac (if_pos hc)⟩

/-- Settles O15: the bodies take their branches in the order of R198, and a smaller window keeps what lies below it. -/
theorem windowInstructions : Obligations.WindowInstructions := ⟨windowInstructionsComplete, badWindowSizeTraps⟩

end Sys2Proof.Machine
end

section
/-! PROOFS. Lane instructions with the runner or with lanes behind, and PUB (R224 to R228, R235). -/

namespace Sys2Proof.Machine

theorem runnerLanes_of_fold {i : Instr} {h : Head} {u : Uses} {f : LaneFn} {s : State} {g : Group} {l : Launch}
    {a : Addr} {r : LaneRun} (hlim : readLimit l g h u = false)
    (hr : g.emLanes.foldl (runLane l g h u f) (.ok ⟨s, [], []⟩) = .ok r)
    (hq : r.queued ≠ g.emLanes ∨ r.queued = []) :
    runnerLanes i h u f a s g l =
      let c := ((r.s.group? g.id).getD g).commit u.tr r.outs
      .go (r.s.setGroup (c.1.enqueue a (encode i) r.queued)) .next c.2 := by
  have hno : ¬ (decide (r.queued = g.emLanes) && !r.queued.isEmpty) = true := by
    obtain h | h := hq <;> simp [h]
  simp only [runnerLanes, hlim, hr, hno, if_false, Bool.false_eq_true]

theorem perLane_runner {i : Instr} {h : Head} {f : LaneFn} {s : State} {g : Group} {l : Launch}
    (hu : ((usesOf l.layouts g i).run.isNone && (usesOf l.layouts g i).pub.isNone && g.backlog.isEmpty) = false) :
    perLane i h f s g l = runnerLanes i h (usesOf l.layouts g i) f g.pos.addr s g l :=
  if_neg (ne_true_of_eq_false hu)

theorem runnerInstructionsComplete : Claims.RunnerInstructionsComplete := by
  intro i h f s g l hdr j hw r hl ac hu hlim hr hq
  have hbody : ∃ b, bodyOf i = some (h, b) ∧ ∀ l, b s g l = perLane i h f s g l := by
    obtain hl | ⟨o, rfl, rfl, rfl⟩ := hl
    · exact bodyOf_of_laneOf hl
    · exact ⟨_, rfl, fun _ => rfl⟩
  obtain ⟨b, hb, hf⟩ := hbody
  have hpos : g.pos = .slot hdr j hw := ac.1.1.2.2.1
  refine exec_go hb ac ?_
  rw [hf, perLane_runner hu, runnerLanes_of_fold hlim hr hq, hpos]
  rfl

/-! ### PUB -/

/-- Lanes that execute nothing leave the run of a runner instruction as it is, with none behind. -/
theorem foldl_runLane_executing (l : Launch) (g : Group) (h : Head) (u : Uses) (f : LaneFn) (hbk : g.backlog = [])
    (lanes : List Nat) (lane : Nat) (r r' : LaneRun) (hq : r.queued = []) (hq' : r'.queued = [])
    (hex : lanes.filter (g.guardIn h) = [lane]) (hr : runLane l g h u f (.ok r) lane = .ok r') :
    lanes.foldl (runLane l g h u f) (.ok r) = .ok r' := by
  have hskip : ∀ x (r : LaneRun), r.queued = [] → g.guardIn h x = false → runLane l g h u f (.ok r) x = .ok r := by
    intro x r hq hg
    simp [runLane, hq, hg, Group.lagging, hbk]
  have hnone : ∀ (t : List Nat) (r : LaneRun), r.queued = [] → t.filter (g.guardIn h) = [] →
      t.foldl (runLane l g h u f) (.ok r) = .ok r := by
    intro t
    induction t with
    | nil => intros; rfl
    | cons x t ih =>
      intro r hq ht
      obtain ⟨hx, ht⟩ := by simpa using ht
      rw [List.foldl_cons, hskip x r hq hx]
      exact ih r hq (by simpa using ht)
  induction lanes with
  | nil => cases hex
  | cons x t ih =>
    rw [List.foldl_cons]
    by_cases hx : g.guardIn h x = true
    · rw [List.filter_cons_of_pos hx, List.cons.injEq] at hex
      obtain ⟨rfl, ht⟩ := hex
      rw [hr, hnone t r' hq' ht]
    · rw [List.filter_cons_of_neg hx] at hex
      rw [hskip x r hq (by simpa using hx), ih hex]

theorem State.launch?_lid {s : State} {k : Nat} {l : Launch} (h : s.launch? k = some l) : l.lid = k := by
  simpa using List.find?_some h

/-- What a launch is once it has been changed under its number. -/
theorem State.launch?_onLaunch_self (s : State) (k : Nat) (f : Launch → Launch) (l : Launch) (h : s.launch? k = some l)
    (hf : ∀ x, (f x).lid = x.lid) : (s.onLaunch k f).launch? k = some (f l) := by
  have hk : ∀ x : Launch, (if x.lid = k then f x else x).lid = x.lid := fun x => by split <;> simp [hf]
  have hl := State.launch?_lid h
  unfold State.launch? at h ⊢
  simp only [State.onLaunch, List.find?_map, Function.comp_def, hk, h, Option.map_some, hl, if_true]

/-- A commit of lanes that write neither registers nor predicates leaves the file, the scalars and the predicates. -/
theorem Group.commit_val (g : Group) (lane : Nat) (v : Lane) :
    let c := g.commit false [(lane, { val := v })]
    c.1.id = g.id ∧ c.2 = [] ∧ c.1.vregs = g.vregs ∧ c.1.sregs = g.sregs ∧ c.1.preds = g.preds ∧ c.1.pubs = g.pubs :=
  ⟨rfl, rfl, rfl, rfl, rfl, rfl⟩

/-- The state in which one lane has made its next publish in its own group. -/
def State.published (s : State) (l : Launch) (g : Group) (lane slot : Nat) (v : Lane) : State :=
  (s.onLaunch l.lid fun x => { x with publishes := x.publishes ++
      [⟨g.item lane, slot, Sparse.get 0 g.pubs (pubKey lane slot) + 1, v, false, false⟩] }).onGroup g.id fun x =>
    { x with pubs := Sparse.set 0 x.pubs (pubKey lane slot) (Sparse.get 0 g.pubs (pubKey lane slot) + 1) }

theorem State.publish_here {s : State} {l : Launch} {g : Group} {lane slot : Nat} (v : Lane)
    (hlt : Sparse.get 0 g.pubs (pubKey lane slot) + 1 < 2 ^ 32) (hr : s.routeOf l g lane slot g.spillOk = .here) :
    s.publish l g lane slot v = .ok (s.published l g lane slot v) := by
  simp only [State.publish, if_neg (not_le.mpr hlt), hr]
  rfl

theorem State.published_group {s : State} {l : Launch} {g : Group} (lane slot : Nat) (v : Lane)
    (hg : s.group? g.id = some g) : (s.published l g lane slot v).group? g.id =
      some
        { g with pubs := Sparse.set 0 g.pubs (pubKey lane slot) (Sparse.get 0 g.pubs (pubKey lane slot) + 1) } :=
  State.group?_onGroup_self _ _ _ g hg rfl

theorem State.launch?_published {s : State} {l : Launch} {g : Group} (lane slot : Nat) (v : Lane)
    (hl : s.launch? l.lid = some l) : (s.published l g lane slot v).launch? l.lid =
      some { l with publishes := l.publishes ++
        [⟨g.item lane, slot, Sparse.get 0 g.pubs (pubKey lane slot) + 1, v, false, false⟩] } :=
  State.launch?_onLaunch_self s l.lid _ l hl fun _ => rfl

theorem launch?_issued_next (i : Instr) (h : Head) (s s' : State) (g : Group) (l : Launch) (hdr j : Nat) (hw : Word)
    (vals : Sparse Lane) (k : Nat) : (issued i h s g l hdr j hw s' .next vals).launch? k = s'.launch? k := rfl

theorem pubPublishesTheRegister : Claims.PubPublishesTheRegister := by
  intro o s g l hdr j hw lane slot ac hex hbk hslot hlid hlt hroute
  obtain ⟨⟨⟨hcur, hl, hpos, hruns⟩, -⟩, -⟩ := id ac
  have hg : s.group? g.id = some g := State.group?_id hcur ▸ hcur
  have hl : s.launch? l.lid = some l := hlid ▸ hl
  let v := g.readV g.issued o.d.toNat lane
  let s1 := s.published l g lane slot v
  let g1 : Group :=
    { g with pubs := Sparse.set 0 g.pubs (pubKey lane slot) (Sparse.get 0 g.pubs (pubKey lane slot) + 1) }
  have hg1 : s1.group? g.id = some g1 := State.published_group lane slot v hg
  let u := usesOf l.layouts g (.pub o)
  have hlane : g.guardIn o.h lane = true := by
    have : lane ∈ g.executing o.h := by simp [hex]
    exact (by simpa [Group.executing] using this : _ ∧ _ ∧ _).2.2
  have hrun : runLane l g o.h u (lanePub o) (.ok ⟨s, [], []⟩) lane = .ok ⟨s1, [(lane, { val := v })], []⟩ := by
    simp [runLane, Group.lagging, hbk, hlane, hg, hl, u, usesOf, hslot, lanePub,
      State.publish_here _ hlt hroute, s1, v]
  have hem : g.emLanes.filter (g.guardIn o.h) = [lane] := by
    simp only [← hex, Group.emLanes, Group.executing, List.filter_filter, Bool.and_comm]
  have hfold := foldl_runLane_executing l g o.h u (lanePub o) hbk g.emLanes lane ⟨s, [], []⟩ _ rfl rfl hem hrun
  have hgo : perLane (.pub o) o.h (lanePub o) s g l = _ := (perLane_runner rfl).trans
    (runnerLanes_of_fold rfl hfold (.inr rfl))
  simp only [hg1, Option.getD_some] at hgo
  refine ⟨_, _, exec_go rfl ac hgo, group_issued_next (State.group?_setGroup_self s1 g1 _ hg1), rfl, rfl, rfl, ?_, ?_⟩
  · exact Sparse.get_set_self 0 g.pubs (pubKey lane slot) (Sparse.get 0 g.pubs (pubKey lane slot) + 1)
  · exact ⟨_, (launch?_issued_next ..).trans (State.launch?_published lane slot v hl), rfl⟩

/-- Settles O16: the run is the fold over the lanes of `em`; PUB's one lane publishes what it reads. -/
theorem runnerInstructions : Obligations.RunnerInstructions := ⟨runnerInstructionsComplete, pubPublishesTheRegister⟩

end Sys2Proof.Machine
end

section
/-! PROOFS. Transfers of control, YIELD, SAFE, divergence and EXIT (R159 to R165, R192 to R196). -/

namespace Sys2Proof.Machine

/-- The place of a group that an instruction acts for. -/
theorem at_of_acts {i : Instr} {h : Head} {s : State} {g : Group} {l : Launch} {hdr j : Nat} {hw : Word}
    (ac : Acts i h s g l hdr j hw) : g.at_ = (hdr, j, hw) := by
  obtain ⟨⟨⟨-, -, hpos, -⟩, -⟩, -⟩ := ac
  simp [Group.at_, hpos]

theorem here_of_acts {i : Instr} {h : Head} {s : State} {g : Group} {l : Launch} {hdr j : Nat} {hw : Word}
    (ac : Acts i h s g l hdr j hw) : g.here = slotAddr hdr j := by
  obtain ⟨⟨⟨-, -, hpos, -⟩, -⟩, -⟩ := ac
  rw [Group.here, hpos]
  rfl

theorem nextHdr_of_acts {i : Instr} {h : Head} {s : State} {g : Group} {l : Launch} {hdr j : Nat} {hw : Word}
    (ac : Acts i h s g l hdr j hw) : g.nextHdr = hdr + 8 * (((Header.ofWord hw).map Header.slots).getD 0 + 1) := by
  rw [Group.nextHdr, at_of_acts ac]
  rfl

theorem transfersComplete : Claims.TransfersComplete := by
  intro s g l hdr j hw next at_ done
  refine ⟨fun o ac => exec_go rfl ac ?_, fun o t hd ac => exec_go (body := callBody o) rfl ac ?_,
    fun o t hd ac => exec_go (body := callBody o) rfl ac ?_, fun o ac => exec_go rfl ac rfl,
    fun o ac hlt => exec_go (body := briBody o) rfl ac ?_, fun o ac hle => exec_go (body := briBody o) rfl ac ?_,
    fun o ac hne => exec_go (body := loopBody o) rfl ac ?_, fun o ac heq => exec_go (body := loopBody o) rfl ac ?_⟩
  · simp only [braBody, at_of_acts ac]
    rfl
  · simp only [callBody, hd, at_of_acts ac, nextHdr_of_acts ac]
    rfl
  · simp only [callBody, hd, nextHdr_of_acts ac]
    rfl
  · simp only [briBody, if_pos hlt, at_of_acts ac]
    rfl
  · simp only [briBody, if_neg (not_lt.mpr hle)]
    rfl
  · have hz : (g.sreg o.s.toNat - 1 != 0) = true := by simp only [bne_iff_ne]; bv_omega
    simp only [loopBody, hz, if_true, at_of_acts ac]
    rfl
  · simp only [loopBody, heq]
    rfl

theorem yieldAndSafe : Claims.YieldAndSafe := by
  intro s g l hdr j hw
  refine ⟨fun o ac => exec_go rfl ac rfl, fun o ac hfar => ?_, fun o b ac hb hm hnear => ?_⟩
  · have hnone : (g.bypass.filter fun b => b.marked && decide (g.issued ≤ b.idx + 3)) = [] := by
      refine List.filter_eq_nil_iff.mpr fun b hb => ?_
      simpa using hfar b hb
    refine ⟨fun h => exec_go (body := safeBody o) rfl ac ?_, fun hs hg => exec_go (body := safeBody o) rfl ac ?_⟩
    · have hno : ¬ (g.stopAt.isSome && g.guardHolds o.h) = true := by obtain h | h := h <;> simp [h]
      simp only [safeBody, hnone, List.getLast?_nil, if_neg hno]
      rfl
    · have hyes : (g.stopAt.isSome && g.guardHolds o.h) = true := by simp [Option.isSome_iff_ne_none, hs, hg]
      simp only [safeBody, hnone, List.getLast?_nil, if_pos hyes, at_of_acts ac]
      rfl
  · have hmem : b ∈ g.bypass.filter fun b => b.marked && decide (g.issued ≤ b.idx + 3) := by simp [hb, hm, hnear]
    obtain ⟨b', hlast⟩ := Option.isSome_iff_exists.mp (List.getLast?_isSome.mpr (List.ne_nil_of_mem hmem))
    have hb' := List.mem_of_getLast? hlast
    simp only [List.mem_filter, Bool.and_eq_true, decide_eq_true_eq] at hb'
    obtain ⟨hin, hmark, hle⟩ := hb'
    exact ⟨b', hin, hmark, hle, exec_trap (body := safeBody o) rfl ac (by simp only [safeBody, hlast])⟩

/-- Settles O17: each transfer's body names the place, SAFE looks at the transient results still in reach. -/
theorem transfersYieldAndSafe : Obligations.TransfersYieldAndSafe := ⟨transfersComplete, yieldAndSafe⟩

/-! ### Divergence (R159, R161, R165) -/

/-- The lanes of `e` in which a condition fails. -/
theorem and_not_and (e c : Mask) : e &&& ~~~(e &&& c) = e &&& ~~~c := by
  ext i hi
  simp only [BitVec.getElem_and, BitVec.getElem_not]
  cases e[i] <;> simp

/-- The lowest lane of `e` is in `f`, of whose lanes each is in `e`. -/
theorem lowest_in (lanes : List Nat) (e f : Mask) (n : Nat) (hl : lanes = List.range n)
    (hf : ∀ x, f.getLsbD x = true → e.getLsbD x = true) :
    (match lowest lanes e with
      | some x => f.getLsbD x
      | none => false) = true ↔ ∃ x ∈ lanes, f.getLsbD x = true ∧ ∀ k, k < x → e.getLsbD k = false := by
  subst hl
  unfold lowest
  cases hlow : (List.range n).find? fun x => e.getLsbD x with
  | none =>
    have hno := List.find?_range_eq_none.mp hlow
    refine iff_of_false (by simp) ?_
    rintro ⟨x, hx, hfx, -⟩
    simpa [hf x hfx] using hno x (List.mem_range.mp hx)
  | some x =>
    obtain ⟨hex, hx, hbelow⟩ := List.find?_range_eq_some.mp hlow
    refine ⟨fun hfx => ⟨x, hx, hfx, fun k hk => by simpa using hbelow k hk⟩, ?_⟩
    rintro ⟨y, hy, hfy, hylow⟩
    obtain hlt | rfl | hgt := Nat.lt_trichotomy x y
    · simp [hylow x hlt] at hex
    · exact hfy
    · simpa [hf y hfy] using hbelow y hgt

/-- The lanes in which BRD's condition holds (R115, R159). -/
def brdCond (o : CBrd) (g : Group) : Mask :=
  if g.guardHolds o.h then (if o.inv then ~~~(g.pred o.p.toNat) else g.pred o.p.toNat) else 0

/-- The entry that BRD pushes. -/
def brdEntry (o : CBrd) (g : Group) (hdr : Addr) : DivEntry :=
  let f := g.em &&& ~~~(brdCond o g)
  ⟨g.em, g.em &&& brdCond o g, targetOf hdr o.join.toInt, targetOf hdr o.tgt.toInt, g.sregs, g.sig, f == 0,
    match lowest g.lanes g.em with
      | some x => f.getLsbD x
      | none => false, [], [], []⟩

theorem brdBody_of_room {o : CBrd} {s : State} {g : Group} {l : Launch} {hdr j : Nat} {hw : Word}
    (hat : g.at_ = (hdr, j, hw)) (hroom : g.stack.length < 16) (hpend : g.scalarsPending = false) :
    brdBody o s g l =
      if g.em &&& ~~~(brdCond o g) ≠ 0 then
        .group s { g with stack := brdEntry o g hdr :: g.stack, em := g.em &&& ~~~(brdCond o g),
                          path := g.em &&& ~~~(brdCond o g) } .clause
      else
        .group s
          { g with stack := brdEntry o g hdr :: g.stack, em := g.em &&& brdCond o g, path := g.em &&& brdCond o g }
          (.goto (targetOf hdr o.tgt.toInt)) := by
  have hcond : (if g.guardHolds o.h then g.pred o.p.toNat ^^^ (if o.inv then BitVec.allOnes 64 else 0) else 0)
      = brdCond o g := by
    unfold brdCond
    cases o.inv
    · simp
    · simp only [if_true, BitVec.xor_allOnes]
  simp only [brdBody, hat, if_neg (not_le.mpr hroom), hpend, Bool.false_eq_true, if_false, hcond, and_not_and,
    bne_iff_ne]
  rfl

theorem brdForks : Claims.BrdForks := by
  intro o s g l hdr j hw ac
  refine ⟨fun hfull => exec_trap (body := brdBody o) rfl ac ?_, fun hroom hpend => ?_⟩
  · simp only [brdBody, at_of_acts ac, if_pos hfull]
  · have hbody := brdBody_of_room (o := o) (s := s) (l := l) (at_of_acts ac) hroom hpend
    refine ⟨brdEntry o g hdr, rfl, rfl, rfl, rfl, rfl, rfl, rfl, rfl, lowest_in _ _ _ _ rfl fun x hx => ?_,
      fun hf => ⟨beq_false_of_ne hf, exec_go rfl ac (hbody.trans (if_pos hf))⟩,
      fun hf => ⟨beq_iff_eq.mpr hf, exec_go rfl ac (hbody.trans (if_neg (not_not.mpr hf)))⟩⟩
    rw [BitVec.getLsbD_and, Bool.and_eq_true] at hx
    exact hx.1

theorem joinBody_of_top {s : State} {g : Group} {l : Launch} {d : DivEntry} {rest : List DivEntry}
    (hs : g.stack = d :: rest) (hj : d.join = g.here) (hpend : g.scalarsPending = false) (hbk : g.backlog = []) :
    joinBody s g l = if !d.taken && d.t != 0 then .group s (g.takePath d rest) (.goto d.target)
      else .group s (g.merge d rest) .clause := by
  have hwait : g.mergeWaits = false := by simp [Group.mergeWaits, hbk]
  simp only [joinBody, hs, hj, ne_eq, not_true_eq_false, if_false, hpend, hwait, Bool.false_eq_true]

theorem joinMergesOrSwitchesPath : Claims.JoinMergesOrSwitchesPath := by
  intro o s g l hdr j hw ac
  have hhere := here_of_acts ac
  refine ⟨fun hs => exec_trap (body := joinBody) rfl ac ?_, fun d rest hs hne => exec_trap (body := joinBody) rfl ac ?_,
    fun d rest hs hj hpend hbk => ?_⟩
  · simp only [joinBody, hs]
  · simp only [joinBody, hs, hhere, ne_eq, hne, not_false_eq_true, if_true]
  · have hgo := joinBody_of_top (s := s) (l := l) hs (hj.trans hhere.symm) hpend hbk
    refine ⟨fun htk ht => ?_, fun hend => ?_⟩
    · exact ⟨{ d with taken := true, sF := g.sregs, wF := d.written, written := [] },
        exec_go rfl ac (hgo.trans (if_pos (by simpa [htk] using ht))), rfl, rfl, rfl, rfl, rfl, rfl, rfl, rfl⟩
    · refine ⟨exec_go rfl ac (hgo.trans (if_neg ?_)), rfl, rfl, rfl, ?_⟩
      · obtain h | h := hend <;> simp [h]
      · cases rest <;> rfl

/-- Reading after a fold that sets some of the scalars of a list, each to its own value. -/
theorem get_foldl_set (p : Nat → Bool) (v : Nat → Word) (r : Nat) (l : List Nat) (m : Sparse Word) :
    Sparse.get 0 (l.foldl (fun m r => if p r then Sparse.set 0 m r (v r) else m) m) r =
      if r ∈ l ∧ p r then v r else Sparse.get 0 m r := by
  induction l generalizing m with
  | nil => simp
  | cons k t ih =>
    rw [List.foldl_cons, ih]
    by_cases hk : r = k
    · subst hk
      by_cases hp : p r <;> simp [hp]
    · by_cases hp : p k <;> simp [hp, hk, Sparse.get_set_other]

theorem mergedScalars : Claims.MergedScalars := by
  intro g d rest r hr htk
  have hget := get_foldl_set (fun r => d.wF.contains r && (!d.written.contains r || d.lowF))
    (fun r => Sparse.get 0 d.sF r) r (List.range 64) g.sregs
  simp only [Group.sreg, Group.merge, htk, if_true, mergeScalars, hget]
  simp [hr]

/-- Settles O18: BRD pushes `brdEntry`, JOIN takes the other path or merges, a merge sets the scalars one by one. -/
theorem divergence : Obligations.Divergence := ⟨brdForks, joinMergesOrSwitchesPath, mergedScalars⟩

/-! ### EXIT (R158, R160, R194) -/

theorem exitBody_of_plain {o : CExit} {s : State} {g : Group} {l : Launch} (hl : s.launch? (lidOf g.id) = some l)
    (hg : s.group? g.id = some g) (hrun : l.runner = false) (hbk : g.backlog = []) (hdef : g.deferred = [])
    (hfail : g.failing = false) (hpend : g.scalarsPending = false) :
    exitBody o s g l =
      let m := maskOf (exitLanes o g) fun _ => true
      if g.live &&& ~~~m = 0 then .go ((s.setGroup (g.dropLanes m).ended).endWave g.id) .done []
      else if g.em &&& ~~~m = 0 ∧ exitLanes o g ≠ [] then
        .go (s.setGroup { ((g.dropLanes m).endPath 17).1 with active := false, since := s.clock })
          (.goto ((g.dropLanes m).endPath 17).2) []
      else .go (s.setGroup (g.dropLanes m)) .clause [] := by
  have hnow : (exitLanes o g).filter (fun k => !([] : List Nat).contains k) = exitLanes o g := by simp
  have hret : s.retireLanes g.id (exitLanes o g) = .ok s := by simp [State.retireLanes, hl, hg, hrun]
  have hbehind : (g.lanes.filter fun k => g.em.getLsbD k && g.lagging.getLsbD k) = [] := by simp [Group.lagging, hbk]
  have hdues : g.dues = [] := by simp [Group.dues, hdef]
  have henq : ∀ (x : Group) a w, x.enqueue a w [] = x := fun _ _ _ => rfl
  simp only [exitBody, hnow, hbehind, hdues, List.head?_nil, ite_self, hfail, hpend, Bool.and_false, Bool.or_false,
    Bool.false_eq_true, if_false, hret, hg, Option.getD_some, henq]
  simp only [beq_iff_eq, Group.dropLanes, Bool.and_eq_true, Bool.not_eq_true', List.isEmpty_eq_false_iff]

theorem exitCompletes : Claims.ExitCompletes := by
  intro o s g l hdr j hw ac hrun hwave hbk hdef hfail hpend m
  obtain ⟨⟨⟨hcur, hl, -, -⟩, -⟩, -⟩ := id ac
  have hg : s.group? g.id = some g := State.group?_id hcur ▸ hcur
  have hgo := exitBody_of_plain (o := o) hl hg hrun hbk hdef hfail hpend
  refine ⟨fun hlive hem => exec_go rfl ac (hgo.trans ((if_neg hlive).trans (if_neg ?_))),
    fun hend => exec_go rfl ac (hgo.trans ((if_pos hend).trans ?_)),
    fun hlive hem hsel => exec_go rfl ac (hgo.trans ((if_neg hlive).trans (if_pos ⟨hem, hsel⟩)))⟩
  · exact fun h => hem.elim (fun h' => h' h.1) h.2
  · cases hid : g.id with
    | wave lid obj => simp [hid, isWave] at hwave
    | member lid t k => rfl

theorem exitedLanesLeaveEveryMask : Claims.ExitedLanesLeaveEveryMask := by
  intro g m
  have hout : ∀ a : Mask, a &&& ~~~m &&& m = 0 := by
    intro a
    rw [BitVec.and_assoc, BitVec.and_comm (~~~m)]
    simp
  have hstay : ∀ (a : Mask) x, m.getLsbD x = false → (a &&& ~~~m).getLsbD x = a.getLsbD x := by
    intro a x hx
    by_cases h64 : x < 64
    · simp [hx, h64, -BitVec.getLsbD_eq_getElem]
    · simp [BitVec.getLsbD_of_ge _ _ (not_lt.mp h64)]
  refine ⟨⟨hout _, hout _, hout _, ?_⟩, fun x hx => ⟨hstay _ x hx, hstay _ x hx, hstay _ x hx⟩, ?_,
    List.length_map _, rfl, rfl, rfl⟩
  · intro d hd
    obtain ⟨d', -, rfl⟩ := List.mem_map.mp hd
    exact ⟨hout _, hout _⟩
  · intro p hp v hv
    obtain ⟨p', -, rfl⟩ := List.mem_map.mp hp
    simpa using (List.mem_filter.mp hv).2

/-- Settles O19: with nothing behind, failed or under way, EXIT drops its lanes and looks at what is left of the
    masks. -/
theorem exit : Obligations.Exit := ⟨exitCompletes, exitedLanesLeaveEveryMask⟩

end Sys2Proof.Machine
end

section
/-! PROOFS. The step, reset, and words of the manual. -/

namespace Sys2Proof.Machine

/-- Settles O60: each word is split into its fields. -/
theorem specWordsDecode : Obligations.SpecWordsDecode := by
  unfold Obligations.SpecWordsDecode Claims.SpecWordsDecode
  refine ⟨?_, ?_, ?_, ?_, ?_, ?_, ?_, ?_, ?_, ?_, ?_, ?_, ?_, ?_, ?_, ?_, ?_⟩ <;> decide

/-- Settles O1: the head of the agenda is the group's turn, which fetches and decodes. -/
theorem stepRunsDecodedInstruction : Obligations.StepRunsDecodedInstruction := by
  intro s s' gid rest g hdr j hw ws i hag hg hpos hrun
  rw [step_of_issue hag]
  have hg' : ({ s with agenda := rest } : State).group? gid = some g := hg
  refine ⟨fun hstop => ?_, fun hstop hf hd => ?_⟩
  · have hstop' : g.stopsBy (max ({ s with agenda := rest } : State).clock g.readyAt) = true := hstop
    simp [State.issueNext, hg', hpos, hrun, hstop', noted]
  · simp [State.issueNext, hg', hpos, hrun, hstop, hf, hd]

theorem resetValues : Claims.ResetValues := by
  refine ⟨by decide, rfl, rfl, rfl, rfl, rfl, fun p t => ?_, fun p => rfl, rfl, rfl, rfl, rfl, rfl, rfl⟩
  exact ⟨rfl, rfl, rfl, rfl, rfl, rfl, rfl⟩

/-- Settles O59: reset is one state, whose maps are empty. -/
theorem safeAtReset : Obligations.SafeAtReset := ⟨⟨rfl, rfl, rfl⟩, resetValues⟩

end Sys2Proof.Machine
end

section
/-! PROOFS. Masks of lanes, and the exchange of lanes between groups (R220 to R222). -/

namespace Sys2Proof.Machine

/-! ### Masks -/

theorem ofNat_add_two_pow (n k : Nat) (h : (BitVec.ofNat 64 n).getLsbD k = false) :
    BitVec.ofNat 64 (n + 2 ^ k) = BitVec.ofNat 64 n ||| BitVec.twoPow 64 k := by
  have htwo : BitVec.ofNat 64 (2 ^ k) = BitVec.twoPow 64 k :=
    BitVec.eq_of_toNat_eq (by rw [BitVec.toNat_ofNat, BitVec.toNat_twoPow])
  rw [BitVec.ofNat_add, htwo]
  refine BitVec.add_eq_or_of_and_eq_zero _ _ (BitVec.eq_of_getLsbD_eq fun i hi => ?_)
  by_cases hik : k = i
  · subst hik
    rw [BitVec.getLsbD_and, h]
    simp
  · simp [hik]

theorem getLsbD_foldl_two_pow (l : List Nat) (n x : Nat) (hx : x < 64) (hl : l.Nodup)
    (hn : ∀ k ∈ l, (BitVec.ofNat 64 n).getLsbD k = false) :
    (BitVec.ofNat 64 (l.foldl (fun a k => a + 2 ^ k) n)).getLsbD x
      = ((BitVec.ofNat 64 n).getLsbD x || decide (x ∈ l)) := by
  induction l generalizing n with
  | nil => simp
  | cons k t ih =>
    obtain ⟨hkt, ht⟩ := List.nodup_cons.mp hl
    have hadd := ofNat_add_two_pow n k (hn k List.mem_cons_self)
    rw [List.foldl_cons, ih _ ht fun q hq => ?_, hadd]
    · by_cases hxk : x = k
      · subst hxk; simp [hx]
      · simp [hx, hxk]
    · have hqk : k ≠ q := fun e => hkt (e ▸ hq)
      rw [hadd, BitVec.getLsbD_or, hn q (List.mem_cons_of_mem _ hq), BitVec.getLsbD_twoPow]
      simp [hqk]

/-- The bits of a mask of lanes. -/
theorem getLsbD_maskOf (l : List Nat) (p : Nat → Bool) (x : Nat) (hx : x < 64) (hl : l.Nodup) :
    (maskOf l p).getLsbD x = (decide (x ∈ l) && p x) := by
  rw [maskOf, getLsbD_foldl_two_pow _ _ _ hx (hl.filter p) (by simp)]
  simp [List.mem_filter]

theorem nodup_executing (g : Group) (h : Head) : (g.executing h).Nodup := List.nodup_range.filter _

/-! ### Values that land from another group -/

/-- A value of a lane of the mask lands in its register. -/
theorem Group.fileV_landVals (g : Group) (d : Nat) (m : Mask) (vals : Sparse Lane) {x k : Nat} {v : Lane} (hx : x < 64)
    (hk : k < 2) (hm : m.getLsbD x = true) (hlive : g.live.getLsbD x = true) (hin : (2 * x + k, v) ∈ vals)
    (huniq : ∀ u, (2 * x + k, u) ∈ vals → u = v) : (g.landVals d m vals).fileV (d + k) x = v := by
  refine Sparse.get_setAll_mem 0 _ _ _ _ ?_ ⟨(vkey (d + k) x, v), ?_, rfl⟩
  · rintro p hp hkey
    obtain ⟨⟨key, u⟩, hq, rfl⟩ := List.mem_map.mp hp
    obtain ⟨hq, hbits⟩ := List.mem_filter.mp hq
    simp only [Bool.and_eq_true] at hbits
    obtain ⟨hr, hl⟩ := vkey_inj (BitVec.lt_of_getLsbD hbits.1) hx hkey
    exact huniq u (by rwa [show 2 * x + k = key by omega])
  · refine List.mem_map.mpr ⟨_, List.mem_filter.mpr ⟨hin, ?_⟩, ?_⟩
    · rw [show (2 * x + k) / 2 = x by omega, hm, hlive]
      rfl
    · rw [show (2 * x + k) % 2 = k by omega, show (2 * x + k) / 2 = x by omega]

/-- Lanes outside the mask keep their registers. -/
theorem Group.fileV_landVals_other (g : Group) (d : Nat) (m : Mask) (vals : Sparse Lane) {r x : Nat} (hx : x < 64)
    (hm : m.getLsbD x = false) : (g.landVals d m vals).fileV r x = g.fileV r x := by
  refine Sparse.get_setAll_other 0 _ _ _ fun p hp hkey => ?_
  obtain ⟨⟨key, u⟩, hq, rfl⟩ := List.mem_map.mp hp
  obtain ⟨-, hbits⟩ := List.mem_filter.mp hq
  simp only [Bool.and_eq_true] at hbits
  obtain ⟨-, hl⟩ := vkey_inj (BitVec.lt_of_getLsbD hbits.1) hx hkey
  simp [hl, hm] at hbits

/-- The values that XSWAP holds. -/
theorem mem_laneVals {g : Group} {idx : Nat} {wide : Bool} {a : BitVec 8} {lanes : List Nat} {x k : Nat} {v : Lane}
    (hk : k = 0 ∨ (k = 1 ∧ wide = true)) :
    (2 * x + k, v) ∈ laneVals g idx wide a lanes ↔ x ∈ lanes ∧ v = g.readV idx (a.toNat + k) x := by
  have hregs : regsOf wide a.toNat = if wide then [a.toNat, a.toNat + 1] else [a.toNat] := rfl
  simp only [laneVals, List.mem_flatMap, List.mem_map, Prod.mk.injEq, Prod.exists, hregs]
  constructor
  · rintro ⟨y, hy, r, c, hrc, hkey, rfl⟩
    have hc : c < 2 ∧ r = a.toNat + c := by
      cases wide
      · simp at hrc; omega
      · simp at hrc; omega
    rw [show x = y by omega, hc.2, show k = c by omega]
    exact ⟨hy, rfl⟩
  · rintro ⟨hx, rfl⟩
    refine ⟨x, hx, a.toNat + k, k, ?_, by omega, rfl⟩
    obtain rfl | ⟨rfl, rfl⟩ := hk
    · cases wide <;> simp
    · simp

theorem swapWith_of_none {o : VXswap} {s : State} {g : Group} {l : Launch} {p : GroupId} 
    (hlive : s.partnerLives l p = true)
    (hno : ∀ y x, s.group? p = some y → y.xswap = some x → ¬ (x.team = teamOf g.id ∧ x.grp = groupOf g.id)) :
    swapWith o s g l p = .go (swapWith.begin_ o s g p (maskOf (g.executing o.h) fun _ => true)
      (laneVals g g.issued o.wide o.a (g.executing o.h))) .next [] := by
  simp only [swapWith]
  split
  · next y x hyx =>
    obtain ⟨y', hy', x', hx', h⟩ : ∃ y', s.group? p = some y' ∧ ∃ x', y'.xswap = some x' ∧ (y', x') = (y, x) := by
      simpa [Option.bind_eq_some_iff] using hyx
    cases h
    rw [if_neg (hno y x hy' hx')]
  · rw [if_pos hlive]

/-- The partner once its values have been exchanged. -/
def xswapPartner (o : VXswap) (g y : Group) (xs : Xswap) (d : Nat) : Group :=
  { y.landVals d ((maskOf (g.executing o.h) fun _ => true) &&& xs.lanes)
      (laneVals g g.issued o.wide o.a (g.executing o.h)) with
    xswap := none, pend := y.pend.filter fun q => q.n != xs.n }

theorem swapWith_of_open {o : VXswap} {s : State} {g : Group} {l : Launch} {p : GroupId} {y : Group} {xs : Xswap}
    {q : Pend} {d : Nat} (hy : s.group? p = some y) (hxs : y.xswap = some xs) (ht : xs.team = teamOf g.id)
    (hk : xs.grp = groupOf g.id) (hw : xs.wide = o.wide) (hq : (y.pend.find? fun e => e.n == xs.n) = some q)
    (hd : q.vregs = regsOf o.wide d) :
    swapWith o s g l p = .go ((s.setGroup (xswapPartner o g y xs d)).setGroup
      (g.landVals o.d.toNat ((maskOf (g.executing o.h) fun _ => true) &&& xs.lanes) xs.vals)) .next [] := by
  have hhead : q.vregs.head? = some d := by rw [hd]; cases o.wide <;> rfl
  simp only [swapWith, hy, Option.bind_some, hxs, Option.map_some, ht, hk, and_self, if_true, hw, ne_eq,
    not_true_eq_false, if_false, hq, hhead, Option.getD_some]
  rfl

/-- The lanes in which both sides of an exchange executed. -/
theorem getLsbD_both (g : Group) (h : Head) (m : Mask) {x : Nat} (hx : x < 64) :
    ((maskOf (g.executing h) fun _ => true) &&& m).getLsbD x = true ↔ x ∈ g.executing h ∧ m.getLsbD x = true := by
  rw [BitVec.getLsbD_and, getLsbD_maskOf _ _ _ hx (nodup_executing g h)]
  simp

/-- What an exchange leaves in the two sides' registers. -/
theorem exchanged_files {o : VXswap} {g y : Group} {xs : Xswap} {d x k : Nat} (hx : x < 64)
    (hk : k = 0 ∨ (k = 1 ∧ o.wide = true)) :
    let z := g.landVals o.d.toNat ((maskOf (g.executing o.h) fun _ => true) &&& xs.lanes) xs.vals
    let z' := xswapPartner o g y xs d
    (x ∈ g.executing o.h → xs.lanes.getLsbD x = true →
      (y.live.getLsbD x = true → z'.fileV (d + k) x = g.readV g.issued (o.a.toNat + k) x) ∧
      (∀ u, (∀ u', (2 * x + k, u') ∈ xs.vals ↔ u' = u) → g.live.getLsbD x = true → z.fileV (o.d.toNat + k) x = u)) ∧
    (¬ (x ∈ g.executing o.h ∧ xs.lanes.getLsbD x = true) →
      z.fileV (o.d.toNat + k) x = g.fileV (o.d.toNat + k) x ∧ z'.fileV (d + k) x = y.fileV (d + k) x) := by
  have hk2 : k < 2 := by omega
  have hboth := getLsbD_both g o.h xs.lanes hx
  refine ⟨fun hex hl => ⟨fun hlive => ?_, fun u hu hlive => ?_⟩, fun hno => ?_⟩
  · exact y.fileV_landVals d _ _ hx hk2 (hboth.mpr ⟨hex, hl⟩) hlive ((mem_laneVals hk).mpr ⟨hex, rfl⟩)
      fun u hu => ((mem_laneVals hk).mp hu).2
  · exact g.fileV_landVals _ _ _ hx hk2 (hboth.mpr ⟨hex, hl⟩) hlive ((hu u).mpr rfl) fun u' hu' => (hu u').mp hu'
  · have hoff := Bool.eq_false_iff.mpr (mt hboth.mp hno)
    exact ⟨g.fileV_landVals_other _ _ _ hx hoff, y.fileV_landVals_other _ _ _ hx hoff⟩

/-- Settles O21: the body takes its branches in the order of R221, and an exchange lands each side's values. -/
theorem xswapExchanges : Obligations.XswapExchanges := by
  intro o s g l hdr j hw p ac v named hp
  have hnamed : (v.toNat / 2 ^ 45 ≠ 0 ∨ l.teamCount ≤ v.toNat % 2 ^ 40 ∨ l.groupsPer ≤ v.toNat / 2 ^ 40 % 32 ∨
      p = g.id) ↔ ¬ named := by
    simp only [named, not_and_or, not_lt, ne_eq, not_not]
  have hbody : isWave g.id = false → g.xswap = none → xswapBody o s g l =
      if ¬ named then .trap Cause.xswapPartner v
      else if !s.partnerLives l p then .trap Cause.xswapPartner v else swapWith o s g l p := by
    intro hwave hx
    simp only [← hnamed, xswapBody, hwave, hx, Option.isSome_none, Bool.false_eq_true, if_false, hp]
    rfl
  have hpair : isWave g.id = false → g.xswap = none → named → s.partnerLives l p = true →
      xswapBody o s g l = swapWith o s g l p :=
    fun hwave hx hn hl => (hbody hwave hx).trans ((if_neg (not_not.mpr hn)).trans (if_neg (by simp [hl])))
  refine ⟨fun hwave => exec_trap (body := xswapBody o) rfl ac (if_pos hwave),
    fun hwave hx hno => exec_trap rfl ac ((hbody hwave hx).trans (if_pos hno)),
    fun hwave hx => exec_wait (body := xswapBody o) rfl ac ?_,
    fun hwave hn hx hdead => exec_trap rfl ac ((hbody hwave hx).trans ((if_neg (not_not.mpr hn)).trans (if_pos ?_))),
    fun hwave hn hx hl hno => exec_go rfl ac ((hpair hwave hx hn hl).trans ((swapWith_of_none hl hno).trans ?_)), ?_⟩
  · simp [xswapBody, hwave, Option.isSome_iff_ne_none, hx]
  · simp [hdead]
  · rw [hp]
    rfl
  · intro y xs q d hwave hn hx hl hy hxs ht hk hwd hq hd
    have hyid : y.id = p := State.group?_id hy
    have hne : p ≠ g.id := hn.2.2.2
    have hz' : (s.setGroup (xswapPartner o g y xs d)).group? p = some (xswapPartner o g y xs d) :=
      hyid ▸ State.group?_setGroup_self s y (xswapPartner o g y xs d) (show s.group? y.id = _ from hyid ▸ hy)
    have hz : (s.setGroup (xswapPartner o g y xs d)).group? g.id = some g :=
      (State.group?_setGroup_other s (xswapPartner o g y xs d) g.id (show g.id ≠ y.id from hyid ▸ hne.symm)).trans
          (group?_of_stands ac.1.1)
    refine ⟨_, _, _, exec_go rfl ac ((hpair hwave hx hn hl).trans (swapWith_of_open hy hxs ht hk hwd hq hd)),
      group_issued_next (State.group?_setGroup_self _ g (g.landVals o.d.toNat _ xs.vals) hz),
      (group_issued_next_other hne).trans ((State.group?_setGroup_other _ (g.landVals o.d.toNat _ xs.vals) p
          hne).trans hz'),
      hx, rfl, fun e he => ?_, fun x hx k hk => exchanged_files hx hk⟩
    simpa using (List.mem_filter.mp he).2

end Sys2Proof.Machine
end

section
/-! PROOFS. Memory and a core's L1: writes, stores, release and acquire (R4, R240, R242, R247). -/

namespace Sys2Proof.Machine

/-! ### Memory -/

theorem State.memWrite_mem_only (bs : List Byte) : ∀ (s : State) (pa : Nat), { s.memWrite pa bs with mem := s.mem } =
    s := by
  induction bs with
  | nil => intros; rfl
  | cons b t ih =>
    intro s pa
    have h := congrArg (fun u : State => { u with mem := s.mem }) (ih (s.memSet pa b) (pa + 1))
    exact h

theorem State.memGet_memWrite_outside (bs : List Byte) : ∀ (s : State) (pa a : Nat), a < pa ∨ pa + bs.length ≤ a →
    (s.memWrite pa bs).memGet a = s.memGet a := by
  induction bs with
  | nil => intros; rfl
  | cons b t ih =>
    intro s pa a h
    rw [List.length_cons] at h
    rw [State.memWrite, ih _ _ _ (by omega), State.memGet_memSet, if_neg (show ¬ (a : Nat) = pa by omega)]

theorem State.memGet_memWrite (bs : List Byte) : ∀ (s : State) (pa k : Nat), k < bs.length →
    (s.memWrite pa bs).memGet (pa + k) = bs.getD k 0 := by
  induction bs with
  | nil => intro s pa k h; cases h
  | cons b t ih =>
    intro s pa k h
    cases k with
    | zero => rw [State.memWrite, State.memGet_memWrite_outside _ _ _ _ (by omega), State.memGet_memSet]; simp
    | succ k =>
      rw [State.memWrite, show pa + (k + 1) = pa + 1 + k by omega, ih _ _ k (by simpa using h)]
      rfl

theorem memoryHoldsWhatIsWritten : Claims.MemoryHoldsWhatIsWritten := by
  intro s pa bs
  refine ⟨?_, fun a ha => State.memGet_memWrite_outside bs s pa a ha, State.memWrite_mem_only bs s pa⟩
  refine List.ext_getElem (by simp [State.memRead, State.span]) fun k h1 h2 => ?_
  simp [State.memRead, State.span, State.memGet_memWrite bs s pa k h2, h2]

/-! ### L1 -/

theorem State.l1Write_mem (obj : Bool) (core : Nat) (bs : List Byte) : ∀ (s : State) (pa : Nat),
    (s.l1Write core pa obj bs).mem = s.mem := by
  induction bs with
  | nil => intros; rfl
  | cons b t ih => intro s pa; exact ih _ _

theorem State.l1Get_l1Write_outside (obj : Bool) (core : Nat) (bs : List Byte) : ∀ (s : State) (pa c a : Nat),
    c ≠ core ∨ a < pa ∨ pa + bs.length ≤ a → (s.l1Write core pa obj bs).l1Get c a = s.l1Get c a := by
  induction bs with
  | nil => intros; rfl
  | cons b t ih =>
    intro s pa c a h
    rw [List.length_cons] at h
    rw [State.l1Write, ih _ _ _ _ (by omega), State.l1Get_l1Put, if_neg (by omega)]

theorem State.l1Get_l1Write (obj : Bool) (core : Nat) (bs : List Byte) : ∀ (s : State) (pa k : Nat), k < bs.length →
    (s.l1Write core pa obj bs).l1Get core (pa + k) = bs.getD k 0 := by
  induction bs with
  | nil => intro s pa k h; cases h
  | cons b t ih =>
    intro s pa k h
    cases k with
    | zero => rw [State.l1Write, State.l1Get_l1Write_outside _ _ _ _ _ _ _ (by omega), State.l1Get_l1Put]; simp
    | succ k =>
      rw [State.l1Write, show pa + (k + 1) = pa + 1 + k by omega, ih _ _ k (by simpa using h)]
      rfl

theorem l1HoldsWhatItsCoreStores : Claims.L1HoldsWhatItsCoreStores := fun s core pa obj bs =>
  ⟨fun k hk => State.l1Get_l1Write obj core bs s pa k hk,
    fun a ha => State.l1Get_l1Write_outside obj core bs s pa core a (.inr ha),
    fun c a hc => State.l1Get_l1Write_outside obj core bs s pa c a (.inl hc), State.l1Write_mem obj core bs s pa⟩

/-! ### Entries of a canonical map -/

theorem Sparse.lt_of_above {α : Type} [DecidableEq α] {d : α} {b : Nat} {m : Sparse α} (h : Sparse.above d b m = true)
    {p : Nat × α} (hp : p ∈ m) : b < p.1 ∧ p.2 ≠ d := by
  induction m generalizing b with
  | nil => cases hp
  | cons q t ih =>
    obtain ⟨k, v⟩ := q
    simp only [Sparse.above, Bool.and_eq_true, decide_eq_true_eq] at h
    obtain ⟨⟨hk, hv⟩, ht⟩ := h
    obtain rfl | hp := List.mem_cons.mp hp
    · exact ⟨hk, hv⟩
    · exact ⟨lt_trans hk (ih ht hp).1, (ih ht hp).2⟩

/-- The entries of a canonical map are what its reads give. -/
theorem Sparse.mem_iff_get {α : Type} [DecidableEq α] {d : α} {m : Sparse α} (h : Sparse.wf d m = true) {k : Nat}
    {v : α} :
    (k, v) ∈ m ↔ Sparse.get d m k = v ∧ v ≠ d := by
  induction m with
  | nil => simpa [Sparse.get] using fun h => h.symm
  | cons q t ih =>
    obtain ⟨a, w⟩ := q
    simp only [Sparse.wf, Bool.and_eq_true, decide_eq_true_eq] at h
    obtain ⟨hw, ht⟩ := h
    rw [List.mem_cons, Prod.mk.injEq, ih (Sparse.wf_of_above d t a ht)]
    by_cases hk : k = a
    · subst hk
      have hout : Sparse.get d t k ≠ v ∨ v = d := by
        by_contra hc
        push Not at hc
        exact lt_irrefl _ (Sparse.lt_of_above ht ((ih (Sparse.wf_of_above d t k ht)).mpr hc)).1
      simp only [Sparse.get, if_true, true_and]
      constructor
      · rintro (rfl | ⟨h1, h2⟩)
        · exact ⟨rfl, hw⟩
        · exact absurd h1 (hout.resolve_right h2)
      · rintro ⟨rfl, -⟩
        exact .inl rfl
    · simp [Sparse.get, hk]

/-- A read after a change of every entry that leaves the default. -/
theorem Sparse.get_map {α : Type} (d : α) (f : Nat → α → α) (hf : ∀ k, f k d = d) (m : Sparse α) (k : Nat) :
    Sparse.get d (m.map fun q => (q.1, f q.1 q.2)) k = f k (Sparse.get d m k) := by
  induction m with
  | nil => simp [Sparse.get, hf]
  | cons q t ih =>
    obtain ⟨a, w⟩ := q
    by_cases hk : k = a <;> simp [Sparse.get, hk, ih]

/-! ### Write-back, release and acquire -/

/-- The dirty bytes of a core's L1 that satisfy a condition, as a write-back takes them out. -/
def State.dirtyBytes (s : State) (core : Nat) (p : Nat → Bool) : List (Nat × Byte) :=
  ((s.l1Of core).filterMap fun (k, c) => match c with
    | some x => if x.dirty && p k then some (k, x) else none
    | none => none).map fun d => (d.1, d.2.val)

theorem State.writeBack_mem_dirty (s : State) (core : Nat) (p : Nat → Bool) :
    (s.writeBack core p).mem = Sparse.setAll Config.emptyByte s.mem (s.dirtyBytes core p) := rfl

theorem State.mem_dirtyBytes {s : State} {core : Nat} {p : Nat → Bool} (h : Safe s) {a : Nat} {b : Byte} :
    (a, b) ∈ s.dirtyBytes core p ↔
      ∃ c, Sparse.get none (s.l1Of core) a = some c ∧ c.dirty = true ∧ p a = true ∧ c.val = b := by
  have hget := fun k (v : Option Cached) => Sparse.mem_iff_get (State.l1Of_wf s core h) (k := k) (v := v)
  simp only [State.dirtyBytes, List.mem_map, List.mem_filterMap, Prod.exists, Prod.mk.injEq]
  constructor
  · rintro ⟨k, x, ⟨k', c, hc, hx⟩, rfl, rfl⟩
    cases c with
    | none => cases hx
    | some y =>
      simp only [Option.ite_none_right_eq_some, Bool.and_eq_true, Option.some.injEq, Prod.mk.injEq] at hx
      obtain ⟨⟨hd, hp⟩, rfl, rfl⟩ := hx
      exact ⟨y, ((hget _ _).mp hc).1, hd, hp, rfl⟩
  · rintro ⟨c, hc, hd, hp, rfl⟩
    exact ⟨a, c, ⟨a, some c, (hget _ _).mpr ⟨hc, by simp⟩, by simp [hd, hp]⟩, rfl, rfl⟩

/-- A write-back puts the bytes that it takes out into memory. -/
theorem State.memGet_writeBack {s : State} {core : Nat} {p : Nat → Bool} (h : Safe s) {a : Nat} {c : Cached}
    (hc : Sparse.get none (s.l1Of core) a = some c) (hd : c.dirty = true) (hp : p a = true) :
    (s.writeBack core p).memGet a = c.val := by
  have hget := Sparse.get_setAll_mem Config.emptyByte (s.dirtyBytes core p) a c.val s.mem ?_
    ⟨_, (State.mem_dirtyBytes h).mpr ⟨c, hc, hd, hp, rfl⟩, rfl⟩
  · exact hget
  · rintro ⟨k, b⟩ hk rfl
    obtain ⟨c', hc', -, -, rfl⟩ := (State.mem_dirtyBytes h).mp hk
    cases hc.symm.trans hc'
    rfl

theorem State.memGet_writeBack_other {s : State} {core : Nat} {p : Nat → Bool} (h : Safe s) {a : Nat}
    (hno : ∀ c, Sparse.get none (s.l1Of core) a = some c → c.dirty = true → p a = false) :
    (s.writeBack core p).memGet a = s.memGet a := by
  refine Sparse.get_setAll_other Config.emptyByte (s.dirtyBytes core p) a s.mem ?_
  rintro ⟨k, b⟩ hk rfl
  obtain ⟨c, hc, hd, hp, -⟩ := (State.mem_dirtyBytes h).mp hk
  simp [hno c hc hd] at hp

/-- A write-back leaves each byte of L1 its value, clean where it was taken out. -/
theorem State.get_writeBack (s : State) (core : Nat) (p : Nat → Bool) (k a : Nat) :
    Sparse.get none ((s.writeBack core p).l1Of k) a = if k = core then
        (Sparse.get none (s.l1Of core) a).map fun x => if p a then { x with dirty := false } else x
      else Sparse.get none (s.l1Of k) a := by
  have hl1 : (s.writeBack core p).l1Of k = _ := congrArg (fun m => Sparse.get [] m k) (s.writeBack_l1 core p)
  have hset := State.l1Of_setL1 s core k ((s.l1Of core).map fun q =>
      (q.1, q.2.map fun x => if p q.1 then { x with dirty := false } else x))
  rw [hl1.trans hset]
  split
  · exact Sparse.get_map none (fun k (c : Option Cached) => c.map fun x => if p k then { x with dirty := false } else x)
      (fun _ => rfl) _ a
  · rfl

/-- A core sees after a release what it saw before. -/
theorem State.l1Get_release (s : State) (core : Nat) (h : Safe s) (a : Nat) :
    (s.release core).l1Get core a = s.l1Get core a := by
  have hget := s.get_writeBack core (fun _ => true) core a
  simp only [State.l1Get, State.release, hget, if_true]
  cases hc : Sparse.get none (s.l1Of core) a with
  | none => exact State.memGet_writeBack_other h (by simp [hc])
  | some c => rfl

theorem State.release_clean (s : State) (core a : Nat) (c : Cached)
    (hc : Sparse.get none ((s.release core).l1Of core) a = some c) : c.dirty = false := by
  rw [State.release, s.get_writeBack core (fun _ => true) core a, if_pos rfl] at hc
  obtain ⟨x, -, rfl⟩ := Option.map_eq_some_iff.mp hc
  rfl

/-- Where no byte of a core's L1 is dirty, the core sees memory once it has let go of every copy. -/
theorem State.l1Get_acquire {s : State} {core : Nat} (h : Safe s)
    (hclean : ∀ a c, Sparse.get none (s.l1Of core) a = some c → c.dirty = false) (a : Nat) :
    (s.acquire core).l1Get core a = s.memGet a := by
  have hempty : (s.acquire core).l1Of core = [] := by
    rw [State.acquire, State.dropClean, State.l1Of_setL1, if_pos rfl, List.filter_eq_nil_iff]
    rintro ⟨k, c⟩ hk
    have hget := ((Sparse.mem_iff_get (State.l1Of_wf s core h)).mp hk).1
    cases c with
    | none => simp
    | some x => simp [hclean k x hget]
  simp only [State.l1Get, hempty, Sparse.get]
  rfl

theorem releaseWritesBackAndAcquireLetsGo : Claims.ReleaseWritesBackAndAcquireLetsGo := by
  intro s core h
  refine ⟨?_, fun a hno => ?_, s.l1Get_release core h, s.release_clean core, fun a => ?_⟩
  · rintro a ⟨c, hc, hd⟩
    rw [State.release, State.memGet_writeBack h hc hd rfl, State.l1Get, hc]
  · exact State.memGet_writeBack_other h fun c hc hd => by simp [hno c hc] at hd
  · exact State.l1Get_acquire (s.release_safe core h) (s.release_clean core) a

/-- Settles O22: reads after writes of memory and of L1, and what a write-back takes out of a canonical L1. -/
theorem memoryAndL1 : Obligations.MemoryAndL1 :=
  ⟨memoryHoldsWhatIsWritten, l1HoldsWhatItsCoreStores, releaseWritesBackAndAcquireLetsGo⟩

end Sys2Proof.Machine
end

section
/-! PROOFS. Loads and stores: their effect, and what refuses them (R268, R270 to R275). -/

namespace Sys2Proof.Machine

/-- With no lane behind, an instruction on memory acts in all its lanes at once. -/
theorem skewed_upright {i : Instr} {b : Body} {s : State} {g : Group} {l : Launch} (hbk : g.backlog = []) :
    skewed i b s g l = b s g l := by
  simp [skewed, Group.lagging, hbk]

/-- What is read belongs to the accesses in order. -/
theorem readEach_accesses (g : Group) (loc : Bool) (pol : Pol) (rc : Bool) (l : List Access) :
    ∀ (s s' : State) (r : List (Access × Nat)), s.readEach g loc pol rc l = (s', .ok r) → r.map (·.1) = l := by
  induction l with
  | nil =>
    intro s s' r h
    cases h
    rfl
  | cons a t ih =>
    intro s s' r h
    rw [State.readEach] at h
    split at h
    · cases h
    · split at h
      · cases h
      · next h' =>
        cases h
        simp [ih _ _ _ h']

theorem readAll_accesses {s s' : State} {g : Group} {loc : Bool} {pol : Pol} {rc : Bool} {l : List Access}
    {r : List (Access × Nat)} (h : s.readAll g loc pol rc l = (s', .ok r)) : r.map (·.1) = l := by
  obtain ⟨-, hr⟩ := Prod.mk.inj h
  exact readEach_accesses g loc pol rc l s _ r (Prod.ext rfl hr)

/-- The values that a plain load sends to its registers. -/
theorem zip_lanes (t : Ty) (d : Nat) (r : List (Access × Nat)) :
    (((r.map (·.1)).map (·.lane)).zip ((r.map (·.2)).map (extend t))).flatMap (fun x => regVals t.wide d x.1 x.2) =
      r.flatMap fun x => regVals t.wide d x.1.lane (extend t x.2) := by
  induction r with
  | nil => rfl
  | cons a r ih =>
    simp only [List.map_cons, List.zip_cons_cons, List.flatMap_cons, ih]

section
variable {i : Instr} {loc : Bool} {h : Head} {t : Ty} {pol : Pol} {d : BitVec 8} {m : MPlain} {w : Word} {s : State}
  {g : Group} {l : Launch} {hdr j : Nat} {hw : Word}

/-- A load without a record that passes its checks, by what it reads (R270). -/
theorem exec_load_of_checked
    (hb : bodyOf i = some (h, skewed i (loadBody loc h t pol d (.plain m) w))) (hbk : g.backlog = [])
    (ac : Acts i h s g l hdr j hw) {acc : List Access} (hacc : plainAccesses g (g.executing h) m (Ty_bytes t) = acc)
    (hc : checkAll s g loc .read acc = none) (hp : s.windowPending g loc acc = false) :
    (acc = [] → exec i s = .next (issued i h s g l hdr j hw s)) ∧
    (∀ s' r, acc ≠ [] → s.readAll g loc pol false acc = (s', .ok r) → exec i s = .next (issued i h s g l hdr j hw
      (s'.addPend g .load (regsOf t.wide d.toNat) []
        (r.flatMap fun x => regVals t.wide d.toNat x.1.lane (extend t x.2)) [] 0 none
            (s.accessChans g loc pol false acc)
        (s.peerAccess g loc pol false acc)))) ∧
    (∀ s' va, s.readAll g loc pol false acc = (s', .error va) → exec i s = .next (issued i h s g l hdr j hw
      (s'.addPend g .load (regsOf t.wide d.toNat) [] [] [] 0 (some (badData va)) (s.accessChans g loc pol false acc)
        (s.peerAccess g loc pol false acc)))) := by
  have hgo : ∀ e, (if acc.isEmpty then Eff.go s .next []
      else sendLoad s g loc pol false t.wide d.toNat acc (s.readAll g loc pol false acc) fun xs =>
        ((acc.map (·.lane)).zip (xs.map (extend t)), 0)) = e →
      skewed i (loadBody loc h t pol d (.plain m) w) s g l = e := by
    rintro _ rfl
    rw [skewed_upright hbk]
    simp only [loadBody, loadPlain, hacc, hc, hp, Bool.false_eq_true, if_false]
  refine ⟨fun he => exec_go hb ac (hgo _ (by rw [he]; rfl)), fun s' r hne hr => exec_go hb ac (hgo _ ?_),
    fun s' va hr => exec_go hb ac (hgo _ ?_)⟩
  · have hz := zip_lanes t d.toNat r
    rw [readAll_accesses hr] at hz
    simp only [List.isEmpty_eq_false_iff.mpr hne, Bool.false_eq_true, if_false, sendLoad, hr, hz]
  · have hne : acc ≠ [] := by
      rintro rfl
      exact absurd (congrArg Prod.snd hr) (by simp [State.readAll, State.readEach])
    simp only [List.isEmpty_eq_false_iff.mpr hne, Bool.false_eq_true, if_false, sendLoad, hr]

/-- A store without a record that passes its checks (R271). -/
theorem exec_store_of_checked
    (hb : bodyOf i = some (h, skewed i (storeBody loc h t pol d (.plain m) w))) (hbk : g.backlog = [])
    (ac : Acts i h s g l hdr j hw) {acc : List Access} (hacc : plainAccesses g (g.executing h) m (Ty_bytes t) = acc)
    (hc : checkAll s g loc .write acc = none) (hp : s.windowPending g loc acc = false) :
    exec i s = .next (issued i h s g l hdr j hw ((afterStore s
      (s.writeLanes g loc pol (acc.map fun a => (a, readReg g g.issued t.wide d.toNat a.lane))) g loc pol false acc
        acc).onGroup g.id fun x => x.raise 0)) := by
  refine exec_go hb ac ?_
  rw [skewed_upright hbk]
  simp only [storeBody, storePlain, hacc, hc, hp, Bool.false_eq_true, if_false, performStore, List.map_map,
    Function.comp_def, List.map_id']

/-- What a refused access leaves (R268). -/
def State.refused (s : State) (g : Group) (hdr j : Nat) (w : Word) : Refused → State
  | .trap c va => trapped s g hdr j c (BitVec.ofNat 64 va)
  | .noMemory => trapped s g hdr j Cause.protection w
  | .walk vas b => waiting s g (.walk vas false b)

/-- An instruction whose body comes to a refusal. -/
theorem exec_refused {b : Body} {e : Refused} (hb : bodyOf i = some (h, b)) (ac : Acts i h s g l hdr j hw)
    (hgo : b s g l = e.eff w) : exec i s = .next (s.refused g hdr j w e) := by
  cases e with
  | trap c va => exact exec_trap hb ac hgo
  | noMemory => exact exec_trap hb ac hgo
  | walk vas b => exact exec_wait hb ac hgo

theorem exec_load_refused {e : Refused}
    (hb : bodyOf i = some (h, skewed i (loadBody loc h t pol d (.plain m) w))) (hbk : g.backlog = [])
    (ac : Acts i h s g l hdr j hw)
    (hc : checkAll s g loc .read (plainAccesses g (g.executing h) m (Ty_bytes t)) = some e) :
    exec i s = .next (s.refused g hdr j w e) := by
  refine exec_refused hb ac ?_
  rw [skewed_upright hbk]
  simp only [loadBody, loadPlain, hc]

theorem exec_store_refused {e : Refused}
    (hb : bodyOf i = some (h, skewed i (storeBody loc h t pol d (.plain m) w))) (hbk : g.backlog = [])
    (ac : Acts i h s g l hdr j hw)
    (hc : checkAll s g loc .write (plainAccesses g (g.executing h) m (Ty_bytes t)) = some e) :
    exec i s = .next (s.refused g hdr j w e) := by
  refine exec_refused hb ac ?_
  rw [skewed_upright hbk]
  simp only [storeBody, storePlain, hc]

end

theorem bodyOf_ld {o : MAcc} {a : MAddr} (ha : o.addr = a) : bodyOf (.ld o) =
    some (o.h, skewed (.ld o) (loadBody false o.h o.t o.pol o.d a ((encode (.ld o)).headD 0))) := by
  rw [← ha]; rfl

theorem bodyOf_lds {o : MLoc} {a : MAddr} (ha : o.addr = a) : bodyOf (.lds o) =
    some (o.h, skewed (.lds o) (loadBody true o.h o.t .dflt o.d a ((encode (.lds o)).headD 0))) := by
  rw [← ha]; rfl

theorem bodyOf_st {o : MAcc} {a : MAddr} (ha : o.addr = a) : bodyOf (.st o) =
    some (o.h, skewed (.st o) (storeBody false o.h o.t o.pol o.d a ((encode (.st o)).headD 0))) := by
  rw [← ha]; rfl

theorem bodyOf_sts {o : MLoc} {a : MAddr} (ha : o.addr = a) : bodyOf (.sts o) =
    some (o.h, skewed (.sts o) (storeBody true o.h o.t .dflt o.d a ((encode (.sts o)).headD 0))) := by
  rw [← ha]; rfl

theorem plainLoadsComplete : Claims.PlainLoadsComplete := fun _ _ _ _ _ _ hbk =>
  ⟨fun _ _ hm ac hc => exec_load_of_checked (bodyOf_ld hm) hbk ac rfl hc rfl,
    fun _ _ hm ac hc hp => exec_load_of_checked (bodyOf_lds hm) hbk ac rfl hc hp⟩

theorem checkAll_local_write (s : State) (g : Group) (l : List Access) (b : Option Nat) :
    checkAll s g true .write l b = s.checkLocal g.id l b := by
  unfold checkAll
  simp only [if_true]
  cases s.checkLocal g.id l b <;> rfl

theorem plainStoresComplete : Claims.PlainStoresComplete := by
  intro s g l hdr j hw hbk
  refine ⟨?_, ?_⟩
  · intro o m hm ac acc s1 hc
    have hx := exec_store_of_checked (acc := acc) (bodyOf_st hm) hbk ac rfl hc rfl
    refine ⟨fun he => hx.trans ?_, fun hne => hx.trans ?_⟩
    · simp only [he]
      rfl
    · simp only [afterStore, List.isEmpty_eq_false_iff.mpr hne, Bool.false_eq_true, if_false]
      rfl
  · intro o m hm ac acc hc hp
    exact exec_store_of_checked (bodyOf_sts hm) hbk ac rfl ((checkAll_local_write s g acc none).trans hc) hp

theorem refusedAccessHasNoEffect : Claims.RefusedAccessHasNoEffect := by
  intro s g l hdr j hw e hbk out
  have hout : ∀ i, out i = s.refused g hdr j ((encode i).headD 0) e := fun i => by cases e <;> rfl
  simp only [hout]
  exact ⟨fun o m hm ac hc => exec_load_refused (bodyOf_ld hm) hbk ac hc,
    fun o m hm ac hc => exec_store_refused (bodyOf_st hm) hbk ac hc,
    fun o m hm ac hc => exec_load_refused (bodyOf_lds hm) hbk ac hc,
    fun o m hm ac hc => exec_store_refused (bodyOf_sts hm) hbk ac ((checkAll_local_write s g _ none).trans hc)⟩

/-- Settles O23: the bodies of loads and stores without a record, by what their checks and reads come to. -/
theorem plainAccessesComplete : Obligations.PlainAccesses :=
  ⟨plainLoadsComplete, plainStoresComplete, refusedAccessHasNoEffect⟩

end Sys2Proof.Machine
end

section
/-! PROOFS. Accesses through a layout record (R272 to R275). -/

namespace Sys2Proof.Machine

/-- An access that no check refuses goes on. -/
theorem eff_of_passed {f : Refused → Eff} {e : Eff} {x : Option Refused} : x = none →
    (match x with
      | some r => f r
      | none => e) = e := by
  rintro rfl
  rfl

section
variable {i : Instr} {loc : Bool} {h : Head} {t : Ty} {pol : Pol} {d : BitVec 8} {lay sb : BitVec 6} {vx : BitVec 8}
  {w : Word} {s : State} {g : Group} {l : Launch} {hdr j : Nat} {hw : Word}

/-- A load through a record that suits it, once it has read (R272, R273, R275). -/
theorem exec_record_load (hb : bodyOf i = some (h, skewed i (loadBody loc h t pol d (.record lay sb vx) w)))
    (hbk : g.backlog = []) (ac : Acts i h s g l hdr j hw) :
    let r := l.layouts.getD lay.toNat 0
    let base := (g.sreg sb.toNat).toNat
    let parts := (g.executing h).map fun x => (x, recLane r g base sb.toNat vx.toNat x)
    let acc := parts.flatMap fun p => recReads r base p.1 p.2
    recBad r t sb.toNat false = false → checkAll s g loc .read acc (planeMisaligned r base acc) = none →
    s.windowPending g loc acc = false → parts ≠ [] → ∀ s' xs, s.readAll g loc pol true acc = (s', .ok xs) →
    let outs := (splitReads (parts.map fun p => (p.1, p.2, (recReads r base p.1 p.2).length)) (xs.map (·.2))).map
      fun x => (x.1, recLoaded r (g.podBook s (BitVec.ofNat 2 (Rec.book r))) t x.2.1 x.2.2)
    exec i s = .next (issued i h s g l hdr j hw (s'.addPend g .load (regsOf t.wide d.toNat) []
      (outs.flatMap fun o => regVals t.wide d.toNat o.1 o.2.1) [] (Flags.all (outs.map fun o => o.2.2)) none
      (s.accessChans g loc pol true acc) (s.peerAccess g loc pol true acc))) := by
  intro r base parts acc hbad hc hp hne s' xs hr outs
  refine exec_go hb ac ?_
  have hbody : loadRecord loc h t pol d lay sb vx w s g l =
      sendLoad s g loc pol true t.wide d.toNat acc (s.readAll g loc pol true acc) fun ys =>
        let outs := (splitReads (parts.map fun p => (p.1, p.2, (recReads r base p.1 p.2).length)) ys).map
          fun x => (x.1, recLoaded r (g.podBook s (BitVec.ofNat 2 (Rec.book r))) t x.2.1 x.2.2)
        (outs.map fun o => (o.1, o.2.1), Flags.all (outs.map fun o => o.2.2)) := by
    refine (if_neg (ne_true_of_eq_false hbad)).trans ?_
    exact (eff_of_passed hc).trans <| (if_neg (ne_true_of_eq_false hp)).trans
        (if_neg (ne_true_of_eq_false (List.isEmpty_eq_false_iff.mpr hne)))
  rw [skewed_upright hbk]
  refine hbody.trans ?_
  simp only [sendLoad, hr, List.flatMap_map, outs]

/-- A store through a record that suits it (R274). -/
theorem exec_record_store (hb : bodyOf i = some (h, skewed i (storeBody loc h t pol d (.record lay sb vx) w)))
    (hbk : g.backlog = []) (ac : Acts i h s g l hdr j hw) :
    let r := l.layouts.getD lay.toNat 0
    let base := (g.sreg sb.toNat).toNat
    let b := g.podBook s (BitVec.ofNat 2 (Rec.book r))
    let parts := (g.executing h).filterMap fun x => match recLane r g base sb.toNat vx.toNat x with
      | .element a bit ix => some (a, bit, storeAs t (Rec.enc r) b (ix.getD 2 0) (readReg g g.issued t.wide d.toNat x))
      | .pad .. => none
    let acc := parts.map (·.1)
    let w := if Rec.kind r = 3 then 8 else Rec.width (Rec.enc r)
    let s0 := parts.foldl (fun s p => recStoreLane g loc pol s (p.1, p.2.1, w, p.2.2.1)) s
    let s1 := if w = 4 && !loc && acc.any fun a => s.isPeer (s.physOf g.core a.addr).1 then s0.drawn else s0
    recBad r t sb.toNat true = false → (Rec.enc r = 13 → b.ordered = true) →
    checkAll s g loc .write acc (planeMisaligned r base acc) = none → s.windowPending g loc acc = false →
    exec i s = .next (issued i h s g l hdr j hw
      ((afterStore s s1 g loc pol true acc (wholeBytes w (parts.map fun p => (p.1, p.2.1)))).onGroup g.id
        fun x => x.raise (Flags.all (parts.map fun p => p.2.2.2)))) := by
  intro r base b parts acc w s0 s1 hbad hord hc hp
  have hgood : (recBad r t sb.toNat true || (Rec.enc r == 13 && !b.ordered)) = false := by
    rw [hbad, Bool.false_or, Bool.and_eq_false_iff]
    by_cases he : Rec.enc r = 13
    · exact .inr (by rw [hord he]; rfl)
    · exact .inl (beq_false_of_ne he)
  refine exec_go hb ac ?_
  rw [skewed_upright hbk]
  refine (if_neg (ne_true_of_eq_false hgood)).trans ?_
  exact (eff_of_passed hc).trans (if_neg (ne_true_of_eq_false hp))

end

/-- Settles O24: the bodies of loads and stores through a record, once their checks and reads have passed. -/
theorem recordAccessesComplete : Obligations.RecordAccessesComplete := fun _ _ _ _ _ _ _ _ _ hbk =>
  ⟨fun _ ha ac => exec_record_load (bodyOf_ld ha) hbk ac, fun _ ha ac => exec_record_load (bodyOf_lds ha) hbk ac,
    fun _ ha ac => exec_record_store (bodyOf_st ha) hbk ac, fun _ ha ac => exec_record_store (bodyOf_sts ha) hbk ac⟩

end Sys2Proof.Machine
end

section
/-! PROOFS. Atomics, fences, cache hints and line transfers (R247, R276 to R285, R416). -/

namespace Sys2Proof.Machine

/-! ### Little-endian words -/

theorem ofBytes_map_range (x n : Nat) : ∀ m, ofBytes ((List.range n).map fun k => BitVec.ofNat 8
    (x / 2 ^ (8 * (m + k)))) =
    x / 2 ^ (8 * m) % 2 ^ (8 * n) := by
  induction n with
  | zero => intro m; simp [ofBytes, Nat.mod_one]
  | succ n ih =>
    intro m
    have hpow : x / 2 ^ (8 * (m + 1)) = x / 2 ^ (8 * m) / 256 := by
      rw [show 8 * (m + 1) = 8 * m + 8 by omega, pow_add, Nat.div_div_eq_div_mul]
      rfl
    have htail := ih (m + 1)
    rw [List.range_succ_eq_map, List.map_cons, List.map_map, ofBytes]
    have hshift : ((fun k => BitVec.ofNat 8 (x / 2 ^ (8 * (m + k)))) ∘ Nat.succ) =
        fun k => BitVec.ofNat 8 (x / 2 ^ (8 * (m + 1 + k))) := by
      funext k
      rw [Function.comp_apply, show m + k.succ = m + 1 + k by omega]
    rw [hshift, htail, hpow, BitVec.toNat_ofNat, Nat.add_zero, show 8 * (n + 1) = 8 + 8 * n by omega, pow_add,
      Nat.mod_mul]
    rfl

/-- The bytes of a number are the number, as far as they go. -/
theorem ofBytes_leBytes (n x : Nat) : ofBytes (leBytes n x) = x % 2 ^ (8 * n) := by
  have h := ofBytes_map_range x n 0
  simpa [leBytes] using h

/-! ### Atomics -/

theorem atomicValues : Claims.AtomicValues := by
  intro s pa v v2 op obj hclean old r
  have hlen : (leBytes (atomWidth op) (atomNew op old v v2)).length = atomWidth op := by simp [leBytes]
  obtain ⟨hread, hout, -⟩ := memoryHoldsWhatIsWritten s pa (leBytes (atomWidth op) (atomNew op old v v2))
  rw [hlen] at hread hout
  have hr : r = ((s.memWrite pa (leBytes (atomWidth op) (atomNew op old v v2))).touch (State.span pa (atomWidth op))
      obj true,
      some old) := if_neg (ne_true_of_eq_false hclean)
  have hget : ∀ a, r.1.memGet a = (s.memWrite pa (leBytes (atomWidth op) (atomNew op old v v2))).memGet a := by
    intro a
    rw [hr]
    simp [State.memGet]
  refine ⟨by rw [hr], ?_, fun a ha => (hget a).trans (hout a ha), ?_, ?_, ?_⟩
  · have hmem : r.1.memRead pa (atomWidth op) = leBytes (atomWidth op) (atomNew op old v v2) := by
      rw [← hread]
      exact List.map_congr_left fun a _ => hget a
    rw [hmem, ofBytes_leBytes]
  · rintro t rfl
    simp only [atomNew, truncTo]
    rw [← Nat.cast_add]
    norm_cast
  · rintro w rfl
    rfl
  · rintro w rfl
    rfl

/-- An atomic that passes its checks, by what its accesses come to. -/
theorem atomBody_of_checked {ret : Bool} {o : MAtom} {s : State} {g : Group} {l : Launch} {acc : List Access}
    (hacc : plainAccesses g (g.executing o.h) o.addr (atomWidth o.op) = acc)
    (hc : checkAll s g o.loc .both acc = none) (hp : s.windowPending g o.loc acc = false) :
    let own := if ret then acc else acc.filter fun a => o.loc || !s.isPeer (s.physOf g.core a.addr).1
    let chans := s.accessChans g o.loc .bypass false own
    let peer := s.peerAccess g o.loc .bypass false own
    (acc = [] → atomBody ret o s g l = .go s .next []) ∧
    (∀ s', acc ≠ [] → atomFails s g o.loc own = (s', none) →
      let r := atomLanes g o.op o.loc o.d.toNat own s'
      atomBody ret o s g l = if ret then
          .go (r.1.addPend g .atomic (atomRegs o.d o.op).2 []
            (r.2.flatMap fun x => regVals (atomWidth o.op == 8) o.d.toNat x.1 x.2) [] 0 none chans peer) .next []
        else .go (if o.loc then r.1 else r.1.addAcks g acc chans) .next []) ∧
    (∀ s' va, atomFails s g o.loc own = (s', some va) →
      atomBody ret o s g l = .go (s'.addPend g .atomic (if ret then (atomRegs o.d o.op).2 else []) [] [] [] 0
        (some (badData va)) chans peer) .next []) := by
  intro own chans peer
  have hown : (if ret then acc else acc.filter fun a => !(!o.loc && s.isPeer (s.physOf g.core a.addr).1)) = own := by
    simp only [own, Bool.not_and, Bool.not_not]
  have hgo : acc ≠ [] → atomBody ret o s g l = match atomFails s g o.loc own with
      | (s, some va) =>
        .go (s.addPend g .atomic (if ret then (atomRegs o.d o.op).2 else []) [] [] [] 0 (some (badData va)) chans peer)
          .next []
      | (s, none) =>
        let r := atomLanes g o.op o.loc o.d.toNat own s
        if ret then
          .go (r.1.addPend g .atomic (atomRegs o.d o.op).2 []
            (r.2.flatMap fun x => regVals (atomWidth o.op == 8) o.d.toNat x.1 x.2) [] 0 none chans peer) .next []
        else .go (if o.loc then r.1 else r.1.addAcks g acc chans) .next [] := by
    intro hne
    simp only [atomBody, hacc, hc, hp, Bool.false_eq_true, if_false, List.isEmpty_eq_false_iff.mpr hne, hown]
    rfl
  refine ⟨fun he => ?_, fun s' hne hf => ?_, fun s' va hf => ?_⟩
  · subst he
    simp only [atomBody, hacc, hc, hp, Bool.false_eq_true, if_false]
    rfl
  · rw [hgo hne, hf]
  · have hne : acc ≠ [] := by
      rintro rfl
      have hnil : own = [] := by simp [own]
      rw [hnil] at hf
      cases hf
    rw [hgo hne, hf]

theorem atomicsComplete : Claims.AtomicsComplete := by
  intro o s s' g l hdr j hw hbk acc hc hp
  have hskew : ∀ i b, skewed i b s g l = b s g l := fun i b => skewed_upright hbk
  refine ⟨fun ac => ?_, fun ac => ?_⟩
  · obtain ⟨hnone, hok, herr⟩ := atomBody_of_checked (ret := true) (l := l) rfl hc hp
    exact ⟨fun he => exec_go rfl ac ((hskew ..).trans (hnone he)),
      fun hne hf => exec_go rfl ac ((hskew ..).trans (hok s' hne hf)),
      fun va hf => exec_go rfl ac ((hskew ..).trans (herr s' va hf))⟩
  · obtain ⟨hnone, hok, herr⟩ := atomBody_of_checked (ret := false) (l := l) rfl hc hp
    exact ⟨fun he => exec_go rfl ac ((hskew ..).trans (hnone he)),
      fun hne hf => exec_go rfl ac ((hskew ..).trans (hok s' hne hf)),
      fun va hf => exec_go rfl ac ((hskew ..).trans (herr s' va hf))⟩

/-- Settles O26: an atomic's body by what its accesses come to, and the bytes that it writes are those it reads back. -/
theorem atomics : Obligations.Atomics := ⟨atomicsComplete, atomicValues⟩

/-! ### Fences and cache hints -/

theorem fenceCompletes : Claims.FenceCompletes := by
  intro o s g l hdr j hw hbk ac
  have hskew := skewed_upright (i := .fence o) (b := fenceBody o) (s := s) (l := l) hbk
  refine ⟨fun hno => exec_go rfl ac (hskew.trans (if_pos ?_)), fun hex hsc => ?_⟩
  · obtain h | h := hno <;> simp [h]
  have hno : ¬ ((g.executing o.h).isEmpty || o.scope == .group) = true := by simp [hex, hsc]
  refine ⟨fun hk => ?_, fun hk hacks => ?_, fun hk hdone hlost => ?_, fun hk hdone hlost => ?_⟩
  · refine exec_go rfl ac (hskew.trans ((if_neg hno).trans ?_))
    simp [hk]
  · refine exec_wait rfl ac (hskew.trans ((if_neg hno).trans (if_pos ?_)))
    simp [hk, State.unperformed, hacks]
  · refine exec_go rfl ac (hskew.trans ((if_neg hno).trans ?_))
    simp [hk, hdone, Group.lostStore, hlost]
  · refine exec_go rfl ac (hskew.trans ((if_neg hno).trans ?_))
    simp [hk, hdone, Group.lostStore, hlost]

/-- CFLUSH and CINV once no check refuses them (R281). -/
theorem lineBody_of_checked {drop : Bool} {o : MLine} {s : State} {g : Group} {l : Launch} {acc own : List Access}
    (hacc : plainAccesses g (g.executing o.h) o.addr 1 = acc) (hc : s.checkGlobal g.core .none_ acc = none)
    (hown : (acc.filter fun a => !s.isPeer (s.physOf g.core a.addr).1) = own) :
    let s1 := acc.foldl (fun (s : State) a =>
      let pa := (s.physOf g.core a.addr).1
      let s := s.writeBack g.core (inLine pa)
      let s := if drop then s.dropClean g.core (inLine pa) else s
      if o.deep && !s.isPeer pa then
        s.onSectors (fun k => k / 4 == pa / 128) fun k x => if drop then x.leaveL2 else x.cleaned (s.heldAt (32 * k))
      else s) s
    let chans := if o.deep && !drop then own.map fun a =>
        let pa := (s.physOf g.core a.addr).1
        (stackOf pa, channelOf pa)
      else []
    lineBody drop o s g l = .go (if own = [] then s1 else s1.addAcks g own chans.eraseDups) .next [] := by
  simp only [lineBody, hacc, hc, hown, List.isEmpty_iff]

theorem cacheHintsComplete : Claims.CacheHintsComplete := by
  intro s g l hdr j hw
  refine ⟨fun o ac => exec_go rfl ac rfl, ?_⟩
  intro o acc own deep chans counted hc
  refine ⟨fun ac => exec_go rfl ac ((lineBody_of_checked rfl hc rfl).trans ?_),
    fun ac => exec_go rfl ac ((lineBody_of_checked rfl hc rfl).trans ?_)⟩
  · cases hdeep : o.deep <;> simp [counted, own, chans, deep, hdeep, acc]
  · cases hdeep : o.deep <;> simp [counted, own, deep, hdeep, acc]

/-! ### Line transfers -/

/-- Accesses below L1 change what the levels hold. -/
theorem State.touch_touch_cases (s : State) (l l' : List Nat) (o o' w w' : Bool) (f f' : Nat) :
    ∃ x, (s.touch l o w f).touch l' o' w' f' = { s with sectors := x } := by
  obtain ⟨x, hx⟩ := s.touch_cases l o w f
  obtain ⟨y, hy⟩ := (s.touch l o w f).touch_cases l' o' w' f'
  exact ⟨y, hy.trans (congrArg (fun t : State => { t with sectors := y }) hx)⟩

/-- A write-back changes memory, L1, poison and what the levels below hold. -/
theorem State.writeBack_cases (s : State) (core : Nat) (p : Nat → Bool) :
    ∃ m c q x, s.writeBack core p = { s with mem := m, l1 := c, poison := q, sectors := x } := by
  obtain ⟨x, hx⟩ := State.touch_touch_cases _ _ _ _ _ _ _ _ _
  exact ⟨_, _, _, x, congrArg (fun t : State => { t with mem := (s.writeBack core p).mem }) hx⟩

theorem State.writeBack_ops (s : State) (core : Nat) (p : Nat → Bool) : (s.writeBack core p).ops = s.ops := by
  obtain ⟨m, c, q, x, h⟩ := s.writeBack_cases core p
  rw [h]

theorem State.writeBack_groups (s : State) (core : Nat) (p : Nat → Bool) :
    (s.writeBack core p).groups = s.groups := by
  obtain ⟨m, c, q, x, h⟩ := s.writeBack_cases core p
  rw [h]

theorem State.writeBack_nextOp (s : State) (core : Nat) (p : Nat → Bool) :
    (s.writeBack core p).nextOp = s.nextOp := by
  obtain ⟨m, c, q, x, h⟩ := s.writeBack_cases core p
  rw [h]

theorem lineTransfersStart : Claims.LineTransfersStart := by
  intro post o s g l hdr j hw pa e i a d ac ha hd hsc ha' hd' hr
  have hb : bodyOf i = some (o.h, xferBody post o) := by cases post <;> rfl
  have hgo : xferBody post o s g l = if post && s.localBad g.id d 128 then
        .trap Cause.memUncorrectable (BitVec.ofNat 64 (s.firstBad g.id d 128))
      else if 8 ≤ g.slots.length then .wait .replySlot
      else .go { (s.release g.core).onGroup g.id fun x =>
            { x with slots := x.slots ++ [s.nextOp], rm := x.rm.join s.nextOp } with
          nextOp := s.nextOp + 1
          ops := s.ops ++ [⟨s.nextOp, g.id, some .rm, slotAddr hdr j, if post then .post a pa d else .fetch a pa d,
            none, none⟩] } .next [] := by
    have hscr : ¬ (decide (2 ^ 32 ≤ d) || !s.scratchAt g.id d 128) = true := by
      rw [hsc, decide_eq_false (not_le.mpr hd)]
      simp
    refine (if_neg (not_le.mpr ha)).trans ((if_neg hscr).trans
      ((if_neg (not_not.mpr ha')).trans ((if_neg (not_not.mpr hd')).trans ?_)))
    rw [hr, ← here_of_acts ac, ← s.writeBack_ops g.core fun _ => true, ← s.writeBack_nextOp g.core fun _ => true]
    rfl
  refine ⟨fun hpost hbad => exec_trap hb ac (hgo.trans (if_pos ?_)), fun hok hfull => exec_wait hb ac (hgo.trans
    ((if_neg ?_).trans (if_pos hfull))), fun hok hroom => exec_go hb ac (hgo.trans ((if_neg ?_).trans
    (if_neg (not_le.mpr hroom))))⟩
  · simp [hpost, hbad]
  · cases post <;> simp [hok]
  · cases post <;> simp [hok]

/-- Settles O27: each body takes its branches in order; a write-back leaves operations and their numbers alone. -/
theorem fencesHintsAndLineTransfers : Obligations.FencesHintsAndLineTransfers :=
  ⟨fenceCompletes, cacheHintsComplete, lineTransfersStart⟩

end Sys2Proof.Machine
end

section
/-! PROOFS. Batches, the instructions of the copy engine, and landing slots (R297 to R304, R311 to R315, R319). -/

namespace Sys2Proof.Machine

/-- What an instruction that acts leaves, when it traps and its effect stays. -/
theorem exec_trapIn {i : Instr} {h : Head} {b : Body} (hb : bodyOf i = some (h, b)) {s s' : State} {g : Group}
    {l : Launch} {hdr j : Nat} {hw : Word} (ac : Acts i h s g l hdr j hw) {c : Nat} {tv : Word}
    (e : b s g l = .trapIn s' c tv) :
    exec i s = .next (s'.takeTrap g.id c (BitVec.ofNat 64 (slotAddr hdr j)) tv (.back hdr j)) := by
  rw [exec_eq_issue hb, issue_of_acts ac, e]; rfl

/-! ### Batches -/

theorem Group.batches_setBatches (g : Group) (c d : Cls) (b : Batches) :
    (g.setBatches c b).batches d = if d = c then b else g.batches d := by
  cases c <;> cases d <;> rfl

@[simp] theorem Group.setBatches_id (g : Group) (c : Cls) (b : Batches) : (g.setBatches c b).id = g.id := by
  cases c <;> rfl

theorem Group.setBatches_regs (g : Group) (c : Cls) (b : Batches) :
    (g.setBatches c b).vregs = g.vregs ∧ (g.setBatches c b).sregs = g.sregs := by
  cases c <;> exact ⟨rfl, rfl⟩

theorem sealClosesTheOpenBatch : Claims.SealClosesTheOpenBatch := fun _ _ _ _ _ _ _ ac =>
  ⟨fun hfull => exec_wait rfl ac (if_pos hfull), fun hroom => exec_go rfl ac (if_neg (not_le.mpr hroom))⟩

/-- A wait on a class without a failure to report acquires. -/
theorem acquireEff_of_none {s : State} {g : Group} {c : Cls} {ctl : Ctl} (hl : g.lost = [])
    (hf : (g.batches c).failure = none) :
    acquireEff s g c ctl = .group (s.acquire g.core) (g.acquireBatches [c]) ctl := by
  simp only [acquireEff, Group.lostStore, hl, Group.waitFailure, hf]

theorem waitsOnBatchesComplete : Claims.WaitsOnBatchesComplete := by
  intro s g l hdr j hw
  refine ⟨fun o ac => ⟨fun hmore => exec_wait rfl ac (if_pos hmore), fun hle hl hf =>
    exec_go rfl ac ((if_neg (not_lt.mpr hle)).trans (acquireEff_of_none hl hf))⟩, fun o ac => ?_⟩
  intro target w x
  have hbody : yieldbBody o s g l = if o.n.toNat < (g.batches o.cls).incomplete then .wait w
      else acquireEff s x o.cls (.goto target) := by
    simp only [yieldbBody, here_of_acts ac, at_of_acts ac]
    rfl
  have hx : x.lost = g.lost ∧ x.batches o.cls = g.batches o.cls ∧ x.core = g.core := by
    simp only [x]
    split
    · exact ⟨rfl, rfl, rfl⟩
    · exact ⟨rfl, by cases o.cls <;> rfl, rfl⟩
  obtain ⟨hxl, hxb, hxc⟩ := hx
  refine ⟨fun hmore => exec_wait rfl ac (hbody.trans (if_pos hmore)), fun hle hl hf =>
    exec_go rfl ac (hbody.trans ((if_neg (not_lt.mpr hle)).trans
      ((acquireEff_of_none (hxl.trans hl) (hxb ▸ hf)).trans ?_)))⟩
  rw [hxc]
  rfl

theorem waitReportsABatchFailure : Claims.WaitReportsABatchFailure := by
  intro o s g l hdr j hw f ac hle hl hf
  have hgo : waitbBody o s g l = .trapIn (s.setGroup { g.setBatches o.cls (g.batches o.cls).consume with
      passFails := g.passFails.filter fun x => !(g.batches o.cls).consumed.contains x.op }) f.cause f.tval := by
    refine (if_neg (not_lt.mpr hle)).trans ?_
    simp only [acquireEff, Group.lostStore, hl, Group.waitFailure, hf]
  refine ⟨_, exec_trapIn rfl ac hgo, ?_, g.setBatches_id ..⟩
  have hb := g.batches_setBatches o.cls o.cls (g.batches o.cls).consume
  rw [if_pos rfl] at hb
  rw [← hb]
  cases o.cls <;> rfl

/-- Settles O28: the bodies of SEAL, WAITB and YIELDB take their branches in order. -/
theorem batches : Obligations.Batches :=
  ⟨sealClosesTheOpenBatch, waitsOnBatchesComplete, waitReportsABatchFailure⟩

/-! ### Copies -/

/-- A copy whose record can be written waits for room, or starts. -/
theorem startCopy_of_writable {s : State} {g : Group} {done w : Word} {k : OpKind}
    (hr : done = 0 ∨ s.checkGlobal g.core .write [⟨0, done.toNat, 64⟩] = none) :
    startCopy s g done k w = if 64 ≤ s.copiesOf g.id then .wait .copyRoom else .go (s.addOp g .cp k) .next [] := by
  have hnone : (if done = 0 then none else s.checkGlobal g.core .write [⟨0, done.toNat, 64⟩]) = none := by
    obtain h | h := hr
    · exact if_pos h
    · rw [h, ite_self]
  simp only [startCopy, hnone]

theorem copiesStartOrWait : Claims.CopiesStart := by
  intro s g l hdr j hw
  have starts : ∀ {i : Instr} {h : Head} {b : Body} {done w : Word} {k : OpKind}, bodyOf i = some (h, b) →
      Acts i h s g l hdr j hw → b s g l = startCopy s g done k w →
      (done = 0 ∨ s.checkGlobal g.core .write [⟨0, done.toNat, 64⟩] = none) →
      (64 ≤ s.copiesOf g.id → exec i s = .next (waiting s g .copyRoom)) ∧
      (s.copiesOf g.id < 64 → exec i s = .next (issued i h s g l hdr j hw (s.addOp g .cp k))) :=
    fun hb ac hgo hr => ⟨fun hfull => exec_wait hb ac (hgo.trans ((startCopy_of_writable hr).trans (if_pos hfull))),
      fun hroom => exec_go hb ac (hgo.trans ((startCopy_of_writable hr).trans (if_neg (not_le.mpr hroom))))⟩
  refine ⟨fun o ac ha hb hc => starts rfl ac (if_neg ?_), fun o ac hwave ha hb hc => starts rfl ac (if_neg ?_),
    fun o ac ha => starts rfl ac (if_neg (not_not.mpr ha))⟩
  · simp [ha, hb, hc]
  · simp [hwave, ha, hb, hc]

theorem issuedOperationJoinsTheOpenBatch : Claims.IssuedOperationJoinsTheOpenBatch := by
  intro s g c k hg t
  have hn : (s.release g.core).nextOp = s.nextOp := s.writeBack_nextOp ..
  have hops : (s.release g.core).ops = s.ops := s.writeBack_ops ..
  have hgrp : ∀ k, (s.release g.core).group? k = s.group? k := fun k =>
    congrArg (fun gs : List Group => gs.find? fun x : Group => x.id == k) (s.writeBack_groups g.core fun _ => true)
  have hjoin : t.group? g.id = some (g.setBatches c ((g.batches c).join s.nextOp)) := by
    rw [← hn]
    exact State.group?_onGroup_self _ _ _ g ((hgrp g.id).trans hg) (g.setBatches_id ..)
  refine ⟨congrArg (· + 1) hn, ⟨_, congrArg (· ++ [_]) hops, hn, rfl, rfl, rfl⟩, _, hjoin, ?_, ?_, ?_,
    (g.setBatches_regs c _).1, (g.setBatches_regs c _).2, ?_⟩
  · rw [Group.batches_setBatches, if_pos rfl]
    rfl
  · rw [Group.batches_setBatches, if_pos rfl]
    rfl
  · intro d hd
    rw [Group.batches_setBatches, if_neg hd]
  · intro x hx
    refine (State.group?_onGroup_other _ _ _ _ hx ?_).trans (hgrp x)
    intro y hy
    rw [Group.setBatches_id, hy]

theorem cstatCompletes : Claims.CstatCompletes := by
  intro o s s' g l hdr j hw ac hpast va p ends hc
  refine ⟨fun bs hr => exec_go (body := cstatBody o) rfl ac ((if_neg (ne_true_of_eq_false hpast)).trans ?_),
    fun hr => exec_go (body := cstatBody o) rfl ac ((if_neg (ne_true_of_eq_false hpast)).trans ?_)⟩
  · simp only [va] at hc
    simp only [p, va] at hr
    simp only [hc, hr]
    rfl
  · simp only [va] at hc
    simp only [p, va] at hr
    simp only [hc, hr]
    rfl

/-- Settles O29: an operation that starts joins the open batch; CSTAT sends what its read gives. -/
theorem copiesStart : Obligations.CopiesStart :=
  ⟨copiesStartOrWait, issuedOperationJoinsTheOpenBatch, cstatCompletes⟩

/-! ### Landing slots -/

theorem landArmsItsSlot : Claims.LandArmsItsSlot := by
  intro o s g l hdr j hw ac hwave put
  have hno := ne_true_of_eq_false hwave
  refine ⟨fun ha => exec_go (body := landBody o) rfl ac ((if_neg hno).trans ?_), ?_⟩
  · simp only [ha]
  · intro a ha base len want h1 h2 h3 h4 h5 h6 h7
    refine exec_go (body := landBody o) rfl ac ((if_neg hno).trans ?_)
    simp only [ha]
    refine (if_neg ?_).trans ((if_neg ?_).trans (if_neg ?_))
    · exact fun h => h.elim (· h1) (· h2)
    · exact fun h => h.elim (not_le.mpr h3) (not_lt.mpr h4)
    · rintro (h | h | h)
      · exact h5.ne' h
      · exact h6.ne' h
      · exact absurd h7 (by omega)

theorem landwCompletes : Claims.LandwCompletes := by
  intro o s g l tm hdr j hw ac hwave htm hwt
  have hgo : landwBody o s g l = if g.wait = some (.filled o.slot.toNat) ∨ (tm.land o.slot.toNat).st = .filled then
        .group (s.acquire g.core) { g with active := false, since := s.clock } .clause
      else if (tm.land o.slot.toNat).st = .armed then .wait (.landing o.slot.toNat)
      else .trap Cause.illegal (BitVec.ofNat 64 o.slot.toNat) := by
    refine (if_neg (ne_true_of_eq_false hwave)).trans ?_
    simp only [htm, Option.map_some, Option.getD_some]
  refine ⟨fun h => exec_go rfl ac (hgo.trans (if_pos (.inr h))), fun h => exec_wait rfl ac (hgo.trans
    ((if_neg ?_).trans (if_pos h))), fun h => exec_trap rfl ac (hgo.trans ((if_neg ?_).trans (if_neg ?_)))⟩
  all_goals simp [h, hwt]

/-- Settles O30: the bodies of LAND and LANDW take their branches in order. -/
theorem landingSlots : Obligations.LandingSlots := ⟨landArmsItsSlot, landwCompletes⟩

end Sys2Proof.Machine
end

section
/-! PROOFS. The matrix instructions at issue (R324 to R330, R341 to R359). -/

namespace Sys2Proof.Machine

/-! ### Pods and tiles -/

theorem State.pod_setPod (s : State) (p k : Nat) (x : Pod) : (s.setPod p x).pod k = if k = p then x else s.pod k :=
  Sparse.get_set ..

theorem State.pod_onPod (s : State) (p k : Nat) (f : Pod → Pod) :
    (s.onPod p f).pod k = if k = p then f (s.pod p) else s.pod k := s.pod_setPod p k _

theorem State.tile_setTile (s : State) (p t k j : Nat) (x : Tile) :
    (s.setTile p t x).tile k j = if k = p ∧ j = t then x else s.tile k j := by
  unfold State.tile State.setTile
  rw [State.pod_onPod]
  by_cases hk : k = p
  · subst hk
    rw [if_pos rfl]
    simp only [Sparse.get_set, true_and]
  · simp [hk]

/-- The tiles of a pod stay when what changes is not its tiles. -/
theorem State.tile_onPod (s : State) (p k j : Nat) (f : Pod → Pod) (hf : ∀ x, (f x).tiles = x.tiles) :
    (s.onPod p f).tile k j = s.tile k j := by
  unfold State.tile
  rw [State.pod_onPod]
  split
  · next h => rw [hf, h]
  · rfl

/-! ### Tokens and turns -/

theorem withTile_of_turn {t : Nat} {s : State} {g : Group} {k : Eff} (hh : s.holds g t = true)
    (ho : s.tileOp g.id = none) : withTile t s g k = k := by
  simp [withTile, hh, ho]

theorem withTile_of_token {t : Nat} {s : State} {g : Group} {k : Eff} (hh : s.holds g t = false) :
    withTile t s g k = .trap Cause.token (BitVec.ofNat 64 t) := by
  simp [withTile, hh, tokenTrap]

theorem tileInstructionsComplete : Claims.TileInstructionsComplete := by
  intro s g l hdr j hw pod done
  refine ⟨?gang, ?mzero, ?rel, ?acq, ?acqHanded, ?mscale, ?mstat, ?cont, ?minj⟩
  case gang =>
    intro o w0 w1 x ac hwave hpast hok
    refine exec_go (body := gangBody o) rfl ac (if_neg ?_)
    simp only [hwave, hpast, Bool.false_or, Bool.not_eq_true', Bool.not_eq_false]
    exact hok
  case mzero =>
    intro o ac hrun hh ho he
    exact exec_go rfl ac ((if_neg (ne_true_of_eq_false hrun)).trans ((withTile_of_turn hh ho).trans
      (if_neg (not_le.mpr he))))
  case rel => exact fun o ac hh ho => exec_go rfl ac (withTile_of_turn hh ho)
  case acq =>
    intro o ac hf ho hfree
    refine exec_go (body := acqBody o) rfl ac ?_
    obtain h | ⟨h, hp⟩ := hfree
    · simp only [acqBody, hf, h, ho]
    · simp only [acqBody, hf, h, ho, pod] at hp ⊢
      simp [hp]
  case acqHanded =>
    intro o k ac hf hk hw
    refine exec_go (body := acqBody o) rfl ac ?_
    simp only [acqBody, hf, hk, hw, if_true]
  case mscale => exact fun o ac hh ho hn => exec_go rfl ac ((withTile_of_turn hh ho).trans (if_neg (not_lt.mpr hn)))
  case mstat => exact fun o ac hh ho => exec_go rfl ac (withTile_of_turn hh ho)
  case cont => exact fun o ac hp => exec_go (body := contBody o) rfl ac (if_neg (ne_true_of_eq_false hp))
  case minj =>
    intro o x t pos c v tile ac hdiag hh ho hc hv
    have hgo : minjBody o s g l = if (s.pod g.pod).retired.contains c then .go s .next []
        else .go (s.inject g.pod t pos c v o.mode) .next [] := by
      refine (if_neg (by simp [hdiag])).trans ((withTile_of_turn hh ho).trans (if_neg ?_))
      rintro (h | h)
      · rw [Bool.not_eq_true', List.contains_eq_mem, decide_eq_false_iff_not] at h
        exact h hc
      · exact hv h
    exact ⟨fun h => exec_go rfl ac (hgo.trans (if_pos (List.contains_iff_mem.mpr h))),
      fun h => exec_go rfl ac (hgo.trans (if_neg fun h' => h (List.contains_iff_mem.mp h')))⟩

theorem tileTokenIsChecked : Claims.TileTokenIsChecked := by
  intro s g l hdr j hw t hh out
  have hk : ∀ {u : BitVec 3} {k : Eff}, u = t → withTile u.toNat s g k = .trap Cause.token (BitVec.ofNat 64 t.toNat) :=
    by rintro u k rfl; exact withTile_of_token hh
  exact ⟨fun o ht ac => exec_trap rfl ac (hk ht), fun o ht ac => exec_trap rfl ac (hk ht),
    fun o ht ac => exec_trap rfl ac (hk ht), fun o ht ac => exec_trap rfl ac (hk ht),
    fun o ht ac => exec_trap rfl ac (hk ht),
    fun o ht ac hp => exec_trap rfl ac ((if_neg (ne_true_of_eq_false hp)).trans (hk ht))⟩

/-- Settles O31: at the holder whose turn it is, a tile instruction does what it does; elsewhere `withTile` traps. -/
theorem tileInstructions : Obligations.TileInstructions := ⟨tileInstructionsComplete, tileTokenIsChecked⟩

/-! ### MZERO -/

/-- A scalar without a bit above bit 8. -/
theorem ushiftRight_nine_eq_zero (w : Word) : w >>> 9 = 0 ↔ w.toNat < 2 ^ 9 := by
  rw [← BitVec.toNat_inj, BitVec.toNat_ushiftRight, Nat.shiftRight_eq_div_pow]
  exact Nat.div_eq_zero_iff.trans (by simp)

theorem tile_issued_next (i : Instr) (h : Head) (s s' : State) (g : Group) (l : Launch) (hdr j : Nat) (hw : Word)
    (vals : Sparse Lane) (p t : Nat) : (issued i h s g l hdr j hw s' .next vals).tile p t = s'.tile p t := rfl

/-- Settles O32: MZERO's branches in order, and the tile that it puts. -/
theorem mzeroClearsItsTile : Obligations.MzeroClearsItsTile := by
  intro o s g l hdr j hw ac hrun
  have hbody : mzeroBody o s g l = withTile o.tile.toNat s g _ := if_neg (ne_true_of_eq_false hrun)
  refine ⟨fun hh => exec_trap rfl ac (hbody.trans (withTile_of_token hh)), fun hh ho => ⟨fun hbig =>
    exec_trap rfl ac (hbody.trans ((withTile_of_turn hh ho).trans (if_pos ?_))), fun hsmall => ?_⟩⟩
  · exact not_lt.mp (mt (ushiftRight_nine_eq_zero _).mpr hbig)
  · have he := (ushiftRight_nine_eq_zero _).mp hsmall
    refine ⟨_, exec_go rfl ac (hbody.trans ((withTile_of_turn hh ho).trans (if_neg (not_le.mpr he)))), ?_⟩
    have hholder : (s.tile g.pod o.tile.toNat).holder = .group g.id := of_decide_eq_true hh
    rw [tile_issued_next, State.dropInjected, State.tile_onPod, State.tile_setTile, if_pos ⟨rfl, rfl⟩]
    · exact ⟨fun pos c => rfl, rfl, rfl, (Nat.mod_eq_of_lt he).symm, rfl, rfl, rfl, rfl, rfl, rfl, hholder⟩
    · exact fun _ => rfl

/-! ### MMA -/

/-- An arrival that nobody in its gang is gone from. -/
theorem State.enterLatch_of_whole {s : State} {pod : Nat} {a : Arrived}
    (h : ∀ m ∈ a.gang.members, s.isGone (.member (lidOf a.gid) (teamOf a.gid) m.grp) = false) :
    s.enterLatch pod a = s.onPod pod fun p => { p with latches := joinLatch a p.latches } := by
  have hnone : ((a.gang.members.map fun m => GroupId.member (lidOf a.gid) (teamOf a.gid) m.grp).find?
      (s.onPod pod fun p => { p with latches := joinLatch a p.latches }).isGone) = none := by
    rw [List.find?_eq_none]
    intro k hk
    obtain ⟨m, hm, rfl⟩ := List.mem_map.mp hk
    exact ne_true_of_eq_false (h m hm)
  unfold State.enterLatch
  dsimp only
  rw [hnone]

/-- A group is not gone for what changes in another of its parts. -/
theorem State.isGone_onGroup (s : State) (k m : GroupId) (f : Group → Group)
    (hf : ∀ x, (f x).id = x.id ∧ (f x).halted = x.halted) : (s.onGroup k f).isGone m = s.isGone m := by
  have hg : ((s.onGroup k f).group? m).map (·.halted) = (s.group? m).map (·.halted) := by
    have hid : ((fun x : Group => x.id == m) ∘ fun x => if x.id = k then f x else x) = fun x : Group => x.id == m := by
      funext x
      simp only [Function.comp_apply]
      split
      · rw [(hf x).1]
      · rfl
    simp only [State.group?, State.onGroup, List.find?_map, hid, Option.map_map]
    congr 1
    funext x
    simp only [Function.comp_apply]
    split
    · exact (hf x).2
    · rfl
  unfold State.isGone
  rw [hg]
  rfl

/-- The state of a member whose MMA has arrived at a latch. -/
theorem arrived_state {s : State} {g : Group} {a : Arrived} {regs : List Nat} (hg : s.group? g.id = some g)
    (ha : a.gid = g.id)
    (hwhole : ∀ m ∈ a.gang.members, s.isGone (.member (lidOf g.id) (teamOf g.id) m.grp) = false) :
    let t := arrive.put_ g regs s a
    (t.pod g.pod).latches = joinLatch a (s.pod g.pod).latches ∧ t.nextOp = s.nextOp + 1 ∧
      t.ops = s.ops ++ [⟨a.op, g.id, some .mx, a.addr, .mma, none, none⟩] ∧
      ∃ z, t.group? g.id = some z ∧ z.reserved = g.reserved ++ [(a.op, regs)] ∧ z.mx = g.mx.join a.op ∧
        z.vregs = g.vregs ∧ z.sregs = g.sregs := by
  intro t
  have hgone : ∀ k, ({ s.onGroup g.id fun x => { x with mx := x.mx.join a.op, reserved := x.reserved ++ [(a.op, regs)]
      } with
      nextOp := s.nextOp + 1
      ops := s.ops ++ [⟨a.op, g.id, some .mx, a.addr, .mma, none, none⟩] } : State).isGone k = s.isGone k := fun k =>
    State.isGone_onGroup s g.id k _ fun x => ⟨rfl, rfl⟩
  have ht : t = _ := State.enterLatch_of_whole fun m hm => (hgone _).trans (ha ▸ hwhole m hm)
  rw [ht, State.pod_onPod, if_pos rfl]
  exact ⟨rfl, rfl, rfl, _, State.group?_onGroup_self s g.id _ g hg rfl, rfl, rfl, rfl, rfl⟩

theorem mmaArrives : Claims.MmaArrives := by
  intro o s g l hdr j hw x ac hwave hrun hpf hgang hwhole htile
  have hbody : mmaBody o s g l = if o.aux ≠ 0 ∨ (o.book ≠ 0 ∧ o.ta ≠ .c8 ∧ o.tb ≠ .c8) then
        .trap Cause.illegal ((encode (.mma o)).headD 0)
      else match (mmaRegs g o).find? fun r => decide (g.n ≤ r) with
        | some r => .trap Cause.window (BitVec.ofNat 64 r)
        | none => match g.badWord fun r x => (mmaRegs g o).contains r && (g.bypassed g.issued r x).isNone with
          | some w => .trap Cause.memUncorrectable (BitVec.ofNat 64 (winBase g.id + 8 * w))
          | none => arrive o s g x (mmaRegs g o) := by
    simp only [mmaBody, hwave, hrun, hpf, hgang, htile, Bool.false_eq_true, if_false, ne_eq, not_true_eq_false] <;> rfl
  refine ⟨fun hbad => exec_trap rfl ac (hbody.trans (if_pos hbad)), fun haux hbook => ?_⟩
  have hok : ¬ (o.aux ≠ 0 ∨ (o.book ≠ 0 ∧ o.ta ≠ .c8 ∧ o.tb ≠ .c8)) := by tauto
  refine ⟨fun r hr => exec_trap rfl ac (hbody.trans ((if_neg hok).trans (by simp only [hr]))), fun hin hclean => ?_⟩
  intro p a
  have hnone : ((mmaRegs g o).find? fun r => decide (g.n ≤ r)) = none :=
    List.find?_eq_none.mpr fun r hr => by simpa using hin r hr
  have harr : mmaBody o s g l = if p.ungranted g.id || g.withdrawn.isSome then .wait .latch
      else match p.latches.find? fun x => x.expects g.id with
        | some x =>
          if (x.arrived.head?.map a.agrees).getD true then .go (arrive.put_ g (mmaRegs g o) s a) .next []
          else
            let s := s.onPod g.pod fun p => { p with latches := p.latches.erase x }
            .trapIn (s.withdrawLatch x Cause.gangMismatch) Cause.gangMismatch (BitVec.ofNat 64 g.here)
        | none => if 16 ≤ p.latches.length then .wait .latch else .go (arrive.put_ g (mmaRegs g o) s a) .next [] := by
    refine hbody.trans ((if_neg hok).trans ?_)
    simp only [hnone, hclean, arrive, here_of_acts ac]
    rfl
  refine ⟨fun hwt => exec_wait rfl ac (harr.trans (if_pos ?_)), fun hun hwd hagree hroom => ?_⟩
  · simpa using hwt
  have hput : mmaBody o s g l = .go (arrive.put_ g (mmaRegs g o) s a) .next [] := by
    refine harr.trans ((if_neg (by simp [hun, hwd])).trans ?_)
    cases hy : p.latches.find? fun y => y.expects g.id with
    | none => exact if_neg (not_le.mpr (hroom hy))
    | some y =>
      refine if_pos ?_
      cases hh : y.arrived.head? with
      | none => rfl
      | some b => exact hagree y hy b hh
  exact ⟨_, exec_go rfl ac hput, arrived_state (group?_of_stands ac.1.1) rfl hwhole⟩

theorem drainsAndImagesStart : Claims.DrainsAndImagesStart := by
  intro s g l hdr j hw ho done
  refine ⟨?drain, ?drainm, ?acst, ?acld⟩
  case drain =>
    intro o td regs rows ac hh hrows heven hin hpend hres
    refine exec_go (body := drainBody o) rfl ac ((withTile_of_turn hh ho).trans ((if_neg ?_).trans ?_))
    · rintro (h | ⟨h, h'⟩)
      · exact absurd hrows (ne_false_of_eq_true h)
      · have := heven h
        omega
    · have hnone : (regs.find? fun x => decide (g.n ≤ x)) = none :=
        List.find?_eq_none.mpr fun r hr => by simpa using hin r hr
      simp only [regs, td] at hnone hpend hres
      rw [hnone]
      exact if_neg (by rw [hpend, hres]; simp)
  case drainm =>
    intro o r base rows ac hp hh hrec hrows hal
    refine exec_go (body := drainmBody o) rfl ac ((if_neg (ne_true_of_eq_false hp)).trans
        ((withTile_of_turn hh ho).trans
      ((if_neg ?_).trans (if_neg (not_not.mpr hal)))))
    rw [show drainmRecord s g (l.layouts.getD o.lay.toNat 0) = true from hrec, hrows]
    simp
  case acst =>
    intro o ac hh hbad
    refine exec_go (body := acstBody o) rfl ac ((withTile_of_turn hh ho).trans ?_)
    rw [hbad]
  case acld =>
    intro o t e ac hp hrun hh he hbad htypes
    refine exec_go (body := acldBody o) rfl ac ((if_neg ?_).trans ((if_neg (ne_true_of_eq_false hrun)).trans
      ((withTile_of_turn hh ho).trans ((if_neg (not_le.mpr he)).trans ?_))))
    · cases ha : o.add
      · simp [hp ha]
      · simp
    · rw [hbad]
      refine if_neg ?_
      rintro ⟨ha, h⟩
      exact h.elim (· (htypes ha).1) (· (htypes ha).2)

/-- Settles O33: MMA's branches in order and what an arrival changes; the other bodies once their checks pass. -/
theorem matrixOperationsStart : Obligations.MatrixOperationsStart := ⟨mmaArrives, drainsAndImagesStart⟩

end Sys2Proof.Machine
end

section
/-! PROOFS. What a pass adds to its tile (R321, R322, R339). -/

namespace Sys2Proof.Machine

theorem channels_lt {f : AccFmt} {c : Nat} (h : c ∈ Rns.channels f) : c < 10 := by
  cases f <;> simp [Rns.channels] at h <;> omega

/-- The residues that a pass writes. -/
def passResidues (t : Tile) (retired : List Nat) (p : Pass) : List (Nat × Nat) :=
  (List.range 16384).flatMap fun pos => ((Rns.channels t.fmt).filter fun c => !retired.contains c).map fun c =>
    (pos * 10 + c, (t.residue pos c + Rns.encode (passTerm p t.e pos) c) % Rns.modulus c)

theorem mem_passResidues {t : Tile} {retired : List Nat} {p : Pass} {q : Nat × Nat} :
    q ∈ passResidues t retired p ↔ ∃ pos < 16384, ∃ c, c ∈ Rns.channels t.fmt ∧ c ∉ retired ∧
      q = (pos * 10 + c, (t.residue pos c + Rns.encode (passTerm p t.e pos) c) % Rns.modulus c) := by
  simp only [passResidues, List.mem_flatMap, List.mem_range, List.mem_map, List.mem_filter, Bool.not_eq_true',
    List.contains_eq_mem, decide_eq_false_iff_not, and_assoc, eq_comm (b := q)]

theorem addPass_res (t : Tile) (retired : List Nat) (p : Pass) :
    (t.addPass retired p).res = Sparse.setAll 0 t.res (passResidues t retired p) := by
  unfold Tile.addPass passResidues
  dsimp only

theorem residue_addPass (t : Tile) (retired : List Nat) (p : Pass) (pos c : Nat) :
    (t.addPass retired p).residue pos c =
      Sparse.get 0 (Sparse.setAll 0 t.res (passResidues t retired p)) (pos * 10 + c) :=
  congrArg (Sparse.get 0 · (pos * 10 + c)) (addPass_res t retired p)

/-- A residue on a channel in use. -/
theorem residue_addPass_mem {t : Tile} {retired : List Nat} {p : Pass} {pos c : Nat} (hpos : pos < 16384)
    (hc : c ∈ Rns.channels t.fmt) (hr : c ∉ retired) :
    (t.addPass retired p).residue pos c = (t.residue pos c + Rns.encode (passTerm p t.e pos) c) % Rns.modulus c := by
  refine (residue_addPass t retired p pos c).trans (Sparse.get_setAll_mem 0 _ _ _ _ (fun q hq hkey => ?_)
    ⟨_, mem_passResidues.mpr ⟨pos, hpos, c, hc, hr, rfl⟩, rfl⟩)
  obtain ⟨pos', -, c', hc', -, rfl⟩ := mem_passResidues.mp hq
  have h1 := channels_lt hc
  have h2 := channels_lt hc'
  have hkey : pos' * 10 + c' = pos * 10 + c := hkey
  obtain rfl : pos' = pos := by omega
  obtain rfl : c' = c := by omega
  rfl

/-- A residue that the pass does not write. -/
theorem residue_addPass_other {t : Tile} {retired : List Nat} {p : Pass} {pos c : Nat} (hc : c < 10)
    (hno : c ∉ Rns.channels t.fmt ∨ c ∈ retired) : (t.addPass retired p).residue pos c = t.residue pos c := by
  refine (residue_addPass t retired p pos c).trans (Sparse.get_setAll_other 0 _ _ _ fun q hq hkey => ?_)
  obtain ⟨pos', -, c', hc', hr', rfl⟩ := mem_passResidues.mp hq
  have h2 := channels_lt hc'
  have hkey : pos' * 10 + c' = pos * 10 + c := hkey
  obtain rfl : c' = c := by omega
  exact hno.elim (· hc') hr'

theorem addPass_fields (t : Tile) (retired : List Nat) (p : Pass) :
    (t.addPass retired p).scale = (t.scale || (firstOmitted p.scales t.e).isSome) ∧
    (t.addPass retired p).holder = t.holder ∧ (t.addPass retired p).e = t.e ∧ (t.addPass retired p).fmt = t.fmt := by
  unfold Tile.addPass
  exact ⟨rfl, rfl, rfl, rfl⟩

/-- Settles O34: a pass writes each residue once; one that it does not write stays. -/
theorem passAddsExactProducts : Obligations.PassAddsExactProducts := by
  intro t retired p
  obtain ⟨hscale, hholder, he, hfmt⟩ := addPass_fields t retired p
  refine ⟨fun pos c => residue_addPass_mem, fun pos c => residue_addPass_other, hscale, fun pos hal => ?_,
    fun hsc => ⟨?_, fun pos => ?_⟩, hholder, he, hfmt⟩
  · simp only [passTerm, rowOf, colOf, hal]
  · have hnone : firstOmitted p.scales t.e = none := by
      rw [hsc]
      exact List.find?_eq_none.mpr fun pos _ => by simp [alignment]
    rw [hscale, hnone]
    simp
  · simp [passTerm, hsc, alignment, rowOf, colOf]

end Sys2Proof.Machine
end

section
/-! PROOFS. The pattern pass: its statement does not bound the channel, and residues share keys beyond channel 9. -/

namespace Sys2Proof.Machine

/-- A part whose first tile has one wrong residue, at position 1 of channel 0, with the pattern pass that corrects it
pending. A tile keeps the residue of a position and a channel under 10 × position + channel, so that this one is also
that of position 0 and channel 10, a channel that no format has. -/
def strayPattern : State :=
  (State.reset.onPod 0 fun p => { p with patterns := [⟨0, [(0, 1)], false⟩] }).setTile 0 0
    { Tile.zero with res := [(10, 1)] }

theorem strayPattern_valid : Rns.reconstruct (strayPattern.tile 0 0).fmt (strayPattern.pod 0).retired
    ((strayPattern.tile 0 0).residue 0) = .valid 0 := by decide

/-- Refutes O35: the last clause of `PatternPassRunsOnAFreeTile` says of every number `c` that the residue `c` of an
element that reconstructs stays, also of `c = 10`; but the pass corrects residue 0 of position 1, under the same key. -/
theorem not_passes : ¬ Obligations.Passes := by
  rintro ⟨-, -, -, hpattern⟩
  obtain ⟨-, -, hsoft⟩ := hpattern strayPattern 0 ⟨0, [(0, 1)], false⟩ [] (by decide) (by decide)
  have hres := (hsoft rfl).2 0 0 10
  rw [strayPattern_valid] at hres
  exact absurd hres (by decide)

end Sys2Proof.Machine
end

section
/-! PROOFS. Drains: their statement takes the width of one group for all of its number. -/

namespace Sys2Proof.Machine

/-- A group that waits for a drain of s8 elements into registers 0 to 3, with a register that is not zero in lane 63. -/
def drainingGroup (w : Nat) : Group :=
  { Group.fresh (.member 0 0 0) w 0 0 4 0 0 0 with
    pend := [(Group.fresh (.member 0 0 0) w 0 0 4 0 0 0).pendOf 0 (.drain 0) [0, 1, 2, 3] [] [] [] 0 none]
    vregs := [(63, 1)] }

/-- A drain of row 0 of tile 0. -/
def drainOfRow : DrainArgs := ⟨0, 0, 1, .rne, false, 0, 0⟩

/-- A part in which two groups, of 32 and of 64 lanes, have the number that the drain names. -/
def twiceNamed : State :=
  { State.reset with
    groups := [drainingGroup 32, drainingGroup 64]
    ops := [⟨0, .member 0 0 0, none, 0, .drain drainOfRow .s8 0, none, none⟩] }

/-- What a state has in register 0 and lane 63 of its second group. -/
def secondLane63 : Host.Outcome State Fault Refusal → Option Lane
  | .next t => t.groups[1]?.map fun g => g.fileV 0 63
  | _ => none

/-- Refutes O36: the first clause of `DrainCompletes` writes to every group of the drain's number what fits the width of
the first, while each is written by its own width: with 64 lanes lane 63 of register 0 is written, with 32 it is not. -/
theorem not_drains : ¬ Obligations.Drains := by
  rintro ⟨hdrain, -⟩
  obtain ⟨hok, -⟩ := hdrain twiceNamed 0 _ drainOfRow .s8 0 (drainingGroup 32) _ rfl rfl rfl rfl
  have hend := congrArg secondLane63 (hok (by decide +kernel))
  revert hend
  decide +kernel

end Sys2Proof.Machine
end

section
/-! PROOFS. Results, acknowledgements and line transfers that land (O38). -/

namespace Sys2Proof.Machine

/-! ### What entering an event in the journal changes -/

/-- Entering an event in the journal changes the journal and, by the messages that it may bring, what is sent. -/
theorem State.journalEntry_only (s : State) (x : Noted) (n : Nat) :
    ∃ j a b c, s.journalEntry x n = { s with journal := j, sent := a, held := b, seq := c } := by
  unfold State.journalEntry
  dsimp only
  split
  · unfold State.postSegment
    split
    · unfold State.post State.deliver
      split <;> exact ⟨_, _, _, _, rfl⟩
    · exact ⟨_, s.sent, s.held, s.seq, rfl⟩
  · exact ⟨_, s.sent, s.held, s.seq, rfl⟩

theorem State.journalAdd_only (s : State) (k d src u : Nat) (loc : Word) :
    ∃ j a b c, s.journalAdd k d src u loc = { s with journal := j, sent := a, held := b, seq := c } := by
  unfold State.journalAdd
  dsimp only
  split
  · exact ⟨_, s.sent, s.held, s.seq, rfl⟩
  · split
    · exact ⟨_, s.sent, s.held, s.seq, rfl⟩
    · exact s.journalEntry_only _ _

theorem State.deliver_setGroup (s : State) (g : Group) (m : Msg) : (s.setGroup g).deliver m = (s.deliver m).setGroup
    g := by
  have e : (s.setGroup g).route m.qp = s.route m.qp := rfl
  simp only [State.deliver, e]
  cases s.route m.qp <;> rfl

theorem State.postSegment_setGroup (s : State) (g : Group) (n : Nat) :
    (s.setGroup g).postSegment n = (s.postSegment n).setGroup g := by
  have e : (s.setGroup g).canPost = s.canPost := rfl
  simp only [State.postSegment, e, State.post, State.deliver_setGroup]
  split <;> rfl

/-- What the journal becomes does not depend on the groups. -/
theorem State.journalEntry_setGroup (s : State) (g : Group) (x : Noted) (n : Nat) :
    (s.setGroup g).journalEntry x n = (s.journalEntry x n).setGroup g := by
  let t : State := { s with journal := s.journal.append s.ptpNow x.kind x.detail x.src x.unit n x.loc }
  have e (c : Prop) [Decidable c] : (if c then ({ t with journal := t.journal.checkpoint t.ptpNow }.setGroup
      g).postSegment
      t.journal.segments else t.setGroup g) = (if c then { t with journal := t.journal.checkpoint t.ptpNow }.postSegment
      t.journal.segments else t).setGroup g := by
    split
    · exact State.postSegment_setGroup _ _ _
    · rfl
  exact e _

theorem State.journalPlace_mem (s : State) (g : GroupId) (loc : Bool) (a : Nat) : (s.journalPlace g loc a).mem =
    s.mem := by
  unfold State.journalPlace State.journalPeer State.journalBad
  dsimp only
  split_ifs
  all_goals
    obtain ⟨j, x, y, z, e⟩ := s.journalAdd_only _ _ _ _ _
    rw [e]

/-! ### Results (R136, R285) -/

/-- A result that comes back and needs no held channel is received by its group. -/
theorem State.respond_eq {s : State} {gid : GroupId} {n : Nat} {g : Group} {p : Pend} {k : PendKind}
    (hg : s.group? gid = some g) (hp : g.pend.find? (fun q => q.n == n && q.kind == k) = some p) :
    s.respond gid n [k] = if p.chans.any s.channelHeld then s else s.setGroup (g.receive p) := by
  have e : (fun q : Pend => q.n == n && [k].contains q.kind) = fun q => q.n == n && q.kind == k := by
    funext q
    simp
    rfl
  simp only [State.respond, hg, e, hp]

theorem Group.foldl_setSreg (l : List (Nat × Word)) (g : Group) : ∃ st,
    l.foldl (fun g x => g.setSreg x.1 x.2) g =
      { g with sregs := l.foldl (fun m x => Sparse.set 0 m x.1 x.2) g.sregs, stack := st } := by
  induction l generalizing g with
  | nil => exact ⟨g.stack, rfl⟩
  | cons a l ih =>
    obtain ⟨st, e⟩ := ih (g.setSreg a.1 a.2)
    exact ⟨st, e⟩

/-- A result without a failure goes to its registers and scalars, and its flags are raised. -/
theorem Group.receive_of_value {g : Group} {p : Pend} (h : p.fail = none) :
    (g.receive p).vregs = Sparse.setAll 0 g.vregs p.vals ∧ (g.receive p).fflags = g.fflags ||| p.flags ∧
      (g.receive p).sregs = p.svals.foldl (fun m x => Sparse.set 0 m x.1 x.2) g.sregs ∧
      (g.receive p).deferred = g.deferred ∧ (g.receive p).pend = g.pend.filter (fun x => x.n != p.n) := by
  obtain ⟨st, e⟩ := Group.foldl_setSreg p.svals
    (({ g with pend := g.pend.filter fun x => x.n != p.n }.writeAll p.vals).raise p.flags)
  simp only [Group.receive, h, e]
  exact ⟨rfl, rfl, rfl, rfl, rfl⟩

theorem Group.receive_of_failure {g : Group} {p : Pend} {f : Failure} (h : p.fail = some f) :
    g.receive p = { g with pend := g.pend.filter fun x => x.n != p.n }.defer
      ⟨p.n, p.addr, f, p.vregs, p.scals, p.idx, p.lanes⟩ := by
  simp only [Group.receive, h]

theorem Group.receive_pend (g : Group) (p : Pend) : (g.receive p).pend = g.pend.filter fun x => x.n != p.n := by
  cases h : p.fail with
  | none => exact (Group.receive_of_value h).2.2.2.2
  | some f => rw [Group.receive_of_failure h]; rfl

theorem Group.receive_id (g : Group) (p : Pend) : (g.receive p).id = g.id := by
  cases h : p.fail with
  | none =>
    obtain ⟨st, e⟩ := Group.foldl_setSreg p.svals
      (({ g with pend := g.pend.filter fun x => x.n != p.n }.writeAll p.vals).raise p.flags)
    simp only [Group.receive, h, e]
    rfl
  | some f => rw [Group.receive_of_failure h]; rfl

/-- A failure takes its place among those that wait, in issue order. -/
theorem Group.defer_pairwise (g : Group) (d : Deferred) (h : g.deferred.Pairwise fun e e' => e.n ≤ e'.n) :
    (g.defer d).deferred.Pairwise fun e e' => e.n ≤ e'.n := by
  have le (e : Deferred) (m : e ∈ g.deferred.filter fun x => decide (d.n ≤ x.n)) : d.n ≤ e.n :=
    of_decide_eq_true (List.mem_filter.1 m).2
  refine List.pairwise_append.2 ⟨h.filter _, List.pairwise_cons.2 ⟨fun e m => le e m, h.filter _⟩, ?_⟩
  intro a ha b hb
  have la : a.n < d.n := of_decide_eq_true (List.mem_filter.1 ha).2
  rcases List.mem_cons.1 hb with rfl | hb
  · omega
  · have := le b hb
    omega

theorem resultsLand_holds : Claims.ResultsLand := by
  intro s gid n g p hg ev k hk hp hf
  have id : g.id = gid := State.group?_id hg
  have pn : p.n = n := by
    have := List.find?_some hf
    simp only [Bool.and_eq_true, beq_iff_eq] at this
    exact this.1
  have run : exec (ev k) s = .next (s.respond gid n [k]) := by
    rcases hk with rfl | rfl | rfl <;> rfl
  rw [run, State.respond_eq hg hf]
  refine ⟨fun h => by rw [if_pos h], fun h => ⟨_, g.receive p, by rw [if_neg (ne_true_of_eq_false h)], ?_, ?_, ?_, ?_,
      ?_⟩⟩
  · refine ⟨fun m hm => State.group?_setGroup_other _ _ _ ?_, rfl⟩
    rw [Group.receive_id, id]
    exact hm
  · have := State.group?_setGroup_self s g (g.receive p) (by rw [Group.receive_id, id]; exact hg)
    rwa [Group.receive_id, id] at this
  · intro q hq
    rw [Group.receive_pend] at hq
    have := (List.mem_filter.1 hq).2
    rw [pn] at this
    exact bne_iff_ne.1 this
  · intro h
    obtain ⟨v, fl, sr, de, -⟩ := Group.receive_of_value (g := g) h
    exact ⟨v, fl, sr, de⟩
  · intro f h
    rw [Group.receive_of_failure h]
    refine ⟨rfl, rfl, _, _, _, rfl, rfl, rfl, rfl, ?_, ?_, ?_, Group.defer_pairwise _ _⟩
    · exact fun e m => ⟨(List.mem_filter.1 m).1, of_decide_eq_true (List.mem_filter.1 m).2⟩
    · exact fun e m => ⟨(List.mem_filter.1 m).1, of_decide_eq_true (List.mem_filter.1 m).2⟩
    · intro e m
      by_cases c : e.n < p.n
      · exact .inl (List.mem_filter.2 ⟨m, decide_eq_true c⟩)
      · exact .inr (List.mem_filter.2 ⟨m, decide_eq_true (Nat.le_of_not_lt c)⟩)

/-! ### Acknowledgements (R279, R296) -/

theorem Group.loseStore_lost (g : Group) (a : Ack) : (g.loseStore a).lost ≠ [] := by
  simp only [Group.loseStore]
  split
  · next h =>
    intro c
    rw [List.map_eq_nil_iff.1 c] at h
    simp at h
  · simp

theorem State.journalPeer_journal (s : State) (g : Group) (pa : Nat) :
    let x : Noted := ⟨5, 0, 7, 0, BitVec.ofNat 64 pa⟩
    (s.journal.full = true → ((s.setGroup g).journalPeer pa).journal =
      { s.journal with waiting := s.journal.waiting ++ [x] }) ∧
    (s.journal.full = false → ((s.setGroup g).journalPeer pa).journal = (s.journalEntry x 1).journal) := by
  intro x
  refine ⟨fun h => ?_, fun h => ?_⟩
  · simp [State.journalPeer, State.journalAdd, Noted.folds, h, x]
  · simp [State.journalPeer, State.journalAdd, Noted.folds, h, State.journalEntry_setGroup, x]

theorem writeAcknowledged_holds : Claims.WriteAcknowledged := by
  intro s gid n ok g a hg hf
  have id : g.id = gid := State.group?_id hg
  have an : a.n = n := by simpa using List.find?_some hf
  have run : exec (.writeAcknowledgement gid n ok) s = .next (s.acknowledge gid n ok) := rfl
  have here (y : Group) (hy : y.id = gid) : (s.setGroup y).group? gid = some y := by
    have := State.group?_setGroup_self s g y (by rw [hy]; exact hg)
    rwa [hy] at this
  have gone : ∀ x ∈ g.acks.filter (fun x => x.n != n), x.n ≠ n := fun x hx => bne_iff_ne.1 (List.mem_filter.1 hx).2
  have fewer : (g.acks.filter fun x => x.n != n).length < g.acks.length :=
    List.length_filter_lt_length_iff_exists.2 ⟨a, List.mem_of_find?_eq_some hf, by simp [an]⟩
  rw [run]
  cases hp : a.peer with
  | none =>
    refine ⟨fun _ h => by simp only [State.acknowledge, hg, hf, hp, h, if_true], fun h => ?_⟩
    refine ⟨s.setGroup { g with acks := g.acks.filter fun x => x.n != n }, _, ?_, here _ id, gone, fewer, rfl, rfl, rfl,
      fun _ => ⟨rfl, rfl⟩, fun pa e => by cases e⟩
    simp only [State.acknowledge, hg, hf, hp, h rfl, Bool.false_eq_true, if_false]
  | some pa =>
    refine ⟨fun h => (nomatch h), fun _ => ?_⟩
    cases hok : ok && s.linked with
    | true =>
      refine ⟨s.setGroup { g with acks := g.acks.filter fun x => x.n != n }, _, ?_, here _ id, gone, fewer, rfl, rfl,
          rfl,
        fun _ => ⟨rfl, rfl⟩, fun pa _ e => by cases e⟩
      simp only [State.acknowledge, hg, hf, hp, hok, if_true]
    | false =>
      obtain ⟨j, x, y, z, e⟩ := (s.setGroup (g.loseStore a)).journalAdd_only 5 0 7 0 (BitVec.ofNat 64 pa)
      refine ⟨(s.setGroup (g.loseStore a)).journalPeer pa, g.loseStore a, ?_, ?_, ?_, ?_, ?_, rfl, rfl, ?_, ?_⟩
      · simp only [State.acknowledge, hg, hf, hp, hok, Bool.false_eq_true, if_false]
      · rw [State.journalPeer, e]
        exact here (g.loseStore a) id
      · simpa only [Group.loseStore, an] using gone
      · simpa only [Group.loseStore, an] using fewer
      · rw [State.journalPeer, e]
        rfl
      · rintro (h | h) <;> cases h
      · intro pa' same _
        cases same
        exact ⟨g.loseStore_lost a, State.journalPeer_journal s _ pa⟩

/-! ### FETCH and POST (R283, R284) -/

theorem Group.setBatches_slots (g : Group) (c : Cls) (b : Batches) : (g.setBatches c b).slots = g.slots := by
  cases c <;> rfl

theorem State.finishOp_mem (s : State) (n : Nat) (f : Option Failure) (fl : Flags) : (s.finishOp n f fl).mem =
    s.mem := by
  unfold State.finishOp
  split
  · rfl
  · dsimp only
    split <;> rfl

theorem State.op?_dropOp (s : State) (n : Nat) : (s.dropOp n).op? n = none := by
  refine List.find?_eq_none.2 fun o ho => ?_
  simpa using (List.mem_filter.1 ho).2

theorem State.op?_finishOp (s : State) (n : Nat) (f : Option Failure) (fl : Flags) : (s.finishOp n f fl).op? n =
    none := by
  unfold State.finishOp
  split
  · assumption
  · dsimp only
    split <;> exact s.op?_dropOp n

/-- The group of a number after a change of one group that keeps its number. -/
theorem State.group?_onGroup (s : State) (k m : GroupId) (f : Group → Group) (hf : ∀ g, (f g).id = g.id) :
    (s.onGroup k f).group? m = (s.group? m).map fun g => if g.id = k then f g else g := by
  have e : (fun g : Group => (if g.id = k then f g else g).id == m) = fun g => g.id == m := by
    funext g
    split
    · rw [hf]
    · rfl
  simp only [State.group?, State.onGroup, List.find?_map, Function.comp_def, e]

/-- A complete operation leaves the reply slots of its group as they are. -/
theorem State.slots_finishOp (s : State) (n : Nat) (fail : Option Failure) (fl : Flags) (k : GroupId) {x : Group}
    (hx : (s.finishOp n fail fl).group? k = some x) : ∃ y, s.group? k = some y ∧ x.slots = y.slots := by
  unfold State.finishOp at hx
  split at hx
  · exact ⟨x, hx, rfl⟩
  · dsimp only at hx
    split at hx
    · exact ⟨x, hx, rfl⟩
    · rw [State.group?_onGroup _ _ _ _ fun g => by rw [Group.setBatches_id]] at hx
      obtain ⟨y, hy, rfl⟩ := Option.map_eq_some_iff.1 hx
      refine ⟨y, hy, ?_⟩
      split
      · rw [Group.setBatches_slots]
      · rfl

/-- The slot of a line transfer that is over is back. -/
theorem State.slots_endLine (s : State) (o : Op) (f : Option Failure) {x : Group}
    (hx : (s.endLine o f).group? o.gid = some x) : o.n ∉ x.slots := by
  obtain ⟨y, hy, e⟩ := State.slots_finishOp _ _ _ _ _ hx
  rw [State.group?_onGroup _ _ _ _ fun g => by rfl] at hy
  obtain ⟨z, hz, rfl⟩ := Option.map_eq_some_iff.1 hy
  rw [e, if_pos (State.group?_id hz)]
  simp

theorem State.endLine_mem (s : State) (o : Op) (f : Option Failure) : (s.endLine o f).mem = s.mem :=
    State.finishOp_mem _ _ _ _

theorem State.homeWrite_mem (s : State) (pa : Nat) (bs : List Byte) (obj : Bool) :
    (s.homeWrite pa bs obj).mem = (s.memWrite pa bs).mem := State.touch_mem _ _ _ _ _

theorem lineTransfersEnd_holds : Claims.LineTransfersEnd := by
  intro s n o ga pa la ho on turn held isLocal
  have fetch : exec (.fetchLineLanded n) s = .next (s.fetchLands n) := rfl
  have post : exec (.postAcknowledged n) s = .next (s.postDone n) := rfl
  refine ⟨fun hk clean => ?_, fun hk bad => ?_, fun hk good => ?_⟩
  · rw [fetch]
    simp [State.fetchLands, ho, hk, turn, held, State.lineRead, isLocal, clean]
  · refine ⟨_, ?_, State.journalPlace_mem s o.gid true (s.firstBad o.gid la 128)⟩
    rw [post]
    simp [State.postDone, ho, hk, turn, held, bad]
  · have e : s.postDone n = (s.homeWrite pa (s.localRead o.gid (.scratch la) 128) (s.opObj o ga)).endLine o none := by
      simp [State.postDone, ho, hk, turn, held, good, isLocal]
    have len : (s.localRead o.gid (.scratch la) 128).length = 128 := by simp [State.localRead]
    refine ⟨s.postDone n, post, ?_, ?_, ?_, ?_⟩
    · rw [e, ← on]
      exact State.op?_finishOp _ _ _ _
    · have mem : ∀ a, (s.postDone n).memGet a = (s.memWrite pa (s.localRead o.gid (.scratch la) 128)).memGet a := by
        intro a
        rw [e, State.memGet, State.endLine_mem, State.homeWrite_mem]
        rfl
      have h := (memoryHoldsWhatIsWritten s pa (s.localRead o.gid (.scratch la) 128)).1
      rw [len] at h
      rw [State.memRead, funext mem]
      exact h
    · intro a ha
      rw [e, State.memGet, State.endLine_mem, State.homeWrite_mem]
      exact State.memGet_memWrite_outside _ s pa a (by rwa [len])
    · intro g hg
      rw [e] at hg
      rw [← on]
      exact State.slots_endLine _ _ _ hg

/-- Settles O38: results, acknowledgements and line transfers land. -/
theorem resultsLand : Obligations.ResultsLand := ⟨resultsLand_holds, writeAcknowledged_holds, lineTransfersEnd_holds⟩

end Sys2Proof.Machine
end

section
/-! PROOFS. Barriers (O39). -/

namespace Sys2Proof.Machine

/-! ### What an arrival does -/

/-- An arrival with a count that does not fit is no arrival. -/
theorem badCount_iff (n members : Nat) (b : Barrier) :
    badCount n members b = true ↔ n = 0 ∨ members < n ∨ (b.count ≠ 0 ∧ b.count.toNat ≠ n) := by
  simp [badCount, or_assoc]

theorem arrive_last (s : State) (l : Launch) (g : Group) (k n : Nat) (b : Barrier) (h : b.arrived.toNat + 1 = n) :
    s.arrive l g k n b = ((s.setBarrier l g k ⟨b.gen + 1, 0, 0⟩).releaseWaiters l g k, b.gen, true) := if_pos h

theorem arrive_earlier (s : State) (l : Launch) (g : Group) (k n : Nat) (b : Barrier) (h : b.arrived.toNat + 1 ≠ n) :
    s.arrive l g k n b = (s.setBarrier l g k ⟨b.gen, b.arrived + 1, BitVec.ofNat 24 n⟩, b.gen, false) := if_neg h

/-- The bodies of BAR and BARA at a barrier that the launch has. -/
theorem barBody_of_barrier {o : YBar} {s : State} {g : Group} {l : Launch} {b : Barrier} {members : Nat}
    (hb : s.barrier l g o.bar.toNat = some (b, members)) :
    barBody o s g l = if badCount (countOf g o.n) members b then countTrap (countOf g o.n) b
      else
        let r := s.arrive l g o.bar.toNat (countOf g o.n) b
        .go r.1 (if r.2.2 then .next else .park (.barrier o.bar.toNat r.2.1.toNat)) [] := by
  simp only [barBody, hb]

theorem baraBody_of_barrier {o : YBara} {s : State} {g : Group} {l : Launch} {b : Barrier} {members : Nat}
    (hb : s.barrier l g o.bar.toNat = some (b, members)) :
    baraBody o s g l = if badCount (countOf g o.n) members b then countTrap (countOf g o.n) b
      else
        let r := s.arrive l g o.bar.toNat (countOf g o.n) b
        sendScalars r.1 g [(o.t.toNat, r.2.1.setWidth 64)] := by
  simp only [baraBody, hb]

theorem barwBody_of_barrier {o : YTok} {s : State} {g : Group} {l : Launch} {b : Barrier} {members : Nat}
    (hb : s.barrier l g o.bar.toNat = some (b, members)) :
    barwBody o s g l =
      .go s (if b.gen = (g.sreg o.t.toNat).setWidth 16 then .park (.barrier o.bar.toNat b.gen.toNat) else .next) [] :=
          by
  have e : (b.gen.toNat = (g.sreg o.t.toNat).toNat % 2 ^ 16) ↔ b.gen = (g.sreg o.t.toNat).setWidth 16 := by
    rw [← BitVec.toNat_inj, BitVec.toNat_setWidth]
  simp only [barwBody, hb]
  by_cases h : b.gen = (g.sreg o.t.toNat).setWidth 16
  · rw [if_pos h, if_pos (e.2 h), e.2 h]
  · rw [if_neg h, if_neg (mt e.1 h)]

theorem binitBody_of_barrier {o : YBar} {s : State} {g : Group} {l : Launch} {b : Barrier} {members : Nat}
    (hb : s.barrier l g o.bar.toNat = some (b, members)) :
    binitBody o s g l = if members < countOf g o.n then countTrap (countOf g o.n) b
      else if s.groups.any fun x => sameBarrier l g.id x.id o.bar.toNat && x.waitsAt o.bar.toNat then
        .trap Cause.barrierBusy (BitVec.ofNat 64 o.bar.toNat)
      else .go (s.setBarrier l g o.bar.toNat ⟨b.gen, 0, BitVec.ofNat 24 (countOf g o.n)⟩) .next [] := by
  simp only [binitBody, hb]

theorem barrierInstructionsComplete_holds : Claims.BarrierInstructionsComplete := by
  intro s g l hdr j hw k b members hb done
  refine ⟨?_, ?_, ?_, ?_, ?_⟩
  · rintro o rfl good ac
    refine ⟨fun h => exec_go rfl ac ?_, fun h => exec_go rfl ac ?_⟩
    · rw [barBody_of_barrier hb, if_neg (ne_true_of_eq_false good), arrive_last _ _ _ _ _ _ h]
      rfl
    · rw [barBody_of_barrier hb, if_neg (ne_true_of_eq_false good), arrive_earlier _ _ _ _ _ _ h]
      rfl
  · rintro o rfl good ac
    refine ⟨fun h => exec_go rfl ac ?_, fun h => exec_go rfl ac ?_⟩
    · rw [baraBody_of_barrier hb, if_neg (ne_true_of_eq_false good), arrive_last _ _ _ _ _ _ h]
      rfl
    · rw [baraBody_of_barrier hb, if_neg (ne_true_of_eq_false good), arrive_earlier _ _ _ _ _ _ h]
      rfl
  · rintro o rfl ac
    refine ⟨fun h => exec_go rfl ac ?_, fun h => exec_go rfl ac ?_⟩
    · rw [barwBody_of_barrier hb, if_pos h]
    · rw [barwBody_of_barrier hb, if_neg h]
  · rintro o rfl ac
    refine exec_go (body := barqBody o) rfl ac ?_
    simp only [barqBody, hb]
    rfl
  · rintro o rfl fits free ac
    have none : ¬ (s.groups.any fun x => sameBarrier l g.id x.id o.bar.toNat && x.waitsAt o.bar.toNat) = true := by
      intro h
      obtain ⟨x, hx, w⟩ := List.any_eq_true.1 h
      exact free x hx (by simpa using w)
    refine exec_go rfl ac ?_
    rw [binitBody_of_barrier hb, if_neg (Nat.not_lt.2 fits), if_neg none]

/-! ### The release -/

theorem State.team?_onTeam_self (s : State) (lid n : Nat) (f : Team → Team) {l : Launch} {t : Team}
    (hl : s.launch? lid = some l) (ht : s.team? lid n = some t) (hf : ∀ x, (f x).num = x.num) :
    (s.onTeam lid n f).team? lid n = some (f t) := by
  have htl : l.teams.find? (fun x => x.num == n) = some t := by
    rw [State.team?, hl] at ht
    exact ht
  have num : t.num = n := by simpa using List.find?_some htl
  have e : (fun x : Team => (if x.num = n then f x else x).num == n) = fun x => x.num == n := by
    funext x
    split
    · rw [hf]
    · rfl
  rw [State.team?, State.onTeam, State.launch?_onLaunch_self _ _ _ _ hl fun _ => by rfl]
  simp [List.find?_map, e, htl, num]

theorem lastArrivalReleasesEveryWaiter_holds : Claims.LastArrivalReleasesEveryWaiter := by
  intro s g l k
  refine ⟨?_, ?_, rfl, ?_⟩
  · rintro x hx ⟨same, waits⟩
    obtain ⟨y, -, rfl⟩ := List.mem_map.1 hx
    split at waits
    · cases waits
    · next h =>
      rw [if_neg h] at same
      exact h (by rw [same, waits]; rfl)
  · intro i x hx no
    simp only [State.releaseWaiters, List.getElem?_map, hx, Option.map_some, no, Bool.false_eq_true, if_false]
  · intro b tm hk wave hl ht
    have := State.team?_onTeam_self s l.lid (teamOf g.id)
        (fun t => { t with bars := Sparse.set Barrier.zero t.bars k b })
      hl ht fun _ => by rfl
    simp [State.setBarrier, State.barrier, hk, wave, this, Sparse.get_set_self]

/-! ### The traps of a count (R363) -/

theorem barrierCountTraps_holds : Claims.BarrierCountTraps := by
  intro o s g l hdr j hw n
  refine ⟨?_, ?_, ?_⟩
  · intro b members hb bad out
    have bad' : badCount n members b = true := (badCount_iff _ _ _).2 bad
    refine ⟨fun ac => exec_trap rfl ac ?_, fun a same count ac => exec_trap rfl ac ?_⟩
    · rw [barBody_of_barrier hb, if_pos bad']
      rfl
    · rw [← same] at hb
      rw [baraBody_of_barrier hb, count, if_pos bad']
      rfl
  · intro b members hb ac
    refine ⟨fun h => exec_trap rfl ac ?_, fun fits ⟨x, hx, same, waits⟩ => exec_trap rfl ac ?_⟩
    · rw [binitBody_of_barrier hb, if_pos h]
      rfl
    · have busy : (s.groups.any fun x => sameBarrier l g.id x.id o.bar.toNat && x.waitsAt o.bar.toNat) = true :=
        List.any_eq_true.2 ⟨x, hx, by rw [same, waits]; rfl⟩
      rw [binitBody_of_barrier hb, if_neg (Nat.not_lt.2 fits), if_pos busy]
  · intro hb out
    refine ⟨fun ac => exec_trap (body := barBody o) rfl ac ?_, fun ac => exec_trap (body := binitBody o) rfl ac ?_,
      fun a same ac => exec_trap (body := baraBody a) rfl ac ?_, fun a same ac => exec_trap (body := barwBody a) rfl
          ac ?_,
      fun a same ac => exec_trap (body := barqBody a) rfl ac ?_⟩
    · simp only [barBody, hb]; rfl
    · simp only [binitBody, hb]; rfl
    · simp only [baraBody, same, hb]; rfl
    · simp only [barwBody, same, hb]; rfl
    · simp only [barqBody, same, hb]; rfl

/-- Settles O39: the barrier instructions complete, release and trap. -/
theorem barriers : Obligations.Barriers :=
  ⟨barrierInstructionsComplete_holds, lastArrivalReleasesEveryWaiter_holds, barrierCountTraps_holds⟩

end Sys2Proof.Machine
end

section
/-! PROOFS. Combinable objects: registration, requests, acceptance and replies (O40). -/

namespace Sys2Proof.Machine

/-! ### Translations that no write of memory changes -/

theorem State.memWrite_cases (s : State) (pa : Nat) (bs : List Byte) : ∃ m, s.memWrite pa bs = { s with mem := m } :=
  ⟨(s.memWrite pa bs).mem, congrArg (fun t : State => { t with mem := (s.memWrite pa bs).mem })
      (State.memWrite_mem_only bs s pa)⟩

/-- A write at the home changes memory, poison and what the levels below hold. -/
theorem State.homeWrite_cases (s : State) (pa : Nat) (bs : List Byte) (obj : Bool) :
    ∃ m q x, s.homeWrite pa bs obj = { s with mem := m, poison := q, sectors := x } := by
  obtain ⟨m, hm⟩ := s.memWrite_cases pa bs
  obtain ⟨x, hx⟩ := ((s.memWrite pa bs).clearPoison pa bs.length).touch_cases (State.span pa bs.length) obj true 2
  refine ⟨m, ((s.memWrite pa bs).clearPoison pa bs.length).poison, x, ?_⟩
  rw [State.homeWrite, hx, State.clearPoison, State.mend, hm]

/-- What translations depend on, at a core: its TLBs and, without tables, the part's number. -/
theorem State.known_of_core {s t : State} (tlb : t.tlb = s.tlb) (root : t.troot = s.troot)
    (part : t.partNum = s.partNum)
    {u : Nat} (hu : u < 1024) (va : Nat) : t.known u va = s.known u va := by
  have find : t.tlbFind u va = s.tlbFind u va := by simp only [State.tlbFind, State.tlbOf, tlb]
  have walking : t.walking = s.walking := by simp only [State.walking, root]
  have pte : t.identityPte va = s.identityPte va := by simp only [State.identityPte, State.ownPart, part]
  cases w : s.walking with
  | true => simp only [State.known, find, walking, w, hu, decide_true, Bool.true_or, Bool.and_self, if_true]
  | false =>
    have walk : t.walk va = s.walk va := by
      simp only [State.walk, walking, w, pte, Bool.not_false, if_true]
    simp only [State.known, find, walking, w, walk, Bool.false_and, Bool.false_eq_true, if_false]

/-! ### Registration (R370, R371, R380) -/

theorem State.isPeer_of_isOwn {s : State} {pa : Nat} (h : s.isOwn pa = true) : s.isPeer pa = false := by
  simp only [State.isOwn, Bool.and_eq_true, Bool.not_eq_true'] at h
  exact h.1

/-- The home slice of an object that may be registered. -/
theorem State.homeOf_of_object {s : State} {u : Nat} {x : Obj} {t : Tlb} (hk : s.known u x.addr = some t)
    (h : s.notObject u x = false) :
    s.homeOf u x.addr = some (towerOfPa (t.phys x.addr), sliceOf (t.phys x.addr) (pteObj t.pte)) := by
  have own : s.isOwn (t.phys x.addr) = true := by
    simp only [State.notObject, hk, Bool.or_eq_false_iff, Bool.not_eq_false'] at h
    exact h.1.2
  simp only [State.homeOf, hk, State.isPeer_of_isOwn own, Bool.false_eq_true, if_false]

/-- OBJREG once its descriptor has been read and nothing refuses it. -/
theorem register_of_good {o : YObj} {s : State} {g : Group} {l : Launch} {d : Nat} {t : Tlb} (hc : g.core < 1024)
    (good : descBad d = false) (hk : s.known g.core (descObj d).addr = some t)
    (obj : s.notObject g.core (descObj d) = false) (new : s.registered (descObj d).addr = false)
    (room : l.objects.length < 4096) :
    let s1 := s.release g.core
    let s2 := if descField d 20 1 = 1 then
      s1.homeWrite (t.phys (descObj d).addr) (List.replicate (descObj d).size 0) true else s1
    let home := (towerOfPa (t.phys (descObj d).addr), sliceOf (t.phys (descObj d).addr) (pteObj t.pte))
    register o s g l d = sendStatus (s2.onLaunch l.lid fun y =>
      { y with objects := y.objects ++ [{ descObj d with home := home }] }) g o.s 0 := by
  intro s1 s2 home
  obtain ⟨m, c, q, x, rel⟩ := s.writeBack_cases g.core fun _ => true
  have e1 : s1 = { s with mem := m, l1 := c, poison := q, sectors := x } := rel
  have frame1 : s1.tlb = s.tlb ∧ s1.troot = s.troot ∧ s1.partNum = s.partNum := by
    rw [e1]
    exact ⟨rfl, rfl, rfl⟩
  have frame2 : s2.tlb = s.tlb ∧ s2.troot = s.troot ∧ s2.partNum = s.partNum := by
    simp only [s2]
    split
    · obtain ⟨m', q', x', w⟩ := s1.homeWrite_cases (t.phys (descObj d).addr) (List.replicate (descObj d).size 0) true
      rw [w]
      exact frame1
    · exact frame1
  have k1 : s1.known g.core (descObj d).addr = some t := by
    rw [← hk]
    exact State.known_of_core frame1.1 frame1.2.1 frame1.2.2 hc _
  have k2 : s2.known g.core (descObj d).addr = some t := by
    rw [← hk]
    exact State.known_of_core frame2.1 frame2.2.1 frame2.2.2 hc _
  have h2 : s2.homeOf g.core (descObj d).addr = some home := by
    have peer : s2.isPeer (t.phys (descObj d).addr) = s.isPeer (t.phys (descObj d).addr) := by
      simp only [State.isPeer, State.ownPart, frame2.2.2]
    have h := State.homeOf_of_object hk obj
    simp only [State.homeOf, hk] at h
    simp only [State.homeOf, k2, peer, h]
    rfl
  have k1' : (s.release g.core).known g.core (descObj d).addr = some t := k1
  have h2' := h2
  simp only [s2, s1] at h2'
  simp only [register, good, hk, obj, new, Nat.not_le.2 room, k1', h2', Option.isNone_some, Bool.false_eq_true,
      if_false]
  rfl

/-- An object instruction that answers a status is an instruction that sends one scalar. -/
theorem exec_of_sendStatus {i : Instr} {h : Head} {b : Body} (hb : bodyOf i = some (h, b)) {s t : State} {g : Group}
    {l : Launch} {hdr j : Nat} {hw : Word} (ac : Acts i h s g l hdr j hw) {r : BitVec 6} {v : Nat}
    (e : b s g l = sendStatus t g r v) :
    exec i s = .next (issued i h s g l hdr j hw
      (t.addPend g .scalar [] [r.toNat] [] [(r.toNat, BitVec.ofNat 64 v)] 0 none)) := exec_go hb ac e

theorem objectInstructionsComplete_holds : Claims.ObjectInstructionsComplete := by
  intro o s g l hdr j hw va answers
  refine ⟨?_, ?_, ?_⟩
  · intro s0 s' bs t ac hc checked p read hs good x hk obj new room s1 s2 home
    refine exec_of_sendStatus (b := objregBody o) rfl ac ?_
    have e : objregBody o s g l = register o s' g l (ofBytes bs) := by
      have r1 : (s.gread g.core false (s.physOf g.core (g.sreg o.s.toNat).toNat).1 64
        (pteObj (s.physOf g.core (g.sreg o.s.toNat).toNat).2)) = (s0, some bs) := read
      simp only [objregBody, checked, r1, hs, va, p]
    rw [e]
    exact register_of_good hc good hk obj new room
  · intro ac wave
    refine ⟨fun h => exec_of_sendStatus (b := objdelBody o) rfl ac ?_,
      fun x h idle empty => exec_of_sendStatus (b := objdelBody o) rfl ac ?_⟩
    · simp only [objdelBody, wave, va] at h ⊢
      simp only [h, Bool.false_eq_true, if_false]
    · simp only [objdelBody, wave, va] at h ⊢
      simp [h, idle, empty]
  · intro ac
    refine ⟨fun h => exec_of_sendStatus (b := orelBody o) rfl ac ?_, fun x h held =>
      exec_of_sendStatus (b := orelBody o) rfl ac ?_, fun x h held => exec_of_sendStatus (b := orelBody o) rfl ac ?_⟩
    · simp only [orelBody, va] at h ⊢
      simp only [h]
    · simp only [orelBody, va] at h ⊢
      simp only [h, held, Bool.false_eq_true, if_false]
    · simp only [orelBody, va] at h ⊢
      simp only [h, held, if_true]

/-! ### Requests (R372, R374) -/

theorem ocallSendsItsRequests_holds : Claims.OcallSendsItsRequests := by
  intro o s g l hdr j hw ac wave rs fine
  have inSpace : rs.find? (fun r => decide (2 ^ 57 ≤ r.obj)) = none :=
    List.find?_eq_none.2 fun r hr => by
      have := (fine r hr).1
      simpa using this
  have translated : (rs.filter fun r => (s.known g.core r.obj).isNone) = [] :=
    List.filter_eq_nil_iff.2 fun r hr => by
      have := (fine r hr).2
      simpa [Option.isSome_iff_ne_none] using this
  have body : ocallBody o s g l = if rs.isEmpty then .go s .next []
      else if !s.callFits g rs then .wait .queueRoom
      else .go ((s.addOp g .cb (.ocall rs o.d.toNat [] (g.executing o.h))).onGroup g.id fun x => { x with
        pend := x.pend ++ [g.pendOf s.nextOp (.reply s.nextOp) (regsOf true o.d.toNat) [] [] [] 0 none] }) .next [] :=
            by
    simp only [rs] at inSpace translated ⊢
    simp only [ocallBody, wave, inSpace, translated, Bool.false_eq_true, if_false]
  have empty : rs.isEmpty = true ↔ g.executing o.h = [] := by
    simp only [rs, requestsOf, List.isEmpty_iff, List.map_eq_nil_iff]
  refine ⟨fun h => exec_go rfl ac ?_, fun h full => exec_wait rfl ac ?_, fun h fits => exec_go rfl ac ?_⟩
  · rw [body, if_pos (empty.2 h)]
  · rw [body, if_neg (mt empty.1 h), full]
    rfl
  · rw [body, if_neg (mt empty.1 h), fits]
    rfl

/-! ### Acceptance and replies (R373, R374) -/

/-- The object of an address after a change of it that keeps its address. -/
theorem State.object?_onObject (s : State) (lid addr : Nat) (f : Obj → Obj) {y : Obj} (h : s.object? lid addr = some y)
    (hf : ∀ x, (f x).addr = x.addr) : (s.onObject lid addr f).object? lid addr = some (f y) := by
  obtain ⟨l, hl, hy⟩ := Option.bind_eq_some_iff.1 h
  have at_ : y.addr = addr := by simpa using List.find?_some hy
  have e : (fun x : Obj => (if x.addr = addr then f x else x).addr == addr) = fun x => x.addr == addr := by
    funext x
    split
    · rw [hf]
    · rfl
  rw [State.object?, State.onObject, State.launch?_onLaunch_self _ _ _ _ hl fun _ => by rfl]
  simp [List.find?_map, e, hy, at_]

theorem ocallRequestAccept_takes {s : State} {n : Nat} {o : Op} {r : Request} {rest : List Request} {d : Nat}
    {coming : List (Nat × Lane × Nat)} {w : List Nat} (ho : s.op? n = some o)
        (hk : o.kind = .ocall (r :: rest) d coming w)
    (first : ∀ p ∈ s.ops, p.gid = o.gid → p.n < n → ∀ a b c e, p.kind = .ocall a b c e → ∀ x ∈ a, x.obj ≠ r.obj) :
    let block := (r :: rest).filter fun x => x.obj == r.obj
    let s1 := s.onOp n fun p => { p with kind := .ocall ((r :: rest).filter fun x => x.obj != r.obj) d coming w }
    exec (.ocallRequestAccept n) s = .next (match s.object? (lidOf o.gid) r.obj with
      | none => block.foldl (fun s x => s.answer x 0 3) s1
      | some y => if y.held then block.foldl (fun s x => s.answer x 0 1) s1
        else s1.onObject (lidOf o.gid) r.obj fun y => { y with queue := y.queue ++ block }) := by
  intro block s1
  have run : exec (.ocallRequestAccept n) s = .next (s.acceptCall n) := rfl
  have none : ¬ (s.ops.any fun p => decide (p.gid = o.gid ∧ p.n < n) && match p.kind with
      | .ocall sent _ _ _ => sent.any fun x => x.obj == r.obj
      | _ => false) = true := by
    intro h
    obtain ⟨p, hp, c⟩ := List.any_eq_true.1 h
    obtain ⟨c1, c2⟩ := Bool.and_eq_true_iff.1 c
    obtain ⟨same, older⟩ := of_decide_eq_true c1
    split at c2
    · next a b c e hk' =>
      obtain ⟨x, hx, eq⟩ := List.any_eq_true.1 c2
      exact first p hp same older a b c e hk' x hx (by simpa using eq)
    · cases c2
  rw [run, State.acceptCall]
  simp only [ho, hk]
  exact congrArg Host.Outcome.next ((if_neg none).trans rfl)

theorem State.op?_onOp (s : State) (n m : Nat) (f : Op → Op) (hf : ∀ o, (f o).n = o.n) :
    (s.onOp n f).op? m = (s.op? m).map fun o => if o.n = n then f o else o := by
  have e : (fun o : Op => (if o.n = n then f o else o).n == m) = fun o => o.n == m := by
    funext o
    split
    · rw [hf]
    · rfl
  simp only [State.op?, State.onOp, List.find?_map, Function.comp_def, e]

theorem State.finishOp_groups_other (s : State) (n : Nat) (fail : Option Failure) (fl : Flags) (k : GroupId) :
    ∃ q : Group → Group, (∀ x, (q x).vregs = x.vregs ∧ (q x).pend = x.pend ∧ (q x).id = x.id) ∧
      (s.finishOp n fail fl).group? k = (s.group? k).map q := by
  unfold State.finishOp
  split
  · exact ⟨fun x => x, fun _ => ⟨rfl, rfl, rfl⟩, Option.map_id'.symm⟩
  · dsimp only
    split
    · exact ⟨fun x => x, fun _ => ⟨rfl, rfl, rfl⟩, Option.map_id'.symm⟩
    · next o _ _ c _ =>
      refine ⟨fun x => if x.id = o.gid then x.setBatches c ((x.batches c).finish n fail fl) else x, fun x => ?_, ?_⟩
      · by_cases h : x.id = o.gid
        · simp only [if_pos h]
          cases c <;> exact ⟨rfl, rfl, rfl⟩
        · simp only [if_neg h, and_self]
      · exact State.group?_onGroup _ _ _ _ fun g => by rw [Group.setBatches_id]

/-- What a reply does to the registers of its group (R373). -/
def Group.takeReply (g : Group) (d lane : Nat) (v : Lane) (st : Nat) : Group :=
  if (g.live.getLsbD lane && !g.halted) = true then
    g.writeAll [(vkey d lane, v), (vkey (d + 1) lane, BitVec.ofNat 32 st)]
  else g

theorem Group.takeReply_id (g : Group) (d lane : Nat) (v : Lane) (st : Nat) : (g.takeReply d lane v st).id = g.id := by
  unfold Group.takeReply
  split <;> rfl

theorem Group.takeReply_live {g : Group} {d lane : Nat} (v : Lane) (st : Nat) (running : g.halted = false)
    (live : g.live.getLsbD lane = true) :
    (g.takeReply d lane v st).fileV d lane = v ∧ (g.takeReply d lane v st).fileV (d + 1) lane = BitVec.ofNat 32 st := by
  have ne : vkey (d + 1) lane ≠ vkey d lane := by
    unfold vkey
    omega
  simp only [Group.takeReply, live, running, Bool.not_false, Bool.and_self, if_true, Group.fileV, Group.writeAll,
    Sparse.setAll, List.foldl]
  exact ⟨by rw [Sparse.get_set_other _ _ _ _ _ ne.symm, Sparse.get_set_self], by rw [Sparse.get_set_self]⟩

theorem requestsAreAcceptedAndAnswered_holds : Claims.RequestsAreAcceptedAndAnswered := by
  refine ⟨?_, ?_⟩
  · intro s n o r rest d coming w ho hk first block s1
    have run := ocallRequestAccept_takes ho hk first
    refine ⟨fun h => ?_, fun y h held => ?_, fun y h free => ?_⟩
    · rw [run, h]
    · rw [run, h]
      simp only [held, if_true]
      rfl
    · refine ⟨s1.onObject (lidOf o.gid) r.obj fun y => { y with queue := y.queue ++ block },
        { y with queue := y.queue ++ block }, ?_, ?_, rfl, rfl, rfl, rfl⟩
      · rw [run, h]
        simp only [free, Bool.false_eq_true, if_false]
        rfl
      · exact State.object?_onObject s1 (lidOf o.gid) r.obj _ h fun _ => rfl
  · intro s n lane o g sent d coming w v st ho hk hc hg running hl
    let w' := w.filter (· != lane)
    let s1 := s.onOp n fun p => { p with kind := .ocall sent d (coming.filter fun c => c.1 != lane) w' }
    let s2 := s1.onGroup o.gid fun g => g.takeReply d lane v st
    have g2 : s2.group? o.gid = some (g.takeReply d lane v st) :=
      State.group?_onGroup_self s1 o.gid _ g hg (by rw [Group.takeReply_id, State.group?_id hg])
    have run : exec (.ocallReply n lane) s = .next (if w'.isEmpty then (s2.finishOp n none).onGroup o.gid
        fun g => { g with pend := g.pend.filter fun p => p.kind != PendKind.reply n } else s2) := by
      have : exec (.ocallReply n lane) s = .next (s.landReply n lane) := rfl
      rw [this, State.landReply]
      simp only [ho, hk, hc]
      rfl
    have regs (y : Group) (hv : y.vregs = (g.takeReply d lane v st).vregs) :
        (g.live.getLsbD lane = true → y.fileV d lane = v ∧ y.fileV (d + 1) lane = BitVec.ofNat 32 st) ∧
        (g.live.getLsbD lane = false → y.vregs = g.vregs) := by
      refine ⟨fun live => ?_, fun dead => ?_⟩
      · simpa only [Group.fileV, hv] using Group.takeReply_live v st running live
      · simp only [hv, Group.takeReply, dead, Bool.false_and, Bool.false_eq_true, if_false]
    rw [run]
    by_cases last : w'.isEmpty = true
    · obtain ⟨q, hq, e⟩ := State.finishOp_groups_other s2 n none 0 o.gid
      rw [g2] at e
      obtain ⟨vr, -, id⟩ := hq (g.takeReply d lane v st)
      have g3 := State.group?_onGroup_self (s2.finishOp n none) o.gid
        (fun g => { g with pend := g.pend.filter fun p => p.kind != PendKind.reply n }) _ e
        (by change (q _).id = _; rw [id, Group.takeReply_id, State.group?_id hg])
      obtain ⟨r1, r2⟩ := regs { q (g.takeReply d lane v st) with
        pend := (q (g.takeReply d lane v st)).pend.filter fun p => p.kind != PendKind.reply n } vr
      rw [if_pos last]
      refine ⟨_, _, rfl, g3, State.finishOp_mem _ _ _ _, r1, r2, fun _ => ⟨State.op?_finishOp _ _ _ _, fun p hp => ?_⟩⟩
      exact bne_iff_ne.1 (List.mem_filter.1 hp).2
    · obtain ⟨r1, r2⟩ := regs (g.takeReply d lane v st) rfl
      rw [if_neg last]
      refine ⟨s2, _, rfl, g2, rfl, r1, r2, fun all => absurd ?_ last⟩
      simpa [w', List.isEmpty_iff, List.filter_eq_nil_iff] using all

/-- Settles O40: registration, requests, and their answers. -/
theorem objects : Obligations.Objects :=
  ⟨objectInstructionsComplete_holds, ocallSendsItsRequests_holds, requestsAreAcceptedAndAnswered_holds⟩

end Sys2Proof.Machine
end

section
/-! PROOFS. Waves (O41): the start of a wave, whose window makes its core's L1 give up lines, is refuted for an L1 that
is not in canonical form. Such an L1 holds one byte twice, dirty both times: the core sees the first cell, and the
write-back leaves the second in memory. -/

namespace Sys2Proof.Machine

/-! ### An L1 with one line too many, whose last byte stands there twice -/

/-- The two cells of the first byte of a line. -/
def twiceCells (n : Nat) : Sparse (Option Cached) :=
  [(n * 128, some ⟨1, true, false, false⟩), (n * 128, some ⟨2, true, false, false⟩)]

/-- `n` lines without a byte, and after them the two cells of the next line. -/
def crowdedL1 (n : Nat) : Sparse (Option Cached) := (List.range n).map (fun k => (k * 128, none)) ++ twiceCells n

theorem Sparse.get_append_of_ne {α : Type} (d : α) (l m : Sparse α) (k : Nat) (h : ∀ p ∈ l, p.1 ≠ k) :
    Sparse.get d (l ++ m) k = Sparse.get d m k := by
  induction l with
  | nil => rfl
  | cons p t ih =>
    have hp := h p List.mem_cons_self
    simp only [List.cons_append, Sparse.get, if_neg hp.symm]
    exact ih fun q hq => h q (List.mem_cons_of_mem _ hq)

/-- What the core sees of the byte: the first cell. -/
theorem l1Get_crowded {s : State} {c n : Nat} (h : s.l1Of c = crowdedL1 n) : s.l1Get c (n * 128) = 1 := by
  have e : Sparse.get none (crowdedL1 n) (n * 128) = some ⟨1, true, false, false⟩ := by
    rw [crowdedL1, Sparse.get_append_of_ne]
    · simp [twiceCells, Sparse.get]
    · intro p hp
      obtain ⟨k, hk, rfl⟩ := List.mem_map.1 hp
      have := List.mem_range.1 hk
      change k * 128 ≠ n * 128
      omega
  simp only [State.l1Get, h, e]

theorem once_range' (n : Nat) : ∀ a, once (List.range' a n ++ [a + n, a + n]) = List.range' a (n + 1) := by
  induction n with
  | zero => intro a; simp [once]
  | succ n ih =>
    intro a
    have h := ih (a + 1)
    rw [show a + 1 + n = a + (n + 1) from by omega] at h
    rw [List.range'_succ (n := n + 1), ← h]
    cases n with
    | zero => simp [once]
    | succ m => simp [List.range'_succ, once]

theorem l1Lines_crowded {s : State} {c n : Nat} (h : s.l1Of c = crowdedL1 n) : s.l1Lines c = List.range' 0 (n + 1) := by
  have e : (crowdedL1 n).map (fun x => x.1 / 128) = List.range' 0 n ++ [0 + n, 0 + n] := by
    rw [crowdedL1, List.map_append, List.map_map, List.range_eq_range']
    congr 1
    · exact (List.map_congr_left fun k _ => Nat.mul_div_cancel k (by decide)).trans (List.map_id _)
    · simp [twiceCells]
  rw [State.l1Lines, h, e, once_range']

/-- The line that the byte lies in does not fit. -/
theorem crowded_given_up {s : State} {c n : Nat} (h : s.l1Of c = crowdedL1 n) (full : 32768 ≤ n) :
    ((s.l1Lines c).drop (s.l1Size c)).contains (n * 128 / 128) = true := by
  have size : s.l1Size c ≤ 32768 := by
    unfold State.l1Size
    omega
  rw [l1Lines_crowded h, List.contains_iff_mem, List.drop_range', List.mem_range'_1]
  omega

theorem filterMap_of_none {α : Type} (f : Nat × Option Cached → Option α) (hf : ∀ k, f (k, none) = none)
    (l : List Nat) :
    (l.map fun k => ((k * 128, none) : Nat × Option Cached)).filterMap f = [] := by
  rw [List.filterMap_eq_nil_iff]
  intro q hq
  obtain ⟨k, -, rfl⟩ := List.mem_map.1 hq
  exact hf _

theorem dirtyBytes_crowded {s : State} {c n : Nat} (h : s.l1Of c = crowdedL1 n) {p : Nat → Bool}
    (hp : p (n * 128) = true) : s.dirtyBytes c p = [(n * 128, 1), (n * 128, 2)] := by
  rw [State.dirtyBytes, h, crowdedL1, List.filterMap_append, filterMap_of_none _ fun _ => rfl]
  simp [twiceCells, hp]

/-- What the write-back leaves in memory: the second cell. -/
theorem memGet_fitL1_crowded {s : State} {c n : Nat} (h : s.l1Of c = crowdedL1 n) (full : 32768 ≤ n) :
    (s.fitL1 c).memGet (n * 128) = 2 := by
  have given := crowded_given_up h full
  have some_ : ¬ ((s.l1Lines c).drop (s.l1Size c)).isEmpty = true := by
    intro e
    rw [List.isEmpty_iff.1 e] at given
    cases given
  have e : (s.fitL1 c).mem = Sparse.setAll Config.emptyByte s.mem
      (s.dirtyBytes c fun k => ((s.l1Lines c).drop (s.l1Size c)).contains (k / 128)) := by
    rw [State.fitL1]
    dsimp only
    rw [if_neg some_]
    rfl
  rw [State.memGet, e, dirtyBytes_crowded h given]
  simp only [Sparse.setAll, List.foldl]
  exact Sparse.get_set_self _ _ _ _

/-! ### A wave that starts on that core -/

/-- An object with one request, of a launch without teams. -/
def waitingObj : Obj := ⟨64, (0, 0), 64, probeBase, 4, 32, 0, [⟨7, .member 0 0 0, 0, 64, some (0, 0), 1, 2, 0⟩], none,
    false⟩

def waveLaunch : Launch := { probeLaunch with teams := [], objects := [waitingObj] }

/-- The part with that launch, its first core's L1 being crowded. -/
def crowdedPart (n : Nat) : State := { State.reset with launches := [waveLaunch], l1 := [(0, crowdedL1 n)] }

theorem crowdedPart_waveCore (n : Nat) : (crowdedPart n).waveCore 0 4 = some 0 := by
  change { State.reset with launches := [waveLaunch] }.waveCore 0 4 = some 0
  decide +kernel

theorem crowdedPart_object (n : Nat) : (crowdedPart n).object? 0 64 = some waitingObj := by
  change { State.reset with launches := [waveLaunch] }.object? 0 64 = some waitingObj
  decide +kernel

theorem crowdedPart_launch (n : Nat) : (crowdedPart n).launch? 0 = some waveLaunch := by
  change { State.reset with launches := [waveLaunch] }.launch? 0 = some waveLaunch
  decide +kernel

/-- The part once the wave has its group, before the L1 of its core gives up lines. -/
theorem crowdedPart_starts (n : Nat) : ∃ t : State, t.l1Of 0 = crowdedL1 n ∧
    exec (.waveStart 0 64) (crowdedPart n) = .next (t.fitL1 0) := by
  have run : exec (.waveStart 0 64) (crowdedPart n) = .next ((crowdedPart n).waveStart 0 64) := rfl
  have whole : waveLaunch.savedWhole = false := by decide +kernel
  have new : ((crowdedPart n).group? (.wave 0 64)).isSome = false := rfl
  have place : (crowdedPart n).waveCore (waitingObj.home.1 * 32 + waitingObj.home.2) waitingObj.win = some 0 :=
    crowdedPart_waveCore n
  rw [run, State.waveStart]
  simp only [crowdedPart_object, crowdedPart_launch, new, place, whole, Option.map_some, Option.getD_some]
  exact ⟨_, by rfl, rfl⟩

/-- Refutes O41: the core's L1 holds one byte in two dirty cells when it gives up a line for the window of the wave. -/
theorem not_waves : ¬ Obligations.Waves := by
  rintro ⟨starts, -⟩
  obtain ⟨t, g, z, run, -, -, -, -, -, -, -, -, -, -, -, -, -, -, -, -, -, seen⟩ :=
    starts (crowdedPart 32768) 0 64 0 waitingObj waveLaunch (crowdedPart_object _) (crowdedPart_launch _)
      (by decide +kernel) rfl rfl (by decide) rfl (crowdedPart_waveCore _)
  obtain ⟨u, cells, e⟩ := crowdedPart_starts 32768
  rw [e] at run
  have at_ := seen (32768 * 128)
  have l1 : (crowdedPart 32768).l1Of 0 = crowdedL1 32768 := rfl
  have two : t.memGet (32768 * 128) = 2 := by
    cases run
    exact memGet_fitL1_crowded cells (Nat.le_refl _)
  rw [two, l1Get_crowded l1] at at_
  rcases at_ with h | h
  · exact absurd h (by decide)
  · exact absurd h (by decide)

end Sys2Proof.Machine
end

section
/-! PROOFS. Traps and halts (O42, O43, O44). -/

namespace Sys2Proof.Machine

/-! ### What the end of a group does to the other groups (R222, R330, R387) -/

/-- A group that keeps what a halt leaves in it: its masks, its trap registers, and that it is halted; and its place and
registers. -/
structure Group.SameTrap (g y : Group) : Prop where
  id : y.id = g.id
  halted : y.halted = g.halted
  live : y.live = g.live
  em : y.em = g.em
  active : y.active = g.active
  cause : y.cause = g.cause
  epc : y.epc = g.epc
  tval : y.tval = g.tval
  core : y.core = g.core
  resident : y.resident = g.resident
  n : y.n = g.n
  vregs : y.vregs = g.vregs
  sregs : y.sregs = g.sregs

theorem Group.SameTrap.rfl' {g : Group} : g.SameTrap g :=
    ⟨rfl, rfl, rfl, rfl, rfl, rfl, rfl, rfl, rfl, rfl, rfl, rfl, rfl⟩

theorem Group.SameTrap.trans {a b c : Group} (h : a.SameTrap b) (k : b.SameTrap c) : a.SameTrap c :=
  ⟨k.id.trans h.id, k.halted.trans h.halted, k.live.trans h.live, k.em.trans h.em, k.active.trans h.active,
    k.cause.trans h.cause, k.epc.trans h.epc, k.tval.trans h.tval, k.core.trans h.core,
    k.resident.trans h.resident, k.n.trans h.n, k.vregs.trans h.vregs, k.sregs.trans h.sregs⟩

/-- A change that concerns rendezvous, waits and results under way: launches, memory and every L1 stay, and every group
keeps what a halt leaves. -/
structure State.Unbinds (s t : State) : Prop where
  launches : t.launches = s.launches
  mem : t.mem = s.mem
  l1 : t.l1 = s.l1
  groups : ∃ q : Group → Group, t.groups = s.groups.map q ∧ ∀ g : Group, g.SameTrap (q g)

theorem State.Unbinds.of_groups {s t : State} (hl : t.launches = s.launches) (hm : t.mem = s.mem) (h1 : t.l1 = s.l1)
    (hg : t.groups = s.groups) : s.Unbinds t :=
  ⟨hl, hm, h1, fun g => g, by rw [hg, List.map_id'], fun _ => Group.SameTrap.rfl'⟩

theorem State.Unbinds.refl (s : State) : s.Unbinds s := .of_groups rfl rfl rfl rfl

theorem State.Unbinds.trans {a b c : State} (h : a.Unbinds b) (k : b.Unbinds c) : a.Unbinds c := by
  obtain ⟨p, hp, kp⟩ := h.groups
  obtain ⟨q, hq, kq⟩ := k.groups
  exact ⟨k.launches.trans h.launches, k.mem.trans h.mem, k.l1.trans h.l1, fun g => q (p g),
    by rw [hq, hp, List.map_map]; rfl, fun g => (kp g).trans (kq _)⟩

theorem State.Unbinds.foldl {α : Type} {f : State → α → State} (h : ∀ (s : State) x, s.Unbinds (f s x)) (l : List α) :
    ∀ s : State, s.Unbinds (l.foldl f s) := by
  induction l with
  | nil => exact fun s => .refl s
  | cons x l ih => exact fun s => (h s x).trans (ih _)

/-- A change of the groups alone, each keeping what a halt leaves. -/
theorem State.Unbinds.of_map {s t : State} {q : Group → Group} (e : t = { s with groups := s.groups.map q })
    (h : ∀ g : Group, g.SameTrap (q g)) : s.Unbinds t := by
  subst e
  exact ⟨rfl, rfl, rfl, q, rfl, h⟩

theorem State.Unbinds.onGroup (s : State) (k : GroupId) {f : Group → Group} (h : ∀ g : Group, g.SameTrap (f g)) :
    s.Unbinds (s.onGroup k f) :=
  .of_map rfl fun g => by
    split
    · exact h g
    · exact Group.SameTrap.rfl'

/-- The group of a number afterwards. -/
theorem State.Unbinds.group? {s t : State} (h : s.Unbinds t) {k : GroupId} {g : Group} (hg : s.group? k = some g) :
    ∃ y, t.group? k = some y ∧ g.SameTrap y := by
  obtain ⟨q, hq, kq⟩ := h.groups
  have e : (fun x : Group => (q x).id == k) = fun x => x.id == k := by
    funext x
    rw [(kq x).id]
  refine ⟨q g, ?_, kq g⟩
  have hf : s.groups.find? (fun x => x.id == k) = some g := hg
  simp only [State.group?, hq, List.find?_map, Function.comp_def, e, hf, Option.map_some]

theorem State.Unbinds.launch? {s t : State} (h : s.Unbinds t) (k : Nat) : t.launch? k = s.launch? k := by
  rw [State.launch?, h.launches, State.launch?]

theorem Group.SameTrap.setBatches (g : Group) (c : Cls) (b : Batches) : g.SameTrap (g.setBatches c b) := by
  cases c <;> exact ⟨rfl, rfl, rfl, rfl, rfl, rfl, rfl, rfl, rfl, rfl, rfl, rfl, rfl⟩

theorem State.unbinds_finishOp (s : State) (n : Nat) (f : Option Failure) (fl : Flags) : s.Unbinds
    (s.finishOp n f fl) := by
  unfold State.finishOp
  split
  · exact .refl s
  · dsimp only
    split
    · exact .of_groups rfl rfl rfl rfl
    · exact (State.Unbinds.of_groups (s := s) (t := s.dropOp n) rfl rfl rfl rfl).trans
        (.onGroup _ _ fun g => Group.SameTrap.setBatches g _ _)

theorem State.unbinds_failMma (s : State) (a : Arrived) (f : Failure) : s.Unbinds (s.failMma a f) :=
  (s.unbinds_finishOp a.op (some f) 0).trans
    (.onGroup _ _ fun _ => ⟨rfl, rfl, rfl, rfl, rfl, rfl, rfl, rfl, rfl, rfl, rfl, rfl, rfl⟩)

theorem State.unbinds_handTile (s : State) (pod t : Nat) : s.Unbinds (s.handTile pod t) := by
  unfold State.handTile
  dsimp only
  split
  · split
    · exact .refl s
    · split
      · next g _ =>
        exact (State.Unbinds.of_groups (s := s)
          (t := s.setTile pod t { s.tile pod t with holder := .group g.id }) rfl rfl rfl rfl).trans
          (.onGroup _ _ fun _ => ⟨rfl, rfl, rfl, rfl, rfl, rfl, rfl, rfl, rfl, rfl, rfl, rfl, rfl⟩)
      · exact .refl s
  · exact .refl s

theorem State.unbinds_handTiles (s : State) (pod : Nat) : s.Unbinds (s.handTiles pod) :=
  .foldl (fun s t => s.unbinds_handTile pod t) _ s

theorem State.unbinds_withdrawLatch (s : State) (l : Latch) (cause : Nat) : s.Unbinds (s.withdrawLatch l cause) := by
  have h : s.Unbinds (l.arrived.foldl (fun s a => s.failMma a ⟨cause, BitVec.ofNat 64 a.addr⟩) s) :=
    .foldl (fun s a => s.unbinds_failMma a _) _ s
  unfold State.withdrawLatch
  dsimp only
  split
  · exact h.trans (State.unbinds_handTiles _ _)
  · exact h

theorem State.unbinds_breakGangs (s : State) (k : GroupId) : s.Unbinds (s.breakGangs k) := by
  cases k with
  | wave => exact .refl s
  | member lid t k =>
    unfold State.breakGangs
    dsimp only
    refine State.Unbinds.trans ?_ (.foldl (fun s l => s.unbinds_withdrawLatch l _) _ _)
    refine .foldl (fun s p => ?_) s.pods s
    exact .of_groups rfl rfl rfl rfl

theorem Group.SameTrap.failXswap (g : Group) : g.SameTrap g.failXswap := by
  unfold Group.failXswap
  split
  · exact Group.SameTrap.rfl'
  · exact ⟨rfl, rfl, rfl, rfl, rfl, rfl, rfl, rfl, rfl, rfl, rfl, rfl, rfl⟩

theorem State.unbinds_partnerGone (s : State) (k : GroupId) : s.Unbinds (s.partnerGone k) := by
  cases k with
  | wave => exact .refl s
  | member lid t k =>
    refine (s.unbinds_breakGangs (.member lid t k)).trans (.of_map rfl fun g => ?_)
    split
    · exact Group.SameTrap.failXswap g
    · exact Group.SameTrap.rfl'

theorem State.unbinds_stopGroups (s : State) (p : GroupId → Bool) : s.Unbinds (s.stopGroups p) :=
  .of_map rfl fun g => by
    split
    · exact ⟨rfl, rfl, rfl, rfl, rfl, rfl, rfl, rfl, rfl, rfl, rfl, rfl, rfl⟩
    · exact Group.SameTrap.rfl'

/-! ### A fatal fault (R387) -/

/-- The teams of a number in a launch, once it is faulted. -/
theorem State.team?_faulted (s : State) (lid t : Nat) {x : Team}
    (h : (s.onTeam lid t fun x => { x with faulted := true }).team? lid t = some x) : x.faulted = true := by
  obtain ⟨l, hl, hx⟩ := Option.bind_eq_some_iff.1 h
  have mem := List.mem_of_find?_eq_some hl
  have num : x.num = t := by simpa using List.find?_some hx
  have lid' : l.lid = lid := State.launch?_lid hl
  obtain ⟨l0, -, rfl⟩ := List.mem_map.1 mem
  by_cases c : l0.lid = lid
  · rw [if_pos c] at hx
    obtain ⟨x0, -, rfl⟩ := List.mem_map.1 (List.mem_of_find?_eq_some hx)
    by_cases d : x0.num = t
    · simp only [if_pos d]
    · rw [if_neg d] at num
      exact absurd num d
  · rw [if_neg c] at lid'
    exact absurd lid' c

/-- What an aborted launch is. -/
def Launch.aborted' (l : Launch) (cancelled : Bool) : Launch :=
  if l.aborted then l else
    { l with aborted := true, cancelled := cancelled, ended := l.teamCount - l.teams.length
             sentRanges := (l.teamCount + 63) / 64, ranges := [] }

theorem Launch.aborted'_aborted (l : Launch) (c : Bool) : (l.aborted' c).aborted = true := by
  unfold Launch.aborted'
  split
  · assumption
  · rfl

theorem Launch.aborted'_lid (l : Launch) (c : Bool) : (l.aborted' c).lid = l.lid := by
  unfold Launch.aborted'
  split <;> rfl

theorem Launch.aborted'_records (l : Launch) (c : Bool) : (l.aborted' c).records = l.records := by
  unfold Launch.aborted'
  split <;> rfl

theorem State.abortLaunch_unbinds (s : State) (lid : Nat) (c : Bool) :
    (s.onLaunch lid fun l => l.aborted' c).Unbinds (s.abortLaunch lid c) :=
  State.unbinds_stopGroups (s.onLaunch lid fun l => l.aborted' c) fun g => lidOf g == lid

/-- A change that leaves memory and every L1, and of every group what a halt leaves. -/
def State.SpareGroups (s t : State) : Prop :=
  t.mem = s.mem ∧ t.l1 = s.l1 ∧ ∃ q : Group → Group, t.groups = s.groups.map q ∧ ∀ g : Group, g.SameTrap (q g)

theorem State.Unbinds.spare {s s' t : State} (h : s'.Unbinds t) (hm : s'.mem = s.mem) (h1 : s'.l1 = s.l1)
    (hg : s'.groups = s.groups) : s.SpareGroups t := by
  obtain ⟨q, hq, k⟩ := h.groups
  exact ⟨h.mem.trans hm, h.l1.trans h1, q, by rw [hq, hg], k⟩

/-- The launch of a fatally faulted team, in two parts: it ends, or, under CONTF, the team alone. -/
theorem State.faultTeam_unbinds {s : State} {lid t : Nat} {l : Launch} (hl : s.launch? lid = some l) :
    ((l.contf = false ∨ l.runner = true) → (s.onLaunch lid fun l => l.aborted' false).Unbinds (s.faultTeam lid t)) ∧
    ((l.contf = true ∧ l.runner = false) → ((s.onLaunch lid fun l => { l with anyFault := true }).onTeam lid t
      fun x => { x with faulted := true }).Unbinds (s.faultTeam lid t)) := by
  unfold State.faultTeam
  simp only [hl]
  refine ⟨fun h => ?_, fun h => ?_⟩
  · rw [if_pos (by simpa using h)]
    exact State.abortLaunch_unbinds s lid false
  · rw [if_neg (by simp [h.1, h.2])]
    exact (State.Unbinds.foldl (fun s g => s.unbinds_partnerGone _) _ _).trans (State.unbinds_stopGroups _ _)

theorem State.faultTeam_spare (s : State) (lid t : Nat) : s.SpareGroups (s.faultTeam lid t) := by
  cases hl : s.launch? lid with
  | none =>
    have e : s.faultTeam lid t = s := by simp only [State.faultTeam, hl]
    rw [e]
    exact (State.Unbinds.refl s).spare rfl rfl rfl
  | some l =>
    obtain ⟨h1, h2⟩ := State.faultTeam_unbinds (t := t) hl
    by_cases c : l.contf = true ∧ l.runner = false
    · exact (h2 c).spare rfl rfl rfl
    · refine (h1 ?_).spare rfl rfl rfl
      cases hc : l.contf <;> cases hr : l.runner <;> simp_all

/-- What a fatal fault of a team leaves of its launch. -/
theorem State.faultTeam_launch {s : State} {lid t : Nat} {l : Launch} (hl : s.launch? lid = some l) :
    ∃ l', (s.faultTeam lid t).launch? lid = some l' ∧ l'.records = l.records ∧
      ((l.contf = false ∨ l.runner = true) → l'.aborted = true) ∧
      (l.contf = true → l.runner = false → l'.anyFault = true ∧
        ∀ x, (s.faultTeam lid t).team? lid t = some x → x.faulted = true) := by
  obtain ⟨h1, h2⟩ := State.faultTeam_unbinds (t := t) hl
  by_cases c : l.contf = true ∧ l.runner = false
  · have u := h2 c
    have e : (s.onLaunch lid fun l => { l with anyFault := true }).launch? lid = some { l with anyFault := true } :=
      State.launch?_onLaunch_self _ _ _ _ hl fun _ => rfl
    have e2 := State.launch?_onLaunch_self _ lid (fun l => { l with teams := l.teams.map fun x =>
      if x.num = t then { x with faulted := true } else x }) _ e fun _ => rfl
    refine ⟨_, (u.launch? lid).trans e2, rfl, ?_, fun _ _ => ⟨rfl, fun x hx => ?_⟩⟩
    · rintro (h | h)
      · rw [c.1] at h; cases h
      · rw [c.2] at h; cases h
    · rw [State.team?, u.launch? lid] at hx
      exact State.team?_faulted _ lid t hx
  · have ends : l.contf = false ∨ l.runner = true := by
      cases hc : l.contf <;> cases hr : l.runner <;> simp_all
    have u := h1 ends
    have e := State.launch?_onLaunch_self s lid (fun l => l.aborted' false) _ hl fun _ => Launch.aborted'_lid _ _
    exact ⟨_, (u.launch? lid).trans e, Launch.aborted'_records _ _, fun _ => Launch.aborted'_aborted _ _,
      fun h h' => absurd ⟨h, h'⟩ c⟩

/-! ### Halts (R387) -/

theorem State.SpareGroups.group? {s t : State} (h : s.SpareGroups t) {k : GroupId} {g : Group}
    (hg : s.group? k = some g) :
    ∃ y, t.group? k = some y ∧ g.SameTrap y := by
  obtain ⟨-, -, q, hq, kq⟩ := h
  have u : s.Unbinds { s with groups := s.groups.map q } := .of_map rfl kq
  obtain ⟨y, hy, k⟩ := u.group? hg
  exact ⟨y, by rw [State.group?, hq]; exact hy, k⟩

/-- The group as it halts. -/
def Group.halt (g : Group) : Group :=
  { g with halted := true, live := 0, em := 0, active := false, wait := none, pend := [], deferred := [], backlog :=
      [] }

/-- A halt in its two parts: the group halts and its partners learn of it; then its launch, or its object. -/
theorem State.haltGroup_eq {s : State} {k : GroupId} {g : Group} (hg : s.group? k = some g) (reason cause : Nat)
    (deferred : Bool) (epc tval : Word) (engine : Bool) :
    let s1 := (s.setGroup g.halt).partnerGone k
    let r := haltRecord g reason cause deferred engine epc tval
    s.haltGroup k reason cause deferred epc tval engine = match (generalizing := false) k with
      | .wave lid obj => s1.haltWave lid obj r
      | .member lid t _ => (s1.onLaunch lid fun l => { l with records := l.records ++ [r] }).faultTeam lid t := by
  simp only [State.haltGroup, hg]
  rfl

/-- A group of a team that halts leaves what R387 says. -/
theorem halted_haltGroup {s : State} {g : Group} {l : Launch} (hg : s.group? g.id = some g)
    (hl : s.launch? (lidOf g.id) = some l) (member : isWave g.id = false) (reason cause : Nat) (deferred : Bool)
    (epc tval : Word) (engine : Bool) :
    Claims.Halted (s.haltGroup g.id reason cause deferred epc tval engine) g l reason cause epc tval := by
  obtain ⟨lid, t, k, hid⟩ : ∃ lid t k, g.id = .member lid t k := by
    cases h : g.id with
    | member lid t k => exact ⟨lid, t, k, rfl⟩
    | wave => rw [h] at member; cases member
  let r := haltRecord g reason cause deferred engine epc tval
  let s1 := (s.setGroup g.halt).partnerGone g.id
  let s2 := s1.onLaunch lid fun l => { l with records := l.records ++ [r] }
  have e : s.haltGroup g.id reason cause deferred epc tval engine = s2.faultTeam lid t := by
    rw [State.haltGroup_eq hg]
    simp only [s2, s1]
    rw [hid]
  have lidEq : lidOf g.id = lid := by rw [hid]; rfl
  have teamEq : teamOf g.id = t := by rw [hid]; rfl
  have u1 : (s.setGroup g.halt).Unbinds s1 := State.unbinds_partnerGone _ _
  have g0 : (s.setGroup g.halt).group? g.id = some g.halt := State.group?_setGroup_self s g g.halt hg
  obtain ⟨y1, hy1, k1⟩ := u1.group? g0
  obtain ⟨y2, hy2, k2⟩ := (State.faultTeam_spare s2 lid t).group? (k := g.id) (g := y1) hy1
  have l1 : s1.launch? lid = some l := (u1.launch? lid).trans (by rw [← lidEq]; exact hl)
  have l2 : s2.launch? lid = some { l with records := l.records ++ [r] } :=
    State.launch?_onLaunch_self _ _ _ _ l1 fun _ => rfl
  obtain ⟨l', hl', recs, ends, faults⟩ := State.faultTeam_launch (t := t) l2
  have k := k1.trans k2
  rw [e]
  unfold Claims.Halted
  rw [lidEq, teamEq]
  refine ⟨y2, l', r, hy2, k.halted, k.live, k.em, k.active, k.cause, k.epc, k.tval, hl', recs, rfl, rfl, rfl, rfl,
      rfl, ?_,
    rfl, rfl, ends, faults⟩
  exact congrArg teamOf hid

theorem trapEntersTheHandler_holds : Claims.TrapEntersTheHandler := by
  intro s g l cause epc tval resume late hg hl ha hw hof t
  let deferred := epc != BitVec.ofNat 64 ((late.map (·.addr)).getD resume.addr)
  let y := g.enterHandler ((l.code : Int) + l.trapOfs).toNat cause epc tval resume deferred s.nextOp late
  have e : t = s.setGroup y := by
    have : (l.trapOfs == 0) = false := by simpa using hof
    simp only [t, State.takeTrap, hg, hl, ha, hw, this, Option.isSome_none, Bool.or_self, Bool.false_eq_true, if_false]
    rfl
  have hy : t.group? g.id = some y := by
    rw [e]
    exact State.group?_setGroup_self s g y hg
  refine ⟨⟨fun k hk => ?_, by rw [e]; rfl⟩, y, hy, ?_, rfl, rfl, rfl, rfl, rfl, rfl, rfl, rfl, rfl, rfl, rfl, rfl,
      rfl, rfl,
    rfl, rfl, rfl, rfl, rfl, rfl, rfl, rfl, rfl⟩
  · rw [e]
    exact State.group?_setGroup_other s y k hk
  · change BitVec.ofNat 64 (cause + if deferred = true then 256 else 0) = _
    by_cases h : epc = BitVec.ofNat 64 ((late.map (·.addr)).getD resume.addr)
    · rw [if_pos h, if_neg (by simpa [deferred] using h)]
    · rw [if_neg h, if_pos (by simpa [deferred] using h)]

/-- A trap in a handler, or in a launch without one, is a halt. -/
theorem State.takeTrap_halts {s : State} {g : Group} {l : Launch} {cause : Nat} {epc tval : Word} {resume : Pos}
    {late : Option LaneWork} (hg : s.group? g.id = some g) (hl : s.launch? (lidOf g.id) = some l) :
    let d := epc != BitVec.ofNat 64 ((late.map (·.addr)).getD resume.addr)
    (g.aside ≠ none → s.takeTrap g.id cause epc tval resume late = s.haltGroup g.id 1 cause d epc tval) ∧
    (g.aside = none → isWave g.id = true ∨ l.trapOfs = 0 →
      s.takeTrap g.id cause epc tval resume late = s.haltGroup g.id 2 cause d epc tval) := by
  intro d
  refine ⟨fun h => ?_, fun h c => ?_⟩
  · have : g.aside.isSome = true := Option.isSome_iff_ne_none.2 h
    simp only [State.takeTrap, hg, hl, this, if_true, d]
  · have : (isWave g.id || l.trapOfs == 0) = true := by simpa using c
    simp only [State.takeTrap, hg, hl, h, this, Option.isSome_none, Bool.false_eq_true, if_false, if_true, d]

theorem trapWithoutAHandlerHalts_holds : Claims.TrapWithoutAHandlerHalts := by
  intro s g l cause epc tval resume late hg hl hw
  obtain ⟨double, noHandler⟩ := State.takeTrap_halts (cause := cause) (epc := epc) (tval := tval) (resume := resume)
    (late := late) hg hl
  refine ⟨fun h => ?_, fun h h' => ?_⟩
  · rw [double h]
    exact halted_haltGroup hg hl hw _ _ _ _ _ _
  · rw [noHandler h (.inr h')]
    exact halted_haltGroup hg hl hw _ _ _ _ _ _

/-- Settles O42: a trap enters the handler, or halts the group. -/
theorem traps : Obligations.Traps := ⟨trapEntersTheHandler_holds, trapWithoutAHandlerHalts_holds⟩

/-! ### The halt of a wave (R379, R387) -/

theorem State.SpareGroups.trans {a b c : State} (h : a.SpareGroups b) (k : b.SpareGroups c) : a.SpareGroups c := by
  obtain ⟨hm, h1, p, hp, sp⟩ := h
  obtain ⟨km, k1, q, hq, sq⟩ := k
  exact ⟨km.trans hm, k1.trans h1, fun g => q (p g), by rw [hq, hp, List.map_map]; rfl, fun g => (sp g).trans (sq _)⟩

theorem State.SpareGroups.of_groups {s t : State} (hm : t.mem = s.mem) (h1 : t.l1 = s.l1) (hg : t.groups = s.groups) :
    s.SpareGroups t := (State.Unbinds.refl t).spare hm h1 hg

theorem State.closeObject_spare (s : State) (lid obj : Nat) : s.SpareGroups (s.closeObject lid obj) := by
  unfold State.closeObject
  split
  · exact .of_groups rfl rfl rfl
  · dsimp only
    refine ((State.Unbinds.foldl ?_ _ s).spare rfl rfl rfl).trans (.of_groups rfl rfl rfl)
    intro s r
    exact .of_groups rfl rfl rfl rfl

theorem State.abortLaunch_spare (s : State) (lid : Nat) (c : Bool) : s.SpareGroups (s.abortLaunch lid c) :=
  (s.abortLaunch_unbinds lid c).spare rfl rfl rfl

theorem State.haltWave_spare (s : State) (lid obj : Nat) (r : FaultRec) : s.SpareGroups (s.haltWave lid obj r) := by
  unfold State.haltWave
  dsimp only
  split
  · exact (s.closeObject_spare lid obj).trans (.of_groups rfl rfl rfl)
  · refine (s.closeObject_spare lid obj).trans ?_
    split
    · exact .of_groups rfl rfl rfl
    · split
      · exact State.SpareGroups.trans (.of_groups rfl rfl rfl) (State.abortLaunch_spare _ _ _)
      · exact .of_groups rfl rfl rfl

/-- Whatever halts has no lane left. -/
theorem State.haltGroup_halted {s : State} {k : GroupId} {g : Group} (hg : s.group? k = some g) (reason cause : Nat)
    (deferred : Bool) (epc tval : Word) (engine : Bool) :
    ∃ y, (s.haltGroup k reason cause deferred epc tval engine).group? k = some y ∧ y.halted = true ∧ y.live = 0 ∧
      y.em = 0 := by
  have id := State.group?_id hg
  have g0 : (s.setGroup g.halt).group? k = some g.halt := by
    rw [← id] at hg ⊢
    exact State.group?_setGroup_self s g g.halt hg
  obtain ⟨y1, hy1, k1⟩ := (State.unbinds_partnerGone (s.setGroup g.halt) k).group? g0
  rw [State.haltGroup_eq hg]
  cases k with
  | wave lid obj =>
    obtain ⟨y, hy, k2⟩ := (State.haltWave_spare _ lid obj (haltRecord g reason cause deferred engine epc tval)).group?
        hy1
    exact ⟨y, hy, (k1.trans k2).halted, (k1.trans k2).live, (k1.trans k2).em⟩
  | member lid t n =>
    let s1 := ((s.setGroup g.halt).partnerGone (.member lid t n)).onLaunch lid
      fun l => { l with records := l.records ++ [haltRecord g reason cause deferred engine epc tval] }
    obtain ⟨y, hy, k2⟩ := (s1.faultTeam_spare lid t).group? (k := .member lid t n) (g := y1) hy1
    exact ⟨y, hy, (k1.trans k2).halted, (k1.trans k2).live, (k1.trans k2).em⟩

/-! ### TRAP, BKPT and HALT (R401, R403) -/

/-- An instruction takes a trap with its own cause and value at a place: in a wave, in a team's group with a handler,
without one, and in a handler. -/
def TakesTrapAt (i : Instr) (s : State) (g : Group) (l : Launch) (cause : Nat) (tv : Word) (p : Pos) : Prop :=
  (isWave g.id = true → EndsIn i s g fun _ y => y.halted = true ∧ y.live = 0 ∧ y.em = 0) ∧
  (isWave g.id = false → g.aside = none → l.trapOfs ≠ 0 → EndsIn i s g fun t y => OnlyGroup s t g.id ∧
    y.cause = BitVec.ofNat 64 cause ∧ y.epc = BitVec.ofNat 64 p.addr ∧ y.tval = tv ∧
    (y.aside.map (·.resume)) = some p ∧ y.pos = .header ((l.code : Int) + l.trapOfs).toNat none ∧
    y.vregs = g.vregs ∧ y.sregs = g.sregs ∧ y.preds = g.preds ∧ y.em = g.em) ∧
  (isWave g.id = false → g.aside = none → l.trapOfs = 0 →
    ∃ t, exec i s = .next t ∧ Claims.Halted t g l 2 cause (BitVec.ofNat 64 p.addr) tv) ∧
  (isWave g.id = false → g.aside ≠ none →
    ∃ t, exec i s = .next t ∧ Claims.Halted t g l 1 cause (BitVec.ofNat 64 p.addr) tv)

theorem Pos.addr_resume (p : Pos) : p.resume.addr = p.addr := by cases p <;> rfl

/-- An instruction that acts by a software trap takes it at the place that follows. -/
theorem takesTrapAt_next {i : Instr} {h : Head} {s : State} {g : Group} {l : Launch} {hdr j : Nat} {hw : Word} {c : Nat}
    {tv : Word} (ac : Acts i h s g l hdr j hw)
    (run : exec i s = .next (issued i h s g l hdr j hw s (.trapNext c tv) [])) :
    TakesTrapAt i s g l c tv (nextPlace hdr j hw (encode i).length).resume := by
  let p := nextPlace hdr j hw (encode i).length
  let u := (s.onGroup g.id fun x => x.count s.clock h (usesIn i h g l) (slotAddr hdr j)
    (writeLanes i h (usesIn i h g l) g) []).onGroup g.id fun x => { x with pos := p }
  let y := { g.count s.clock h (usesIn i h g l) (slotAddr hdr j) (writeLanes i h (usesIn i h g l) g) [] with pos := p }
  let t := u.takeTrap g.id c (BitVec.ofNat 64 p.addr) tv p.resume
  have hg : s.group? g.id = some g := group?_of_stands ac.1.1
  have hu : u.group? g.id = some y :=
    State.group?_onGroup_self _ g.id _ _ (State.group?_onGroup_self s g.id _ g hg rfl) rfl
  have hl : u.launch? (lidOf g.id) = some l := ac.1.1.2.1
  have e : exec i s = .next (t.noteIssue g.core) := run
  have at_ : p.resume.addr = p.addr := p.addr_resume
  obtain ⟨double, noHandler⟩ := State.takeTrap_halts (s := u) (g := y) (cause := c) (epc := BitVec.ofNat 64 p.addr)
    (tval := tv) (resume := p.resume) (late := none) hu hl
  unfold TakesTrapAt
  rw [at_]
  refine ⟨fun wave => ?_, fun member ha hof => ?_, fun member ha hof => ?_, fun member ha => ?_⟩
  · have halts : ∃ r d, t = u.haltGroup g.id r c d (BitVec.ofNat 64 p.addr) tv := by
      by_cases ha : g.aside = none
      · exact ⟨2, _, noHandler ha (.inl wave)⟩
      · exact ⟨1, _, double ha⟩
    obtain ⟨r, d, ht⟩ := halts
    obtain ⟨z, hz, h1, h2, h3⟩ := State.haltGroup_halted hu r c d (BitVec.ofNat 64 p.addr) tv false
    exact ⟨t.noteIssue g.core, z, e, (congrArg (·.group? g.id) ht).trans hz, h1, h2, h3⟩
  · obtain ⟨⟨other, frame⟩, z, hz, hc, he, hv, hs, -, -, -, hp, vr, sr, pr, em, -⟩ := trapEntersTheHandler_holds u y l c
      (BitVec.ofNat 64 p.addr) tv p.resume none hu hl ha member hof
    refine ⟨t.noteIssue g.core, z, e, hz, ⟨fun k hk => ?_, ?_⟩, ?_, he, hv, ?_, hp, vr, sr, pr, em⟩
    · have h1 : (s.onGroup g.id fun x => x.count s.clock h (usesIn i h g l) (slotAddr hdr j)
          (writeLanes i h (usesIn i h g l) g) []).group? k = s.group? k :=
        State.group?_onGroup_other s g.id k _ hk fun _ h => h
      have h2 : u.group? k = _ := State.group?_onGroup_other _ g.id k (fun x => { x with pos := p }) hk fun _ h => h
      exact (other k hk).trans (h2.trans h1)
    · exact congrArg (fun v : State => { v with groups := s.groups, coreIssue := s.coreIssue }) frame
    · have same : BitVec.ofNat 64 p.addr = BitVec.ofNat 64
        (((none : Option LaneWork).map (·.addr)).getD p.resume.addr) := by
        rw [Option.map_none, Option.getD_none, at_]
      rw [hc, if_pos same, Nat.add_zero]
    · rw [hs]
      rfl
  · exact ⟨t.noteIssue g.core, e, (trapWithoutAHandlerHalts_holds u y l c _ tv p.resume none hu hl member).2 ha hof⟩
  · exact ⟨t.noteIssue g.core, e, (trapWithoutAHandlerHalts_holds u y l c _ tv p.resume none hu hl member).1 ha⟩

/-- TRAP stands last in its clause (R111): the place that follows it is the next header. -/
theorem nextPlace_of_acts {i : Instr} {h : Head} {s : State} {g : Group} {l : Launch} {hdr j : Nat} {hw : Word}
    (ac : Acts i h s g l hdr j hw) (ends : i.endsClause = true) : nextPlace hdr j hw (encode i).length =
      .header (hdr + 8 * (((Header.ofWord hw).map Header.slots).getD 0 + 1)) (some (slotAddr hdr j)) := by
  obtain ⟨⟨-, decodes, -⟩, -⟩ := ac
  have legal : legalAt g hw j i = true := by
    by_contra no
    rw [Bool.not_eq_true] at no
    simp [decodeFault, no] at decodes
  cases hh : Header.ofWord hw with
  | none => simp [legalAt, hh] at legal
  | some x =>
    have last : j + (encode i).length = x.slots := by
      simp only [legalAt, hh, ends, Bool.and_eq_true, Bool.not_true, Bool.false_or, beq_iff_eq] at legal
      exact legal.2
    simp only [nextPlace, hh, Option.map_some, Option.getD_some, last, lt_irrefl, if_false]

theorem softwareTraps_holds : Claims.SoftwareTraps := by
  intro o s g l hdr j hw next taken skips
  refine ⟨fun ac => ?_, fun ac => ?_, fun is guard => ?_, fun is guard => ?_⟩
  · have h := takesTrapAt_next ac (exec_go (body := trapBody Cause.software o) rfl ac rfl)
    rw [nextPlace_of_acts ac rfl] at h
    exact h
  · exact takesTrapAt_next ac (exec_go (body := trapBody Cause.breakpoint o) rfl ac rfl)
  · exact exec_guard_fails (body := trapBody Cause.software o) rfl is (Uses.guarded_lanes _ _) guard
  · exact exec_guard_fails (body := trapBody Cause.breakpoint o) rfl is (Uses.guarded_lanes _ _) guard

/-- Settles O43: TRAP and BKPT take their traps at the place that follows them. -/
theorem softwareTraps : Obligations.SoftwareTraps := softwareTraps_holds

theorem haltHalts_holds : Claims.HaltHalts := by
  intro o s g l hdr j hw
  have run (ac : Acts (.halt o) o.h s g l hdr j hw) := exec_go (body := haltBody) rfl ac
    (s' := s.haltGroup g.id 3 0 false (BitVec.ofNat 64 (slotAddr hdr j)) 0) (c := .done) (vals := []) (by
      rw [haltBody, here_of_acts ac])
  refine ⟨fun wave ac => ?_, fun member ac => ?_, fun is guard => ?_⟩
  · have hg : s.group? g.id = some g := group?_of_stands ac.1.1
    obtain ⟨y, hy, h1, h2, h3⟩ := State.haltGroup_halted hg 3 0 false (BitVec.ofNat 64 (slotAddr hdr j)) 0 false
    have id : y.id = g.id := State.group?_id hy
    exact ⟨_, _, run ac, State.group?_onGroup_self _ g.id _ y hy id, h1, h2, h3⟩
  · have hg : s.group? g.id = some g := group?_of_stands ac.1.1
    obtain ⟨y, l', r, hy, rest⟩ := halted_haltGroup hg ac.1.1.2.1 member 3 0 false (BitVec.ofNat 64 (slotAddr hdr j))
        0 false
    have id : y.id = g.id := State.group?_id hy
    exact ⟨_, run ac, _, l', r, State.group?_onGroup_self _ g.id _ y hy id, rest⟩
  · exact exec_guard_fails (body := haltBody) rfl is (Uses.guarded_lanes _ _) guard

/-- Settles O44: HALT halts its group. -/
theorem haltHalts : Obligations.HaltHalts := haltHalts_holds

end Sys2Proof.Machine
end

section
/-! PROOFS. Returns from the handler and the system instructions (O45, O46). -/

namespace Sys2Proof.Machine

/-! ### RTT (R402) -/

/-- What the lanes of a trap that came late had still to do of its instruction is left out. -/
theorem Aside.without_lanes {a : Aside} {k : Nat} {m : Mask} (h : a.late = some (k, m)) :
    ∀ w ∈ (a.without false).backlog, w.idx = k → w.lanes &&& m = 0 := by
  intro w hw idx
  simp only [Aside.without, h, List.mem_filter, List.mem_map] at hw
  obtain ⟨⟨v, -, rfl⟩, -⟩ := hw
  by_cases c : v.idx = k
  · rw [if_pos (by simp [c])]
    ext i
    simp
  · rw [if_neg (by simp [c])] at idx
    exact absurd idx c

/-- What leaving the handler leaves, whatever of the lanes' work is left out. -/
theorem Group.leaveHandler_fields (g : Group) (b : Aside) (p : Pos) :
    let y := g.leaveHandler b p
    y.aside = none ∧ y.sig = b.sig ∧ y.em = b.em &&& g.path ∧ y.bypass.map (·.vals) = b.bypass.map (·.vals) ∧
      y.vregs = g.vregs ∧ y.sregs = g.sregs ∧ y.preds = g.preds ∧ y.cause = g.cause ∧ y.epc = g.epc ∧ y.tval = g.tval :=
  ⟨rfl, rfl, rfl, by simp [Group.leaveHandler, Function.comp_def], rfl, rfl, rfl, rfl, rfl, rfl⟩

theorem returnsFromTheHandler_holds : Claims.ReturnsFromTheHandler := by
  intro o s g l hdr j hw ac bad
  have here := here_of_acts ac
  have trapsOf (e : rttBody o s g l = .trap Cause.illegal ((encode (.rtt o)).headD 0)) : bad := exec_trap rfl ac e
  refine ⟨fun h => trapsOf ?_, fun a h d => trapsOf ?_, fun a h d => ?_⟩
  · simp only [rttBody, h]
  · simp only [rttBody, h]
    rw [if_pos d]
  · have same : ¬ g.stack.length ≠ a.depth := fun n => n d
    intro back
    have leaves (b : Aside) (p : Pos) (e : rttBody o s g l = returnTo s g b p) : back b p :=
      ⟨exec_go rfl ac e, Group.leaveHandler_fields g b p⟩
    refine ⟨fun r hr => trapsOf ?_, fun hr => leaves _ _ ?_, fun r hr => leaves _ _ ?_, fun hr late =>
        ⟨leaves _ _ ?_, ?_⟩,
      fun hr late => ⟨fun p hp => ?_, fun hp => ?_⟩⟩
    · simp only [rttBody, h, if_neg same, hr]
    · simp only [rttBody, h, if_neg same, hr, here]
    · simp only [rttBody, h, if_neg same, hr, here]
    · have : a.late.isSome = true := Option.isSome_iff_ne_none.2 late
      simp only [rttBody, h, if_neg same, hr, here, this, if_true]
    · exact fun k m hk => Aside.without_lanes hk
    · have e : a.without false = a := by simp only [Aside.without, late]
      refine leaves _ _ ?_
      simp only [rttBody, h, if_neg same, hr, here, late, Option.isSome_none, Bool.false_eq_true, if_false, hp, e]
    · refine exec_trapIn (b := rttBody o) rfl ac ?_
      simp only [rttBody, h, if_neg same, hr, here, late, Option.isSome_none, Bool.false_eq_true, if_false, hp]

/-- Settles O45: RTT leaves the handler as R402 says, or traps. -/
theorem returnsFromTheHandler : Obligations.ReturnsFromTheHandler := returnsFromTheHandler_holds

/-! ### LAUNCH (R404) -/

theorem Group.lostStore_none {g : Group} (h : g.lost = []) : g.lostStore = none := by
  simp [Group.lostStore, h]

theorem launchSubmitsARecord_holds : Claims.LaunchSubmitsARecord := by
  intro o s s' g l hdr j hw ac va sends trapsWith checked performed lost
  have none_ := Group.lostStore_none lost
  have body (r : Option (List Byte)) (hr : (s.release g.core).readRecord g.core va = (s', r)) :
      launchBody o s g l = match r with
        | none => .trapIn s' Cause.memUncorrectable (BitVec.ofNat 64 va)
        | some bs => launchRead o s' g l (BitVec.ofNat 2048 (ofBytes bs)) := by
    simp only [va] at checked hr
    simp only [launchBody, checked, performed, none_, hr, Bool.false_eq_true, if_false]
    cases r <;> rfl
  refine ⟨fun hr => exec_trapIn (b := launchBody o) rfl ac (body none hr), ?_⟩
  intro bs hr r super
  refine ⟨fun hs hl => ?_, fun may => ?_⟩
  · refine exec_trapIn (b := launchBody o) rfl ac ((body _ hr).trans ?_)
    have c : (super && !l.supervisor) = true := by rw [hs, hl]; rfl
    exact if_pos c
  · have c : ¬ (super && !l.supervisor) = true := by
      rcases may with h | h <;> rw [h] <;> simp
    have read : launchBody o s g l = match s'.accept r none with
        | (s', 0) => sendScalars s' g [(o.sb.toNat, 0)]
        | (s', st) =>
          if !s'.canPost then .wait .message
          else sendScalars (s'.post none 2 st (field r 240 16) 0) g [(o.sb.toNat, BitVec.ofNat 64 st)] :=
      (body _ hr).trans (if_neg c)
    generalize s'.accept r none = x at read ⊢
    obtain ⟨t, st⟩ := x
    refine ⟨fun h => exec_go rfl ac ?_, fun h post => exec_go rfl ac ?_⟩
    · simp only at h
      subst h
      exact read
    · cases st with
      | zero => exact absurd rfl h
      | succ st =>
        simp only at post
        rw [read]
        simp only [post, Bool.not_true, Bool.false_eq_true, if_false]
        rfl

/-! ### SETS, TLBINV and PRES (R405 to R407) -/

theorem released_of_performed {s : State} {g : Group} {k : State → Group → Eff} (performed : s.unperformed g = false)
    (lost : g.lost = []) : released s g k = k (s.release g.core) g := by
  simp only [released, performed, Group.lostStore_none lost, Bool.false_eq_true, if_false]

/-- The values that SETS refuses, as words (R405). -/
theorem rootBad_of_bits {v : Word} (h : v >>> 53 ≠ 0 ∨ (v >>> 1) &&& 0x7FFF ≠ 0 ∨
    (v.getLsbD 0 = false ∧ v >>> 16 ≠ 0)) :
    rootBad v = true := by
  have high (k : Nat) (h : v >>> k ≠ 0) : v.toNat / 2 ^ k ≠ 0 := fun e =>
    h (BitVec.eq_of_toNat_eq (by rw [BitVec.toNat_ushiftRight, Nat.shiftRight_eq_div_pow, e]; rfl))
  simp only [rootBad, Bool.or_eq_true, decide_eq_true_eq, Bool.and_eq_true, Bool.not_eq_true']
  rcases h with h | h | ⟨h, h'⟩
  · exact .inl (.inl (high 53 h))
  · refine .inl (.inr fun e => h (BitVec.eq_of_toNat_eq ?_))
    have mask : (0x7FFF : Word).toNat = 2 ^ 15 - 1 := rfl
    rw [BitVec.toNat_and, mask, Nat.and_two_pow_sub_one_eq_mod, BitVec.toNat_ushiftRight, Nat.shiftRight_eq_div_pow]
    exact e
  · exact .inr ⟨h, high 16 h'⟩

theorem Tlb.out_of_not_covers {x : Tlb} {va : Nat} : x.covers va = false ↔ va < x.base ∨ x.base + x.size ≤ va := by
  simp only [Tlb.covers, Bool.and_eq_false_iff, decide_eq_false_iff_not]
  omega

theorem translationInstructionsComplete_holds : Claims.TranslationInstructionsComplete := by
  intro s g l hdr j hw performed lost
  have rel (k : State → Group → Eff) : released s g k = k (s.release g.core) g := released_of_performed performed lost
  refine ⟨fun o ac good => exec_go (body := setsBody o) rfl ac ?_, fun o ac bits => exec_trap (body := setsBody o) rfl
      ac ?_,
    fun o all ac => exec_go (body := tlbinvBody o) rfl ac ?_, ?_, fun o ac => exec_go rfl ac rfl⟩
  · simp only [setsBody, good, rel, Bool.false_eq_true, if_false]
  · simp only [setsBody, rootBad_of_bits bits, if_true]
  · simp only [tlbinvBody, all, rel]
  · intro o r page fits ac out
    have tlb : (s.release g.core).tlb = s.tlb := by
      obtain ⟨m, c, q, x, e⟩ := s.writeBack_cases g.core fun _ => true
      rw [State.release, e]
    have run := exec_go (body := tlbinvBody o) (s' := (s.release g.core).dropTlb fun t => t.covers
        (g.sreg r.toNat).toNat)
      (c := .next) (vals := []) rfl ac (by simp only [tlbinvBody, page, rel, if_neg (Nat.not_le.2 fits)])
    refine ⟨_, run, rfl, fun x hx e he => ?_, fun x hx e he no => ?_⟩
    · obtain ⟨y, -, rfl⟩ := List.mem_map.1 (List.mem_filter.1 hx).1
      have keeps := (List.mem_filter.1 he).2
      exact Tlb.out_of_not_covers.1 (by simpa using keeps)
    · have keeps : e ∈ x.2.filter fun t => !t.covers (g.sreg r.toNat).toNat :=
        List.mem_filter.2 ⟨he, by rw [Tlb.out_of_not_covers.2 no]; rfl⟩
      refine ⟨(x.1, x.2.filter fun t => !t.covers (g.sreg r.toNat).toNat), List.mem_filter.2
          ⟨List.mem_map.2 ⟨x, ?_, rfl⟩, ?_⟩,
        rfl, keeps⟩
      · rw [tlb]
        exact hx
      · have ne : (x.2.filter fun t => !t.covers (g.sreg r.toNat).toNat) ≠ [] := List.ne_nil_of_mem keeps
        simpa [List.isEmpty_iff] using ne

/-- What a release of all regions does to one group (R392, R407). -/
def State.letGo (s : State) (lid : Nat) (g : Group) : Group :=
  match g.wait with
  | some (.xlate l) => if (lidOf g.id == lid && !l.isEmpty
      && !((s.launch? lid).map fun l => l.records.any (g.raised lid)).getD false) = true then { g with wait := none }
          else g
  | _ => g

theorem State.letGo_id (s : State) (lid : Nat) (g : Group) : (s.letGo lid g).id = g.id := by
  unfold State.letGo
  split
  · split <;> rfl
  · rfl

theorem State.group?_releaseFaults (s : State) (lid : Nat) {g : Group} (hg : s.group? g.id = some g) :
    (s.releaseFaults lid none).group? g.id = some (s.letGo lid g) := by
  have e : (s.releaseFaults lid none).groups = s.groups.map (s.letGo lid) := by
    refine List.map_congr_left fun g _ => ?_
    unfold State.letGo
    cases hw : g.wait with
    | none => rfl
    | some w => cases w with
      | xlate l => cases l <;> simp
      | _ => rfl
  have ids : (fun x : Group => (s.letGo lid x).id == g.id) = fun x => x.id == g.id := by
    funext x
    rw [State.letGo_id]
  have hf : s.groups.find? (fun x => x.id == g.id) = some g := hg
  simp only [State.group?, e, List.find?_map, Function.comp_def, ids, hf, Option.map_some]

theorem releaseLetsFaultsGo_holds : Claims.ReleaseLetsFaultsGo := by
  intro s lid g f hg
  refine ⟨_, s.group?_releaseFaults lid hg, ?_, ?_, ?_, ?_, ?_⟩
  · unfold State.letGo
    split
    · split <;> rfl
    · rfl
  · intro own waits some_ written
    have kept : ((s.launch? lid).map fun l => l.records.any (g.raised lid)).getD false = false := by
      cases hl : s.launch? lid with
      | none => rfl
      | some l =>
        simp only [Option.map_some, Option.getD_some, List.any_eq_false]
        exact fun r hr => by simp [written l r hl hr]
    have : f.isEmpty = false := by cases f <;> simp_all
    simp [State.letGo, waits, own, kept, this]
  · rintro own waits ⟨l, r, hl, hr, raised⟩
    have kept : ((s.launch? lid).map fun l => l.records.any (g.raised lid)).getD false = true := by
      simp only [hl, Option.map_some, Option.getD_some]
      exact List.any_eq_true.2 ⟨r, hr, raised⟩
    simp [State.letGo, waits, kept]
  · intro other
    unfold State.letGo
    split
    · simp [other]
    · rfl
  · intro no
    unfold State.letGo
    split
    · next a h => exact absurd h (no a)
    · rfl

/-! ### Privilege (R393) -/

/-- A privileged instruction that is legal where it stands, and names no register that the window lacks or that is a
runner's, breaks nothing at decode but its privilege. -/
theorem decodeFault_of_privileged {l : Launch} {g : Group} {hw : Word} {j : Nat} {i : Instr} {u : Uses}
    (legal : legalAt g hw j i = true) (named : u.named = []) (run : u.run = none) (pub : u.pub = none)
    (priv : privileged i = true) (super : l.supervisor = false) :
    decodeFault l g hw j i u = some (Cause.privilege, (encode i).headD 0) := by
  simp [decodeFault, legal, named, run, pub, priv, super]

theorem Uses.guarded_named (u : Uses) (h : Head) : (u.guarded h).named = u.named ∧ (u.guarded h).run = u.run ∧
    (u.guarded h).pub = u.pub := by
  unfold Uses.guarded
  split <;> exact ⟨rfl, rfl, rfl⟩

/-- An instruction that no scalar sizes, waits for none. -/
theorem sizePending_of_unsized {g : Group} {i : Instr} (h : sizedBy i = []) : sizePending g i = false := by
  simp [sizePending, h]

theorem privilegedInstructionsTrap_holds : Claims.PrivilegedInstructionsTrap := by
  intro s g l hdr j hw st super out
  have traps (i : Instr) (h : Head) (b : Body) (hb : bodyOf i = some (h, b)) (unsized : sizedBy i = [])
      (priv : privileged i = true) (named : (usesOf l.layouts g i).named = []) (run : (usesOf l.layouts g i).run = none)
      (pub : (usesOf l.layouts g i).pub = none) : out i h := by
    intro un legal
    obtain ⟨n, r, p⟩ := (usesOf l.layouts g i).guarded_named h
    exact decodeBreachTraps i h b s g l hdr j hw _ _ hb st un (sizePending_of_unsized unsized)
      (decodeFault_of_privileged legal (n.trans named) (r.trans run) (p.trans pub) priv super)
  exact ⟨fun o => traps (.sets o) o.h (setsBody o) rfl rfl rfl rfl rfl rfl,
    fun o => traps (.tlbinv o) o.h (tlbinvBody o) rfl rfl rfl rfl rfl rfl,
    fun o => traps (.pres o) o.h (presBody o) rfl rfl rfl rfl rfl rfl⟩

/-- Settles O46: the system instructions complete, and trap without privilege. -/
theorem systemInstructions : Obligations.SystemInstructions :=
  ⟨launchSubmitsARecord_holds, translationInstructionsComplete_holds, releaseLetsFaultsGo_holds,
    privilegedInstructionsTrap_holds⟩

end Sys2Proof.Machine
end

section
/-! PROOFS. Clause boundaries (O47). -/

namespace Sys2Proof.Machine

/-! ### A group at a boundary -/

/-- A running group that may enter now stands at its boundary without further ado. -/
theorem State.clauseEntry_eq {s : State} {g : Group} {l : Launch} (hg : s.group? g.id = some g)
    (hl : s.launch? (lidOf g.id) = some l) (runs : g.runs = true) (live : g.live ≠ 0) (at_ : g.readyAt ≤ s.clock)
    (free : g.stopsBy s.clock = false) : s.clauseEntry g.id = match g.pos with
      | .slot .. => s
      | .back hdr j => s.enterBack g hdr j
      | .after hdr j xfer => s.enterAfter g hdr j xfer
      | .header a xfer =>
        match g.dues.head? with
        | some d => if g.olderFails d then s.setGroup (g.await s.clock .result) else s.takeDeferred g d (.header a xfer)
        | none =>
          if g.leave then s.setGroup { g with active := false, leave := false, since := s.clock }
          else if g.em != 0 && g.em &&& ~~~g.lagging == 0 then s.setGroup (g.await s.clock .runner)
          else s.enterHeader g l a xfer := by
  have alive : (!g.runs || g.live == 0) = false := by rw [runs, beq_false_of_ne live]; rfl
  simp only [State.clauseEntry, hg, hl, alive, max_eq_left at_, free, State.advance_of_le s at_, Option.getD_some,
    Bool.false_eq_true, if_false] <;> rfl

theorem State.boundary_eq {s : State} {g : Group} (hg : s.group? g.id = some g) (due : s.quantumDue g = false) :
    exec (.clauseEntry g.id) s = .next (s.clauseEntry g.id) := by
  have run : exec (.clauseEntry g.id) s = .next (s.boundary g.id) := rfl
  simp only [run, State.boundary, hg, due, Bool.and_false, Bool.false_eq_true, if_false]

theorem Group.waitFailure_none {g : Group} {cs : List Cls} (h : ∀ c ∈ cs, (g.batches c).failure = none) :
    g.waitFailure cs = none := by
  induction cs with
  | nil => rfl
  | cons c t ih =>
    simp only [Group.waitFailure, h c List.mem_cons_self]
    exact ih fun x hx => h x (List.mem_cons_of_mem _ hx)

/-- A fetch that is protected is so at the address that is fetched. -/
theorem State.fetch_protect {s : State} {core va w : Nat} (h : s.fetch core va = .error (.protect w)) : w = va := by
  unfold State.fetch at h
  split at h
  · cases h; rfl
  · split at h
    · cases h
    · cases h; rfl
    · cases h; rfl
    · split at h
      · split at h <;> cases h
      · split at h <;> cases h

/-- A clause whose thresholds are met and that meets no failure. -/
theorem State.enterClause_of_met {s : State} {g : Group} {l : Launch} {a : Nat} {hw : Word} {h : Header}
    (met : ∀ c ∈ headerWaits h, (g.batches c).incomplete ≤ h.threshold c) (lost : g.lost = [])
    (clean : ∀ c ∈ headerWaits h, (g.batches c).failure = none) : s.enterClause g l a hw h =
      if s.clauseReads l g a hw h then s.setGroup (g.await s.clock .operands)
      else (if (headerWaits h).isEmpty then s else s.acquire g.core).setGroup
        { g.acquireBatches (headerWaits h) with
          sig := sigEnter g.sig hw g.path g.em, pos := .slot a 0 hw, wait := none } := by
  have short : ((headerWaits h).filter fun c => decide (h.threshold c < (g.batches c).incomplete)) = [] :=
    List.filter_eq_nil_iff.2 fun c hc => by simpa using met c hc
  have none_ : (if (headerWaits h).isEmpty then none else match g.lostStore with
      | some x => some x
      | none => g.waitFailure (headerWaits h)) = none := by
    rw [Group.lostStore_none lost, Group.waitFailure_none clean]
    split <;> rfl
  have e : s.enterClause g l a hw h = match (if (headerWaits h).isEmpty then none else match g.lostStore with
      | some x => some x
      | none => g.waitFailure (headerWaits h)) with
    | some (f, g') => (s.setGroup g').takeTrap g.id f.cause (BitVec.ofNat 64 a) f.tval (.header a none)
    | none => if s.clauseReads l g a hw h then s.setGroup (g.await s.clock .operands)
      else (if (headerWaits h).isEmpty then s else s.acquire g.core).setGroup
        { g.acquireBatches (headerWaits h) with
          sig := sigEnter g.sig hw g.path g.em, pos := .slot a 0 hw, wait := none } := by
    simp only [State.enterClause, short, List.isEmpty_nil, Bool.not_true, Bool.false_eq_true, if_false] <;> rfl
  rw [e, none_]

theorem State.enterClause_of_short {s : State} {g : Group} {l : Launch} {a : Nat} {hw : Word} {h : Header}
    (exceeds : ∃ c ∈ headerWaits h, h.threshold c < (g.batches c).incomplete) : s.enterClause g l a hw h =
      s.setGroup (g.await s.clock (.thresholds ((headerWaits h).filter fun c =>
        decide (h.threshold c < (g.batches c).incomplete)))) := by
  obtain ⟨c, hc, lt⟩ := exceeds
  have mem : c ∈ (headerWaits h).filter fun c => decide (h.threshold c < (g.batches c).incomplete) :=
    List.mem_filter.2 ⟨hc, decide_eq_true lt⟩
  have ne : ((headerWaits h).filter fun c => decide (h.threshold c < (g.batches c).incomplete)).isEmpty = false := by
    simpa [List.isEmpty_iff] using List.ne_nil_of_mem mem
  simp only [State.enterClause, ne, Bool.not_false, if_true]

theorem clauseEntry_holds : Claims.ClauseEntry := by
  intro s g l hg hl runs live at_ free lanes
  refine ⟨fun due => ?_, ?_, ?_⟩
  · have run : exec (.clauseEntry g.id) s = .next (s.boundary g.id) := rfl
    simp only [run, State.boundary, hg, runs, due, Bool.and_self, if_true, State.advance_of_le s at_]
  · intro a xfer pos dues stays due goes trap
    have inFront : (g.em != 0 && g.em &&& ~~~g.lagging == 0) = false := by
      rcases lanes with h | h
      · rw [h]
        rfl
      · rw [beq_false_of_ne h, Bool.and_false]
    have enters : exec (.clauseEntry g.id) s = .next (s.enterHeader g l a xfer) := by
      rw [State.boundary_eq hg due, State.clauseEntry_eq hg hl runs live at_ free]
      simp only [pos, dues, List.head?_nil, stays, inFront, Bool.false_eq_true, if_false]
    have leads (t : State) (e : s.enterHeader g l a xfer = t) : goes t := enters.trans (congrArg Host.Outcome.next e)
    refine ⟨fun odd => leads _ ?_, fun va even hf => leads _ ?_, fun even s' hw hf => ⟨fun hh => leads _ ?_, fun h hh =>
      ⟨fun bad => leads _ ?_, fun good exceeds => leads _ ?_, fun good met lost clean =>
          ⟨fun reads => leads _ ?_, fun reads => leads _ ?_⟩⟩⟩⟩
    · simp only [State.enterHeader, if_pos odd]
    · have := State.fetch_protect hf
      subst this
      simp [State.enterHeader, even, hf, State.fetchFails, fetchedAt]
    · simp [State.enterHeader, even, hf, hh]
    · simp [State.enterHeader, even, hf, hh, bad]
    · simp [State.enterHeader, even, hf, hh, good, State.enterClause_of_short exceeds]
    · simp [State.enterHeader, even, hf, hh, good, State.enterClause_of_met met lost clean, reads]
    · simp [State.enterHeader, even, hf, hh, good, State.enterClause_of_met met lost clean, reads]
      rfl
  · intro hdr j s' hw h pos hf hh
    have due : s.quantumDue g = false := by simp [State.quantumDue, pos]
    have enters : exec (.clauseEntry g.id) s = .next (s.enterBack g hdr j) := by
      rw [State.boundary_eq hg due, State.clauseEntry_eq hg hl runs live at_ free]
      simp only [pos]
    rw [enters]
    refine ⟨fun good instr inside => ?_, fun broken => ?_⟩
    · simp [State.enterBack, hf, hh, good, instr, inside]
    · have : (!h.good || h.literal j || decide (h.slots ≤ j)) = true := by
        rcases broken with e | e | e <;> simp [e]
      simp only [State.enterBack, hf, hh, this, if_true]

theorem deferredTrapAtABoundary_holds : Claims.DeferredTrapAtABoundary := by
  intro s g l a x d rest hg hl runs pos dues first
  have run : exec (.deferredTrap g.id) s = .next (s.deferredTrap g.id) := rfl
  have due : s.deferredDue g l = some (d, .header a x) := by
    simp [State.deferredDue, pos, dues, Option.filter, first]
  simp only [run, State.deferredTrap, hg, hl, runs, due, State.takeDeferred, Bool.not_true, Bool.false_eq_true,
      if_false]

/-- Settles O47: a group enters its clause, or takes its deferred trap, as the rules say. -/
theorem clauseBoundaries : Obligations.ClauseBoundaries := ⟨clauseEntry_holds, deferredTrapAtABoundary_holds⟩

end Sys2Proof.Machine
end

section
/-! PROOFS. Runner events and the active places of a core (for O48). -/

namespace Sys2Proof.Machine

/-! ### Runner values that arrive, and publishes that stall (R228, R233) -/

/-- A piece of work that is to spill when its publish stalled first. -/
def LaneWork.spillFrom (t : Nat) (w : LaneWork) : LaneWork := { w with spill := w.spill || w.stalled == some t }

/-- What the time-out does to the group whose publish has stalled since `t`. -/
def Group.spillFrom (g : Group) (t : Nat) : Group :=
  { g with
    spillOk := g.spillOk || (match g.wait with
      | some (.publish _ _ a) => decide (a ≤ t)
      | _ => false)
    backlog := g.backlog.map (LaneWork.spillFrom t) }

theorem runnerSpillTimeout_of_stalled {s : State} {g : Group} (hg : s.group? g.id = some g) {t : Nat}
    (first : g.stallStart = some t) : ∃ r v, exec (.runnerSpillTimeout g.id) s = .next r ∧ r.clock = max s.clock
        (t + 256) ∧
      r.group? g.id = some ((g.timed v).spillFrom t) ∧ r.mem = s.mem := by
  have run : exec (.runnerSpillTimeout g.id) s = .next (s.spillTimeout g.id) := rfl
  obtain ⟨v, hv⟩ := State.advance_group hg (t + 256)
  have e : s.spillTimeout g.id = (s.advance (t + 256)).onGroup g.id fun g => g.spillFrom t := by
    simp only [State.spillTimeout, hg, Option.bind_some, first]
    rfl
  refine ⟨_, v, run.trans (congrArg _ e), State.advance_clock s (t + 256), ?_, State.advance_mem s (t + 256)⟩
  exact State.group?_onGroup_self _ g.id (fun g => g.spillFrom t) (g.timed v) hv rfl

/-- The stalled publishes of lanes that are behind. -/
theorem Group.mem_stalls {g : Group} {t : Nat} : t ∈ g.stalls ↔
    (∃ k n, g.wait = some (.publish k n t) ∧ g.spillOk = false) ∨ ∃ w ∈ g.backlog, w.spill = false ∧ w.stalled = some
        t := by
  unfold Group.stalls
  rw [List.mem_append, List.mem_filterMap]
  refine or_congr ?_ ?_
  · cases g.wait with
    | none => simp
    | some w =>
      cases w <;> simp
      cases g.spillOk <;> simp [eq_comm]
  · refine exists_congr fun w => and_congr_right fun _ => ?_
    cases w.spill <;> simp

theorem runnerEvents_holds : Claims.RunnerEvents := by
  intro s g l hg hl
  refine ⟨?_, ?_, ?_⟩
  · intro waits empty res run_ halted t
    have run : exec (.runnerValueArrival g.id) s = .next (s.valueArrives g.id) := rfl
    have here : t.group? g.id = some g := by
      have : t.group? g.id = some { g with backlog := [] } := State.group?_onGroup_self s g.id _ g hg rfl
      rw [this, ← empty]
    have hl' : t.launch? (lidOf g.id) = some l := hl
    have may : (!g.resident || g.stopped || g.halted || g.missing) = false := by
      simp [res, run_, halted, Group.missing, waits]
    have e : s.valueArrives g.id = if t.readSatisfied g l then t.setGroup { g with wait := none } else t := by
      have pass : s.latePass g.id l [] g.backlog = t := by
        rw [empty]
        rfl
      simp only [State.valueArrives, hg, hl, may, pass, here, hl', waits, Bool.false_eq_true, if_false]
    refine ⟨fun h => ?_, fun h => ?_⟩
    · rw [run, e, if_pos h]
    · rw [run, e, if_neg (ne_true_of_eq_false h)]
  · intro k n t waits no quiet
    have stalls : g.stalls = [t] := by
      have none_ : (g.backlog.filterMap fun w => if w.spill then none else w.stalled) = [] := by
        rw [List.filterMap_eq_nil_iff]
        intro w hw
        simp [quiet w hw]
      simp [Group.stalls, waits, no, none_]
    have first : g.stallStart = some t := by simp [Group.stallStart, stalls]
    obtain ⟨r, v, run, clock, group, mem⟩ := runnerSpillTimeout_of_stalled hg first
    have same : (g.timed v).backlog.map (LaneWork.spillFrom t) = g.backlog := by
      refine (List.map_congr_left fun w hw => ?_).trans (List.map_id _)
      have : w.stalled = none := quiet w hw
      simp [LaneWork.spillFrom, this]
      rw [← this]
    exact ⟨r, _, run, clock, group, by simp [Group.spillFrom, Group.timed, waits], rfl, same, rfl, mem⟩
  · intro w hw t stalled no own others
    have mem : t ∈ g.stalls := Group.mem_stalls.2 (.inr ⟨w, hw, no, stalled⟩)
    have least : ∀ u ∈ g.stalls, t ≤ u := by
      intro u hu
      rcases Group.mem_stalls.1 hu with ⟨k, n, waits, ok⟩ | ⟨x, hx, sp, st⟩
      · rcases own k n u waits with h | h
        · rw [h] at ok; cases ok
        · exact h
      · rcases others x hx u st with h | h
        · rw [h] at sp; cases sp
        · exact h
    have first : g.stallStart = some t := List.min?_eq_some_iff.2 ⟨mem, least⟩
    obtain ⟨r, v, run, clock, group, frame⟩ := runnerSpillTimeout_of_stalled hg first
    refine ⟨r, _, run, clock, group, List.mem_map.2 ⟨w, hw, ?_⟩, rfl, frame⟩
    simp [LaneWork.spillFrom, stalled]

/-! ### Places (R146, R147, R149, R150) -/

/-- A fold that keeps what it has or takes the next one: it picks a member, and one of a list that is not empty. -/
theorem foldl_pick {α : Type} {f : Option α → α → Option α} (hf : ∀ a x, f a x = some x ∨ (f a x = a ∧ a ≠ none))
    (l : List α) :
    ∀ a, (∀ x, l.foldl f a = some x → x ∈ l ∨ a = some x) ∧ (l ≠ [] ∨ a ≠ none → l.foldl f a ≠ none) := by
  induction l with
  | nil => exact fun a => ⟨fun x h => .inr h, fun h => h.elim (fun n => absurd rfl n) id⟩
  | cons y l ih =>
    intro a
    obtain ⟨mem, some_⟩ := ih (f a y)
    refine ⟨fun x h => ?_, fun _ => some_ (.inr ?_)⟩
    · rcases mem x h with h | h
      · exact .inl (List.mem_cons_of_mem _ h)
      · rcases hf a y with e | ⟨e, -⟩
        · rw [e] at h
          cases h
          exact .inl List.mem_cons_self
        · exact .inr (e ▸ h)
    · rcases hf a y with e | ⟨e, n⟩
      · rw [e]; exact Option.some_ne_none _
      · rw [e]; exact n

theorem State.highest_pick (s : State) (l : List Group) :
    (∀ g, s.highest l = some g → g ∈ l) ∧ (l ≠ [] → s.highest l ≠ none) := by
  have h := foldl_pick (f := fun (a : Option Group) g => match a with
    | none => some g
    | some h => if before (s.rank g) (s.rank h) then some g else some h) (fun a x => by
      cases a with
      | none => exact .inl rfl
      | some h =>
        dsimp only
        split
        · exact .inl rfl
        · exact .inr ⟨rfl, Option.some_ne_none h⟩) l none
  exact ⟨fun g e => (h.1 g e).resolve_right (by simp), fun n => h.2 (.inl n)⟩

/-- The ready group that takes the next place: ready, and urgent or aged as far as one is. -/
theorem State.nextActive_spec {s : State} {core : Nat} (ready : s.readyOn core ≠ []) :
    ∃ g ∈ s.readyOn core, s.nextActive core = some g ∧ ((∃ x ∈ s.readyOn core, s.isUrgent x = true) → s.isUrgent g =
        true) ∧
      ((∀ x ∈ s.readyOn core, s.isUrgent x = false) → (∃ x ∈ s.readyOn core, s.aged x = true) → s.aged g = true) := by
  have among (p : Group → Bool) {g : Group} (h : s.highest ((s.readyOn core).filter p) = some g) :
      g ∈ s.readyOn core ∧ p g = true := List.mem_filter.1 ((s.highest_pick _).1 g h)
  have some_ (p : Group → Bool) (h : s.highest ((s.readyOn core).filter p) = none) : ∀ x ∈ s.readyOn core, p x =
      false := by
    intro x hx
    by_contra c
    exact (s.highest_pick _).2 (List.ne_nil_of_mem (List.mem_filter.2 ⟨hx, by simpa using c⟩)) h
  unfold State.nextActive
  cases hu : s.highest ((s.readyOn core).filter s.isUrgent) with
  | some g =>
    obtain ⟨mem, urgent⟩ := among _ hu
    refine ⟨g, mem, by simp only [hu], fun _ => urgent, fun none_ => ?_⟩
    rw [none_ g mem] at urgent
    cases urgent
  | none =>
    have noUrgent := some_ _ hu
    have quiet : ∀ g, (∃ x ∈ s.readyOn core, s.isUrgent x = true) → s.isUrgent g = true := by
      rintro g ⟨x, hx, h⟩
      rw [noUrgent x hx] at h
      cases h
    cases ha : s.highest ((s.readyOn core).filter s.aged) with
    | some g =>
      obtain ⟨mem, aged⟩ := among _ ha
      exact ⟨g, mem, by simp only [hu, ha], quiet g, fun _ _ => aged⟩
    | none =>
      obtain ⟨g, hg⟩ := Option.ne_none_iff_exists'.1 ((s.highest_pick _).2 ready)
      refine ⟨g, (s.highest_pick _).1 g hg, by simp only [hu, ha, hg], quiet g, ?_⟩
      rintro - ⟨x, hx, h⟩
      rw [some_ _ ha x hx] at h
      cases h

theorem State.activate_eq {s : State} {core : Nat} (none_ : ∀ x ∈ s.onCore core, x.withdrawn = none) :
    exec (.groupActivation core) s = .next (s.fillPlace core) := by
  have run : exec (.groupActivation core) s = .next (s.activate core) := rfl
  have nobody : ((s.onCore core).filter fun g => g.withdrawn.isSome) = [] :=
    List.filter_eq_nil_iff.2 fun x hx => by simp [none_ x hx]
  rw [run, State.activate, nobody]
  rfl

theorem State.group?_noteReady {s : State} {k : GroupId} {g : Group} (hg : s.group? k = some g) :
    s.noteReady.group? k = some (s.noteGroup g) := by
  have hf : s.groups.find? (fun x => x.id == k) = some g := hg
  simp only [State.group?, State.noteReady, List.find?_map]
  rw [show ((fun x : Group => x.id == k) ∘ s.noteGroup) = fun x => x.id == k from rfl, hf]
  rfl

theorem placesOfACore_holds : Claims.PlacesOfACore := by
  refine ⟨fun s core none_ => ⟨fun room ready => ?_, fun full => ?_⟩, fun s g hg => ⟨?_, ?_, ?_, ?_, ?_⟩⟩
  · obtain ⟨g, mem, next, urgent, aged⟩ := State.nextActive_spec ready
    refine ⟨g, mem, ?_, urgent, aged⟩
    rw [State.activate_eq none_, State.fillPlace, if_neg (Nat.not_le.2 room), next]
  · rw [State.activate_eq none_, State.fillPlace, if_pos full]
  · intro active alive over_
    have run : exec (.quantumExpiry g.id) s = .next (s.quantum g.id) := rfl
    simp only [run, State.quantum, hg, active, alive, Bool.and_self, if_true, State.advance_of_le s over_]
  · intro ready
    have run : exec (.pendingAging g.id) s = .next (s.age g.id) := rfl
    have idle : g.active = false := by
      simp only [State.ready, Bool.and_eq_true, Bool.not_eq_true'] at ready
      exact ready.1.2
    obtain ⟨v, hv⟩ := State.advance_group hg (g.since + 8192)
    refine ⟨s.advance (g.since + 8192), g.timed v, ?_, State.advance_clock _ _, State.advance_mem _ _,
      State.advance_launches _ _, hv, ?_⟩
    · simp only [run, State.age, hg, ready, if_true]
    · have : (g.timed v).active = false ∧ (g.timed v).since = g.since := ⟨idle, rfl⟩
      simp [State.aged, this.1, this.2, State.advance_clock]
  · exact ⟨s.noteGroup g, State.group?_noteReady hg, rfl, rfl⟩
  · intro k x ready urgent since long full lowest
    have run : exec (.urgentDisplacement g.id) s = .next (s.displace g.id) := rfl
    have time : s.advance (g.readySince.getD s.clock + 64) = s := State.advance_of_le s (by rw [since]; exact long)
    simp only [run, State.displace, hg, ready, urgent, Bool.and_self, if_true, time, if_neg (Nat.not_lt.2 full), lowest]
  · intro k asked alive long
    have run : exec (.forcedStop g.id) s = .next (s.forceStop g.id) := rfl
    have time : s.advance (g.stopAt.getD s.clock + 4096) = s := State.advance_of_le s (by rw [asked]; exact long)
    have forced : s.forceStop g.id = s.stopNow g := by
      simp only [State.forceStop, hg, asked, alive, Option.isSome_some, Bool.and_self, if_true]
    rw [run, forced, State.stopNow, time]

end Sys2Proof.Machine
end

section
/-! PROOFS. The division of a team between two cores (for O48). -/

namespace Sys2Proof.Machine

/-! ### Parts of a list of sizes -/

/-- The sizes that a choice takes, and those that it leaves. -/
def takenOf (l : List Nat) (d : List Bool) : List Nat := ((l.zip d).filter fun x => x.2).map (·.1)
def leftOf (l : List Nat) (d : List Bool) : List Nat := ((l.zip d).filter fun x => !x.2).map (·.1)

@[simp] theorem takenOf_cons (x : Nat) (t : List Nat) (b : Bool) (d : List Bool) :
    takenOf (x :: t) (b :: d) = if b then x :: takenOf t d else takenOf t d := by
  cases b <;> rfl

@[simp] theorem leftOf_cons (x : Nat) (t : List Nat) (b : Bool) (d : List Bool) :
    leftOf (x :: t) (b :: d) = if b then leftOf t d else x :: leftOf t d := by
  cases b <;> rfl

theorem taken_and_left (l : List Nat) : ∀ d : List Bool, d.length = l.length →
    (takenOf l d).sum + (leftOf l d).sum = l.sum ∧ (takenOf l d).length + (leftOf l d).length = l.length := by
  induction l with
  | nil => intro d _; simp [takenOf, leftOf]
  | cons x t ih =>
    rintro (_ | ⟨b, d⟩) h
    · cases h
    · obtain ⟨hs, hc⟩ := ih d (by simpa using h)
      cases b <;> simp <;> omega

theorem partSums_cons_getD (x : Nat) (t : List Nat) (k : Nat) : (partSums (x :: t)).getD k 0 =
    (partSums t).getD k 0 ||| (if k = 0 then 0 else (partSums t).getD (k - 1) 0 * 2 ^ x) := by
  simp only [partSums, List.getD_eq_getElem?_getD, List.getElem?_map]
  by_cases h : k < (partSums t).length + 1
  · simp [h]
  · have h0 : (partSums t)[k]? = none := List.getElem?_eq_none (by omega)
    have h1 : (partSums t)[k - 1]? = none := List.getElem?_eq_none (by omega)
    simp [h, h0, h1]

/-- The bits of `partSums`: the sums of the parts with so many members. -/
theorem testBit_partSums (l : List Nat) : ∀ k i, ((partSums l).getD k 0).testBit i = true ↔
    ∃ d : List Bool, d.length = l.length ∧ (takenOf l d).length = k ∧ (takenOf l d).sum = i := by
  induction l with
  | nil =>
    intro k i
    constructor
    · intro h
      refine ⟨[], rfl, ?_⟩
      cases k with
      | zero =>
        have : i = 0 := by simpa [partSums, Nat.testBit_one_eq_true_iff_self_eq_zero] using h
        simp [takenOf, this]
      | succ k => simp [partSums] at h
    · rintro ⟨d, -, rfl, rfl⟩
      simp [takenOf, partSums]
  | cons x t ih =>
    intro k i
    rw [partSums_cons_getD, Nat.testBit_or, Bool.or_eq_true, ih]
    constructor
    · rintro (⟨d, hd, hk, hi⟩ | h)
      · exact ⟨false :: d, by simp [hd], by simpa using hk, by simpa using hi⟩
      · split at h
        · simp at h
        · next k0 =>
          rw [Nat.testBit_mul_two_pow, Bool.and_eq_true, decide_eq_true_eq, ih] at h
          obtain ⟨le, d, hd, hk, hi⟩ := h
          exact ⟨true :: d, by simp [hd], by simp [hk]; omega, by simp [hi]; omega⟩
    · rintro ⟨_ | ⟨b, d⟩, hd, hk, hi⟩
      · cases hd
      · have hd' : d.length = t.length := by simpa using hd
        cases b with
        | false => exact .inl ⟨d, hd', by simpa using hk, by simpa using hi⟩
        | true =>
          simp only [takenOf_cons, if_true, List.length_cons, List.sum_cons] at hk hi
          refine .inr ?_
          rw [if_neg (by omega), Nat.testBit_mul_two_pow, Bool.and_eq_true, decide_eq_true_eq, ih]
          exact ⟨by omega, d, hd', by omega, by omega⟩

/-- A window of bits is not empty: one of them is set. -/
theorem bits_ne_zero (n a b : Nat) : n / 2 ^ a % 2 ^ b ≠ 0 ↔ ∃ i, a ≤ i ∧ i < a + b ∧ n.testBit i = true := by
  constructor
  · intro h
    obtain ⟨i, hi⟩ := Nat.exists_testBit_of_ne_zero h
    rw [Nat.testBit_mod_two_pow, Nat.testBit_div_two_pow, Bool.and_eq_true, decide_eq_true_eq] at hi
    exact ⟨i + a, by omega, by omega, hi.2⟩
  · rintro ⟨i, ha, hb, hi⟩ e
    have := Nat.testBit_mod_two_pow (n / 2 ^ a) b (i - a)
    rw [e, Nat.zero_testBit, Nat.testBit_div_two_pow, Nat.sub_add_cancel ha, hi, decide_eq_true (by omega)] at this
    cases this

/-! ### Divisions (R155) -/

/-- A choice that fits: each side within its store and its slots. -/
def Splits (l : List Nat) (ra sa rb sb : Nat) (d : List Bool) : Prop :=
  d.length = l.length ∧ (takenOf l d).sum ≤ ra ∧ (takenOf l d).length ≤ sa ∧ (leftOf l d).sum ≤ rb ∧
    (leftOf l d).length ≤ sb

theorem splits_true {x : Nat} {t : List Nat} {ra sa rb sb : Nat} {d : List Bool} :
    Splits (x :: t) ra sa rb sb (true :: d) ↔ x ≤ ra ∧ 1 ≤ sa ∧ Splits t (ra - x) (sa - 1) rb sb d := by
  simp [Splits]
  omega

theorem splits_false {x : Nat} {t : List Nat} {ra sa rb sb : Nat} {d : List Bool} :
    Splits (x :: t) ra sa rb sb (false :: d) ↔ x ≤ rb ∧ 1 ≤ sb ∧ Splits t ra sa (rb - x) (sb - 1) d := by
  simp [Splits]
  omega

/-- The part tells exactly whether sizes can be divided. -/
theorem dividable_iff (l : List Nat) (ra sa rb sb : Nat) : dividable l ra sa rb sb = true ↔ ∃ d, Splits l ra sa rb sb
    d := by
  simp only [dividable, List.any_eq_true, Bool.and_eq_true, decide_eq_true_eq, bne_iff_ne, Prod.exists, bits_ne_zero]
  constructor
  · rintro ⟨n, k, mem, ⟨hsa, hsb⟩, i, lo, hi, bit⟩
    have at_ : (partSums l).getD k 0 = n := by
      rw [List.getD_eq_getElem?_getD, List.mem_zipIdx_iff_getElem?.1 mem]
      rfl
    rw [← at_, testBit_partSums] at bit
    obtain ⟨d, hd, hk, hs⟩ := bit
    obtain ⟨sums, counts⟩ := taken_and_left l d hd
    exact ⟨d, hd, by omega, by omega, by omega, by omega⟩
  · rintro ⟨d, hd, h1, h2, h3, h4⟩
    obtain ⟨sums, counts⟩ := taken_and_left l d hd
    have bit := (testBit_partSums l _ _).2 ⟨d, hd, rfl, rfl⟩
    have inside : (takenOf l d).length < (partSums l).length := by
      by_contra c
      rw [List.getD_eq_getElem?_getD, List.getElem?_eq_none (by omega)] at bit
      simp at bit
    refine ⟨(partSums l).getD (takenOf l d).length 0, (takenOf l d).length, ?_, ⟨h2, by omega⟩, _, ?_, ?_, bit⟩
    · rw [List.mem_zipIdx_iff_getElem?, List.getD_eq_getElem?_getD, List.getElem?_eq_getElem inside]
      rfl
    · omega
    · omega

/-- What is found fits, and something is found whenever something fits. -/
theorem divide_spec (l : List (Nat × Bool)) : ∀ ra sa rb sb,
    (∀ d, divide l ra sa rb sb = some d → Splits (l.map (·.1)) ra sa rb sb d) ∧
    ((∃ d, Splits (l.map (·.1)) ra sa rb sb d) → (divide l ra sa rb sb).isSome = true) := by
  induction l with
  | nil =>
    intro ra sa rb sb
    refine ⟨fun d h => ?_, fun _ => rfl⟩
    cases h
    simp [Splits, takenOf, leftOf]
  | cons p t ih =>
    obtain ⟨x, here⟩ := p
    intro ra sa rb sb
    let onA := decide (x ≤ ra) && decide (1 ≤ sa) && dividable (t.map (·.1)) (ra - x) (sa - 1) rb sb
    let onB := decide (x ≤ rb) && decide (1 ≤ sb) && dividable (t.map (·.1)) ra sa (rb - x) (sb - 1)
    have hA : onA = true ↔ x ≤ ra ∧ 1 ≤ sa ∧ ∃ d, Splits (t.map (·.1)) (ra - x) (sa - 1) rb sb d := by
      simp only [onA, Bool.and_eq_true, decide_eq_true_eq, dividable_iff, and_assoc]
    have hB : onB = true ↔ x ≤ rb ∧ 1 ≤ sb ∧ ∃ d, Splits (t.map (·.1)) ra sa (rb - x) (sb - 1) d := by
      simp only [onB, Bool.and_eq_true, decide_eq_true_eq, dividable_iff, and_assoc]
    have step : divide ((x, here) :: t) ra sa rb sb =
        if onA && (here || !onB) then (divide t (ra - x) (sa - 1) rb sb).map (true :: ·)
        else if onB then (divide t ra sa (rb - x) (sb - 1)).map (false :: ·) else none := rfl
    rw [step]
    refine ⟨fun d h => ?_, fun h => ?_⟩
    · split at h
      · next c =>
        obtain ⟨e, he, rfl⟩ := Option.map_eq_some_iff.1 h
        obtain ⟨le, one, -⟩ := hA.1 (Bool.and_eq_true_iff.1 c).1
        exact splits_true.2 ⟨le, one, (ih _ _ _ _).1 e he⟩
      · split at h
        · next c =>
          obtain ⟨e, he, rfl⟩ := Option.map_eq_some_iff.1 h
          obtain ⟨le, one, -⟩ := hB.1 c
          exact splits_false.2 ⟨le, one, (ih _ _ _ _).1 e he⟩
        · cases h
    · have either : onA = true ∨ onB = true := by
        obtain ⟨_ | ⟨b, d⟩, hd⟩ := h
        · exact absurd hd.1 (by simp)
        · cases b with
          | true =>
            obtain ⟨le, one, hd⟩ := splits_true.1 hd
            exact .inl (hA.2 ⟨le, one, d, hd⟩)
          | false =>
            obtain ⟨le, one, hd⟩ := splits_false.1 hd
            exact .inr (hB.2 ⟨le, one, d, hd⟩)
      split
      · next c =>
        rw [Option.isSome_map]
        exact (ih _ _ _ _).2 (hA.1 (Bool.and_eq_true_iff.1 c).1).2.2
      · next c =>
        have b : onB = true := by
          rcases either with a | b
          · cases hb : onB with
            | true => rfl
            | false =>
              rw [a, hb] at c
              simp at c
          · exact b
        rw [if_pos b, Option.isSome_map]
        exact (ih _ _ _ _).2 (hB.1 b).2.2

theorem takenOf_map (l : List (Nat × Bool)) : ∀ d : List Bool,
    takenOf (l.map (·.1)) d = ((l.zip d).filter fun x => x.2).map fun x => x.1.1 := by
  induction l with
  | nil => intro d; rfl
  | cons p t ih =>
    rintro (_ | ⟨b, d⟩)
    · rfl
    · cases b <;> simp [ih]

theorem leftOf_map (l : List (Nat × Bool)) : ∀ d : List Bool,
    leftOf (l.map (·.1)) d = ((l.zip d).filter fun x => !x.2).map fun x => x.1.1 := by
  induction l with
  | nil => intro d; rfl
  | cons p t ih =>
    rintro (_ | ⟨b, d⟩)
    · rfl
    · cases b <;> simp [ih]

theorem divisionIsFound_holds : Claims.DivisionIsFound := by
  intro l ra sa rb sb fits
  have same : ∀ d, Splits (l.map (·.1)) ra sa rb sb d ↔ fits d := by
    intro d
    simp only [Splits, takenOf_map, leftOf_map, List.length_map, fits]
  obtain ⟨found, finds⟩ := divide_spec l ra sa rb sb
  exact ⟨fun d h => (same d).1 (found d h), fun ⟨d, h⟩ => finds ⟨d, (same d).2 h⟩⟩

end Sys2Proof.Machine
end

section
/-! PROOFS. The stalemate of WGROW (O48). -/

namespace Sys2Proof.Machine

/-! ### MMAs that are withdrawn and presented again (R333) -/

theorem State.unbinds_onPod (s : State) (p : Nat) (f : Pod → Pod) : s.Unbinds (s.onPod p f) := .of_groups rfl rfl rfl
    rfl

theorem State.unbinds_withdrawMma (s : State) (k : GroupId) : s.Unbinds (s.withdrawMma k) := by
  unfold State.withdrawMma
  split
  · exact .refl s
  · next a _ =>
    dsimp only
    have pods (clean : Pod → Pod) : s.Unbinds (s.pods.foldl (fun s p => s.onPod p.1 clean) s) :=
      .foldl (fun s p => s.unbinds_onPod _ _) s.pods s
    have out := (pods fun p => { p with latches := (p.latches.map fun x =>
      { x with arrived := x.arrived.filter fun y => decide (y.gid ≠ k) }).filter fun x => !x.arrived.isEmpty }).trans
      (.onGroup _ k (f := fun g => { g with withdrawn := some a })
        fun _ => ⟨rfl, rfl, rfl, rfl, rfl, rfl, rfl, rfl, rfl, rfl, rfl, rfl, rfl⟩)
    split
    · exact out.trans (State.unbinds_handTiles _ _)
    · exact out

theorem State.unbinds_enterLatch (s : State) (pod : Nat) (a : Arrived) : s.Unbinds (s.enterLatch pod a) := by
  unfold State.enterLatch
  dsimp only
  split
  · exact (s.unbinds_onPod _ _).trans (State.unbinds_breakGangs _ _)
  · exact s.unbinds_onPod _ _

theorem State.unbinds_presentMma (s : State) (k : GroupId) : s.Unbinds (s.presentMma k) := by
  have out (s : State) : s.Unbinds (s.onGroup k fun x => { x with withdrawn := none }) :=
    .onGroup _ _ fun _ => ⟨rfl, rfl, rfl, rfl, rfl, rfl, rfl, rfl, rfl, rfl, rfl, rfl, rfl⟩
  unfold State.presentMma
  split
  · exact .refl s
  · next g a _ =>
    dsimp only
    split
    · exact (out s).trans (State.unbinds_failMma _ _ _)
    · split
      · split
        · exact (s.unbinds_enterLatch _ _).trans (out _)
        · refine State.Unbinds.trans ?_ (State.unbinds_failMma _ _ _)
          refine State.Unbinds.trans ?_ (out _)
          exact (s.unbinds_onPod _ _).trans (State.unbinds_withdrawLatch _ _ _)
      · split
        · exact .refl s
        · exact (s.unbinds_enterLatch _ _).trans (out _)

/-! ### Groups that leave a core and come back (R157) -/

theorem State.fitL1_groups (s : State) (core : Nat) : (s.fitL1 core).groups = s.groups := by
  rcases s.fitL1_cases core with e | ⟨p, e⟩
  · rw [e]
  · rw [e]
    exact State.writeBack_groups s core p

/-- What of a group the save and the restore of groups keep. -/
structure Group.SameRegs (g y : Group) : Prop where
  id : y.id = g.id
  n : y.n = g.n
  vregs : y.vregs = g.vregs
  sregs : y.sregs = g.sregs

theorem State.group?_saveGroup {s : State} {k m : GroupId} {g : Group} (hg : s.group? m = some g) :
    ∃ y, (s.saveGroup k).group? m = some y ∧ g.SameRegs y ∧ y.core = g.core ∧ (k ≠ m → y.resident = g.resident) := by
  unfold State.saveGroup
  split
  · exact ⟨g, hg, ⟨rfl, rfl, rfl, rfl⟩, rfl, fun _ => rfl⟩
  · next x _ =>
    have groups : ((s.release x.core).acquire x.core).groups = s.groups := State.writeBack_groups s x.core fun _ => true
    have h0 : ((s.release x.core).acquire x.core).group? m = some g := by
      rw [State.group?, groups]
      exact hg
    obtain ⟨y, hy, same⟩ := (State.unbinds_withdrawMma ((s.release x.core).acquire x.core) k).group? h0
    let away : Group → Group := fun y => { y with
      resident := false, active := false, leave := false, since := s.clock, readySince := none }
    have h1 := (State.group?_onGroup (((s.release x.core).acquire x.core).withdrawMma k) k m away fun _ => rfl).trans
      (congrArg _ hy)
    refine ⟨_, h1, ?_⟩
    by_cases c : y.id = k
    · simp only [if_pos c]
      refine ⟨⟨same.id, same.n, same.vregs, same.sregs⟩, same.core, fun ne => absurd ?_ ne⟩
      rw [← c, State.group?_id hy]
    · simp only [if_neg c]
      exact ⟨⟨same.id, same.n, same.vregs, same.sregs⟩, same.core, fun _ => same.resident⟩

theorem State.group?_bringBack {s : State} {k m : GroupId} {core : Nat} {g : Group} (hg : s.group? m = some g) :
    ∃ y, (s.bringBack k core id).group? m = some y ∧ g.SameRegs y ∧ (k = m → y.core = core ∧ y.resident = true) ∧
      (k ≠ m → y.core = g.core ∧ y.resident = g.resident) := by
  let back := fun x : Group => { x with resident := true, core := core, active := false, leave := false, since :=
      s.clock,
                                        readyAt := max x.readyAt s.clock, pos := x.pos.resume }
  let s1 := s.onGroup k back
  have h1 : s1.group? m = some (if g.id = k then back g else g) :=
    (State.group?_onGroup s k m back fun _ => rfl).trans (congrArg _ hg)
  have groups : ((s1.acquire core).fitL1 core).groups = s1.groups := State.fitL1_groups _ _
  have h2 : ((s1.acquire core).fitL1 core).group? m = some (if g.id = k then back g else g) := by
    rw [State.group?, groups]
    exact h1
  obtain ⟨y, hy, same⟩ := (State.unbinds_presentMma ((s1.acquire core).fitL1 core) k).group? h2
  have gm : g.id = m := State.group?_id hg
  refine ⟨y, hy, ?_⟩
  by_cases c : g.id = k
  · rw [if_pos c] at same
    exact ⟨⟨same.id, same.n, same.vregs, same.sregs⟩, fun _ => ⟨same.core, same.resident⟩,
      fun ne => absurd (c.symm.trans gm) ne⟩
  · rw [if_neg c] at same
    exact ⟨⟨same.id, same.n, same.vregs, same.sregs⟩, fun e => absurd (gm.trans e.symm) c,
      fun _ => ⟨same.core, same.resident⟩⟩

theorem Group.SameRegs.trans {a b c : Group} (h : a.SameRegs b) (k : b.SameRegs c) : a.SameRegs c :=
  ⟨k.id.trans h.id, k.n.trans h.n, k.vregs.trans h.vregs, k.sregs.trans h.sregs⟩

/-- A group while groups leave: its registers and its core stay, and it is resident unless it has left. -/
theorem State.group?_saves (l : List Group) {m : GroupId} : ∀ {s : State} {g : Group}, s.group? m = some g →
    ∃ y, (l.foldl (fun s x => s.saveGroup x.id) s).group? m = some y ∧ g.SameRegs y ∧ y.core = g.core ∧
      ((∀ x ∈ l, x.id ≠ m) → y.resident = g.resident) := by
  induction l with
  | nil => exact fun {s g} hg => ⟨g, hg, ⟨rfl, rfl, rfl, rfl⟩, rfl, fun _ => rfl⟩
  | cons x l ih =>
    intro s g hg
    obtain ⟨y, hy, same, core, res⟩ := State.group?_saveGroup (k := x.id) hg
    obtain ⟨z, hz, same', core', res'⟩ := ih hy
    exact ⟨z, hz, same.trans same', core'.trans core, fun h => (res' fun v hv => h v (List.mem_cons_of_mem _ hv)).trans
      (res (h x List.mem_cons_self))⟩

/-- A group while groups come back, each on the other core of its pair: on its core as before, or on the other once it
has come back; and resident if it was or once it has come back. -/
theorem State.group?_returns (l : List Group) {m : GroupId} {core : Nat} (hl : ∀ x ∈ l, x.id = m → x.core = core) :
    ∀ {s : State} {g : Group}, s.group? m = some g →
      ∃ y, (l.foldl (fun s x => s.bringBack x.id (partner x.core) id) s).group? m = some y ∧ g.SameRegs y ∧
        (y.core = g.core ∨ y.core = partner core) ∧ (g.resident = true ∨ (∃ x ∈ l, x.id = m) → y.resident = true) := by
  induction l with
  | nil => exact fun {s g} hg => ⟨g, hg, ⟨rfl, rfl, rfl, rfl⟩, .inl rfl, fun h => h.elim id (by simp)⟩
  | cons x l ih =>
    intro s g hg
    obtain ⟨y, hy, same, back, stays⟩ := State.group?_bringBack (k := x.id) (core := partner x.core) hg
    obtain ⟨z, hz, same', core', res'⟩ := ih (fun v hv => hl v (List.mem_cons_of_mem _ hv)) hy
    refine ⟨z, hz, same.trans same', ?_, fun h => res' ?_⟩
    · rcases core' with e | e
      · by_cases c : x.id = m
        · rw [(back c).1, hl x List.mem_cons_self c] at e
          exact .inr e
        · rw [(stays c).1] at e
          exact .inl e
      · exact .inr e
    · by_cases c : x.id = m
      · exact .inl (back c).2
      · rcases h with h | ⟨v, hv, e⟩
        · exact .inl ((stays c).2.trans h)
        · rcases List.mem_cons.1 hv with rfl | hv
          · exact absurd e c
          · exact .inr ⟨v, hv, e⟩

theorem State.group?_moveGroups {s : State} {g : Group} (l : List Group) (hg : s.group? g.id = some g)
    (hl : ∀ x ∈ l, x.id = g.id → x = g) (res : g.resident = true) :
    ∃ y, (s.moveGroups l).group? g.id = some y ∧ g.SameRegs y ∧ (y.core = g.core ∨ y.core = partner g.core) ∧
      y.resident = true := by
  obtain ⟨y, hy, same, core, stays⟩ := State.group?_saves l hg
  obtain ⟨z, hz, same', core', back⟩ := State.group?_returns l (core := g.core)
    (fun x hx e => congrArg Group.core (hl x hx e)) hy
  refine ⟨z, hz, same.trans same', ?_, back ?_⟩
  · rw [core] at core'
    exact core'
  · by_cases c : ∀ x ∈ l, x.id ≠ g.id
    · exact .inl ((stays c).trans res)
    · push Not at c
      exact .inr c

/-! ### The request of a WGROW (R155, R156) -/

theorem State.rehome_moves {s u : State} {g : Group} {n : Nat} (h : s.rehome g n = some u) :
    ∃ l : List Group, u = s.moveGroups l ∧ ∀ x ∈ l, x ∈ s.groups := by
  unfold State.rehome at h
  split at h
  · cases h
  · obtain ⟨d, -, rfl⟩ := Option.map_eq_some_iff.1 h
    refine ⟨_, rfl, fun x hx => ?_⟩
    obtain ⟨p, hp, rfl⟩ := List.mem_map.1 hx
    have mem : p.1 ∈ s.movable g := (List.of_mem_zip (List.mem_filter.1 hp).1).1
    exact (List.mem_filter.1 (List.mem_filter.1 mem).1).1

/-- What the part is once a request is met. -/
def State.grown (s : State) (g : Group) (n : Nat) : State :=
  let t := s.onGroup g.id fun x => { x with n := max x.n n, wait := none }
  ((t.group? g.id).map fun g => t.fitL1 g.core).getD t

theorem State.satisfy_eq (s : State) (g : Group) (n : Nat) :
    s.satisfy g n = (if s.growFits g n then some s else s.rehome g n).map fun t => t.grown g n := rfl

theorem State.group?_grown {s : State} {g y : Group} (n : Nat) (hy : s.group? g.id = some y) :
    (s.grown g n).group? g.id = some { y with n := max y.n n, wait := none } := by
  have id : y.id = g.id := State.group?_id hy
  have h := State.group?_onGroup_self s g.id (fun x => { x with n := max x.n n, wait := none }) y hy id
  unfold State.grown
  simp only [h, Option.map_some, Option.getD_some]
  rw [State.group?, State.fitL1_groups]
  exact h

theorem State.grown_eq {s : State} {g : Group} (n : Nat) (hg : s.group? g.id = some g) :
    s.grown g n = (s.onGroup g.id fun x => { x with n := max x.n n, wait := none }).fitL1 g.core := by
  have h := State.group?_onGroup_self s g.id (fun x => { x with n := max x.n n, wait := none }) g hg rfl
  unfold State.grown
  simp only [h, Option.map_some, Option.getD_some]

/-! ### The note that a save area's header is uncorrectable (R391) -/

theorem State.journalAdd_groups (s : State) (k d src u : Nat) (loc : Word) : (s.journalAdd k d src u loc).groups =
    s.groups := by
  obtain ⟨j, a, b, c, e⟩ := s.journalAdd_only k d src u loc
  rw [e]

theorem State.journalSpan_groups (s : State) (pa len : Nat) (obj : Bool) : (s.journalSpan pa len obj).groups =
    s.groups := by
  unfold State.journalSpan
  generalize (once ((State.span pa len).map (· / 32))).filter (fun k => s.poisoned (32 * k)) = l
  induction l generalizing s with
  | nil => rfl
  | cons k l ih => exact (ih _).trans (State.journalAdd_groups _ _ _ _ _ _)

theorem State.readNow_groups (s : State) (va len : Nat) : (s.readNow va len).1.groups = s.groups := by
  unfold State.readNow
  split
  · split
    · rfl
    · split
      · exact State.journalSpan_groups _ _ _ _
      · rfl
  · unfold State.noteWalk
    split
    · rfl
    · split
      · exact State.journalAdd_groups _ _ _ _ _ _
      · rfl

theorem State.noteHeader_groups (s : State) (l : Launch) : (s.noteHeader l).groups = s.groups := by
  unfold State.noteHeader
  split
  · rfl
  · dsimp only
    split
    · rfl
    · exact s.readNow_groups _ _

theorem State.noteHeaders_groups (l : List Group) : ∀ s : State,
    (l.foldl (fun (u : State) (x : Group) => ((u.launch? (lidOf x.id)).map u.noteHeader).getD u) s).groups =
        s.groups := by
  induction l with
  | nil => exact fun s => rfl
  | cons x l ih =>
    intro s
    have one : (((s.launch? (lidOf x.id)).map s.noteHeader).getD s).groups = s.groups := by
      cases s.launch? (lidOf x.id) with
      | none => rfl
      | some l => exact s.noteHeader_groups l
    exact (ih _).trans one

theorem foldl_pick_mem {α : Type} {f : Option α → α → Option α} (hf : ∀ a x, f a x = some x ∨ (f a x = a ∧ a ≠ none))
    {l : List α} {x : α} (h : l.foldl f none = some x) : x ∈ l := ((foldl_pick hf l none).1 x h).resolve_right (by simp)

theorem State.oldest_mem {s : State} {l : List Group} {g : Group} (h : s.oldest l = some g) : g ∈ l := by
  refine foldl_pick_mem (fun a x => ?_) h
  cases a with
  | none => exact .inl rfl
  | some h =>
    dsimp only
    split
    · exact .inl rfl
    · exact .inr ⟨rfl, Option.some_ne_none h⟩

theorem wgrowStalemate_holds : Claims.WgrowStalemate := by
  intro s core n g first waits only
  have run : exec (.wgrowStalemate core) s = .next (s.stalemate core) := rfl
  obtain ⟨mem, res⟩ : g ∈ s.groups ∧ g.resident = true := by
    have h := (List.mem_filter.1 (List.mem_filter.1 (State.oldest_mem first)).1)
    exact ⟨h.1, (Bool.and_eq_true_iff.1 h.2).1⟩
  have here : ∀ t : State, t.groups = s.groups → t.group? g.id = some g := by
    intro t e
    have some_ : (s.groups.find? fun x => x.id == g.id).isSome = true :=
      List.find?_isSome.2 ⟨g, mem, by simp⟩
    obtain ⟨x, hx⟩ := Option.isSome_iff_exists.1 some_
    have : x = g := only x (List.mem_of_find?_eq_some hx) (by simpa using List.find?_some hx)
    rw [State.group?, e, hx, this]
  have step : s.stalemate core = match s.rehome g n >>= fun _ => s.satisfy g n with
      | some t => t
      | none =>
        if s.coreMoves core && decide (s.clock < Sparse.get 0 s.coreIssue core + 256) then s
        else
          let s := s.advance (Sparse.get 0 s.coreIssue core + 256)
          let s := ((s.stalemateCores g).flatMap s.onCore).foldl
            (fun s g => ((s.launch? (lidOf g.id)).map s.noteHeader).getD s) s
          s.freeStore g n ((s.onCore core).length + (s.onCore (partner core)).length + 1) := by
    simp only [State.stalemate, first, waits] <;> rfl
  refine ⟨fun u hu => ?_, fun none_ moves early => ?_, fun none_ late => ?_⟩
  · obtain ⟨t0, y0, ht0, hy0, same, core0, res0⟩ : ∃ (t0 : State) (y0 : Group), s.satisfy g n = some (t0.grown g n) ∧
        t0.group? g.id = some y0 ∧ g.SameRegs y0 ∧ (y0.core = g.core ∨ y0.core = partner g.core) ∧ y0.resident =
            true := by
      rw [State.satisfy_eq]
      by_cases fits : s.growFits g n = true
      · exact ⟨s, g, by rw [if_pos fits]; rfl, here s rfl, ⟨rfl, rfl, rfl, rfl⟩, .inl rfl, res⟩
      · obtain ⟨l, rfl, inside⟩ := State.rehome_moves hu
        obtain ⟨y, hy, same, c, r⟩ := State.group?_moveGroups l (here s rfl) (fun x hx e => only x (inside x hx) e) res
        exact ⟨_, y, by rw [if_neg fits, hu]; rfl, hy, same, c, r⟩
    refine ⟨t0.grown g n, _, ?_, State.group?_grown n hy0, core0, ?_, rfl, res0, same.vregs, same.sregs⟩
    · rw [run, step, hu, Option.bind_eq_bind, Option.bind_some, ht0]
    · change max y0.n n = _
      rw [same.n]
  · rw [run, step, none_, moves, decide_eq_true early]
    rfl
  · intro s1
    have started : s.stalemate core = s1.freeStore g n ((s1.onCore core).length + (s1.onCore (partner core)).length +
        1) := by
      have over_ : decide (s.clock < Sparse.get 0 s.coreIssue core + 256) = false := decide_eq_false (Nat.not_lt.2 late)
      rw [step, none_, over_, Bool.and_false]
      simp only [Option.bind_eq_bind, Option.bind_none, Bool.false_eq_true, if_false, State.advance_of_le s late]
      rfl
    have here1 : s1.group? g.id = some g := here s1 (State.noteHeaders_groups _ s)
    refine ⟨fun fits => ?_, fun full stays nobody => ?_⟩
    · rw [run, started, State.freeStore, State.satisfy_eq, if_pos fits, Option.map_some, State.grown_eq n here1]
    · rw [run, started, State.freeStore, State.satisfy_eq, if_neg (ne_true_of_eq_false full), stays, Option.map_none]
      simp only [nobody]

/-- Settles O48: runner events, active places, the stalemate of WGROW, and the division that it looks for. -/
theorem placesAndRunnerEvents : Obligations.PlacesAndRunnerEvents :=
  ⟨runnerEvents_holds, placesOfACore_holds, wgrowStalemate_holds, divisionIsFound_holds⟩

end Sys2Proof.Machine
end

section
/-! PROOFS. Page walks and the records of translation faults (O49). -/

namespace Sys2Proof.Machine

/-! ### Walks (R288, R291, R308) -/

theorem State.tableWalk_group {s : State} {g : Group} {va : Nat} {x w : Bool} (hg : s.group? g.id = some g)
    (waits : g.wait = some (.walk [va] x w)) :
    exec (.tableWalk (.group g.id)) s = .next (match s.walkOne g.core va with
      | (s, none) => s.onGroup g.id fun y => { y with wait := none, missAt := none }
      | (s, some lvl) => (s.setGroup (g.await s.clock (.xlate [(va, lvl)]))).addRecord (lidOf g.id)
          (faultRecord g va lvl x w false g.missed)) := by
  have run : exec (.tableWalk (.group g.id)) s = .next (s.tableWalk (.group g.id)) := rfl
  rw [run, State.tableWalk, hg]
  simp only [waits, State.walkForGroup, State.walkEach]
  rcases s.walkOne g.core va with ⟨t, _ | lvl⟩ <;> rfl

theorem State.addRecord_launch {s : State} {k : Nat} {l : Launch} (hl : s.launch? k = some l) (r : FaultRec) :
    (s.addRecord k r).launch? k = some { l with records := l.records ++ [r] } :=
  State.launch?_onLaunch_self s k (fun l => { l with records := l.records ++ [r] }) l hl fun _ => rfl

theorem walksEnd_holds : Claims.WalksEnd := by
  refine ⟨fun s g va x w hg waits => ⟨fun t hk => ?_, fun t hk hw => ?_, fun lvl l hk hw hl => ?_⟩, ?_⟩
  · rw [State.tableWalk_group hg waits]
    simp only [State.walkOne, hk]
  · rw [State.tableWalk_group hg waits]
    simp only [State.walkOne, hk, hw]
  · have e := State.tableWalk_group hg waits
    simp only [State.walkOne, hk, hw, State.journalTable] at e
    have here : (s.setGroup (g.await s.clock (.xlate [(va, lvl)]))).group? g.id = some
        (g.await s.clock (.xlate [(va, lvl)])) :=
      State.group?_setGroup_self s g (g.await s.clock (.xlate [(va, lvl)])) hg
    exact ⟨_, _, _, _, e, here, rfl, Bool.and_false _, State.addRecord_launch hl _, rfl, rfl, rfl, rfl, rfl, rfl, rfl,
        rfl,
      rfl⟩
  · intro s o va w ho walks u
    have run : exec (.tableWalk (.op o.n)) s = .next (s.walkForOp o va w) := by
      have : exec (.tableWalk (.op o.n)) s = .next (s.tableWalk (.op o.n)) := rfl
      rw [this, State.tableWalk, ho]
      simp only [walks]
    refine ⟨fun t hk => ?_, fun t hk hw => ?_, fun lvl hk hw => ?_⟩
    · simp only [run, State.walkForOp, u] at hk ⊢
      simp only [hk]
    · simp only [run, State.walkForOp, u] at hk ⊢
      simp only [hk, hw]
    · let held : Op → Op := fun y => { y with walk := none, fault := some (va, lvl) }
      have e : s.walkForOp o va w = match (s.onOp o.n held).group? o.gid with
          | some g => (s.onOp o.n held).addRecord (lidOf o.gid) (faultRecord g va lvl false w true o.addr)
          | none => s.onOp o.n held := by
        simp only [State.walkForOp, u] at hk ⊢
        simp only [hk, hw]
        rfl
      have here : (s.onOp o.n held).op? o.n = some (held o) := by
        rw [State.op?_onOp s o.n o.n held fun _ => rfl, ho, Option.map_some, if_pos rfl]
      refine ⟨_, held o, run, ?_, rfl, rfl, rfl, ?_⟩
      · rw [e]
        cases (s.onOp o.n held).group? o.gid <;> exact here
      · rw [e]
        cases (s.onOp o.n held).group? o.gid <;> rfl

/-! ### The fault queue (R388) -/

/-- A place of the fault queue that can be read or written is found without a trace. -/
theorem State.queuePlace_some {s t : State} {va pa : Nat} {r : Right} (h : s.queuePlace va r = (t, some pa)) : t =
    s := by
  unfold State.queuePlace at h
  split at h
  · split at h
    · cases h
    · split at h
      · cases h
      · cases h; rfl
  · cases h

theorem State.findQueue_room {s : State} {fq num va pa hdr : Nat} (h : (s.findQueue fq).2 = .room num va pa hdr) :
    s.findQueue fq = (s, .room num va pa hdr) := by
  unfold State.findQueue at h ⊢
  split at h
  · cases h
  · next nz =>
    rw [if_neg nz]
    rcases hq : s.queuePlace fq .read with ⟨t, _ | p⟩
    · rw [hq] at h; cases h
    · have := State.queuePlace_some hq
      subst this
      rw [hq] at h
      dsimp only at h ⊢
      split at h
      · cases h
      · next c1 =>
        rw [if_neg c1]
        split at h
        · cases h
        · next c2 =>
          rw [if_neg c2]
          rcases hw : t.queuePlace (fq + 64 * (1 + ofBytes (t.memRead p 8) % ofBytes (t.memRead (p + 16) 4))) .write
              with ⟨v, _ | q⟩
          · rw [hw] at h; cases h
          · have := State.queuePlace_some hw
            subst this
            rw [hw] at h
            exact congrArg (Prod.mk v) h

theorem State.deliver_only (s : State) (m : Msg) : ∃ a b, s.deliver m = { s with sent := a, held := b } := by
  unfold State.deliver
  split
  · exact ⟨_, s.held, rfl⟩
  · exact ⟨s.sent, _, rfl⟩

/-- A message changes only what is sent, what waits to be sent, and the next number. -/
theorem State.post_only (s : State) (qp : Option Nat) (k st lid : Nat) (arg : Word) (d : BitVec 256) :
    ∃ a b, s.post qp k st lid arg d = { s with sent := a, held := b, seq := s.seq + 1 } := by
  obtain ⟨a, b, e⟩ := s.deliver_only ⟨qp, k, st, lid, arg, d, s.seq⟩
  exact ⟨a, b, by rw [State.post, e]⟩

theorem State.announce_only (s : State) (l : Launch) (r : FaultRec) (bits va : Nat) :
    ∃ a b, s.announce l r bits va = { s with sent := a, held := b, seq := s.seq + 1 } := by
  unfold State.announce
  split <;> exact State.post_only _ _ _ _ _ _ _

theorem State.memRead_homeWrite_self (s : State) (pa n : Nat) (bs : List Byte) (obj : Bool) (len : bs.length = n) :
    (s.homeWrite pa bs obj).memRead pa n = bs := by
  have h := (memoryHoldsWhatIsWritten s pa bs).1
  have e : ∀ a, (s.homeWrite pa bs obj).memGet a = (s.memWrite pa bs).memGet a := fun a => by
    rw [State.memGet, State.homeWrite_mem]
    rfl
  rwa [← len, State.memRead, funext e]

theorem State.memRead_congr {s t : State} {pa n : Nat} (h : ∀ a, pa ≤ a → a < pa + n → t.memGet a = s.memGet a) :
    t.memRead pa n = s.memRead pa n := by
  refine List.map_congr_left fun a ha => ?_
  obtain ⟨k, hk, rfl⟩ := List.mem_map.1 ha
  have := List.mem_range.1 hk
  exact h _ (by omega) (by omega)

theorem State.memGet_homeWrite_other (s : State) (pa : Nat) (bs : List Byte) (obj : Bool) {a : Nat}
    (h : a < pa ∨ pa + bs.length ≤ a) : (s.homeWrite pa bs obj).memGet a = s.memGet a := by
  rw [State.memGet, State.homeWrite_mem]
  exact State.memGet_memWrite_outside bs s pa a h

/-- What two writes at places that do not meet leave. -/
theorem State.homeWrite_twice (s : State) {pa hdr n m : Nat} {bs cs : List Byte} (o o' : Bool) (hb : bs.length = n)
    (hc : cs.length = m) (apart : pa + n ≤ hdr ∨ hdr + m ≤ pa) :
    let t := (s.homeWrite pa bs o).homeWrite hdr cs o'
    t.memRead pa n = bs ∧ t.memRead hdr m = cs ∧
      (∀ a, (a < pa ∨ pa + n ≤ a) → (a < hdr ∨ hdr + m ≤ a) → t.memGet a = s.memGet a) ∧
      t.launches = s.launches ∧ t.seq = s.seq := by
  intro t
  subst hb hc
  refine ⟨?_, State.memRead_homeWrite_self _ hdr _ cs o' rfl, fun a out1 out2 => ?_, ?_⟩
  · refine (State.memRead_congr fun a lo hi => ?_).trans (s.memRead_homeWrite_self pa _ bs o rfl)
    exact State.memGet_homeWrite_other _ _ _ _ (by omega)
  · rw [State.memGet_homeWrite_other _ _ _ _ out2, State.memGet_homeWrite_other _ _ _ _ out1]
  · obtain ⟨m1, q1, x1, h1⟩ := s.homeWrite_cases pa bs o
    obtain ⟨m2, q2, x2, h2⟩ := (s.homeWrite pa bs o).homeWrite_cases hdr cs o'
    simp only [t, h2, h1, and_self]

theorem State.writeRecord_room {s : State} {lid : Nat} {l : Launch} {r : FaultRec} {rest : List FaultRec}
    {num va pa hdr : Nat} (hl : s.launch? lid = some l) (records : l.records = r :: rest) (post : s.canPost = true)
    (room : (s.findQueue l.fqueue).2 = .room num va pa hdr) :
    let s2 := (s.homeWrite pa (leBytes 64 (r.toNat lid num s.ptpNow)) (s.objNow va)).homeWrite hdr (leBytes 8 (num + 1))
      (s.objNow l.fqueue)
    s.writeRecord lid = (s2.onLaunch lid fun x => { x with records := rest }).announce l r (r.toNat lid num s.ptpNow)
        va := by
  intro s2
  simp only [State.writeRecord, hl, records, post, State.findQueue_room room, Bool.not_true, Bool.false_eq_true,
      if_false]
  rfl

theorem recordsAreWritten_holds : Claims.RecordsAreWritten := by
  intro s lid l r rest hl records post
  have run : exec (.faultRecordWrite lid) s = .next (s.writeRecord lid) := rfl
  refine ⟨fun full => ?_, fun num va pa hdr room apart => ?_, fun none_ kind => ?_⟩
  · rcases hq : s.findQueue l.fqueue with ⟨t, q⟩
    rw [hq] at full
    simp only at full
    simp only [run, State.writeRecord, hl, records, post, hq, full, Bool.not_true, Bool.false_eq_true, if_false]
  · have e := State.writeRecord_room hl records post room
    have length_leBytes (n v : Nat) : (leBytes n v).length = n := by simp [leBytes]
    have two := s.homeWrite_twice (s.objNow va) (s.objNow l.fqueue) (length_leBytes 64 (r.toNat lid num s.ptpNow))
      (length_leBytes 8 (num + 1)) apart
    generalize r.toNat lid num s.ptpNow = bits at e two ⊢
    generalize (s.homeWrite pa (leBytes 64 bits) (s.objNow va)).homeWrite hdr (leBytes 8 (num + 1))
        (s.objNow l.fqueue) = s2
      at e two
    obtain ⟨place, header, other, launches, seq⟩ := two
    obtain ⟨x, y, ann⟩ := (s2.onLaunch lid fun x => { x with records := rest }).announce_only l r bits va
    have mem : ∀ a, (s.writeRecord lid).memGet a = s2.memGet a := fun a => by
      rw [e, ann]
      rfl
    have hl2 : s2.launch? lid = some l := by
      rw [State.launch?, launches]
      exact hl
    refine ⟨s.writeRecord lid, { l with records := rest }, run, ?_, rfl,
        (State.memRead_congr fun a _ _ => mem a).trans place,
      (State.memRead_congr fun a _ _ => mem a).trans header, fun a out1 out2 => (mem a).trans (other a out1 out2), ?_⟩
    · rw [e, ann]
      exact State.launch?_onLaunch_self s2 lid (fun x => { x with records := rest }) l hl2 fun _ => rfl
    · rw [e, ann]
      exact congrArg (· + 1) seq
  · have absent : s.findQueue l.fqueue = (s, .absent) := by rw [State.findQueue, if_pos none_]
    have k1 : ¬ r.kind = 1 := by omega
    simp only [run, State.writeRecord, hl, records, post, absent, if_neg k1, State.announce, Bool.not_true,
      Bool.false_eq_true, if_false]
    rfl

/-- Settles O49: walks end, and records are written. -/
theorem walksAndRecords : Obligations.WalksAndRecords := ⟨walksEnd_holds, recordsAreWritten_holds⟩

end Sys2Proof.Machine
end

section
/-! PROOFS. The host's commands, an aborted launch, the acceptance of records, and object files (R80 to R91, R429). -/

namespace Sys2Proof.Machine

/-! ### Host commands (R85, R86, R429) -/

/-- A control message of its own operation that is not bad acts, when the host is not frozen. -/
theorem State.control_acts (s : State) (qp : Nat) (m : BitVec 512) (op : Nat) (act : State → State)
    (he : s.established qp = true) (hf : s.mgmt.hostFrozen = false) (hb : ctlBad m = false) (ho : ctlOp m = op) :
    s.control qp m op act = act s := by
  simp [State.control, he, hf, hb, ho]

/-- A record that names a queue closed to the host freezes the host and leaves the launches. -/
theorem State.hostRecord_of_closed (s : State) (qp : Nat) (r : BitVec 2048) (he : s.established qp = true)
    (hf : s.mgmt.hostFrozen = false) (hc : s.mgmt.closed.getLsbD (field r 196 6) = true) :
    (s.hostRecord qp r).mgmt.hostFrozen = true ∧ (s.hostRecord qp r).launches = s.launches := by
  simp only [State.hostRecord, he, hf, hc, Bool.not_true, Bool.false_eq_true, if_false, if_true, State.journalFreeze,
    State.refuse]
  obtain ⟨j, a, b, c, ej⟩ := State.journalAdd_only { s with mgmt := { s.mgmt with hostFrozen := true } } 10 1 9 0 0
  rw [ej]
  obtain ⟨x, y, ep⟩ := State.post_only { s with
    mgmt := { s.mgmt with hostFrozen := true }, journal := j, sent := a, held := b, seq := c }
    (some qp) 2 Reply.frozen (field r 240 16) 0 0
  rw [ep]
  exact ⟨rfl, rfl⟩

theorem hostCommandsComplete_holds : Claims.HostCommandsComplete := by
  intro s qp he hf
  refine ⟨fun r hc => ?_, fun r hc => ⟨_, rfl, s.hostRecord_of_closed qp r he hf hc⟩, fun len h1 h2 => ?_,
    fun m hb => ?_⟩
  · refine congrArg Host.Outcome.next (?_ : s.hostRecord qp r = _)
    simp [State.hostRecord, he, hf, hc]
  · refine congrArg Host.Outcome.next (?_ : s.badSend qp len = _)
    simp [State.badSend, he, hf, h1, h2, State.refuse]
  · refine ⟨fun ho hl => ?_, fun ho l hl => ?_, fun ho hl => ?_, fun ho l hl => ?_, fun ho hn => ?_, fun ho hn => ?_,
      fun ho hx => ?_, fun ho hx => ?_⟩
    · refine congrArg Host.Outcome.next (?_ : s.hostAbort qp m = _)
      rw [State.hostAbort, s.control_acts qp m 1 _ he hf hb ho, hl]
      rfl
    · refine congrArg Host.Outcome.next (?_ : s.hostAbort qp m = _)
      rw [State.hostAbort, s.control_acts qp m 1 _ he hf hb ho, hl]
      rfl
    · refine congrArg Host.Outcome.next (?_ : s.hostResume qp m = _)
      rw [State.hostResume, s.control_acts qp m 2 _ he hf hb ho, hl]
      rfl
    · refine congrArg Host.Outcome.next (?_ : s.hostResume qp m = _)
      rw [State.hostResume, s.control_acts qp m 2 _ he hf hb ho, hl]
      rfl
    · refine congrArg Host.Outcome.next (?_ : s.hostRegion qp m = _)
      rw [State.hostRegion, s.control_acts qp m 3 _ he hf hb ho, if_neg (Nat.not_le.mpr hn)]
      rfl
    · refine congrArg Host.Outcome.next (?_ : s.hostRegion qp m = _)
      rw [State.hostRegion, s.control_acts qp m 3 _ he hf hb ho, if_pos hn]
      rfl
    · have named : s.regions.any (fun x => x.rkey.toNat == ctlAddr m) = true := by simpa using hx
      refine congrArg Host.Outcome.next (?_ : s.hostUnregion qp m = _)
      rw [State.hostUnregion, s.control_acts qp m 4 _ he hf hb ho, if_pos named]
      rfl
    · have unnamed : ¬ s.regions.any (fun x => x.rkey.toNat == ctlAddr m) = true := by simpa using hx
      refine congrArg Host.Outcome.next (?_ : s.hostUnregion qp m = _)
      rw [State.hostUnregion, s.control_acts qp m 4 _ he hf hb ho, if_neg unnamed]
      rfl

/-! ### Abort (R86, R387) -/

/-- `aborted'` of a launch that was not aborted. -/
theorem Launch.aborted'_of_live (l : Launch) (c : Bool) (h : l.aborted = false) :
    l.aborted' c = { l with
      aborted := true, cancelled := c, ended := l.teamCount - l.teams.length
      sentRanges := (l.teamCount + 63) / 64, ranges := [] } := by
  simp [Launch.aborted', h]

/-- What a group that is not a wave and has not halted looks like after `stopGroups` names it. -/
theorem State.stopGroups_asks (s : State) (p : GroupId → Bool) (g : Group) (hg : g ∈ (s.stopGroups p).groups)
    (hp : p g.id = true) (hw : isWave g.id = false) (hh : g.halted = false) : g.stopAt.isSome = true := by
  obtain ⟨x, -, rfl⟩ := List.mem_map.mp hg
  split
  · rfl
  next no =>
    rw [if_neg no] at hp hw hh
    simp [hp, hw, hh] at no

theorem abortStopsTheLaunch_holds : Claims.AbortStopsTheLaunch := by
  intro s lid l c hl ha
  have e : (s.abortLaunch lid c).launch? lid = some (l.aborted' c) :=
    ((State.abortLaunch_unbinds s lid c).launch? lid).trans
      (State.launch?_onLaunch_self s lid (fun l => l.aborted' c) _ hl fun _ => Launch.aborted'_lid _ _)
  rw [l.aborted'_of_live c ha] at e
  exact ⟨_, e, rfl, rfl, rfl, by simp [State.served], rfl, fun g hg hlid =>
    State.stopGroups_asks _ _ g hg (by simp [hlid])⟩

/-! ### Acceptance of records (R90, R91) -/

theorem recordsAreAccepted_holds : Claims.RecordsAreAccepted := by
  intro s s' r qp lays
  refine ⟨fun hr => ?_, fun hr ht hok hn => ⟨Launch.make r s'.nextAge qp (s.mgmt.super.getLsbD (field r 196 6))
    (s'.livePreds (Launch.make r s.nextAge qp false [] [])) lays, ?_, rfl, rfl, rfl, rfl, rfl, ?_, rfl⟩⟩
  · simp [State.accept, hr]
  · simp only [State.accept, hr, ht, hok, hn, Bool.not_true, Bool.false_eq_true, if_false]
    rfl
  · rfl

/-! ### Object files (R80 to R83) -/

/-- A file that loads has sections that are good. -/
theorem Mko.sections_of_load (file : List Byte) (place : Nat → Nat) (x : Mko.Loaded)
    (h : Mko.load file place = some x) : ∃ l, Mko.sections file = some l := by
  unfold Mko.load at h
  split at h
  · cases h
  next l hl => exact ⟨l, hl⟩

/-- A section that its type allows has a type of R81. -/
theorem Mko.Section.type_of_ok (s : Section) (h : Mko.Section.ok s = true) :
    s.type ≠ 0 ∧ (s.type ≤ 7 ∨ 0x8000 ≤ s.type) := by
  unfold Mko.Section.ok at h
  split at h <;> simp_all
  omega

/-- The low 57 bits of an integer's word. -/
theorem ofInt_low (z : Int) : (BitVec.ofInt 64 z).extractLsb' 0 57 = BitVec.ofInt 57 z := by
  apply BitVec.eq_of_toNat_eq
  simp only [BitVec.extractLsb'_toNat, BitVec.toNat_ofInt, Nat.shiftRight_zero]
  omega

/-- An entry of kind 2 writes bits 56:0. -/
theorem Mko.Reloc.word_low (r : Mko.Reloc) (base : Nat) (old : Word) (h : r.kind = 2) :
    (r.word base old).extractLsb' 0 57 = BitVec.ofInt 57 ((base : Int) + r.addend) := by
  rw [← ofInt_low, Mko.Reloc.word, if_neg (by omega), BitVec.extractLsb'_or, BitVec.extractLsb'_and,
    BitVec.extractLsb'_and]
  have lo : (0xFE00000000000000 : Word).extractLsb' 0 57 = 0#57 := by decide
  have hi : (0x01FFFFFFFFFFFFFF : Word).extractLsb' 0 57 = BitVec.allOnes 57 := by decide
  rw [lo, hi, BitVec.and_zero, BitVec.and_allOnes, BitVec.zero_or]

/-- An entry of kind 2 keeps bits 63:57. -/
theorem Mko.Reloc.word_high (r : Mko.Reloc) (base : Nat) (old : Word) (h : r.kind = 2) :
    (r.word base old).extractLsb' 57 7 = old.extractLsb' 57 7 := by
  rw [Mko.Reloc.word, if_neg (by omega), BitVec.extractLsb'_or, BitVec.extractLsb'_and, BitVec.extractLsb'_and]
  have lo : (0xFE00000000000000 : Word).extractLsb' 57 7 = BitVec.allOnes 7 := by decide
  have hi : (0x01FFFFFFFFFFFFFF : Word).extractLsb' 57 7 = 0#7 := by decide
  rw [lo, hi, BitVec.and_zero, BitVec.and_allOnes, BitVec.or_zero]

/-- What `sections` lets through. -/
theorem Mko.sections_some (file : List Byte) (l : List Section) (h : Mko.sections file = some l) :
    Mko.headerOk file = true ∧ l.all Mko.Section.ok = true ∧ (l.filter fun s => s.type == 1).length = 1 ∧
      (l.filter fun s => s.type == 6).length = 1 := by
  unfold Mko.sections at h
  split at h
  · cases h
  next hh =>
    split at h
    · cases h
    next m hm =>
      simp only [] at h
      split at h
      next ok =>
        obtain rfl : m = l := Option.some.inj h
        simp only [Bool.and_eq_true, beq_iff_eq] at ok
        obtain ⟨⟨⟨all, one⟩, six⟩, -⟩ := ok
        exact ⟨by simpa using hh, all, one, six⟩
      · cases h

/-- The bytes of a section after an entry. -/
theorem splice_getElem? (xs new : List Byte) (o n : Nat) (hn : new.length = n) (ho : o + n ≤ xs.length) (b : Nat)
    (hb : b < o ∨ o + n ≤ b) : (xs.take o ++ new ++ xs.drop (o + n))[b]? = xs[b]? := by
  have lt : (xs.take o).length = o := by simp; omega
  rcases hb with hb | hb
  · rw [List.append_assoc, List.getElem?_append_left (by omega), List.getElem?_take_of_lt hb]
  · rw [List.getElem?_append_right (by simp; omega), List.getElem?_drop]
    congr 1
    simp; omega

theorem splice_middle (xs new : List Byte) (o n : Nat) (hn : new.length = n) (ho : o + n ≤ xs.length) :
    ((xs.take o ++ new ++ xs.drop (o + n)).drop o).take n = new := by
  have lt : (xs.take o).length = o := by simp; omega
  rw [List.append_assoc, List.drop_append_of_le_length (by omega), List.drop_of_length_le (by omega), List.nil_append,
    List.take_append_of_le_length (by omega), List.take_of_length_le (by omega)]

theorem Mko.Reloc.apply_spec (r : Mko.Reloc) (place : Nat → Nat) (l m : List Section) (h : r.apply place l = some m) :
    m.length = l.length ∧ (∀ k, k ≠ r.patched → m[k]? = l[k]?) ∧
    ∃ s t, l[r.patched]? = some s ∧ m[r.patched]? = some t ∧ t.bytes.length = s.bytes.length ∧
      (∀ b, (b < r.offset ∨ r.offset + 8 ≤ b) → t.bytes[b]? = s.bytes[b]?) ∧
      ofBytes ((t.bytes.drop r.offset).take 8) =
        (r.word (place r.target) (BitVec.ofNat 64 (ofBytes ((s.bytes.drop r.offset).take 8)))).toNat := by
  unfold Mko.Reloc.apply at h
  split at h
  · cases h
  next s hs =>
    split at h
    next room =>
      obtain ⟨-, room⟩ := room
      obtain rfl := Option.some.inj h
      have len (x : Nat) : (leBytes 8 x).length = 8 := by simp [leBytes]
      obtain ⟨lt, -⟩ := List.getElem?_eq_some_iff.mp hs
      refine ⟨by simp, fun k hk => by rw [List.getElem?_set_ne (Ne.symm hk)], s, _, hs, List.getElem?_set_self lt, ?_,
        splice_getElem? _ _ _ _ (len _) room, ?_⟩
      · simp only [List.length_append, List.length_take, List.length_drop, len]
        omega
      · rw [splice_middle _ _ _ _ (len _) room, ofBytes_leBytes, Nat.mod_eq_of_lt (BitVec.isLt _)]
    · cases h

theorem objectFilesLoad_holds : Claims.ObjectFilesLoad := by
  refine ⟨fun file place hh => ?_, fun file place x hx => ?_, fun r base old hk => by simp [Mko.Reloc.word, hk],
    fun r base old hk => ⟨r.word_low base old hk, r.word_high base old hk⟩, Mko.Reloc.apply_spec⟩
  · simp [Mko.load, Mko.sections, hh]
  · obtain ⟨l, hl⟩ := Mko.sections_of_load file place x hx
    obtain ⟨-, all, one, six⟩ := Mko.sections_some file l hl
    exact ⟨l, hl, one, six, fun s hs => Mko.Section.type_of_ok s (List.all_eq_true.mp all s hs)⟩

/-- Settles O50: each command of the host by the branch that its message selects, the abort through what `stopGroups`
asks of the groups, the acceptance by its checks in order, and a relocation as a splice of one word. -/
theorem hostCommands : Obligations.HostCommands :=
  ⟨hostCommandsComplete_holds, abortStopsTheLaunch_holds, recordsAreAccepted_holds, objectFilesLoad_holds⟩

end Sys2Proof.Machine
end

section
/-! PROOFS. Remote accesses: RDMA, peers' requests and the loss of a station (R87, R421, R424 to R426). -/

namespace Sys2Proof.Machine

/-! ### RDMA (R87) -/

/-- A partial function that is defined on every entry of a list gives as many results. -/
theorem length_of_mapM {α β : Type} (f : α → Option β) : ∀ {l : List α} {m : List β}, l.mapM f = some m → m.length =
    l.length
  | [], m, h => by
    obtain rfl : [] = m := Option.some.inj h
    rfl
  | a :: l, m, h => by
    rw [List.mapM_cons] at h
    obtain ⟨b, -, h⟩ := Option.bind_eq_some_iff.1 h
    obtain ⟨t, ht, h⟩ := Option.bind_eq_some_iff.1 h
    obtain rfl : b :: t = m := Option.some.inj h
    simp [length_of_mapM f ht]

/-- An RDMA operation has a place for every byte and changes nothing, or has none and at most notes a table word. -/
theorem State.rdmaPlaces_cases (s : State) (rkey va len : Nat) (w : Bool) :
    (∃ l, s.rdmaPlaces rkey va len w = (s, some l) ∧ l.length = len) ∨
      s.rdmaPlaces rkey va len w = (s, none) ∨ ∃ a, s.rdmaPlaces rkey va len w = (s.noteWalk a, none) := by
  unfold State.rdmaPlaces
  cases s.regions.find? fun x => x.rkey.toNat == rkey with
  | none => exact .inr (.inl rfl)
  | some x =>
    dsimp only
    generalize (if w = true then x.wr else x.rd) = right
    split
    · cases hm : (State.span va len).mapM (s.ownByte (rdmaRight w)) with
      | some l => exact .inl ⟨l, rfl, by simpa [State.span] using length_of_mapM _ hm⟩
      | none =>
        dsimp only
        cases (State.span va len).find? fun a => (s.ownByte (rdmaRight w) a).isNone with
        | none => exact .inr (.inl rfl)
        | some a => exact .inr (.inr ⟨a, rfl⟩)
    · exact .inr (.inl rfl)

theorem State.rdmaPlaces_some {s t : State} {rkey va len : Nat} {w : Bool} {l : List (Nat × Bool)}
    (h : s.rdmaPlaces rkey va len w = (t, some l)) : t = s ∧ l.length = len := by
  rcases s.rdmaPlaces_cases rkey va len w with ⟨m, e, hm⟩ | e | ⟨a, e⟩ <;> rw [e] at h <;> cases h
  exact ⟨rfl, hm⟩

theorem State.noteWalk_only (s : State) (va : Nat) :
    ∃ j a b c, s.noteWalk va = { s with journal := j, sent := a, held := b, seq := c } := by
  unfold State.noteWalk
  split
  · exact ⟨s.journal, s.sent, s.held, s.seq, rfl⟩
  · split
    · exact s.journalAdd_only _ _ _ _ _
    · exact ⟨s.journal, s.sent, s.held, s.seq, rfl⟩

/-- An operation that is not allowed changes nothing but the journal and what is sent for it. -/
theorem State.rdmaPlaces_frame (s : State) (rkey va len : Nat) (w : Bool) :
    { (s.rdmaPlaces rkey va len w).1 with journal := s.journal, sent := s.sent, held := s.held, seq := s.seq } = s ∧
      ((s.rdmaPlaces rkey va len w).2.isSome = true → (s.rdmaPlaces rkey va len w).1 = s) := by
  rcases s.rdmaPlaces_cases rkey va len w with ⟨m, e, -⟩ | e | ⟨a, e⟩ <;> rw [e]
  · exact ⟨rfl, fun _ => rfl⟩
  · exact ⟨rfl, fun _ => rfl⟩
  · obtain ⟨j, x, y, z, n⟩ := s.noteWalk_only a
    exact ⟨by rw [n], fun h => nomatch h⟩

/-- Bytes written at distinct addresses are read back there. -/
theorem Sparse.get_setAll_zip {α : Type} [DecidableEq α] (d : α) (m : Sparse α) : ∀ (ks : List Nat) (xs : List α),
    ks.Nodup → ks.length = xs.length → ks.map (Sparse.get d (Sparse.setAll d m (ks.zip xs))) = xs
  | [], [], _, _ => rfl
  | k :: ks, x :: xs, nd, len => by
    obtain ⟨fresh, nd⟩ := List.nodup_cons.1 nd
    have head : Sparse.get d (Sparse.setAll d m ((k, x) :: ks.zip xs)) k = x := by
      refine (Sparse.get_setAll_other d (ks.zip xs) k (Sparse.set d m k x) ?_).trans (Sparse.get_set_self d m k x)
      rintro ⟨a, b⟩ hp rfl
      exact fresh (List.of_mem_zip hp).1
    have tail : ks.map (Sparse.get d (Sparse.setAll d (Sparse.set d m k x) (ks.zip xs))) = xs :=
      Sparse.get_setAll_zip d _ ks xs nd (by simpa using len)
    exact congrArg₂ List.cons head tail

/-- The part after an RDMA WRITE to places that it may write. -/
def State.rdmaStored (s : State) (l : List (Nat × Bool)) (bs : List Byte) : State :=
  (({ s with mem := Sparse.setAll Config.emptyByte s.mem ((l.map Prod.fst).zip bs) }).clearCovered
      (l.map Prod.fst)).touchBytes l true

theorem State.rdmaStored_cases (s : State) (l : List (Nat × Bool)) (bs : List Byte) : ∃ q x, s.rdmaStored l bs =
    { s with mem := Sparse.setAll Config.emptyByte s.mem ((l.map Prod.fst).zip bs), poison := q, sectors := x } := by
  unfold State.rdmaStored State.touchBytes
  generalize ht : ({ s with mem := Sparse.setAll Config.emptyByte s.mem ((l.map Prod.fst).zip bs) } :
      State).clearCovered
    (l.map Prod.fst) = t
  obtain ⟨x, ex⟩ := t.touch_cases ((l.filter fun x : Nat × Bool => x.2 == false).map Prod.fst) false true 2
  obtain ⟨y, ey⟩ := ({ t with sectors := x }).touch_cases ((l.filter fun x : Nat × Bool => x.2 == true).map Prod.fst)
      true true 2
  refine ⟨t.poison, y, ?_⟩
  dsimp only
  rw [ex, ey, ← ht]
  rfl

theorem State.rdmaWrite_stores {s t : State} {qp rkey va : Nat} {bs : List Byte} {l : List (Nat × Bool)}
    (he : s.established qp = true) (hf : s.mgmt.hostFrozen = false)
    (h : s.rdmaPlaces rkey va bs.length true = (t, some l)) (nd : (l.map (·.1)).Nodup) :
    s.rdmaWrite qp rkey va bs = s.rdmaStored l bs ∧
      l.map (fun x => (s.rdmaStored l bs).memGet x.1) = bs ∧
      (∀ a, (∀ x ∈ l, x.1 ≠ a) → (s.rdmaStored l bs).memGet a = s.memGet a) ∧
      { s.rdmaStored l bs with mem := s.mem, poison := s.poison, sectors := s.sectors } = s := by
  obtain ⟨rfl, len⟩ := State.rdmaPlaces_some h
  obtain ⟨q, x, e⟩ := t.rdmaStored_cases l bs
  refine ⟨?_, ?_, fun a ha => ?_, ?_⟩
  · simp only [State.rdmaWrite, he, hf, h, Bool.not_true, Bool.false_eq_true, if_false]
    rfl
  · rw [e]
    simpa [Function.comp_def, State.memGet] using
      Sparse.get_setAll_zip Config.emptyByte t.mem (l.map (·.1)) bs nd (by simpa using len)
  · rw [e]
    refine Sparse.get_setAll_other _ _ _ _ fun p hp => ?_
    obtain ⟨y, hy, e⟩ := List.mem_map.1 (List.of_mem_zip (show (p.1, p.2) ∈ _ from hp)).1
    exact e ▸ ha y hy
  · rw [e]

theorem State.rdmaRead_answers {s t : State} {qp rkey va len : Nat} {l : List (Nat × Bool)}
    (he : s.established qp = true) (hf : s.mgmt.hostFrozen = false)
    (h : s.rdmaPlaces rkey va len false = (t, some l)) (clean : ∀ x ∈ l, s.poisoned x.1 = false) :
    s.rdmaRead qp rkey va len = (t.touchBytes l false).owe
      ⟨false, qp, t.chansOf 2 (l.map (·.1)), .data (l.map fun x => t.memGet x.1)⟩ := by
  obtain ⟨rfl, -⟩ := State.rdmaPlaces_some h
  have none_ : l.filter (fun x => t.poisoned x.1) = [] := List.filter_eq_nil_iff.2 fun x hx => by simp [clean x hx]
  simp only [State.rdmaRead, he, hf, h, none_, Bool.not_true, Bool.false_eq_true, if_false, List.map_map,
    Function.comp_def]
  rfl

/-! ### Answers that wait (R421) -/

theorem State.owe_sends {s : State} {o : Owed} (free : ∀ c ∈ o.chans, s.channelHeld c = false) (host : o.peer = false)
    (first : ∀ x ∈ s.owed, x.peer = false → x.dest ≠ o.dest) (he : s.established o.dest = true) :
    s.owe o = s.send o.dest o.ans := by
  have f : o.chans.any s.channelHeld = false := by simpa using free
  have n : (s.owed.any fun x => !x.peer && x.dest == o.dest) = false := by simpa using first
  simp [State.owe, f, n, host, he]

theorem State.owe_waits {s : State} {o : Owed} (held : ∃ c ∈ o.chans, s.channelHeld c = true) :
    s.owe o = { s with owed := s.owed ++ [o] } := by
  have h : o.chans.any s.channelHeld = true := by simpa using held
  simp [State.owe, h]

/-! ### Peers' requests (R424, R425) -/

theorem State.peerRequest_atomic {s : State} {src pa : Nat} {op : AtomOp} {v v2 : Word} (up : s.linked = true)
    (ok : s.mgmt.accepted.getLsbD src = true) (mine : s.peerSpan pa (atomWidth op) = true) (al : pa % atomWidth op = 0)
    (clean : s.poisonedSpan pa (atomWidth op) = false) :
    ∃ t, s.peerRequest src (.atomic op pa v v2) =
        s.servePeer t src pa (atomWidth op) (leBytes (atomWidth op) (ofBytes (s.memRead pa (atomWidth op)))) ∧
      t.memRead pa (atomWidth op) = leBytes (atomWidth op)
        (atomNew op (ofBytes (s.memRead pa (atomWidth op))) v.toNat v2.toNat) ∧
      ∀ a, (a < pa ∨ pa + atomWidth op ≤ a) → t.memGet a = s.memGet a := by
  generalize hb : leBytes (atomWidth op) (atomNew op (ofBytes (s.memRead pa (atomWidth op))) v.toNat v2.toNat) = bs
  have len : bs.length = atomWidth op := by rw [← hb]; simp [leBytes]
  obtain ⟨x, e⟩ := (s.memWrite pa bs).touch_cases (State.span pa (atomWidth op)) false true 2
  refine ⟨(s.memWrite pa bs).touch (State.span pa (atomWidth op)) false true, ?_, ?_, fun a ha => ?_⟩
  · simp only [State.peerRequest, up, ok, mine, al, State.atomicAt, clean, hb, Bool.not_true, Bool.false_eq_true,
      if_false,
      bne_self_eq_false, Bool.or_self]
  · rw [e]
    exact (congrArg ((s.memWrite pa bs).memRead pa) len.symm).trans (memoryHoldsWhatIsWritten s pa bs).1
  · rw [e]
    exact State.memGet_memWrite_outside bs s pa a (by rwa [len])

/-! ### The loss of a station (R426) -/

/-- What the failure of an access leaves as it was: memory, the stations, and the results under way of each group. -/
structure State.SameLinks (s t : State) : Prop where
  mem : t.mem = s.mem
  stations : t.stations = s.stations
  partNum : t.partNum = s.partNum

theorem State.SameLinks.trans {s t u : State} (a : s.SameLinks t) (b : t.SameLinks u) : s.SameLinks u :=
  ⟨b.mem.trans a.mem, b.stations.trans a.stations, b.partNum.trans a.partNum⟩

theorem State.SameLinks.linked {s t : State} (a : s.SameLinks t) : t.linked = s.linked := by
  rw [State.linked, State.linked, a.partNum, a.stations]

/-- The results under way of each group, by its number. -/
def State.pending (s : State) : List (GroupId × List Pend) := s.groups.map fun g => (g.id, g.pend)

/-- A failed access is noted, and the free value taken, without more. -/
theorem State.drawn_journalPort (s : State) (port pa : Nat) :
    s.SameLinks (s.drawn.journalPort port pa) ∧ (s.drawn.journalPort port pa).groups = s.groups := by
  obtain ⟨j, a, b, c, e⟩ := s.drawn.journalAdd_only 5 0 7 port (BitVec.ofNat 64 pa)
  rw [State.journalPort, e]
  exact ⟨⟨rfl, rfl, rfl⟩, rfl⟩

/-- A change of a group that keeps its number and its results under way. -/
theorem State.pending_onGroup (s : State) (k : GroupId) (f : Group → Group) (hi : ∀ g, (f g).id = g.id)
    (hp : ∀ g, (f g).pend = g.pend) : (s.onGroup k f).pending = s.pending := by
  simp only [State.pending, State.onGroup, List.map_map]
  refine List.map_congr_left fun g _ => ?_
  simp only [Function.comp_apply]
  split
  · rw [hi, hp]
  · rfl

theorem State.pending_congr {s t : State} (h : t.groups = s.groups) : t.pending = s.pending := by
  rw [State.pending, State.pending, h]

theorem State.finishOp_links (s : State) (n : Nat) (f : Option Failure) (fl : Flags) :
    s.SameLinks (s.finishOp n f fl) ∧ (s.finishOp n f fl).pending = s.pending := by
  unfold State.finishOp
  split
  · exact ⟨⟨rfl, rfl, rfl⟩, rfl⟩
  · dsimp only
    split
    · exact ⟨⟨rfl, rfl, rfl⟩, rfl⟩
    next c _ =>
      exact ⟨⟨rfl, rfl, rfl⟩, State.pending_onGroup _ _ _ (fun g => Group.setBatches_id g _ _)
        fun g => by cases c <;> rfl⟩

theorem State.loseAck_links (port : Nat) (s : State) (x : GroupId × Ack) :
    s.SameLinks (s.loseAck port x) ∧ (s.loseAck port x).pending = s.pending := by
  unfold State.loseAck
  split
  · exact ⟨⟨rfl, rfl, rfl⟩, rfl⟩
  next pa _ =>
    split
    · obtain ⟨l, g⟩ := s.drawn_journalPort port pa
      exact ⟨l.trans ⟨rfl, rfl, rfl⟩,
        (State.pending_onGroup _ x.1 (·.loseStore x.2) (fun _ => rfl) fun _ => rfl).trans (State.pending_congr g)⟩
    · exact ⟨⟨rfl, rfl, rfl⟩, rfl⟩

theorem State.endLine_links (s : State) (o : Op) (f : Option Failure) :
    s.SameLinks (s.endLine o f) ∧ (s.endLine o f).pending = s.pending := by
  unfold State.endLine
  obtain ⟨l, p⟩ := (s.onGroup o.gid fun g => { g with slots := g.slots.filter (· != o.n) }).finishOp_links o.n f 0
  have same : s.SameLinks (s.onGroup o.gid fun g => { g with slots := g.slots.filter (· != o.n) }) := ⟨rfl, rfl, rfl⟩
  exact ⟨same.trans l, p.trans (State.pending_onGroup _ _ _ (fun _ => rfl) fun _ => rfl)⟩

theorem State.loseLine_links (port : Nat) (s : State) (o : Op) :
    s.SameLinks (s.loseLine port o) ∧ (s.loseLine port o).pending = s.pending := by
  have fails (ga pa : Nat) : s.SameLinks ((s.drawn.journalPort port pa).endLine o (some (badData ga))) ∧
      ((s.drawn.journalPort port pa).endLine o (some (badData ga))).pending = s.pending := by
    obtain ⟨l, g⟩ := s.drawn_journalPort port pa
    obtain ⟨m, p⟩ := (s.drawn.journalPort port pa).endLine_links o (some (badData ga))
    exact ⟨l.trans m, p.trans (State.pending_congr g)⟩
  have stays : s.SameLinks s ∧ s.pending = s.pending := ⟨⟨rfl, rfl, rfl⟩, rfl⟩
  have drawn : s.SameLinks s.drawn ∧ s.drawn.pending = s.pending := ⟨⟨rfl, rfl, rfl⟩, rfl⟩
  unfold State.loseLine
  split
  · split
    · exact stays
    · split
      · exact fails _ _
      · exact drawn
  · split
    · exact stays
    · split
      · exact fails _ _
      · exact drawn
  · exact stays

/-- One answer that waits for the station. -/
theorem State.loseOwed_links (s : State) : s.SameLinks s.loseOwed ∧ s.loseOwed.groups = s.groups := by
  unfold State.loseOwed
  refine List.foldlRecOn (motive := fun t => s.SameLinks t ∧ t.groups = s.groups) _ _ ⟨⟨rfl, rfl, rfl⟩, rfl⟩ ?_
  rintro t ⟨⟨m, n, p⟩, g⟩ o -
  dsimp only
  split
  · split
    · exact ⟨⟨m, n, p⟩, g⟩
    · exact ⟨⟨m, n, p⟩, g⟩
  · exact ⟨⟨m, n, p⟩, g⟩

/-- A result that fails over the lost station. -/
def Pend.lost (n : Nat) (va : Nat) (p : Pend) : Pend :=
  if p.n = n then { p with fail := some (badData va), vals := [], svals := [], flags := 0 } else p

theorem Pend.lost_n (n va : Nat) (p : Pend) : (p.lost n va).n = p.n := by
  unfold Pend.lost
  split <;> rfl

/-- A result that fails over the lost station changes its group's results alone. -/
theorem State.losePend_eq (port : Nat) (s : State) (k : GroupId) (p : Pend) :
    (s.SameLinks (s.losePend port (k, p)) ∧ (s.losePend port (k, p)).groups = s.groups ∧
      (s.linked = true ∨ p.peer = none ∨ p.fail ≠ none)) ∨
    ∃ va pa, p.peer = some (va, pa) ∧ s.SameLinks (s.losePend port (k, p)) ∧
      (s.losePend port (k, p)).groups = s.groups.map fun g =>
        if g.id = k then { g with pend := g.pend.map (Pend.lost p.n va) } else g := by
  unfold State.losePend
  dsimp only
  split
  next va pa hp hf =>
    cases hw : s.waitsOnPort pa with
    | true =>
      obtain ⟨l, g⟩ := s.drawn_journalPort port pa
      exact .inr ⟨va, pa, hp, l.trans ⟨rfl, rfl, rfl⟩, by simp only [if_true, State.onGroup, g]; rfl⟩
    | false =>
      refine .inl ⟨⟨rfl, rfl, rfl⟩, rfl, .inl ?_⟩
      simp only [State.waitsOnPort, Bool.or_eq_false_iff, Bool.not_eq_false'] at hw
      exact hw.1
  next no =>
    refine .inl ⟨⟨rfl, rfl, rfl⟩, rfl, .inr ?_⟩
    cases hp : p.peer with
    | none => exact .inl rfl
    | some x => exact .inr fun hf => no x.1 x.2 hp hf

/-- A fold over a list with an entry that establishes `J` where `I` holds ends in `J`, when every entry keeps both. -/
theorem foldl_establishes {σ α : Type} (f : σ → α → σ) (I J : σ → Prop) {a : α} : ∀ (l : List α) (s : σ), a ∈ l →
    (∀ s, ∀ x ∈ l, I s → I (f s x)) → (∀ s, ∀ x ∈ l, J s → J (f s x)) → (∀ s, I s → J (f s a)) → I s →
    J (l.foldl f s)
  | x :: l, s, ha, hI, hJ, est, hs => by
    rcases List.mem_cons.1 ha with rfl | ha
    · exact List.foldlRecOn (motive := J) l f (est s hs) fun t ht y hy => hJ t y (List.mem_cons_of_mem _ hy) ht
    · exact foldl_establishes f I J l (f s x) ha (fun t y hy => hI t y (List.mem_cons_of_mem _ hy))
        (fun t y hy => hJ t y (List.mem_cons_of_mem _ hy)) est (hI s x List.mem_cons_self hs)

/-- Every group of a number has a result of a number under way, with a property. -/
def State.Owes (s : State) (k : GroupId) (n : Nat) (P : Pend → Prop) : Prop :=
  ∀ e ∈ s.pending, e.1 = k → ∃ q ∈ e.2, q.n = n ∧ P q

theorem State.pending_losePend (port : Nat) (s : State) (k : GroupId) (p : Pend) :
    (s.losePend port (k, p)).pending = s.pending ∨ ∃ va pa, p.peer = some (va, pa) ∧
      (s.losePend port (k, p)).pending =
        s.pending.map fun e => if e.1 = k then (e.1, e.2.map (Pend.lost p.n va)) else e := by
  rcases s.losePend_eq port k p with ⟨-, g, -⟩ | ⟨va, pa, hp, -, g⟩
  · exact .inl (State.pending_congr g)
  · refine .inr ⟨va, pa, hp, ?_⟩
    simp only [State.pending, g, List.map_map]
    refine List.map_congr_left fun y _ => ?_
    simp only [Function.comp_apply]
    split <;> rfl

theorem State.losePend_links (port : Nat) (s : State) (x : GroupId × Pend) : s.SameLinks (s.losePend port x) := by
  rcases s.losePend_eq port x.1 x.2 with ⟨l, -⟩ | ⟨-, -, -, l, -⟩ <;> exact l

theorem State.losePend_ids (port : Nat) (s : State) (x : GroupId × Pend) :
    (s.losePend port x).pending.map Prod.fst = s.pending.map Prod.fst := by
  rcases s.pending_losePend port x.1 x.2 with e | ⟨va, pa, -, e⟩
  · exact congrArg _ e
  · refine (congrArg _ e).trans ?_
    rw [List.map_map]
    refine List.map_congr_left fun y _ => ?_
    simp only [Function.comp_apply]
    split <;> rfl

/-- A failing access keeps what the results under way have, when it gives it to the one of its own number. -/
theorem State.Owes.losePend {s : State} {k : GroupId} {n : Nat} {P : Pend → Prop} (h : s.Owes k n P) (port : Nat)
    (x : GroupId × Pend) (gives : x.1 = k → x.2.n = n → ∀ va pa, x.2.peer = some (va, pa) → ∀ q : Pend, q.n = n → P
        (q.lost n va)) :
    (s.losePend port x).Owes k n P := by
  rcases s.pending_losePend port x.1 x.2 with e | ⟨va, pa, hp, e⟩
  · intro y hy
    exact h y (e ▸ hy)
  · intro y hy hk
    obtain ⟨z, hz, rfl⟩ := List.mem_map.1 (e ▸ hy)
    have hzk : z.1 = k := by split at hk <;> exact hk
    obtain ⟨q, hq, hn, hP⟩ := h z hz hzk
    split
    next own =>
      refine ⟨q.lost x.2.n va, List.mem_map_of_mem hq, (Pend.lost_n _ _ _).trans hn, ?_⟩
      by_cases same : x.2.n = n
      · rw [same]
        exact gives (own.symm.trans hzk) same va pa hp q hn
      · rwa [Pend.lost, if_neg fun c => same (c.symm.trans hn)]
    next => exact ⟨q, hq, hn, hP⟩

/-- The access that fails gives its result the failure. -/
theorem State.Owes.fails {s : State} {k : GroupId} {p : Pend} {va pa port : Nat} (h : s.Owes k p.n fun _ => True)
    (down : s.linked = false) (hp : p.peer = some (va, pa)) (hf : p.fail = none) :
    (s.losePend port (k, p)).Owes k p.n fun q => q.fail = some (badData va) := by
  rcases s.losePend_eq port k p with ⟨-, -, c⟩ | ⟨va', pa', hp', -, g⟩
  · rw [down, hp, hf] at c
    simp at c
  · obtain ⟨rfl, rfl⟩ : va = va' ∧ pa = pa' := by
      rw [hp] at hp'
      cases hp'
      exact ⟨rfl, rfl⟩
    intro y hy hk
    obtain ⟨z, hz, rfl⟩ := List.mem_map.1 hy
    rw [g] at hz
    obtain ⟨w, hw, rfl⟩ := List.mem_map.1 hz
    by_cases own : w.id = k
    · simp only [own, if_true]
      obtain ⟨q, hq, hn, -⟩ := h (w.id, w.pend) (List.mem_map_of_mem hw) own
      refine ⟨q.lost p.n va, List.mem_map_of_mem hq, (Pend.lost_n _ _ _).trans hn, ?_⟩
      rw [Pend.lost, if_pos hn]
    · rw [if_neg own] at hk
      exact absurd hk own

/-- The part whose stations have lost one, before the accesses over it fail. -/
def State.portDown (s : State) (port : Nat) : State :=
  let down := { Sparse.get Station.down s.stations port with up := false }
  { s with stations := Sparse.set Station.down s.stations port down }

/-- The part after the stores to peers have failed. -/
def State.acksLost (s : State) (port : Nat) : State :=
  ((s.portDown port).groups.flatMap fun g => g.acks.map fun a => (g.id, a)).foldl (State.loseAck port) (s.portDown port)

/-- The part after the results from peers have failed. -/
def State.pendsLost (s : State) (port : Nat) : State :=
  ((s.acksLost port).groups.flatMap fun g => g.pend.map fun p => (g.id, p)).foldl (State.losePend port)
      (s.acksLost port)

theorem State.linkLoss_eq (s : State) (port : Nat) (up : (Sparse.get Station.down s.stations port).up = true) :
    s.linkLoss port = ((s.pendsLost port).ops.foldl (State.loseLine port) (s.pendsLost port)).loseOwed := by
  simp only [State.linkLoss, up, Bool.not_true, Bool.false_eq_true, if_false]
  rfl

theorem State.acksLost_links (s : State) (port : Nat) :
    (s.portDown port).SameLinks (s.acksLost port) ∧ (s.acksLost port).pending = s.pending :=
  List.foldlRecOn (motive := fun t : State => (s.portDown port).SameLinks t ∧ t.pending = s.pending) _ _
    ⟨⟨rfl, rfl, rfl⟩, rfl⟩ fun t ⟨l, p⟩ x _ => ⟨l.trans (t.loseAck_links port x).1, (t.loseAck_links port x).2.trans p⟩

theorem State.pendsLost_links (s : State) (port : Nat) :
    (s.portDown port).SameLinks (s.pendsLost port) ∧
      (s.pendsLost port).pending.map Prod.fst = s.pending.map Prod.fst :=
  List.foldlRecOn (motive := fun t : State => (s.portDown port).SameLinks t ∧
      t.pending.map Prod.fst = s.pending.map Prod.fst) _ _
    ⟨(s.acksLost_links port).1, congrArg _ (s.acksLost_links port).2⟩
    fun t ⟨l, p⟩ x _ => ⟨l.trans (t.losePend_links port x), (t.losePend_ids port x).trans p⟩

theorem State.linkLoss_links (s : State) (port : Nat) (up : (Sparse.get Station.down s.stations port).up = true) :
    (s.portDown port).SameLinks (s.linkLoss port) ∧ (s.linkLoss port).pending = (s.pendsLost port).pending := by
  rw [s.linkLoss_eq port up]
  have lines := List.foldlRecOn (motive := fun t : State => (s.pendsLost port).SameLinks t ∧
      t.pending = (s.pendsLost port).pending) (s.pendsLost port).ops (State.loseLine port)
    ⟨⟨rfl, rfl, rfl⟩, rfl⟩ fun t ⟨l, p⟩ x _ => ⟨l.trans (t.loseLine_links port x).1, (t.loseLine_links port x).2.trans
        p⟩
  obtain ⟨l, p⟩ := lines
  obtain ⟨m, g⟩ := ((s.pendsLost port).ops.foldl (State.loseLine port) (s.pendsLost port)).loseOwed_links
  exact ⟨((s.pendsLost_links port).1.trans l).trans m, (State.pending_congr g).trans p⟩

/-- With the last station, what a peer owed a group has failed. -/
theorem State.pendsLost_fails {s : State} {port : Nat} {g : Group} {p : Pend} {va pa : Nat}
    (down : (s.portDown port).linked = false)
    (hg : g ∈ s.groups) (only : ∀ h ∈ s.groups, h.id = g.id → h = g) (hp : p ∈ g.pend) (hpeer : p.peer = some (va, pa))
    (hf : p.fail = none) (uniq : ∀ q ∈ g.pend, q.n = p.n → q = p) :
    (s.pendsLost port).Owes g.id p.n fun q => q.fail = some (badData va) := by
  obtain ⟨al, ap⟩ := s.acksLost_links port
  have entries : ∀ e ∈ s.pending, e.1 = g.id → e.2 = g.pend := by
    intro e he hk
    obtain ⟨h, hh, rfl⟩ := List.mem_map.1 he
    exact congrArg Group.pend (only h hh hk)
  have list : ((s.acksLost port).groups.flatMap fun g => g.pend.map fun p => (g.id, p)) =
      s.pending.flatMap fun e => e.2.map fun p => (e.1, p) := by
    rw [← ap, State.pending, List.flatMap_map]
  have own : ∀ x ∈ s.pending.flatMap (fun e => e.2.map fun p => (e.1, p)), x.1 = g.id → x.2.n = p.n → x.2 = p := by
    intro x hx hk hn
    obtain ⟨e, he, hx⟩ := List.mem_flatMap.1 hx
    obtain ⟨q, hq, rfl⟩ := List.mem_map.1 hx
    exact uniq q (entries e he hk ▸ hq) hn
  rw [State.pendsLost, list]
  refine foldl_establishes (State.losePend port)
    (fun t => t.Owes g.id p.n (fun _ => True) ∧ t.linked = false)
    (fun t => t.Owes g.id p.n fun q => q.fail = some (badData va)) (a := (g.id, p)) _ _ ?_ ?_ ?_ ?_ ?_
  · exact List.mem_flatMap.2 ⟨(g.id, g.pend), List.mem_map_of_mem hg, List.mem_map_of_mem hp⟩
  · rintro t x - ⟨h, d⟩
    exact ⟨h.losePend port x fun _ _ _ _ _ _ _ => trivial, (t.losePend_links port x).linked.trans d⟩
  · intro t x hx h
    refine h.losePend port x fun hk hn va' pa' hx' q hq => ?_
    rw [own x hx hk hn, hpeer] at hx'
    cases hx'
    rw [Pend.lost, if_pos hq]
  · rintro t ⟨h, d⟩
    exact h.fails d hpeer hf
  · refine ⟨fun e he hk => ⟨p, ?_, rfl, trivial⟩, al.linked.trans down⟩
    rw [ap] at he
    exact entries e he hk ▸ hp

theorem remoteAccessesComplete_holds : Claims.RemoteAccessesComplete := by
  refine ⟨fun s t qp rkey va len bs he hf => ⟨fun h => ?_, fun l h clean => ?_, fun h => ?_, fun l h nd => ?_⟩,
    fun s rkey va len w => s.rdmaPlaces_frame rkey va len w, fun s o free host first he => State.owe_sends free host
        first he,
    fun s o held => State.owe_waits held, fun s src pa up ok => ⟨fun len mine clean => ?_, fun bs mine => ?_,
      fun op v v2 mine al clean => ?_⟩, fun s src r up no => ?_, fun s port up => ?_⟩
  · refine congrArg Host.Outcome.next (?_ : s.rdmaRead qp rkey va len = _)
    simp only [State.rdmaRead, he, hf, h, Bool.not_true, Bool.false_eq_true, if_false]
  · exact congrArg Host.Outcome.next (State.rdmaRead_answers he hf h clean)
  · refine congrArg Host.Outcome.next (?_ : s.rdmaWrite qp rkey va bs = _)
    simp only [State.rdmaWrite, he, hf, h, Bool.not_true, Bool.false_eq_true, if_false]
  · obtain ⟨e, read, other, frame⟩ := State.rdmaWrite_stores he hf h nd
    exact ⟨_, congrArg Host.Outcome.next e, read, other, frame⟩
  · refine congrArg Host.Outcome.next (?_ : s.peerRequest src _ = _)
    simp only [State.peerRequest, up, ok, mine, clean, Bool.not_true, Bool.false_eq_true, if_false]
  · refine congrArg Host.Outcome.next (?_ : s.peerRequest src _ = _)
    simp only [State.peerRequest, up, ok, mine, Bool.not_true, Bool.false_eq_true, if_false]
  · obtain ⟨t, e, read, other⟩ := State.peerRequest_atomic (v := v) (v2 := v2) up ok mine al clean
    exact ⟨t, congrArg Host.Outcome.next e, read, other⟩
  · refine congrArg Host.Outcome.next (?_ : s.peerRequest src _ = _)
    simp only [State.peerRequest, up, no, Bool.not_true, Bool.not_false, Bool.false_eq_true, if_false, if_true]
  · obtain ⟨l, pend⟩ := s.linkLoss_links port up
    refine ⟨_, rfl, ?_, fun k hk => ?_, l.mem, fun down g hg only p hp va pa hpeer hfail uniq => ?_⟩
    · rw [l.stations]
      exact congrArg Station.up (Sparse.get_set_self _ _ _ _)
    · rw [l.stations]
      exact Sparse.get_set_other _ _ _ _ _ hk
    · have mem : g ∈ s.groups := List.mem_of_find?_eq_some hg
      have owes := State.pendsLost_fails (l.linked.symm.trans down) mem only hp hpeer hfail uniq
      have ids : (s.linkLoss port).pending.map Prod.fst = s.pending.map Prod.fst :=
        (congrArg _ pend).trans (s.pendsLost_links port).2
      have named : g.id ∈ (s.linkLoss port).pending.map Prod.fst := by
        rw [ids]
        exact List.mem_map_of_mem (f := Prod.fst) (List.mem_map_of_mem (f := fun g : Group => (g.id, g.pend)) mem)
      obtain ⟨e, he, hk⟩ := List.mem_map.1 named
      obtain ⟨x, hx, rfl⟩ := List.mem_map.1 he
      obtain ⟨y, hy⟩ := Option.isSome_iff_exists.1 (List.find?_isSome (p := fun h : Group => h.id == g.id).2
          ⟨x, hx, by simpa using hk⟩)
      have yid : y.id = g.id := State.group?_id (s := s.linkLoss port) hy
      obtain ⟨q, hq, hn, hfail⟩ := owes (y.id, y.pend) (pend ▸ List.mem_map_of_mem (List.mem_of_find?_eq_some hy)) yid
      exact ⟨y, q, hy, hq, hn, hfail⟩

/-- Settles O51: RDMA by whether every byte has a place, peers' requests by their checks, and the loss of the last
station by a fold over the results under way that keeps each result and gives a peer's its failure. -/
theorem remoteAccessesComplete : Obligations.RemoteAccessesComplete := remoteAccessesComplete_holds

end Sys2Proof.Machine
end

section
/-! PROOFS. Placement: groups that start, teams that are dispatched and stolen, and requests for pre-emption (O52). -/

namespace Sys2Proof.Machine

/-! ### What L1 does when the store is taken (R153) -/

theorem State.fitL1_only (s : State) (core : Nat) :
    ∃ m c q x, s.fitL1 core = { s with mem := m, l1 := c, poison := q, sectors := x } := by
  rcases s.fitL1_cases core with e | ⟨p, e⟩
  · exact ⟨s.mem, s.l1, s.poison, s.sectors, e⟩
  · obtain ⟨m, c, q, x, h⟩ := s.writeBack_cases core p
    exact ⟨m, (s.fitL1 core).l1, q, x, by rw [e, h]; rfl⟩

/-! ### A group of a team as it starts (R60, R61, R63, R64, R71) -/

theorem getLsbD_maskOf_outside {l : List Nat} {p : Nat → Bool} {x : Nat} (hl : l.Nodup) (hx : x ∉ l) :
    (maskOf l p).getLsbD x = false := by
  by_cases h : x < 64
  · simp [getLsbD_maskOf l p x h hl, hx]
  · exact BitVec.getLsbD_of_ge _ _ (by omega)

theorem newGroupsStart_holds : Claims.NewGroupsStart := by
  intro l t k core clock hw g
  refine ⟨rfl, rfl, rfl, rfl, rfl, fun x hx => ⟨rfl, ?_⟩, fun x hx => ?_, rfl, rfl, rfl, rfl, rfl, fun j hj => ?_,
    fun j hj => ?_⟩
  · have bit := getLsbD_maskOf (List.range l.width) (fun y => decide
      ((t * l.groupsPer + k) * l.width + y < l.itemCount)) x
      (by omega) List.nodup_range
    refine (iff_of_eq (congrArg (· = true) bit)).trans ?_
    simp [hx, g, newGroup, Group.item, Group.fresh]
  · exact getLsbD_maskOf_outside List.nodup_range (by simpa using hx)
  · refine Sparse.get_setAll_mem 0 _ j (l.arg j) [] ?_ ⟨(j, l.arg j), List.mem_map_of_mem (List.mem_range.2 hj), rfl⟩
    intro p hp e
    obtain ⟨i, -, rfl⟩ := List.mem_map.1 hp
    exact congrArg l.arg e
  · refine Sparse.get_setAll_other 0 _ j [] fun p hp e => ?_
    obtain ⟨i, hi, rfl⟩ := List.mem_map.1 hp
    have := List.mem_range.1 hi
    omega

/-! ### Dispatch (R93, R96) -/

/-- Only ranges of the tower are next on a tower. -/
theorem Launch.heads_fresh {l : Launch} {tower : Nat} {r : Range} (h : .fresh r ∈ l.heads tower) : r.tower = tower := by
  unfold Launch.heads at h
  split at h
  · split at h
    · split at h <;> simp at h
    · split at h
      · simp at h
        subst h
        assumption
      · simp at h
    · simp at h
  · obtain ⟨k, hk, h⟩ := List.mem_flatMap.1 h
    have htower := (List.mem_filter.1 hk).2
    split at h
    · simp at h
    · obtain ⟨x, hx, e⟩ := List.mem_map.1 h
      cases e
      have := (List.mem_filter.1 hx).2
      simp only [Bool.and_eq_true, beq_iff_eq] at this htower
      exact this.2

theorem Launch.headsFor_of_not_reserves {l : Launch} (h : l.reserves = false) (core : Nat) :
    l.headsFor core = l.heads (towerOf core) := by
  simp [Launch.headsFor, h]

/-- Ranges are not sent on while the tower has some. -/
theorem State.sendFor_of_heads {s : State} {l : Launch} {tower : Nat} (hl : s.launch? l.lid = some l)
    (h : l.heads tower ≠ []) : ∀ n, s.sendFor l.lid tower n = s
  | 0 => rfl
  | n + 1 => by
    have e : (l.heads tower).isEmpty = false := by simpa using h
    simp [State.sendFor, hl, e]

/-- The first launch in service order, when the tower has its teams, is the one that a core is offered. -/
theorem State.serve_first {s : State} {core : Nat} {l : Launch} {rest : List Launch} (hl : s.launch? l.lid = some l)
    (hc : l.cores = false ∨ l.started = true) (h : l.heads (towerOf core) ≠ []) :
    s.serve core (l :: rest) = match (l.headsFor core).findSome? (s.take l core) with
      | some x => x
      | none => if s.heldFor l core then (none, s) else s.serve core rest := by
  have alone : (l.cores && !l.started) = false := by rcases hc with h | h <;> simp [h]
  simp only [State.serve, alone, Bool.false_eq_true, if_false, State.sendFor_of_heads hl h, hl] <;> rfl

/-- A new team of a range of the core's tower starts where the core holds it, and the rest of the range goes to the
    pod. -/
theorem State.startFresh_eq {s : State} {l : Launch} {r : Range} {core : Nat} {cores : List Nat}
    (hset : l.podset = false) (hres : l.reserves = false) (htower : r.tower = towerOf core)
    (hpod : r.pod = none ∨ r.pod = some (podOf core)) (hseat : s.seatsOn l core l.newSizes = some cores) :
    s.startFresh l r core = some ((s.startTeam l.lid r.first core cores false).onLaunch l.lid fun x => x.took r 1
        (podOf core)) := by
  have go : s.mayGo l r core = true := by simp [State.mayGo, hres, htower]
  have own : (r.pod != some (podOf core) && s.holderTakes l r) = false := by
    rcases hpod with h | h <;> simp [State.holderTakes, h]
  have seat : s.seat l allCores core = some (cores, false) := by simp [State.seat, hres, hseat]
  simp only [State.startFresh, go, own, hset, Bool.not_true, Bool.or_self, Bool.false_eq_true, if_false, State.startAll,
    List.findSome?_cons, State.startOn, seat, List.isEmpty_nil, Bool.false_and, Option.map_some]

/-- A team as it starts at home on a core, with its groups on cores. -/
def freshTeam (t home : Nat) (cores : List Nat) (urgent : Bool) : Team :=
  { num := t, core := home, core2 := cores.find? (· != home), tower := towerOf home, urgent := urgent
    resident := true, faulted := false, scratch := [], bad := [], bars := [], lands := [], tiles := [] }

/-- A launch of which a team has started. -/
def Launch.withTeam (l : Launch) (x : Team) : Launch := { l with started := true, teams := l.teams ++ [x] }

theorem State.startTeam_only {s : State} {lid t home : Nat} {cores : List Nat} {urgent : Bool} {l : Launch}
    (hl : s.launch? lid = some l) : ∃ m c q x, s.startTeam lid t home cores urgent =
      { s.onLaunch lid (·.withTeam (freshTeam t home cores urgent)) with
        groups := s.groups ++ cores.zipIdx.map fun (p : Nat × Nat) => newGroup l t p.2 p.1 s.clock
        mem := m, l1 := c, poison := q, sectors := x } := by
  let s1 := ((s.acquire home).acquire (partner home)).onLaunch lid (·.withTeam (freshTeam t home cores urgent))
  let s2 : State := { s1 with
    groups := s1.groups ++ cores.zipIdx.map fun (p : Nat × Nat) => newGroup l t p.2 p.1 s1.clock }
  obtain ⟨m, c, q, x, e⟩ := s2.fitL1_only home
  obtain ⟨n, d, r, y, f⟩ := (s2.fitL1 home).fitL1_only (partner home)
  refine ⟨n, d, r, y, ?_⟩
  have run : s.startTeam lid t home cores urgent = (s2.fitL1 home).fitL1 (partner home) := by
    simp only [State.startTeam, hl]
    rfl
  rw [run, f, e]
  rfl

theorem teamStarts {s : State} {core : Nat} {l : Launch} {rest : List Launch} {r : Range} {more : List Turn}
    {cores : List Nat} (hp : s.power = true) (hw : s.coreWorks core = true) (ho : s.serviceOrder = l :: rest)
    (hl : s.launch? l.lid = some l) (hc : l.cores = false ∨ l.started = true) (hset : l.podset = false)
    (hres : l.reserves = false) (hh : l.headsFor core = .fresh r :: more)
    (hpod : r.pod = none ∨ r.pod = some (podOf core)) (hseat : s.seatsOn l core l.newSizes = some cores) :
    s.teamDispatch core =
      (s.startTeam l.lid r.first core cores false).onLaunch l.lid fun x => x.took r 1 (podOf core) := by
  have hheads : l.heads (towerOf core) = .fresh r :: more := (Launch.headsFor_of_not_reserves hres core).symm.trans hh
  have htower : r.tower = towerOf core := Launch.heads_fresh (hheads ▸ List.mem_cons_self)
  have starts := State.startFresh_eq hset hres htower hpod hseat
  have some_ : l.heads (towerOf core) ≠ [] := by simp [hheads]
  have turn : s.turn core = (none, (s.startTeam l.lid r.first core cores false).onLaunch l.lid
      fun x => x.took r 1 (podOf core)) := by
    simp only [State.turn, hp, hw, Bool.and_self, if_true, ho, State.serve_first hl hc some_, hh, List.findSome?_cons,
      State.take, starts, Option.map_some]
  simp only [State.teamDispatch, turn]

/-- The ranges of a launch once a team of one of them, on the range's tower, has been dispatched. -/
theorem Launch.took_ranges {l : Launch} {r : Range} {core : Nat} (htower : r.tower = towerOf core) :
    (l.took r 1 (podOf core)).ranges = l.ranges.flatMap fun y => if y = r then
      (if r.first + 1 < r.last then [{ r with first := r.first + 1, pod := some (podOf core) }] else []) else [y] := by
  have own : podOf core / 32 = r.tower := by rw [htower, podOf, towerOf]; omega
  simp only [Launch.took, own, if_true]

/-! ### Stealing (R99) -/

/-- The middle of a range is where its higher-numbered half starts. -/
theorem Launch.stealFrom_range {l : Launch} {r : Range} (hset : l.podset = false) (h : 2 ≤ r.last - r.first) :
    l.stealFrom ((List.range (r.last - r.first)).map (r.first + ·)) = r.last - (r.last - r.first) / 2 := by
  simp only [Launch.stealFrom, hset, Bool.false_eq_true, if_false, List.length_map, List.length_range]
  generalize hn : r.last - r.first = n at h
  have lt : n - n / 2 < n := by omega
  rw [List.getD_eq_getElem?_getD, List.getElem?_map, List.getElem?_range lt]
  simp only [Option.map_some, Option.getD_some]
  omega

theorem teamsAreDispatched_holds : Claims.TeamsAreDispatched := by
  refine ⟨?_, fun s core ho => ?_, fun s tower l k src ht hb hw hs => ?_, fun s pod q l r hp hs hq ht hr h2 => ?_,
    fun l r hset h => Launch.stealFrom_range hset h⟩
  · intro s core l rest r more cores hp hw ho hl hc hset hres hh hpod hseat
    have htower : r.tower = towerOf core :=
      Launch.heads_fresh (((Launch.headsFor_of_not_reserves hres core).symm.trans hh) ▸ List.mem_cons_self)
    obtain ⟨m, c, q, x, e⟩ := State.startTeam_only (t := r.first) (home := core) (cores := cores) (urgent := false) hl
    have run := teamStarts hp hw ho hl hc hset hres hh hpod hseat
    have started := State.launch?_onLaunch_self s l.lid (·.withTeam (freshTeam r.first core cores false)) l hl
        fun _ => rfl
    have took := State.launch?_onLaunch_self (s.startTeam l.lid r.first core cores false) l.lid
      (fun y => y.took r 1 (podOf core)) (l.withTeam (freshTeam r.first core cores false)) (by rw [e]; exact started)
      fun _ => rfl
    refine ⟨_, _, congrArg Host.Outcome.next run, took, rfl, ⟨_, rfl, rfl, rfl, rfl, rfl⟩, Launch.took_ranges htower,
        ?_⟩
    rw [e]
    rfl
  · refine congrArg Host.Outcome.next (?_ : s.teamDispatch core = s)
    have turn : s.turn core = (none, s) := by
      unfold State.turn
      split
      · rw [ho, State.serve]
      · rfl
    simp only [State.teamDispatch, turn]
  · refine congrArg Host.Outcome.next (?_ : s.steal tower = _)
    simp [State.steal, ht, State.stealTower, hb, hw, hs, largest]
  · refine congrArg Host.Outcome.next (?_ : s.steal (8 + pod) = _)
    have other : (q == pod) = false := beq_false_of_ne hq
    have no : ¬ 8 + pod < 8 := by omega
    have e : 8 + pod - 8 = pod := by omega
    have room : pod < Config.pods := hp
    simp only [State.steal, if_neg no, e, if_pos room]
    simp [State.stealPod, hs, other, ht, hr, h2, largest]

/-! ### Requests for pre-emption (R94, R394, R397) -/

theorem mem_insertBy {α : Type} {le : α → α → Bool} {x y : α} : ∀ {l : List α}, y ∈ insertBy le x l → y = x ∨ y ∈ l
  | [], h => by simpa [insertBy] using h
  | z :: t, h => by
    unfold insertBy at h
    split at h
    · simpa using h
    · rcases List.mem_cons.1 h with rfl | h
      · exact .inr List.mem_cons_self
      · exact (mem_insertBy h).imp_right (List.mem_cons_of_mem _)

theorem mem_of_mem_sortBy {α : Type} {le : α → α → Bool} {y : α} : ∀ {l : List α}, y ∈ sortBy le l → y ∈ l
  | [], h => h
  | x :: t, h => by
    rcases mem_insertBy (show y ∈ insertBy le x (sortBy le t) from h) with rfl | h
    · exact List.mem_cons_self
    · exact List.mem_cons_of_mem _ (mem_of_mem_sortBy h)

/-- A victim is of a live launch of a lower priority. -/
theorem State.victimTeams_spec {s : State} {prio tower : Nat} {v : Launch × Nat} (h : v ∈ s.victimTeams prio tower) :
    v.1 ∈ s.launches ∧ v.1.prio < prio := by
  obtain ⟨l, hl, h⟩ := List.mem_flatMap.1 h
  obtain ⟨t, -, rfl⟩ := List.mem_map.1 h
  obtain ⟨mem, ok⟩ := List.mem_filter.1 (mem_of_mem_sortBy hl)
  simp only [Bool.and_eq_true, decide_eq_true_eq] at ok
  exact ⟨mem, ok.1.2⟩

/-- Groups are asked to stop for a launch of a priority: nothing else changes, and only groups of launches of a lower
priority are asked. -/
structure State.Asks (prio : Nat) (s t : State) : Prop where
  mem : t.mem = s.mem
  launches : t.launches = s.launches
  groups : ∃ q : Group → Group, t.groups = s.groups.map q ∧ ∀ g, (q g).id = g.id ∧ (q g).halted = g.halted ∧
    (g.stopAt.isSome = true → (q g).stopAt.isSome = true) ∧
    ((q g).stopAt.isSome = true → g.stopAt.isSome = true ∨ ∃ v ∈ s.launches, v.lid = lidOf g.id ∧ v.prio < prio)

theorem State.Asks.refl (prio : Nat) (s : State) : s.Asks prio s :=
  ⟨rfl, rfl, fun g => g, by simp, fun _ => ⟨rfl, rfl, fun h => h, .inl⟩⟩

theorem State.Asks.trans {prio : Nat} {s t u : State} (a : s.Asks prio t) (b : t.Asks prio u) : s.Asks prio u := by
  obtain ⟨p, hp, kp⟩ := a.groups
  obtain ⟨q, hq, kq⟩ := b.groups
  refine ⟨b.mem.trans a.mem, b.launches.trans a.launches, fun g => q (p g), by rw [hq, hp, List.map_map]; rfl,
      fun g => ?_⟩
  obtain ⟨i, h, keep, only⟩ := kp g
  obtain ⟨i', h', keep', only'⟩ := kq (p g)
  refine ⟨i'.trans i, h'.trans h, fun c => keep' (keep c), fun c => ?_⟩
  rcases only' c with c | ⟨v, hv, e, lt⟩
  · exact only c
  · exact .inr ⟨v, a.launches ▸ hv, e.trans (congrArg lidOf i), lt⟩

theorem State.stopUnit_asks (s : State) {l : Launch} {prio : Nat} (t : Nat) (hl : l ∈ s.launches) (lt : l.prio < prio) :
    s.Asks prio (s.stopUnit l t) := by
  refine ⟨rfl, rfl, _, rfl, fun g => ?_⟩
  split
  next named =>
    simp only [Bool.and_eq_true, beq_iff_eq] at named
    exact ⟨rfl, rfl, fun _ => rfl, fun _ => .inr ⟨l, hl, named.1.1.1.1.symm, lt⟩⟩
  · exact ⟨rfl, rfl, fun h => h, .inl⟩

theorem State.makeRoom_asks {prio : Nat} (met : State → Bool) : ∀ (vs : List (Launch × Nat)) (s : State),
    (∀ v ∈ vs, v.1 ∈ s.launches ∧ v.1.prio < prio) → s.Asks prio (State.makeRoom met vs s)
  | [], s, _ => .refl prio s
  | (v, t) :: rest, s, h => by
    obtain ⟨hv, hrest⟩ := List.forall_mem_cons.1 h
    unfold State.makeRoom
    split
    · exact .refl prio s
    · split
      · exact State.makeRoom_asks met rest s hrest
      · exact (s.stopUnit_asks t hv.1 hv.2).trans (State.makeRoom_asks met rest (s.stopUnit v t) hrest)

/-- The first victim that may be taken is asked to stop, when the need is not met without. -/
theorem State.makeRoom_first {prio : Nat} {met : State → Bool} {u : State} (unmet : met u.afterStops = false)
    {v : Launch}
    {n : Nat} : ∀ (vs : List (Launch × Nat)), (∀ v ∈ vs, v.1 ∈ u.launches ∧ v.1.prio < prio) →
    vs.find? (fun y => !u.stopping y.1.lid y.2 && u.imageFits y.1 y.2) = some (v, n) →
    (u.stopUnit v n).Asks prio (State.makeRoom met vs u)
  | y :: rest, hv, h => by
    obtain ⟨-, hrest⟩ := List.forall_mem_cons.1 hv
    have step : State.makeRoom met (y :: rest) u =
        if u.stopping y.1.lid y.2 || !u.imageFits y.1 y.2 then State.makeRoom met rest u
        else State.makeRoom met rest (u.stopUnit y.1 y.2) := by
      simp only [State.makeRoom, unmet, Bool.false_eq_true, if_false]
    rw [step]
    cases ok : !u.stopping y.1.lid y.2 && u.imageFits y.1 y.2 with
    | true =>
      rw [List.find?_cons_of_pos (by exact ok)] at h
      obtain rfl := Option.some.inj h
      simp only [Bool.and_eq_true, Bool.not_eq_true'] at ok
      simp only [ok.1, ok.2, Bool.not_true, Bool.or_self, Bool.false_eq_true, if_false]
      exact State.makeRoom_asks met rest _ hrest
    | false =>
      rw [List.find?_cons_of_neg (by simp [ok])] at h
      have skip : (u.stopping y.1.lid y.2 || !u.imageFits y.1 y.2) = true := by
        cases a : u.stopping y.1.lid y.2 <;> simp_all
      rw [if_pos skip]
      exact State.makeRoom_first unmet rest hrest h

theorem State.journalSpan_only (s : State) (pa len : Nat) (obj : Bool) :
    ∃ j a b c, s.journalSpan pa len obj = { s with journal := j, sent := a, held := b, seq := c } := by
  unfold State.journalSpan
  refine List.foldlRecOn (motive := fun t : State => ∃ j a b c, t =
      { s with journal := j, sent := a, held := b, seq := c })
    _ _ ⟨s.journal, s.sent, s.held, s.seq, rfl⟩ ?_
  rintro t ⟨j, a, b, c, rfl⟩ k -
  exact State.journalAdd_only _ _ _ _ _ _

theorem State.readNow_only (s : State) (va len : Nat) :
    ∃ j a b c, (s.readNow va len).1 = { s with journal := j, sent := a, held := b, seq := c } := by
  have same : ∃ j a b c, s = { s with journal := j, sent := a, held := b, seq := c } :=
    ⟨s.journal, s.sent, s.held, s.seq, rfl⟩
  unfold State.readNow
  split
  · split
    · exact same
    · split
      · exact State.journalSpan_only _ _ _ _
      · exact same
  · exact s.noteWalk_only va

/-- A look at the header of a save area changes the journal and the launches alone. -/
theorem State.noteHeader_only (s : State) (l : Launch) :
    ∃ x j a b c, s.noteHeader l = { s with launches := x, journal := j, sent := a, held := b, seq := c } := by
  have same : ∃ x j a b c, s = { s with launches := x, journal := j, sent := a, held := b, seq := c } :=
    ⟨s.launches, s.journal, s.sent, s.held, s.seq, rfl⟩
  obtain ⟨j, a, b, c, e⟩ := s.readNow_only l.save 8
  unfold State.noteHeader
  split
  · exact same
  · dsimp only
    split
    · exact same
    · exact ⟨_, j, a, b, c, by rw [e]; rfl⟩

theorem State.noteAreas_mem (s : State) (tower : Nat) : (s.noteAreas tower).mem = s.mem := by
  unfold State.noteAreas
  refine List.foldlRecOn (motive := fun t : State => t.mem = s.mem) _ _ rfl ?_
  rintro t ht v -
  cases t.launch? v.1.lid with
  | none => exact ht
  | some l =>
    obtain ⟨x, j, a, b, c, e⟩ := t.noteHeader_only l
    exact (congrArg State.mem e).trans ht

/-- A group of a unit that has been asked to stop. -/
theorem State.Asks.asked {prio : Nat} {u t : State} {v : Launch} {n : Nat} (h : (u.stopUnit v n).Asks prio t)
    {g : Group}
    (hg : g ∈ t.groups) (hl : lidOf g.id = v.lid) (hw : isWave g.id = false) (hu : v.sameUnit (teamOf g.id) n = true)
    (hh : g.halted = false) : g.stopAt.isSome = true := by
  obtain ⟨q, e, k⟩ := h.groups
  obtain ⟨x, hx, rfl⟩ := List.mem_map.1 (e ▸ hg)
  obtain ⟨i, halted, keep, -⟩ := k x
  rw [i] at hl hw hu
  exact keep (State.stopGroups_asks u _ x hx (by simp [hl, hw, hu]) hw (halted ▸ hh))

theorem preemptionIsRequested_holds : Claims.PreemptionIsRequested := by
  refine ⟨?_, fun s core l rest ho hl hc hh ht hheld => ?_⟩
  · intro s tower x ht u hx unmet
    have victims : ∀ v ∈ u.victimTeams x.1.prio tower, v.1 ∈ u.launches ∧ v.1.prio < x.1.prio :=
      fun v hv => State.victimTeams_spec hv
    have asks := State.makeRoom_asks (fun v => v.meets tower x.1 x.2) (u.victimTeams x.1.prio tower) u victims
    have run : s.requestStop tower =
        State.makeRoom (fun v => v.meets tower x.1 x.2) (u.victimTeams x.1.prio tower) u := by
      simp only [State.requestStop, if_neg (Nat.not_le.2 ht), hx, u]
    refine ⟨_, congrArg Host.Outcome.next run, asks.mem.trans (s.noteAreas_mem tower), asks.launches,
      fun v n hv g hg => (State.makeRoom_first unmet _ victims hv).asked hg, fun g hg hs => ?_⟩
    obtain ⟨q, e, k⟩ := asks.groups
    obtain ⟨y, hy, rfl⟩ := List.mem_map.1 (e ▸ hg)
    obtain ⟨i, -, -, only⟩ := k y
    rcases only hs with h | ⟨v, hv, hlid, lt⟩
    · exact .inl ⟨y, hy, i.symm, h⟩
    · exact .inr ⟨v, hv, hlid.trans (congrArg lidOf i.symm), lt⟩
  · refine congrArg Host.Outcome.next (?_ : s.teamDispatch core = s)
    have turn : s.turn core = (none, s) := by
      unfold State.turn
      split
      · rw [ho, State.serve_first hl hc hh, ht]
        exact if_pos hheld
      · rfl
    simp only [State.teamDispatch, turn]

/-- Settles O52: a team that starts by the first turn of the first launch in service order, a theft by the one holding
there is, and a request for pre-emption by what asking the victims in turn leaves as it was. -/
theorem placement : Obligations.Placement :=
  ⟨newGroupsStart_holds, teamsAreDispatched_holds, preemptionIsRequested_holds⟩

end Sys2Proof.Machine
end

section
/-! PROOFS. Saves: groups that keep their state, units that leave and come back (O53). -/

namespace Sys2Proof.Machine

/-! ### What a saved group keeps (R196, R396) -/

theorem State.release_acquire_only (s : State) (core : Nat) : ∃ m c q x,
    (s.release core).acquire core = { s with mem := m, l1 := c, poison := q, sectors := x } := by
  obtain ⟨m, c, q, x, e⟩ := s.writeBack_cases core fun _ => true
  exact ⟨m, ((s.release core).acquire core).l1, q, x, by rw [State.release, e]; rfl⟩

theorem savedGroupsKeepTheirState_holds : Claims.SavedGroupsKeepTheirState := by
  refine ⟨fun s g hg none_ => ?_, fun g h => by simp [Group.keepMarked, h], fun g v m h => ?_⟩
  · obtain ⟨m, c, q, x, e⟩ := s.release_acquire_only g.core
    have groups : ((s.release g.core).acquire g.core).group? g.id = some g := by
      rw [e]
      exact hg
    have no : ((s.release g.core).acquire g.core).arrivedMma g.id = none := by
      rw [e]
      exact none_
    simp only [State.saveGroup, hg, State.withdrawMma, no]
    exact State.group?_onGroup_self _ g.id _ g groups rfl
  · intro y
    have e : y = { g with
        vregs := Sparse.keep (fun k => v.getLsbD (k / 64 / 4)) g.vregs
        bad := g.bad.filter fun k => v.getLsbD (2 * k / g.width / 4)
        sregs := Sparse.keep (fun k => m.getLsbD k) g.sregs
        bypass := [], safe := none } := by
      simp only [y, Group.keepMarked, h]
    rw [e]
    refine ⟨rfl, rfl, rfl, fun r x hx => ?_, fun k => Sparse.get_keep _ _ _ _⟩
    have quad : vkey r x / 64 / 4 = r / 4 := by rw [vkey]; omega
    have get := Sparse.get_keep 0 (fun k => v.getLsbD (k / 64 / 4)) g.vregs (vkey r x)
    rwa [quad] at get

/-! ### A unit leaves (R394, R396) -/

/-- Groups and teams keep their numbers, and none becomes resident. -/
structure State.Leaves (s t : State) : Prop where
  groups : ∃ q : Group → Group, t.groups = s.groups.map q ∧ ∀ g, (q g).id = g.id ∧
      ((q g).resident = true → g.resident = true)
  launches : ∃ (q : Launch → Launch) (r : Launch → Team → Team), t.launches = s.launches.map q ∧ ∀ l, (q l).lid =
      l.lid ∧
    (q l).teams = l.teams.map (r l) ∧ ∀ x, (r l x).num = x.num ∧ ((r l x).resident = true → x.resident = true)

theorem State.Leaves.trans {s t u : State} (a : s.Leaves t) (b : t.Leaves u) : s.Leaves u := by
  obtain ⟨p, hp, kp⟩ := a.groups
  obtain ⟨q, hq, kq⟩ := b.groups
  obtain ⟨f, x, hf, kf⟩ := a.launches
  obtain ⟨h, y, hh, kh⟩ := b.launches
  refine ⟨⟨q ∘ p, by rw [hq, hp, List.map_map], fun g => ⟨(kq _).1.trans (kp g).1, fun c => (kp g).2 ((kq _).2 c)⟩⟩,
    ⟨h ∘ f, fun l => y (f l) ∘ x l, by rw [hh, hf, List.map_map], fun l => ?_⟩⟩
  obtain ⟨id, teams, k⟩ := kf l
  obtain ⟨id', teams', k'⟩ := kh (f l)
  exact ⟨id'.trans id, by rw [Function.comp_apply, teams', teams, List.map_map], fun z =>
    ⟨(k' _).1.trans (k z).1, fun c => (k z).2 ((k' _).2 c)⟩⟩

theorem State.Leaves.of_same {s t : State} (hg : t.groups = s.groups) (hl : t.launches = s.launches) : s.Leaves t :=
  ⟨⟨fun g => g, by simp [hg], fun _ => ⟨rfl, fun h => h⟩⟩,
    ⟨fun l => l, fun _ x => x, by simp [hl], fun _ => ⟨rfl, by simp, fun _ => ⟨rfl, fun h => h⟩⟩⟩⟩

theorem State.Leaves.foldl {α : Type} {f : State → α → State} (h : ∀ s x, State.Leaves s (f s x)) (l : List α)
    (s : State) :
    s.Leaves (l.foldl f s) :=
  List.foldlRecOn (motive := fun t => s.Leaves t) l f (.of_same rfl rfl) fun t ht x _ => ht.trans (h t x)

theorem State.Leaves.onGroup (s : State) (k : GroupId) {f : Group → Group}
    (h : ∀ g, (f g).id = g.id ∧ ((f g).resident = true → g.resident = true)) : s.Leaves (s.onGroup k f) := by
  refine ⟨⟨_, rfl, fun g => ?_⟩, (State.Leaves.of_same (s := s) (t := s) rfl rfl).launches⟩
  split
  · exact h g
  · exact ⟨rfl, fun c => c⟩

theorem State.Leaves.onLaunch (s : State) (k : Nat) {f : Launch → Launch} {r : Team → Team}
    (h : ∀ l, (f l).lid = l.lid ∧ (f l).teams = l.teams.map r)
    (hr : ∀ x, (r x).num = x.num ∧ ((r x).resident = true → x.resident = true)) : s.Leaves (s.onLaunch k f) := by
  refine ⟨(State.Leaves.of_same (s := s) (t := s) rfl rfl).groups,
      ⟨_, fun l => if l.lid = k then r else id, rfl, fun l => ?_⟩⟩
  dsimp only
  split
  · exact ⟨(h l).1, (h l).2, hr⟩
  · exact ⟨rfl, (List.map_id _).symm, fun _ => ⟨rfl, fun c => c⟩⟩

theorem State.Unbinds.leaves {s t : State} (h : s.Unbinds t) : s.Leaves t := by
  obtain ⟨q, hq, k⟩ := h.groups
  exact ⟨⟨q, hq, fun g => ⟨(k g).id, fun c => (k g).resident ▸ c⟩⟩,
    (State.Leaves.of_same (s := s) (t := { s with launches := t.launches }) rfl h.launches).launches⟩

theorem State.saveGroup_leaves (s : State) (k : GroupId) : s.Leaves (s.saveGroup k) := by
  unfold State.saveGroup
  split
  · exact .of_same rfl rfl
  next g _ =>
    obtain ⟨m, c, q, x, e⟩ := s.release_acquire_only g.core
    have first : s.Leaves ((s.release g.core).acquire g.core) := by
      rw [e]
      exact .of_same rfl rfl
    exact (first.trans (State.unbinds_withdrawMma _ k).leaves).trans (.onGroup _ k fun g => ⟨rfl, fun h => nomatch h⟩)

theorem Group.keepMarked_id (g : Group) : g.keepMarked.id = g.id ∧ g.keepMarked.resident = g.resident := by
  unfold Group.keepMarked
  split <;> exact ⟨rfl, rfl⟩

/-- A group leaves its core, with what its SAFE marked. -/
def State.leaveMarked (s : State) (k : GroupId) : State := (s.saveGroup k).onGroup k Group.keepMarked

theorem State.leaveMarked_leaves (s : State) (k : GroupId) : s.Leaves (s.leaveMarked k) :=
  (s.saveGroup_leaves k).trans (.onGroup _ k fun g => ⟨g.keepMarked_id.1, fun h => g.keepMarked_id.2 ▸ h⟩)

/-- No group of a number is resident. -/
def State.Away (s : State) (k : GroupId) : Prop := ∀ x ∈ s.groups, x.id = k → x.resident = false

theorem State.Leaves.away {s t : State} (h : s.Leaves t) {k : GroupId} (a : s.Away k) : t.Away k := by
  obtain ⟨q, hq, keep⟩ := h.groups
  intro x hx hk
  obtain ⟨y, hy, rfl⟩ := List.mem_map.1 (hq ▸ hx)
  have := a y hy ((keep y).1.symm.trans hk)
  exact Bool.eq_false_iff.2 fun c => by simp [(keep y).2 c] at this

theorem State.leaveMarked_away (s : State) {k : GroupId} (there : ∃ y ∈ s.groups, y.id = k) : (s.leaveMarked k).Away
    k := by
  obtain ⟨y, hy, hk⟩ := there
  obtain ⟨g, hg⟩ := Option.isSome_iff_exists.1 (List.find?_isSome (p := fun h : Group => h.id == k).2
      ⟨y, hy, by simpa using hk⟩)
  have away : (s.saveGroup k).Away k := by
    simp only [State.saveGroup, State.group?, hg]
    intro x hx h
    obtain ⟨z, -, rfl⟩ := List.mem_map.1 hx
    split
    · rfl
    next no => exact absurd (by rwa [if_neg no] at h) no
  exact State.Leaves.away (.onGroup _ k fun g => ⟨g.keepMarked_id.1, fun h => g.keepMarked_id.2 ▸ h⟩) away

theorem State.releaseTile_leaves (s : State) (pod t : Nat) : s.Leaves (s.releaseTile pod t) := .of_same rfl rfl

theorem State.releaseTiles_leaves (s : State) (h : Holder) : s.Leaves (s.releaseTiles h) :=
  .foldl (fun s (x : Nat × Nat) => s.releaseTile_leaves x.1 x.2) _ s

/-- The resident groups of a team leave, in turn. -/
def State.leaveAll (s : State) (gs : List Group) : State := gs.foldl (fun s g => s.leaveMarked g.id) s

theorem State.leaveAll_leaves (s : State) (gs : List Group) : s.Leaves (s.leaveAll gs) :=
  .foldl (fun s (g : Group) => s.leaveMarked_leaves g.id) gs s

theorem State.leaveAll_away {s : State} {gs : List Group} (hgs : ∀ g ∈ gs, g ∈ s.groups) {g : Group} (hg : g ∈ gs) :
    (s.leaveAll gs).Away g.id := by
  refine foldl_establishes _ (fun t : State => ∃ y ∈ t.groups, y.id = g.id) (fun t => t.Away g.id) gs s hg ?_ ?_ ?_
    ⟨g, hgs g hg, rfl⟩
  · rintro t x - ⟨y, hy, hk⟩
    obtain ⟨q, hq, keep⟩ := (t.leaveMarked_leaves x.id).groups
    exact ⟨q y, hq ▸ List.mem_map_of_mem hy, (keep y).1.trans hk⟩
  · exact fun t x _ a => (t.leaveMarked_leaves x.id).away a
  · exact fun t there => t.leaveMarked_away there

/-- A team and its groups are off their core. -/
structure State.TeamAway (s : State) (lid n : Nat) : Prop where
  groups : ∀ x ∈ s.groups, lidOf x.id = lid → isWave x.id = false → teamOf x.id = n → x.resident = false
  team : ∀ y, s.team? lid n = some y → y.resident = false

theorem State.Leaves.team? {s t : State} (h : s.Leaves t) {lid n : Nat} {y : Team} (hy : t.team? lid n = some y)
    (r : y.resident = true) : ∃ x, s.team? lid n = some x ∧ x.resident = true := by
  obtain ⟨q, f, hq, keep⟩ := h.launches
  have find : t.launch? lid = (s.launch? lid).map q := by
    have e : (fun x : Launch => (q x).lid == lid) = fun x => x.lid == lid := funext fun x => by rw [(keep x).1]
    rw [State.launch?, hq, List.find?_map]
    simp only [Function.comp_def, e]
    rfl
  rw [State.team?, find] at hy
  obtain ⟨l, hl, hy⟩ := Option.bind_eq_some_iff.1 hy
  obtain ⟨z, hz, rfl⟩ := Option.map_eq_some_iff.1 hl
  have e : (fun x : Team => (f z x).num == n) = fun x => x.num == n := funext fun x => by rw [((keep z).2.2 x).1]
  rw [(keep z).2.1, List.find?_map] at hy
  simp only [Function.comp_def, e] at hy
  obtain ⟨x, hx, rfl⟩ := Option.map_eq_some_iff.1 hy
  exact ⟨x, by rw [State.team?, hz]; exact hx, ((keep z).2.2 x).2 r⟩

theorem State.Leaves.teamAway {s t : State} (h : s.Leaves t) {lid n : Nat} (a : s.TeamAway lid n) : t.TeamAway lid
    n := by
  refine ⟨fun x hx hl hw hn => ?_, fun y hy => ?_⟩
  · obtain ⟨q, hq, keep⟩ := h.groups
    obtain ⟨y, hy, rfl⟩ := List.mem_map.1 (hq ▸ hx)
    obtain ⟨id, res⟩ := keep y
    rw [id] at hl hw hn
    have off := a.groups y hy hl hw hn
    exact Bool.eq_false_iff.2 fun c => by simp [res c] at off
  · refine Bool.eq_false_iff.2 fun c => ?_
    obtain ⟨x, hx, r⟩ := h.team? hy c
    rw [a.team x hx] at r
    cases r

/-- The groups of a team and the tiles that they hold have left; the team itself is still to be marked. -/
def State.teamLeft (s : State) (l : Launch) (t : Team) : State :=
  (((s.teamGroups l.lid t.num).foldl (fun s g => s.releaseTiles (.group g.id))
    (s.leaveAll ((s.teamGroups l.lid t.num).filter (·.resident))))).onPod (podOf t.core) fun p =>
      if p.podset = some (l.lid, l.setOf t.num) then { p with podset := none } else p

theorem State.teamLeft_leaves (s : State) (l : Launch) (t : Team) :
    (s.leaveAll ((s.teamGroups l.lid t.num).filter (·.resident))).Leaves (s.teamLeft l t) :=
  (State.Leaves.foldl (fun s (g : Group) => s.releaseTiles_leaves (.group g.id)) _ _).trans (.of_same rfl rfl)

/-- What the save of a team writes into the team. -/
def Team.away (t : Team) (held : List (GroupId × Nat × Tile)) : Team := { t with resident := false, tiles := held }

theorem State.saveTeam_eq (s : State) (l : Launch) (t : Team) :
    ∃ held, s.saveTeam l t = (s.teamLeft l t).onTeam l.lid t.num (·.away held) := ⟨_, rfl⟩

theorem State.saveTeam_leaves (s : State) (l : Launch) (t : Team) : s.Leaves (s.saveTeam l t) := by
  obtain ⟨held, e⟩ := s.saveTeam_eq l t
  rw [e]
  refine ((s.leaveAll_leaves _).trans (s.teamLeft_leaves l t)).trans (.onLaunch _ _ (fun y => ⟨rfl, rfl⟩) fun x => ?_)
  split
  · exact ⟨rfl, fun h => nomatch h⟩
  · exact ⟨rfl, fun h => h⟩

theorem State.saveTeam_away (s : State) (l : Launch) (t : Team) : (s.saveTeam l t).TeamAway l.lid t.num := by
  obtain ⟨held, e⟩ := s.saveTeam_eq l t
  have left : s.Leaves (s.teamLeft l t) := (s.leaveAll_leaves _).trans (s.teamLeft_leaves l t)
  rw [e]
  refine ⟨fun x hx hl hw hn => Bool.eq_false_iff.2 fun c => ?_, fun y hy => ?_⟩
  · obtain ⟨q, hq, keep⟩ := left.groups
    obtain ⟨y, hy, rfl⟩ := List.mem_map.1 (hq ▸ (show x ∈ (s.teamLeft l t).groups from hx))
    obtain ⟨id, res⟩ := keep y
    rw [id] at hl hw hn
    have mine : y ∈ (s.teamGroups l.lid t.num).filter (·.resident) :=
      List.mem_filter.2 ⟨List.mem_filter.2 ⟨hy, by simp [hl, hw, hn]⟩, res c⟩
    have away := (s.teamLeft_leaves l t).away (State.leaveAll_away (s := s)
      (fun g hg => List.mem_of_mem_filter (List.mem_of_mem_filter hg)) mine)
    rw [away _ hx id] at c
    cases c
  · obtain ⟨z, hz, hy⟩ := Option.bind_eq_some_iff.1 hy
    obtain ⟨w, hw, rfl⟩ := List.mem_map.1 (List.mem_of_find?_eq_some hz)
    have lid : w.lid = l.lid := by
      have := State.launch?_lid hz
      split at this <;> exact this
    rw [if_pos lid] at hy
    obtain ⟨v, -, rfl⟩ := List.mem_map.1 (List.mem_of_find?_eq_some hy)
    have num := List.find?_some hy
    split
    · rfl
    next no => exact absurd (by simpa only [if_neg no, beq_iff_eq] using num) no

/-- UNIT_SAVE of a unit that can be saved, onto pages that can be written. -/
theorem State.unitSave_eq {s : State} {lid : Nat} {team : Option Nat} {l : Launch} (hl : s.launch? lid = some l)
    (can : s.canSave l (s.saveUnit l team) = true) (stop : s.saveStop l (s.unitImage l (s.saveUnit l team)) = none) :
    s.unitSave lid team = ((((s.saveUnit l team).foldl (fun s t => s.saveTeam l t) s).saveEngineTiles l).useArea lid
      (· + s.unitImage l (s.saveUnit l team))) := by
  simp only [State.unitSave, hl, can, stop, Bool.not_true, Bool.false_eq_true, if_false]

theorem State.saveEngineTiles_leaves (s : State) (l : Launch) : s.Leaves (s.saveEngineTiles l) := by
  unfold State.saveEngineTiles
  split
  · exact (s.releaseTiles_leaves _).trans (.onLaunch (r := id) _ _ (fun _ => ⟨rfl, (List.map_id _).symm⟩)
      fun _ => ⟨rfl, fun h => h⟩)
  · exact .of_same rfl rfl

theorem State.useArea_leaves (s : State) (lid : Nat) (f : Nat → Nat) : s.Leaves (s.useArea lid f) :=
  .onLaunch (r := id) _ _ (fun _ => ⟨rfl, (List.map_id _).symm⟩) fun _ => ⟨rfl, fun h => h⟩

theorem State.unitSave_away {s : State} {lid : Nat} {team : Option Nat} {l : Launch} (hl : s.launch? lid = some l)
    (can : s.canSave l (s.saveUnit l team) = true) (stop : s.saveStop l (s.unitImage l (s.saveUnit l team)) = none)
    {x : Team} (hx : x ∈ s.saveUnit l team) : (s.unitSave lid team).TeamAway lid x.num := by
  have saved : ((s.saveUnit l team).foldl (fun s t => s.saveTeam l t) s).TeamAway l.lid x.num :=
    foldl_establishes _ (fun _ => True) (fun t : State => t.TeamAway l.lid x.num) _ s hx (fun _ _ _ _ => trivial)
      (fun t y _ a => (t.saveTeam_leaves l y).teamAway a) (fun t _ => t.saveTeam_away l x) trivial
  rw [State.unitSave_eq hl can stop, ← State.launch?_lid hl]
  exact ((State.saveEngineTiles_leaves _ l).trans (State.useArea_leaves _ _ _)).teamAway saved

/-! ### A saved unit comes back (R398) -/

theorem Launch.sameUnit_self (l : Launch) (n : Nat) : l.sameUnit n n = true := by
  unfold Launch.sameUnit
  cases l.wholeOnly
  · cases l.podset <;> simp
  · rfl

theorem State.turn_of_saved {s t : State} {core : Nat} {l : Launch} {rest : List Launch} {tm : Team} {more : List Turn}
    (hp : s.power = true) (hw : s.coreWorks core = true) (ho : s.serviceOrder = l :: rest)
        (hl : s.launch? l.lid = some l)
    (hc : l.cores = false ∨ l.started = true) (hh : l.headsFor core = .saved tm :: more)
        (h : l.heads (towerOf core) ≠ [])
    (htower : tm.tower = towerOf core) (ht : s.restoreUnit l tm core = some t) :
    s.turn core = (some (l.lid, tm.num), t) := by
  simp only [State.turn, hp, hw, Bool.and_self, if_true, ho, State.serve_first hl hc h, hh, List.findSome?_cons,
    State.take, htower, ht, Option.map_some]

/-- A saved team whose turn it is comes back by UNIT_RESTORE. -/
theorem State.unitRestore_of_turn {s t : State} {core : Nat} {l : Launch} {n : Nat} (hp : s.power = true)
    (hl : s.launch? l.lid = some l) (ha : l.aborted = false) (away : ∀ x ∈ l.teams, x.num = n → x.resident = false)
    (turn : s.turn core = (some (l.lid, n), t)) : s.unitRestore l.lid (some n) core = t := by
  have none_ : (l.teams.find? fun t => t.num == n && t.resident && !t.faulted) = none := by
    refine List.find?_eq_none.2 fun x hx => ?_
    by_cases c : x.num = n
    · simp [away x hx c]
    · simp [c]
  simp only [State.unitRestore, hl, ha, hp, Bool.not_true, Bool.or_self, Bool.false_eq_true, if_false, Option.bind_some,
    none_, turn, Option.all_some, l.sameUnit_self n, and_self, if_true]

theorem unitsAreSavedAndRestored_holds : Claims.UnitsAreSavedAndRestored := by
  refine ⟨fun s lid team l hl can stop => ⟨_, rfl, fun x hx => (State.unitSave_away hl can stop hx).team, ?_⟩, ?_,
    fun s core l tm h => by simp [State.restoreUnit, h], fun s core l tm cores alone hset takes good seats => ?_⟩
  · rintro g hg hlid hw ⟨x, hx, hn⟩
    exact (State.unitSave_away hl can stop hx).groups g hg hlid hw hn.symm
  · intro s t core l rest tm more hp hw ho hl ha hc hh h htower away ht
    have turn := State.turn_of_saved hp hw ho hl hc hh h htower ht
    refine ⟨congrArg Host.Outcome.next (State.unitRestore_of_turn hp hl ha away turn),
      congrArg Host.Outcome.next (?_ : s.teamDispatch core = s)⟩
    simp only [State.teamDispatch, turn]
  · simp only [State.restoreUnit, alone, takes, hset, Bool.not_true, Bool.false_eq_true, if_false, State.restoreAll,
      List.findSome?_cons, seats, Option.map_some, State.checkImages, good, List.foldl_cons, List.foldl_nil]

/-- Settles O53: a group that leaves is changed in its place alone, `keepMarked` filters what it holds, and of a unit
that is saved each team leaves in turn and none that has left comes back. -/
theorem saves : Obligations.Saves := ⟨savedGroupsKeepTheirState_holds, unitsAreSavedAndRestored_holds⟩

end Sys2Proof.Machine
end

section
/-! PROOFS. Ends: groups that retire, launches that complete, pods that are lost (O54). -/

namespace Sys2Proof.Machine

/-! ### Pods and their tiles when others end (R222, R330) -/

/-- The tiles that groups hold stay as they are, and no pod leaves service. -/
structure State.SparesTiles (s t : State) : Prop where
  podsOut : t.podsOut = s.podsOut
  tiles : ∀ pod k id, (s.tile pod k).holder = .group id → t.tile pod k = s.tile pod k

theorem State.SparesTiles.of_same {s t : State} (ho : t.podsOut = s.podsOut) (hp : t.pods = s.pods) : s.SparesTiles t :=
  ⟨ho, fun pod k _ _ => by rw [State.tile, State.pod, hp]; rfl⟩

theorem State.SparesTiles.trans {s t u : State} (a : s.SparesTiles t) (b : t.SparesTiles u) : s.SparesTiles u :=
  ⟨b.podsOut.trans a.podsOut, fun pod k id h => (b.tiles pod k id ((a.tiles pod k id h).symm ▸ h)).trans
      (a.tiles pod k id h)⟩

theorem State.SparesTiles.foldl {α : Type} {f : State → α → State} (h : ∀ (s : State) x, s.SparesTiles (f s x))
    (l : List α)
    (s : State) : s.SparesTiles (l.foldl f s) :=
  List.foldlRecOn (motive := fun t => s.SparesTiles t) l f (.of_same rfl rfl) fun t ht x _ => ht.trans (h t x)

theorem State.SparesTiles.onPod (s : State) (p : Nat) {f : Pod → Pod} (hf : ∀ x, (f x).tiles = x.tiles) :
    s.SparesTiles (s.onPod p f) :=
  ⟨rfl, fun pod k _ _ => s.tile_onPod p pod k f hf⟩

theorem State.sparesTiles_finishOp (s : State) (n : Nat) (f : Option Failure) (fl : Flags) :
    s.SparesTiles (s.finishOp n f fl) := by
  unfold State.finishOp
  split
  · exact .of_same rfl rfl
  · dsimp only
    split
    · exact .of_same rfl rfl
    · exact .of_same rfl rfl

theorem State.sparesTiles_failMma (s : State) (a : Arrived) (f : Failure) : s.SparesTiles (s.failMma a f) :=
  (s.sparesTiles_finishOp a.op (some f) 0).trans (.of_same rfl rfl)

/-- A tile that is handed on was the engine's. -/
theorem State.sparesTiles_handTile (s : State) (pod t : Nat) : s.SparesTiles (s.handTile pod t) := by
  unfold State.handTile
  dsimp only
  split
  next lid hh =>
    split
    · exact .of_same rfl rfl
    · split
      next g _ =>
        have set : s.SparesTiles (s.setTile pod t { s.tile pod t with holder := .group g.id }) := by
          refine ⟨rfl, fun p k id h => ?_⟩
          rw [State.tile_setTile]
          split
          next same =>
            rw [same.1, same.2, hh] at h
            cases h
          · rfl
        exact set.trans (.of_same rfl rfl)
      · exact .of_same rfl rfl
  · exact .of_same rfl rfl

theorem State.sparesTiles_withdrawLatch (s : State) (l : Latch) (cause : Nat) : s.SparesTiles
    (s.withdrawLatch l cause) := by
  have h : s.SparesTiles (l.arrived.foldl (fun s a => s.failMma a ⟨cause, BitVec.ofNat 64 a.addr⟩) s) :=
    .foldl (fun s (a : Arrived) => s.sparesTiles_failMma a _) _ s
  unfold State.withdrawLatch
  dsimp only
  split
  · exact h.trans (.foldl (fun s (t : Nat) => s.sparesTiles_handTile _ t) _ _)
  · exact h

theorem State.sparesTiles_partnerGone (s : State) (k : GroupId) : s.SparesTiles (s.partnerGone k) := by
  cases k with
  | wave => exact .of_same rfl rfl
  | member lid t k =>
    have gangs : s.SparesTiles (s.breakGangs (.member lid t k)) := by
      unfold State.breakGangs
      refine State.SparesTiles.trans ?_ (.foldl (fun s (l : Latch) => s.sparesTiles_withdrawLatch l _) _ _)
      exact .foldl (fun s (p : Nat × Pod) => State.SparesTiles.onPod s p.1 (by intro _; rfl)) _ s
    exact gangs.trans (.of_same rfl rfl)

theorem State.sparesTiles_faultTeam (s : State) (lid t : Nat) : s.SparesTiles (s.faultTeam lid t) := by
  unfold State.faultTeam
  split
  · exact .of_same rfl rfl
  · split
    · exact .of_same rfl rfl
    · dsimp only
      refine State.SparesTiles.trans (t := List.foldl _ _ _) ?_ (.of_same rfl rfl)
      refine State.SparesTiles.trans ?_ (.foldl (fun s (g : Group) => s.sparesTiles_partnerGone g.id) _ _)
      exact .of_same rfl rfl

/-! ### A group retires (R324, R408) -/

/-- The tiles that a holder has become free. -/
theorem State.tile_releaseTile (s : State) (pod t p k : Nat) :
    (s.releaseTile pod t).tile p k = if p = pod ∧ k = t then Tile.zero else s.tile p k := by
  rw [State.releaseTile, State.dropInjected, State.tile_onPod _ _ _ _ _ fun _ => by rfl, State.tile_setTile]

/-- A lookup gives the default or an entry of the list. -/
theorem Sparse.get_mem {α : Type} {d : α} {k : Nat} : ∀ {m : Sparse α}, Sparse.get d m k ≠ d → (k, Sparse.get d m k) ∈ m
  | [], h => absurd rfl h
  | (j, v) :: m, h => by
    unfold Sparse.get at h ⊢
    split
    next e => exact e ▸ List.mem_cons_self
    next e => exact List.mem_cons_of_mem _ (Sparse.get_mem (by rwa [if_neg e] at h))

/-- A tile with a holder is listed among the holder's tiles. -/
theorem State.mem_tilesOf {s : State} {pod k : Nat} {h : Holder} (hh : (s.tile pod k).holder = h) (held : h ≠ .free) :
    (pod, k) ∈ s.tilesOf h := by
  have tile : s.tile pod k ≠ Tile.zero := fun e => held (by rw [← hh, e]; rfl)
  have there : s.pod pod ≠ Pod.zero := fun e => tile (by rw [State.tile, e]; rfl)
  refine List.mem_flatMap.2 ⟨(pod, s.pod pod), Sparse.get_mem there, ?_⟩
  exact List.mem_map.2 ⟨(k, s.tile pod k), List.mem_filter.2 ⟨Sparse.get_mem tile, by simpa using hh⟩, rfl⟩

/-- Releasing a holder's tiles frees each of them. -/
theorem State.tile_releaseTiles {s : State} {h : Holder} {pod k : Nat} (hh : (s.tile pod k).holder = h)
    (held : h ≠ .free) :
    (s.releaseTiles h).tile pod k = Tile.zero := by
  refine foldl_establishes _ (fun _ => True) (fun t : State => t.tile pod k = Tile.zero) (s.tilesOf h) s
    (State.mem_tilesOf hh held) (fun _ _ _ _ => trivial) (fun t x _ ht => ?_) (fun t _ => ?_) trivial
  · rw [State.tile_releaseTile]
    split
    · rfl
    · exact ht
  · rw [State.tile_releaseTile, if_pos ⟨rfl, rfl⟩]

/-- Releasing tiles changes the pods alone. -/
theorem State.releaseTiles_only (s : State) (h : Holder) : ∃ p, s.releaseTiles h = { s with pods := p } := by
  refine List.foldlRecOn (motive := fun t : State => ∃ p, t = { s with pods := p }) _ _ ⟨s.pods, rfl⟩ ?_
  rintro t ⟨p, rfl⟩ x -
  exact ⟨_, rfl⟩

theorem State.sendFinal_only {s t : State} {lid : Nat} {k : GroupId} {must : Bool} {x : Nat × Nat}
    (h : s.sendFinal lid k must x = .ok t) : ∃ l, t = { s with launches := l } := by
  unfold State.sendFinal at h
  split at h
  · dsimp only at h
    split at h
    · cases h
      exact ⟨_, rfl⟩
    · cases h
      exact ⟨_, rfl⟩
    · cases h
    · split at h
      · cases h
        exact ⟨_, rfl⟩
      · cases h
      · cases h
      · cases h
  · cases h
    exact ⟨s.launches, rfl⟩

/-- A final value is sent, or discarded where it cannot be. -/
def State.tryFinal (lid : Nat) (k : GroupId) (s : State) (x : Nat × Nat) : State :=
  match s.sendFinal lid k true x with
  | .ok s => s
  | .error _ => s

theorem State.tryFinal_only (s : State) (lid : Nat) (k : GroupId) (x : Nat × Nat) :
    ∃ l, s.tryFinal lid k x = { s with launches := l } := by
  unfold State.tryFinal
  split
  next t h => exact State.sendFinal_only h
  · exact ⟨s.launches, rfl⟩

/-- Lanes that retire without sending change the launches alone. -/
theorem State.discardLanes_only (s : State) (k : GroupId) (lanes : List Nat) :
    ∃ l, s.discardLanes k lanes = { s with launches := l } := by
  unfold State.discardLanes
  split
  next l g _ _ =>
    split
    · exact ⟨s.launches, rfl⟩
    · have finals := List.foldlRecOn (motive := fun t : State => ∃ l, t = { s with launches := l }) (finalsOf l g lanes)
        (State.tryFinal l.lid k) ⟨s.launches, rfl⟩ (by
          rintro t ⟨m, rfl⟩ x -
          obtain ⟨n, e⟩ := State.tryFinal_only { s with launches := m } l.lid k x
          exact ⟨n, e⟩)
      obtain ⟨m, e⟩ := finals
      exact ⟨_, (congrArg (fun t : State => t.itemsOut g lanes) e).trans rfl⟩
  · exact ⟨s.launches, rfl⟩

theorem State.dropImage_only (s : State) (g : Group) : ∃ l, s.dropImage g = { s with launches := l } := by
  unfold State.dropImage
  split
  · exact ⟨_, rfl⟩
  · exact ⟨s.launches, rfl⟩

/-- A team that retires leaves memory, the groups, the operations and every tile. -/
theorem State.retireTeam_frame (s : State) (lid t : Nat) : (s.retireTeam lid t).mem = s.mem ∧
    (s.retireTeam lid t).groups = s.groups ∧ (s.retireTeam lid t).ops = s.ops ∧
    ∀ pod k, (s.retireTeam lid t).tile pod k = s.tile pod k := by
  have set (l : Launch) (x : Team) : (s.releaseSet l x).mem = s.mem ∧ (s.releaseSet l x).groups = s.groups ∧
      (s.releaseSet l x).ops = s.ops ∧ ∀ pod k, (s.releaseSet l x).tile pod k = s.tile pod k := by
    unfold State.releaseSet
    dsimp only
    split
    · exact ⟨rfl, rfl, rfl, fun _ _ => rfl⟩
    · let f : Pod → Pod := fun p => if p.podset = some (l.lid, l.setOf x.num) then { p with podset := none } else p
      have keeps (p : Pod) : (f p).tiles = p.tiles := by
        simp only [f]
        split <;> rfl
      exact ⟨rfl, rfl, rfl, fun pod k => s.tile_onPod _ pod k f keeps⟩
  unfold State.retireTeam
  split
  · split
    · exact set _ _
    · exact ⟨rfl, rfl, rfl, fun _ _ => rfl⟩
  · exact ⟨rfl, rfl, rfl, fun _ _ => rfl⟩

/-- A group that retires before its team learns of it. -/
def State.groupOut (s : State) (g : Group) : State :=
  let t := (((s.dropImage g).discardLanes g.id g.lanes).partnerGone g.id).releaseTiles (.group g.id)
  ({ t with ops := t.ops.filter fun o => decide (o.gid ≠ g.id) }).dropGroup g.id

theorem State.groupOut_frame (s : State) (g : Group) : (s.groupOut g).mem = s.mem ∧ (s.groupOut g).group? g.id = none ∧
    (∀ o ∈ (s.groupOut g).ops, o.gid ≠ g.id) ∧
    ∀ pod k, (s.tile pod k).holder = .group g.id → (s.groupOut g).tile pod k = Tile.zero := by
  obtain ⟨l, e⟩ := s.dropImage_only g
  obtain ⟨m, f⟩ := (s.dropImage g).discardLanes_only g.id g.lanes
  rw [e] at f
  have gone := ({ s with launches := m } : State).unbinds_partnerGone g.id
  have spare := ({ s with launches := m } : State).sparesTiles_partnerGone g.id
  have form : s.groupOut g = let t := (({ s with launches := m } : State).partnerGone g.id).releaseTiles (.group g.id)
      ({ t with ops := t.ops.filter fun o => decide (o.gid ≠ g.id) }).dropGroup g.id := by
    rw [State.groupOut, e, f]
  obtain ⟨p, r⟩ := (({ s with launches := m } : State).partnerGone g.id).releaseTiles_only (.group g.id)
  rw [form]
  refine ⟨?_, ?_, ?_, fun pod k h => ?_⟩
  · exact (congrArg State.mem r).trans gone.mem
  · exact List.find?_eq_none.2 fun x hx => by simpa using (List.mem_filter.1 hx).2
  · exact fun o ho => of_decide_eq_true (List.mem_filter.1 ho).2
  · exact State.tile_releaseTiles (by rw [spare.tiles pod k g.id h]; exact h) (by simp)

theorem groupsRetire_holds : Claims.GroupsRetire := by
  intro s g hg hover hquiet
  obtain ⟨mem, none_, ops, tiles⟩ := s.groupOut_frame g
  have run : s.retire g.id = if isWave g.id then s.groupOut g else (s.groupOut g).retireTeam (lidOf g.id)
      (teamOf g.id) := by
    simp only [State.retire, hg, hover, hquiet, Bool.not_true, Bool.or_self, Bool.false_eq_true, if_false]
    rfl
  refine ⟨_, congrArg Host.Outcome.next run, ?_⟩
  split
  · exact ⟨none_, ops, tiles, mem⟩
  · obtain ⟨m, gs, os, ts⟩ := (s.groupOut g).retireTeam_frame (lidOf g.id) (teamOf g.id)
    exact ⟨by rw [State.group?, gs]; exact none_, fun o ho => ops o (os ▸ ho), fun pod k h => (ts pod k).trans
        (tiles pod k h),
      m.trans mem⟩

/-! ### What the end of a launch brings beside its data (R88, R92, R417, R422) -/

/-- Memory, every L1, the groups and the launches stay, what has been sent stays sent, and pods only leave service. -/
structure State.Idles (s t : State) : Prop where
  mem : t.mem = s.mem
  l1 : t.l1 = s.l1
  groups : t.groups = s.groups
  launches : t.launches = s.launches
  sent : ∀ x ∈ s.sent, x ∈ t.sent
  podsOut : ∀ p ∈ s.podsOut, p ∈ t.podsOut

theorem State.Idles.refl (s : State) : s.Idles s := ⟨rfl, rfl, rfl, rfl, fun _ h => h, fun _ h => h⟩

theorem State.Idles.trans {s t u : State} (a : s.Idles t) (b : t.Idles u) : s.Idles u :=
  ⟨b.mem.trans a.mem, b.l1.trans a.l1, b.groups.trans a.groups, b.launches.trans a.launches,
    fun x h => b.sent x (a.sent x h), fun p h => b.podsOut p (a.podsOut p h)⟩

theorem State.Idles.foldl {α : Type} {f : State → α → State} (h : ∀ (s : State) x, s.Idles (f s x)) (l : List α)
    (s : State) : s.Idles (l.foldl f s) :=
  List.foldlRecOn (motive := fun t => s.Idles t) l f (.refl s) fun t ht x _ => ht.trans (h t x)

theorem State.idles_deliver (s : State) (m : Msg) : s.Idles (s.deliver m) := by
  unfold State.deliver
  split
  · exact ⟨rfl, rfl, rfl, rfl, fun _ h => List.mem_append_left _ h, fun _ h => h⟩
  · exact ⟨rfl, rfl, rfl, rfl, fun _ h => h, fun _ h => h⟩

theorem State.idles_post (s : State) (qp : Option Nat) (k st lid : Nat) (arg : Word) (d : BitVec 256) :
    s.Idles (s.post qp k st lid arg d) :=
  have h := s.idles_deliver ⟨qp, k, st, lid, arg, d, s.seq⟩
  ⟨h.mem, h.l1, h.groups, h.launches, h.sent, h.podsOut⟩

theorem State.idles_journalEntry (s : State) (x : Noted) (n : Nat) : s.Idles (s.journalEntry x n) := by
  have kept (j : Journal) : s.Idles { s with journal := j } := ⟨rfl, rfl, rfl, rfl, fun _ h => h, fun _ h => h⟩
  unfold State.journalEntry
  dsimp only
  split
  · unfold State.postSegment
    split
    · exact (kept _).trans (State.idles_post _ _ _ _ _ _ _)
    · exact kept _
  · exact kept _

theorem State.idles_journalAdd (s : State) (k d src u : Nat) (loc : Word) : s.Idles (s.journalAdd k d src u loc) := by
  have kept (j : Journal) : s.Idles { s with journal := j } := ⟨rfl, rfl, rfl, rfl, fun _ h => h, fun _ h => h⟩
  unfold State.journalAdd
  dsimp only
  split
  · exact kept _
  · split
    · exact kept _
    · exact s.idles_journalEntry _ _

theorem mem_insertNat {n k : Nat} : ∀ {l : List Nat}, k ∈ insertNat l n ↔ k = n ∨ k ∈ l
  | [] => by simp [insertNat]
  | j :: l => by
    unfold insertNat
    split
    · simp
    · split
      next e => simp [e]
      next => simp only [List.mem_cons, mem_insertNat]; tauto

theorem State.idles_remapUnit (s : State) (words : List Nat) (u : Nat) : s.Idles (s.remapUnit words u) := by
  unfold State.remapUnit
  dsimp only
  split
  · exact .refl s
  · split
    · exact ⟨rfl, rfl, rfl, rfl, fun _ h => h, fun _ h => h⟩
    · refine State.Idles.trans ?_ (State.idles_journalAdd _ _ _ _ _ _)
      exact ⟨rfl, rfl, rfl, rfl, fun _ h => h, fun _ h => h⟩

/-- The entry that a retired unit brings, when a test retires it. -/
def State.enterRetired (s : State) (test : Option Nat) (unit : Nat) : State :=
  match test with
  | some test => s.journalAdd 4 2 8 unit (BitVec.ofNat 64 test)
  | none => s

theorem State.idles_enterRetired (s : State) (test : Option Nat) (unit : Nat) : s.Idles (s.enterRetired test unit) := by
  cases test with
  | none => exact .refl s
  | some test => exact s.idles_journalAdd 4 2 8 unit (BitVec.ofNat 64 test)

/-- A channel of a pod's engine is dropped, with its entry. -/
def State.withoutChannel (s : State) (test : Option Nat) (i p : Nat) : State :=
  if (s.pod p).retired.contains i then s else (s.onPod p (·.dropChannel i)).enterRetired test p

theorem State.idles_withoutChannel (s : State) (test : Option Nat) (i p : Nat) : s.Idles
    (s.withoutChannel test i p) := by
  unfold State.withoutChannel
  split
  · exact .refl s
  · exact State.Idles.trans (t := s.onPod p (·.dropChannel i)) ⟨rfl, rfl, rfl, rfl, fun _ h => h, fun _ h => h⟩
      (State.idles_enterRetired _ test p)

theorem State.idles_retireUnit (s : State) (u : TestUnit × Option Nat) : s.Idles (s.retireUnit u) := by
  obtain ⟨unit, test⟩ := u
  cases unit with
  | core c =>
    exact State.Idles.trans (t := { s with coresOut := insertNat s.coresOut c })
      ⟨rfl, rfl, rfl, rfl, fun _ h => h, fun _ h => h⟩ (State.idles_enterRetired _ test c)
  | pod p =>
    exact State.Idles.trans (t := { s with podsOut := insertNat s.podsOut p })
      ⟨rfl, rfl, rfl, rfl, fun _ h => h, fun _ h => mem_insertNat.2 (.inr h)⟩ (State.idles_enterRetired _ test p)
  | channel tower i =>
    unfold State.retireUnit
    dsimp only
    refine .foldl (fun s (p : Nat) => ?_) _ s
    exact s.idles_withoutChannel test i p

theorem State.idles_whenIdle (s : State) : s.Idles s.whenIdle := by
  unfold State.whenIdle
  split
  · have remap : s.Idles s.remapLasting :=
      State.Idles.trans (t := { s with lasting := [] }) ⟨rfl, rfl, rfl, rfl, fun _ h => h, fun _ h => h⟩
        (.foldl (fun t (u : Nat) => t.idles_remapUnit s.lasting u) (s.lasting.map (· / 256)).eraseDups _)
    have units : s.Idles (s.remapLasting.toRetire.foldl State.retireUnit { s.remapLasting with toRetire := [] }) :=
      (remap.trans (u := { s.remapLasting with toRetire := [] })
        ⟨rfl, rfl, rfl, rfl, fun _ h => h, fun _ h => h⟩).trans
        (.foldl (fun t (u : TestUnit × Option Nat) => t.idles_retireUnit u) _ _)
    refine units.trans ⟨rfl, rfl, rfl, rfl, fun _ h => h, fun p h => ?_⟩
    exact List.foldlRecOn (motive := fun l : List Nat => p ∈ l) _ _ h fun l hl k _ => mem_insertNat.2 (.inr hl)
  · exact .refl s

/-- What the launches that remain bring: no new launch, and what has been sent stays sent. -/
structure State.Closes (s t : State) : Prop where
  mem : t.mem = s.mem
  l1 : t.l1 = s.l1
  launches : ∀ x ∈ t.launches, ∃ y ∈ s.launches, y.lid = x.lid
  sent : ∀ x ∈ s.sent, x ∈ t.sent

theorem State.Closes.trans {s t u : State} (a : s.Closes t) (b : t.Closes u) : s.Closes u :=
  ⟨b.mem.trans a.mem, b.l1.trans a.l1, fun x hx => by
    obtain ⟨y, hy, e⟩ := b.launches x hx
    obtain ⟨z, hz, f⟩ := a.launches y hy
    exact ⟨z, hz, f.trans e⟩, fun x h => b.sent x (a.sent x h)⟩

theorem State.Idles.closes {s t : State} (h : s.Idles t) : s.Closes t :=
  ⟨h.mem, h.l1, fun x hx => ⟨x, h.launches ▸ hx, rfl⟩, h.sent⟩

theorem State.closes_dropLaunch (s : State) (lid : Nat) (good : Bool) : s.Closes (s.dropLaunch lid good) := by
  refine ⟨rfl, rfl, fun x hx => ?_, fun _ h => h⟩
  obtain ⟨y, hy, rfl⟩ := List.mem_map.1 hx
  refine ⟨y, (List.mem_filter.1 hy).1, ?_⟩
  split <;> rfl

/-- The launch that is dropped is gone. -/
theorem State.dropLaunch_gone (s : State) (lid : Nat) (good : Bool) : ∀ x ∈ (s.dropLaunch lid good).launches, x.lid ≠
    lid := by
  intro x hx
  obtain ⟨y, hy, rfl⟩ := List.mem_map.1 hx
  have ne : y.lid ≠ lid := by simpa using (List.mem_filter.1 hy).2
  split <;> exact ne

theorem State.closes_refuseFailed : ∀ (n : Nat) (s : State), s.Closes (s.refuseFailed n)
  | 0, s => (State.Idles.refl s).closes
  | n + 1, s => by
    unfold State.refuseFailed
    split
    · exact (State.Idles.refl s).closes
    · split
      · exact (State.Idles.refl s).closes
      · exact ((s.idles_post _ _ _ _ _ _).closes.trans (State.closes_dropLaunch _ _ _)).trans
          (State.closes_refuseFailed n _)

/-! ### The data of every core are written back (R88, R247) -/

/-- A core has no dirty byte. -/
def State.CleanL1 (s : State) (core : Nat) : Prop := ∀ a c, Sparse.get none (s.l1Of core) a = some c → c.dirty = false

/-- What a core holds after a release is what it held, and clean on the core that releases. -/
theorem State.get_release {s : State} {core k a : Nat} {d : Cached}
    (h : Sparse.get none ((s.release core).l1Of k) a = some d) :
    (k = core → d.dirty = false) ∧ ∃ c, Sparse.get none (s.l1Of k) a = some c ∧ (d.dirty = true → c.dirty = true) := by
  rw [State.release, State.get_writeBack] at h
  split at h
  next e =>
    obtain ⟨c, hc, rfl⟩ := Option.map_eq_some_iff.1 h
    exact ⟨fun _ => rfl, c, e ▸ hc, fun h => nomatch h⟩
  next no => exact ⟨fun e => absurd e no, d, h, fun h => h⟩

theorem State.CleanL1.release {s : State} {k : Nat} (h : s.CleanL1 k) (core : Nat) : (s.release core).CleanL1 k := by
  intro a d hd
  obtain ⟨-, c, hc, up⟩ := State.get_release hd
  have := h a c hc
  exact Bool.eq_false_iff.2 fun e => by simp [up e] at this

/-- Memory has the only copy of a byte. -/
structure State.Settled (s : State) (a : Nat) (b : Byte) : Prop where
  safe : Safe s
  clean : ∀ k d, Sparse.get none (s.l1Of k) a = some d → d.dirty = false
  mem : s.memGet a = b

/-- One core alone has the newest copy of a byte. -/
structure State.OwnedBy (s : State) (core a : Nat) (c : Cached) : Prop where
  safe : Safe s
  own : Sparse.get none (s.l1Of core) a = some c
  dirty : c.dirty = true
  others : ∀ k d, k ≠ core → Sparse.get none (s.l1Of k) a = some d → d.dirty = false

theorem State.Settled.release {s : State} {a : Nat} {b : Byte} (h : s.Settled a b) (core : Nat) :
    (s.release core).Settled a b := by
  refine ⟨s.release_safe core h.safe, fun k d hd => ?_, ?_⟩
  · obtain ⟨-, c, hc, up⟩ := State.get_release hd
    have := h.clean k c hc
    exact Bool.eq_false_iff.2 fun e => by simp [up e] at this
  · exact (State.memGet_writeBack_other h.safe fun c hc hd => by simp [h.clean core c hc] at hd).trans h.mem

theorem State.OwnedBy.release_own {s : State} {core a : Nat} {c : Cached} (h : s.OwnedBy core a c) :
    (s.release core).Settled a c.val := by
  refine ⟨s.release_safe core h.safe, fun k d hd => ?_, State.memGet_writeBack h.safe h.own h.dirty rfl⟩
  obtain ⟨here, x, hx, up⟩ := State.get_release hd
  by_cases e : k = core
  · exact here e
  · have := h.others k x e hx
    exact Bool.eq_false_iff.2 fun e => by simp [up e] at this

theorem State.OwnedBy.release_other {s : State} {core k a : Nat} {c : Cached} (h : s.OwnedBy core a c) (ne : core ≠ k) :
    (s.release k).OwnedBy core a c := by
  refine ⟨s.release_safe k h.safe, ?_, h.dirty, fun j d hj hd => ?_⟩
  · rw [State.release, State.get_writeBack, if_neg ne]
    exact h.own
  · obtain ⟨-, x, hx, up⟩ := State.get_release hd
    have := h.others j x hj hx
    exact Bool.eq_false_iff.2 fun e => by simp [up e] at this

/-- A core whose L1 holds something is one of those that a release of all reaches. -/
theorem State.mem_cores {s : State} {core a : Nat} {c : Cached} (h : Sparse.get none (s.l1Of core) a = some c) :
    core ∈ s.l1.map Prod.fst := by
  have ne : s.l1Of core ≠ [] := fun e => by rw [e] at h; cases h
  exact List.mem_map_of_mem (f := Prod.fst) (Sparse.get_mem (d := []) ne)

theorem State.releaseAll_clean (s : State) (core : Nat) : s.releaseAll.CleanL1 core := by
  by_cases h : core ∈ s.l1.map Prod.fst
  · exact foldl_establishes _ (fun _ => True) (fun t : State => t.CleanL1 core) _ s h (fun _ _ _ _ => trivial)
      (fun t k _ ht => ht.release k) (fun t _ a d hd => (State.get_release hd).1 rfl) trivial
  · have start : s.CleanL1 core := fun a c hc => absurd (State.mem_cores hc) h
    exact List.foldlRecOn (motive := fun t : State => t.CleanL1 core) _ _ start fun t ht k _ => ht.release k

theorem State.releaseAll_settled {s : State} {a : Nat} {b : Byte} (h : s.Settled a b) : s.releaseAll.Settled a b :=
  List.foldlRecOn (motive := fun t : State => t.Settled a b) _ _ h fun _ ht k _ => ht.release k

theorem State.releaseAll_owned {s : State} {core a : Nat} {c : Cached} (h : s.OwnedBy core a c) :
    s.releaseAll.Settled a c.val := by
  have step (t : State) (k : Nat) (ht : t.OwnedBy core a c ∨ t.Settled a c.val) :
      (t.release k).OwnedBy core a c ∨ (t.release k).Settled a c.val := by
    rcases ht with ht | ht
    · by_cases e : core = k
      · exact .inr (e ▸ ht.release_own)
      · exact .inl (ht.release_other e)
    · exact .inr (ht.release k)
  refine foldl_establishes State.release (fun t => t.OwnedBy core a c ∨ t.Settled a c.val) (fun t => t.Settled a c.val)
    _ s (State.mem_cores h.own) (fun t k _ => step t k) (fun t k _ ht => ht.release k) ?_ (.inl h)
  rintro t (ht | ht)
  · exact ht.release_own
  · exact ht.release core

theorem State.releaseAll_only (s : State) :
    ∃ m c q x, s.releaseAll = { s with mem := m, l1 := c, poison := q, sectors := x } := by
  refine List.foldlRecOn (motive := fun t : State =>
    ∃ m c q x, t = { s with mem := m, l1 := c, poison := q, sectors := x }) _ _
        ⟨s.mem, s.l1, s.poison, s.sectors, rfl⟩ ?_
  rintro t ⟨m, c, q, x, rfl⟩ k -
  obtain ⟨m', c', q', x', e⟩ := State.writeBack_cases { s with mem := m, l1 := c, poison := q, sectors := x } k
      fun _ => true
  exact ⟨m', c', q', x', e⟩

/-- The part once its launch's engine tiles are free and every core's data are in memory. -/
def State.dataBack (s : State) (lid : Nat) : State := (s.releaseTiles (.engine lid)).releaseAll

/-- The part once a launch has been answered and has left. -/
def State.answered (s : State) (lid : Nat) (l : Launch) : State :=
  ((s.dataBack lid).post l.qp 1 l.status lid 0).dropLaunch lid (l.status == Reply.ok)

theorem State.completeLaunch_eq {s : State} {lid : Nat} {l : Launch} (hl : s.launch? lid = some l)
    (post : s.canPost = true)
    (no : l.toRefuse = false) (done : s.complete l = true) (free : s.dataHeld = false) :
    s.completeLaunch lid = ((s.answered lid l).refuseFailed (s.answered lid l).launches.length).whenIdle := by
  simp only [State.completeLaunch, hl, post, no, done, free, Bool.not_true, Bool.or_self, Bool.false_eq_true, if_false]
  rfl

theorem State.completeLaunch_closes {s : State} {lid : Nat} {l : Launch} (hl : s.launch? lid = some l)
    (post : s.canPost = true) (no : l.toRefuse = false) (done : s.complete l = true) (free : s.dataHeld = false) :
    (s.dataBack lid).Closes (s.answered lid l) ∧ (s.answered lid l).Closes (s.completeLaunch lid) := by
  rw [State.completeLaunch_eq hl post no done free]
  exact ⟨((s.dataBack lid).idles_post _ _ _ _ _ _).closes.trans (State.closes_dropLaunch _ _ _),
    (State.closes_refuseFailed _ _).trans (State.idles_whenIdle _).closes⟩

/-- The message of a launch that completes is among what has been sent. -/
theorem State.answered_sent {s : State} {lid : Nat} {l : Launch} {q : Nat} (hq : s.route l.qp = some q) :
    (q, Sent.msg (Msg.toBits ⟨l.qp, 1, l.status, lid, 0, 0, s.seq⟩ s.ptpNow)) ∈ (s.answered lid l).sent := by
  obtain ⟨p, e⟩ := s.releaseTiles_only (.engine lid)
  obtain ⟨m, c, x, y, f⟩ := ({ s with pods := p } : State).releaseAll_only
  have back : s.dataBack lid = { s with pods := p, mem := m, l1 := c, poison := x, sectors := y } := by
    rw [State.dataBack, e, f]
  have route : (s.dataBack lid).route l.qp = some q := by
    rw [back]
    exact hq
  have sent : (s.answered lid l).sent = (s.dataBack lid).sent ++
      [(q, .msg (Msg.toBits ⟨l.qp, 1, l.status, lid, 0, 0, (s.dataBack lid).seq⟩ (s.dataBack lid).ptpNow))] := by
    simp only [State.answered, State.dropLaunch, State.post, State.deliver, route]
  rw [sent, back]
  exact List.mem_append_right _ List.mem_cons_self

theorem State.dataBack_data {s : State} {lid : Nat} (h : Safe s) : (∀ core, (s.dataBack lid).CleanL1 core) ∧
    (∀ core a c, s.OwnedBy core a c → (s.dataBack lid).memGet a = c.val) ∧
    ∀ a, (∀ k d, Sparse.get none (s.l1Of k) a = some d → d.dirty = false) → (s.dataBack lid).memGet a = s.memGet a := by
  obtain ⟨p, e⟩ := s.releaseTiles_only (.engine lid)
  have back : s.dataBack lid = ({ s with pods := p } : State).releaseAll := by rw [State.dataBack, e]
  rw [back]
  refine ⟨State.releaseAll_clean _, fun core a c o => ?_, fun a clean => ?_⟩
  · exact (State.releaseAll_owned (s := { s with pods := p }) ⟨h, o.own, o.dirty, o.others⟩).mem
  · exact (State.releaseAll_settled (s := { s with pods := p }) ⟨h, clean, rfl⟩).mem

theorem launchesComplete_holds : Claims.LaunchesComplete := by
  intro s lid l hl post no done free
  obtain ⟨out, rest⟩ := State.completeLaunch_closes hl post no done free
  have all := out.trans rest
  refine ⟨_, rfl, ?_, fun q hq => rest.sent _ (State.answered_sent hq), fun c => by simp [Launch.status, c],
    fun c a => by simp [Launch.status, c, a], fun c a f => by simp [Launch.status, c, a, f],
    fun c a f => by simp [Launch.status, c, a, f], fun safe => ?_⟩
  · refine List.find?_eq_none.2 fun x hx => ?_
    obtain ⟨y, hy, e⟩ := rest.launches x hx
    simpa [← e] using State.dropLaunch_gone _ _ _ y hy
  · obtain ⟨clean, owned, kept⟩ := State.dataBack_data (lid := lid) safe
    have l1 (core : Nat) : (s.completeLaunch lid).l1Of core = (s.dataBack lid).l1Of core := by
      rw [State.l1Of, all.l1, State.l1Of]
    have mem (a : Nat) : (s.completeLaunch lid).memGet a = (s.dataBack lid).memGet a := by
      rw [State.memGet, all.mem, State.memGet]
    refine ⟨fun core a c hc => clean core a c (l1 core ▸ hc), fun core a c hc hd alone => ?_, fun a ha => ?_⟩
    · exact (mem a).trans (owned core a c ⟨safe, hc, hd, alone⟩)
    · exact (mem a).trans (kept a ha)

/-! ### A pod is lost (R104) -/

/-- The image of a saved team gives its room back. -/
def State.imageGone (s : State) (lid : Nat) (t : Team) : State :=
  match s.launch? lid with
  | some l => if t.resident then s else s.useArea lid (· - s.imageOf l [t])
  | none => s

theorem State.imageGone_only (s : State) (lid : Nat) (t : Team) : ∃ l, s.imageGone lid t = { s with launches := l } :=
    by
  unfold State.imageGone
  split
  · split
    · exact ⟨s.launches, rfl⟩
    · exact ⟨_, rfl⟩
  · exact ⟨s.launches, rfl⟩

theorem State.loseTeam_eq (s : State) (lid : Nat) (t : Team) (reason core : Nat) : s.loseTeam lid t reason core =
    let u := (s.imageGone lid t).addRecord lid (teamRecord t reason core)
    if reason = 4 ∧ ((u.launch? lid).map Launch.wholeOnly).getD false then u.abortLaunch lid false
    else u.faultTeam lid t.num := rfl

theorem State.loseTeam_frame (s : State) (lid : Nat) (t : Team) (reason core : Nat) :
    (s.loseTeam lid t reason core).mem = s.mem ∧ (s.loseTeam lid t reason core).podsOut = s.podsOut := by
  obtain ⟨l, e⟩ := s.imageGone_only lid t
  rw [State.loseTeam_eq, e]
  dsimp only
  split
  · exact ⟨rfl, rfl⟩
  · generalize hu : ({ s with launches := l } : State).addRecord lid (teamRecord t reason core) = u
    subst hu
    exact ⟨(State.faultTeam_spare _ lid t.num).1, (State.sparesTiles_faultTeam _ lid t.num).podsOut⟩

theorem State.losePod_eq {s : State} {pod : Nat} (hp : pod < 256) (fresh : pod ∉ s.podsOut) :
    ∃ u : State, u.mem = s.mem ∧ u.podsOut = insertNat s.podsOut pod ∧ s.losePod pod = (u.silence pod).whenIdle := by
  have ok : (decide (Config.pods ≤ pod) || s.podsOut.contains pod) = false := by
    have in_ : ¬ Config.pods ≤ pod := Nat.not_le.2 hp
    simp [fresh, in_]
  refine ⟨_, ?_, ?_, by simp only [State.losePod, ok, Bool.false_eq_true, if_false] <;> rfl⟩
  · exact List.foldlRecOn (motive := fun t : State => t.mem = s.mem) _ _ rfl fun t ht x _ =>
      (t.loseTeam_frame _ _ _ _).1.trans ht
  · exact List.foldlRecOn (motive := fun t : State => t.podsOut = insertNat s.podsOut pod) _ _ rfl fun t ht x _ =>
      (t.loseTeam_frame _ _ _ _).2.trans ht

theorem podsAreLost_holds : Claims.PodsAreLost := by
  intro s pod hp fresh
  obtain ⟨u, mem, out, e⟩ := State.losePod_eq hp fresh
  have idle := (u.silence pod).idles_whenIdle
  refine ⟨_, congrArg Host.Outcome.next e, ?_, fun p h => ?_, idle.mem.trans mem, fun g hg hr hc => ?_⟩
  · exact idle.podsOut pod (out ▸ mem_insertNat.2 (.inl rfl))
  · exact idle.podsOut p (out ▸ mem_insertNat.2 (.inr h))
  · rw [idle.groups] at hg
    obtain ⟨y, -, rfl⟩ := List.mem_map.1 hg
    split
    · rfl
    next no =>
      rw [if_neg no] at hr hc
      simp [hr, hc] at no

/-- Settles O54: a group that retires by what each of its last acts leaves, a launch by a fold of releases that settles
every byte in memory, and a lost pod by the frame of the teams that it takes with it. -/
theorem ends : Obligations.Ends := ⟨groupsRetire_holds, launchesComplete_holds, podsAreLost_holds⟩

end Sys2Proof.Machine
end

section
/-! PROOFS. Reliability: storage errors, repair, refresh, power, reset, tests, time and links (O55). -/

namespace Sys2Proof.Machine

/-! ### Entries of the journal (R411, R415) -/

/-- The journal has an entry under the next number with what an event says. -/
def Journal.Enters (j j' : Journal) (k d src u : Nat) : Prop :=
  ∃ e ∈ j'.entries, e.seq = j.next ∧ e.kind = k ∧ e.detail = d ∧ e.src = src ∧ e.unit = u

theorem State.journalEntry_enters (s : State) (x : Noted) (n : Nat) :
    s.journal.Enters (s.journalEntry x n).journal x.kind x.detail x.src x.unit := by
  have first : s.journal.Enters (s.journal.append s.ptpNow x.kind x.detail x.src x.unit n x.loc) x.kind x.detail x.src
      x.unit := ⟨_, List.mem_append_right _ List.mem_cons_self, rfl, rfl, rfl, rfl, rfl⟩
  have point (j : Journal) (time : Nat) (h : s.journal.Enters j x.kind x.detail x.src x.unit) :
      s.journal.Enters (j.checkpoint time) x.kind x.detail x.src x.unit := by
    obtain ⟨e, he, eq⟩ := h
    exact ⟨e, List.mem_append_left _ he, eq⟩
  have posted (t : State) (n : Nat) (h : s.journal.Enters t.journal x.kind x.detail x.src x.unit) :
      s.journal.Enters (t.postSegment n).journal x.kind x.detail x.src x.unit := by
    unfold State.postSegment
    split
    · obtain ⟨a, b, e⟩ := t.post_only none 5 0 0 (BitVec.ofNat 64 n) 0
      rw [e]
      exact h
    · exact h
  unfold State.journalEntry
  dsimp only
  split
  · exact posted _ _ (point _ _ first)
  · exact first

/-- An event of another kind than 1 and 2 is entered while the journal has room. -/
theorem State.journalAdd_enters (s : State) {k : Nat} (d src u : Nat) (loc : Word) (h1 : k ≠ 1) (h2 : k ≠ 2)
    (room : s.journal.full = false) : s.journal.Enters (s.journalAdd k d src u loc).journal k d src u := by
  have folds : Noted.folds ⟨k, d, src, u, loc⟩ = false := by simp [Noted.folds, h1, h2]
  simp only [State.journalAdd, folds, room, Bool.false_and, Bool.false_eq_true, if_false]
  exact s.journalEntry_enters ⟨k, d, src, u, loc⟩ 1

/-! ### Stacks (R419 to R421) -/

theorem State.stack_onStack (s : State) (k i : Nat) (f : Stack → Stack) :
    (s.onStack k f).stack i = if i = k then f (s.stack k) else s.stack i := Sparse.get_set ..

theorem State.owe_only (s : State) (o : Owed) : ∃ a b c, s.owe o = { s with owed := a, toPeers := b, sent := c } := by
  unfold State.owe
  split
  · exact ⟨_, s.toPeers, s.sent, rfl⟩
  · split
    · exact ⟨s.owed, _, s.sent, rfl⟩
    · split
      · exact ⟨s.owed, s.toPeers, _, rfl⟩
      · exact ⟨s.owed, s.toPeers, s.sent, rfl⟩

theorem State.flushOwed_only (s : State) : ∃ a b c, s.flushOwed = { s with owed := a, toPeers := b, sent := c } := by
  refine List.foldlRecOn (motive := fun t : State => ∃ a b c, t = { s with owed := a, toPeers := b, sent := c }) _ _
    ⟨[], s.toPeers, s.sent, rfl⟩ ?_
  rintro t ⟨a, b, c, rfl⟩ o -
  exact State.owe_only _ o

/-- What a channel that serves again sets going. -/
theorem State.serveHeld_only (s : State) :
    ∃ x a b c, s.serveHeld = { s with sectors := x, owed := a, toPeers := b, sent := c } := by
  obtain ⟨a, b, c, e⟩ := State.flushOwed_only (s.onSectors (fun k => !s.heldAt (32 * k)) fun _ x => x.released)
  exact ⟨_, a, b, c, e⟩

theorem State.journalRow_only (s : State) (kind detail k row : Nat) :
    ∃ j a b c, s.journalRow kind detail k row = { s with journal := j, sent := a, held := b, seq := c } :=
  s.journalAdd_only _ _ _ _ _

/-- A row that has been named is a candidate. -/
theorem State.addCandidate_spec (s : State) (k row : Nat) : ∃ c ∈ ((s.addCandidate k row).stack k).candidates, c.1 =
    row := by
  rw [State.addCandidate, State.stack_onStack, if_pos rfl]
  split
  next h =>
    obtain ⟨c, hc, e⟩ := List.any_eq_true.1 h
    exact ⟨c, hc, by simpa using e⟩
  · exact ⟨_, List.mem_append_right _ List.mem_cons_self, rfl⟩

theorem State.quiesceEnd_repairs {s : State} {k row : Nat} {c : Nat × Nat}
    (hc : (s.stack k).quiesced.find? (fun c => c.1 == row) = some c) (late : c.2 + 188000 ≤ s.clock) :
    row ∈ ((s.quiesceEnd k row).stack k).soft ∧ (∀ q ∈ ((s.quiesceEnd k row).stack k).quiesced, q.1 ≠ row) ∧
      (∀ i, i ≠ k → (s.quiesceEnd k row).stack i = s.stack i) ∧ (s.quiesceEnd k row).mem = s.mem := by
  let f : Stack → Stack := fun x =>
    { x with quiesced := x.quiesced.filter fun c => c.1 != row, soft := insertNat x.soft row }
  obtain ⟨x, a, b, d, e⟩ := (s.onStack k f).serveHeld_only
  obtain ⟨j, a', b', d', e'⟩ := (s.onStack k f).serveHeld.journalRow_only 7 1 k row
  have run : s.quiesceEnd k row = (s.onStack k f).serveHeld.journalRow 7 1 k row := by
    simp only [State.quiesceEnd, hc, State.advance_of_le s late, f]
  have stack (i : Nat) : (s.quiesceEnd k row).stack i = (s.onStack k f).stack i := by rw [run, e', e]; rfl
  refine ⟨?_, ?_, fun i hi => ?_, by rw [run, e', e]; rfl⟩
  · rw [stack, State.stack_onStack, if_pos rfl]
    exact mem_insertNat.2 (.inl rfl)
  · rw [stack, State.stack_onStack, if_pos rfl]
    intro q hq
    simpa using (List.mem_filter.1 hq).2
  · rw [stack, State.stack_onStack, if_neg hi]

theorem State.activation_enters {s : State} {k row : Nat} {corrupt : Bool} (hp : s.power = true) (hk : k < 16)
    (room : s.journal.full = false) : (s.activation k row corrupt).mem = s.mem ∧
      s.journal.Enters (s.activation k row corrupt).journal 11 (if corrupt then 2 else 1) 3 k ∧
      (3 ≤ ((s.stack k).acts.filter fun a => a.1 == row && decide (s.clock ≤ a.2 + 30080000)).length →
        ∃ c ∈ ((s.activation k row corrupt).stack k).candidates, c.1 = row) := by
  let f : Stack → Stack := fun x => { x with
    acts := (x.acts.filter fun a => decide (s.clock ≤ a.2 + countWindow)) ++ [(row, s.clock)] }
  let t := (s.onStack k f).journalRow 11 (if corrupt then 2 else 1) k row
  have ok : ¬ (!s.power || decide (16 ≤ k)) = true := by simp [hp, hk]
  have run : s.activation k row corrupt =
      if 4 ≤ ((t.stack k).acts.filter fun a => a.1 == row).length then t.addCandidate k row else t := by
    exact if_neg ok
  obtain ⟨j, a, b, c, e⟩ := (s.onStack k f).journalRow_only 11 (if corrupt then 2 else 1) k row
  have mem : t.mem = s.mem := by rw [show t = _ from e]; rfl
  have enters : s.journal.Enters t.journal 11 (if corrupt then 2 else 1) 3 k :=
    (s.onStack k f).journalAdd_enters (k := 11) _ 3 k _ (by decide) (by decide) room
  have stack : t.stack k = f (s.stack k) := by
    rw [show t = _ from e]
    exact (s.stack_onStack k k f).trans (if_pos rfl)
  have count : ((t.stack k).acts.filter fun a => a.1 == row).length =
      ((s.stack k).acts.filter fun a => a.1 == row && decide (s.clock ≤ a.2 + 30080000)).length + 1 := by
    have now : ([(row, s.clock)].filter fun a => a.1 == row).length = 1 := by simp
    rw [stack]
    simp only [f, List.filter_append, List.filter_filter, List.length_append, now]
    rfl
  rw [run]
  refine ⟨?_, ?_, fun three => ?_⟩
  · split <;> exact mem
  · split <;> exact enters
  · rw [if_pos (by omega)]
    exact t.addCandidate_spec k row

theorem State.owe_peer {s : State} {o : Owed} (free : ∀ c ∈ o.chans, s.channelHeld c = false) (peer : o.peer = true) :
    s.owe o = { s with toPeers := s.toPeers ++ [(o.dest, o.ans)] } := by
  have f : o.chans.any s.channelHeld = false := by simpa using free
  simp [State.owe, f, peer]

/-- Answers whose channels are held wait on in their order. -/
theorem State.foldl_owe_held : ∀ (l : List Owed) (s : State), (∀ x ∈ l, ∃ c ∈ x.chans, s.channelHeld c = true) →
    l.foldl State.owe s = { s with owed := s.owed ++ l }
  | [], s, _ => by simp
  | o :: l, s, h => by
    obtain ⟨ho, hl⟩ := List.forall_mem_cons.1 h
    rw [List.foldl_cons, State.owe_waits ho, State.foldl_owe_held l { s with owed := s.owed ++ [o] } hl]
    simp

theorem memoryUpkeep_holds : Claims.MemoryUpkeep := by
  refine ⟨fun s k row c hc ht => ?_, fun s k row c hc ht => ?_, fun s k row corrupt hp hk room => ?_,
    fun s k hp hk => ⟨fun hf => ?_, fun hf => ?_⟩, fun s o rest ho free peer held => ?_⟩
  · refine congrArg Host.Outcome.next (?_ : s.softRepair k row = _)
    simp only [State.softRepair, hc, State.advance_of_le s ht]
    rfl
  · exact ⟨_, rfl, State.quiesceEnd_repairs hc ht⟩
  · obtain ⟨mem, ⟨e, he, seq, kind, detail, -, unit⟩, cand⟩ := State.activation_enters (row := row)
      (corrupt := corrupt) hp hk room
    exact ⟨_, rfl, mem, ⟨e, he, seq, kind, detail, unit⟩, cand⟩
  · refine congrArg Host.Outcome.next (?_ : s.setForced k true = _)
    simp [State.setForced, hp, hk, hf]
  · refine congrArg Host.Outcome.next (?_ : s.setForced k false = _)
    simp [State.setForced, hp, hk, hf]
  · have first := State.owe_peer (s := { s with owed := [] }) free peer
    rw [State.flushOwed, ho, List.foldl_cons, first]
    exact State.foldl_owe_held rest _ held

/-! ### Storage errors (R416, R418) -/

theorem State.findError_eq {s : State} {x : Site} {src unit loc : Nat} (hp : s.power = true)
    (hx : s.siteEntry x = some (src, unit, loc)) (r : Reread) : s.findError x r = match r with
      | .clean => s.journalAdd 2 1 src unit (BitVec.ofNat 64 loc)
      | .single false => s.journalAdd 1 0 src unit (BitVec.ofNat 64 loc)
      | .single true => ((s.journalAdd 1 0 src unit (BitVec.ofNat 64 loc)).journalAdd 3 0 src unit
          (BitVec.ofNat 64 loc)).lasts unit loc x
      | .double => if x.refetched then s.journalAdd 1 0 src unit (BitVec.ofNat 64 loc)
          else (s.spoil x).journalAdd 5 0 src unit (BitVec.ofNat 64 loc) := by
  cases r with
  | single b => cases b <;> simp [State.findError, hx, hp]
  | _ => simp [State.findError, hx, hp]

/-- The group whose word an error poisons. -/
theorem State.spoil_reg {s : State} {k : GroupId} {w ofs src unit loc : Nat}
    (hx : s.siteEntry (.reg k w ofs) = some (src, unit, loc)) : (s.spoil (.reg k w ofs)).mem = s.mem ∧
      ∃ g y, s.group? k = some g ∧ (s.spoil (.reg k w ofs)).group? k = some y ∧ w ∈ y.bad ∧ y.vregs = g.vregs := by
  obtain ⟨g, hg, -⟩ := Option.bind_eq_some_iff.1 hx
  have id := State.group?_id hg
  exact ⟨rfl, g, _, hg, State.group?_onGroup_self s k (fun g => { g with bad := insertNat g.bad w }) g hg id,
    mem_insertNat.2 (.inl rfl), rfl⟩

theorem State.spoil_scratch {s : State} {lid n w ofs src unit loc : Nat}
    (hx : s.siteEntry (.scratch lid n w ofs) = some (src, unit, loc)) : (s.spoil (.scratch lid n w ofs)).mem = s.mem ∧
      ∃ m y, s.team? lid n = some m ∧ (s.spoil (.scratch lid n w ofs)).team? lid n = some y ∧ w ∈ y.bad ∧
        y.scratch = m.scratch := by
  obtain ⟨l, hl, hx⟩ := Option.bind_eq_some_iff.1 hx
  obtain ⟨m, hm, -⟩ := Option.bind_eq_some_iff.1 hx
  exact ⟨rfl, m, _, hm, State.team?_onTeam_self s lid n (fun t => { t with bad := insertNat t.bad w }) hl hm fun _ =>
      rfl,
    mem_insertNat.2 (.inl rfl), rfl⟩

theorem State.spoil_l1 (s : State) (core pa ofs : Nat) : (s.spoil (.l1 core pa ofs)).mem = s.mem ∧
    ∀ a c, a / 8 = pa / 8 → Sparse.get none (s.l1Of core) a = some c →
      Sparse.get none ((s.spoil (.l1 core pa ofs)).l1Of core) a = some { c with bad := true } := by
  refine ⟨rfl, fun a c ha hc => ?_⟩
  let f : Nat → Option Cached → Option Cached := fun k x =>
    if k / 8 = pa / 8 then x.map fun y => { y with bad := true } else x
  have hf (k : Nat) : f k none = none := by simp [f]
  have e : (s.spoil (.l1 core pa ofs)).l1Of core = (s.l1Of core).map fun c => (c.1, f c.1 c.2) := by
    refine ((s.l1Of_setL1 core core _).trans (if_pos rfl)).trans (List.map_congr_left fun x _ => ?_)
    simp only [f]
    split <;> rfl
  rw [e, Sparse.get_map none f hf, hc]
  simp [f, ha]

theorem State.poisoned_poisonSector (s : State) (pa : Nat) : (s.poisonSector pa).poisoned pa = true := by
  simp [State.poisoned, State.poisonSector]

/-- An error that no re-read mends: the entry, and what is poisoned. -/
theorem State.findError_double {s : State} {x : Site} {src unit loc : Nat} (hp : s.power = true)
    (hx : s.siteEntry x = some (src, unit, loc)) (hr : x.refetched = false) (room : s.journal.full = false) :
    ∃ j a b c, s.findError x .double = { s.spoil x with journal := j, sent := a, held := b, seq := c } ∧
      s.journal.Enters j 5 0 src unit := by
  have run := State.findError_eq hp hx .double
  simp only [hr, Bool.false_eq_true, if_false] at run
  have same : (s.spoil x).journal = s.journal := by cases x <;> rfl
  obtain ⟨j, a, b, c, e⟩ := (s.spoil x).journalAdd_only 5 0 src unit (BitVec.ofNat 64 loc)
  have enters := (s.spoil x).journalAdd_enters (k := 5) 0 src unit (BitVec.ofNat 64 loc) (by decide) (by decide)
    (by rw [same]; exact room)
  rw [e, same] at enters
  exact ⟨j, a, b, c, run.trans e, enters⟩

/-- A write of registers clears the poison of the words that it covers whole. -/
theorem Group.mem_bad_writeAll (g : Group) (vals : List (Nat × Lane)) (w : Nat) : w ∈ (g.writeAll vals).bad ↔
    w ∈ g.bad ∧ ¬ ∀ k, k < 2 → ∃ q ∈ vals, q.1 = vkey (2 * w / g.width) (2 * w % g.width + k) := by
  have covers : (¬ ∀ k, k < 2 → ∃ q ∈ vals, q.1 = vkey (2 * w / g.width) (2 * w % g.width + k)) ↔
      [0, 1].any (fun k => !vals.any fun q => q.1 == vkey (2 * w / g.width) (2 * w % g.width + k)) = true := by
    constructor
    · intro h
      by_contra no
      refine h fun k hk => ?_
      have := (List.any_eq_false.1 (Bool.eq_false_iff.2 no)) k (by
        rcases Nat.lt_succ_iff_lt_or_eq.1 hk with h | h
        · simp [Nat.lt_one_iff.1 h]
        · simp [h])
      simpa using this
    · intro h all
      obtain ⟨k, hk, no⟩ := List.any_eq_true.1 h
      obtain ⟨q, hq, e⟩ := all k (by simp at hk; omega)
      simp only [Bool.not_eq_true', List.any_eq_false] at no
      exact no q hq (by simpa using e)
  rw [covers]
  exact List.mem_filter

theorem storageErrors_holds : Claims.StorageErrors := by
  refine ⟨fun s x src unit loc hp hx => ⟨?_, ?_, fun hr => ?_, fun hr room => ?_⟩, Group.mem_bad_writeAll⟩
  · exact congrArg Host.Outcome.next (State.findError_eq hp hx .clean)
  · exact congrArg Host.Outcome.next (State.findError_eq hp hx (.single false))
  · exact congrArg Host.Outcome.next ((State.findError_eq hp hx .double).trans (if_pos hr))
  · obtain ⟨j, a, b, c, e, ⟨y, hy, seq, kind, -, hsrc, hunit⟩⟩ := State.findError_double hp hx hr room
    refine ⟨_, congrArg Host.Outcome.next e, ⟨y, hy, seq, kind, hsrc, hunit⟩, ?_, ?_, ?_, ?_, ?_, ?_⟩
    · rintro k w ofs rfl
      exact State.spoil_reg hx
    · rintro lid n w ofs rfl
      exact State.spoil_scratch hx
    · rintro core pa ofs rfl
      exact s.spoil_l1 core pa ofs
    · rintro pod pa d rfl
      exact ⟨rfl, s.poisoned_poisonSector pa⟩
    · rintro bank pa d rfl
      exact ⟨rfl, s.poisoned_poisonSector pa⟩
    · rintro pa row rfl
      exact ⟨rfl, s.poisoned_poisonSector pa⟩

/-! ### Lasting errors and units that leave service (R417, R422) -/

/-- A change that leaves all but what upkeep writes: the journal, the messages, what is out of service, and the
channels of the pods, whose tiles stay. -/
structure State.Upkeep (s t : State) : Prop where
  rest : { t with
    journal := s.journal, sent := s.sent, held := s.held, seq := s.seq, spares := s.spares, coresOut := s.coresOut
    podsOut := s.podsOut, pods := s.pods, toRetire := s.toRetire, podMap := s.podMap, hbm := s.hbm } = s
  tiles : ∀ p k, t.tile p k = s.tile p k

theorem State.Upkeep.refl (s : State) : s.Upkeep s := ⟨rfl, fun _ _ => rfl⟩

theorem State.Upkeep.trans {s t u : State} (a : s.Upkeep t) (b : t.Upkeep u) : s.Upkeep u := by
  refine ⟨?_, fun p k => (b.tiles p k).trans (a.tiles p k)⟩
  refine Eq.trans ?_ a.rest
  rw [← b.rest]

theorem State.Upkeep.foldl {α : Type} {f : State → α → State} (h : ∀ (s : State) x, s.Upkeep (f s x)) (l : List α)
    (s : State) : s.Upkeep (l.foldl f s) :=
  List.foldlRecOn (motive := fun t => s.Upkeep t) l f (.refl s) fun t ht x _ => ht.trans (h t x)

theorem State.upkeep_journalAdd (s : State) (k d src u : Nat) (loc : Word) : s.Upkeep (s.journalAdd k d src u loc) := by
  obtain ⟨j, a, b, c, e⟩ := s.journalAdd_only k d src u loc
  rw [e]
  exact ⟨rfl, fun _ _ => rfl⟩

theorem State.upkeep_enterRetired (s : State) (test : Option Nat) (unit : Nat) : s.Upkeep
    (s.enterRetired test unit) := by
  cases test with
  | none => exact .refl s
  | some test => exact s.upkeep_journalAdd 4 2 8 unit (BitVec.ofNat 64 test)

theorem State.upkeep_withoutChannel (s : State) (test : Option Nat) (i p : Nat) : s.Upkeep
    (s.withoutChannel test i p) := by
  unfold State.withoutChannel
  split
  · exact .refl s
  · exact State.Upkeep.trans (t := s.onPod p (·.dropChannel i))
      ⟨rfl, fun q k => s.tile_onPod p q k (·.dropChannel i) fun _ => rfl⟩ (State.upkeep_enterRetired _ test p)

theorem State.upkeep_retireUnit (s : State) (u : TestUnit × Option Nat) : s.Upkeep (s.retireUnit u) := by
  obtain ⟨unit, test⟩ := u
  cases unit with
  | core c =>
    exact State.Upkeep.trans (t := { s with coresOut := insertNat s.coresOut c }) ⟨rfl, fun _ _ => rfl⟩
      (State.upkeep_enterRetired _ test c)
  | pod p =>
    exact State.Upkeep.trans (t := { s with podsOut := insertNat s.podsOut p }) ⟨rfl, fun _ _ => rfl⟩
      (State.upkeep_enterRetired _ test p)
  | channel tower i =>
    unfold State.retireUnit
    dsimp only
    refine .foldl (fun s (p : Nat) => ?_) _ s
    exact s.upkeep_withoutChannel test i p

theorem State.upkeep_remapUnit (s : State) (words : List Nat) (u : Nat) : s.Upkeep (s.remapUnit words u) := by
  unfold State.remapUnit
  dsimp only
  split
  · exact .refl s
  · split
    · exact ⟨rfl, fun _ _ => rfl⟩
    · exact State.Upkeep.trans (t := { s with coresOut := insertNat s.coresOut _ }) ⟨rfl, fun _ _ => rfl⟩
        (State.upkeep_journalAdd _ _ _ _ _ _)

/-- With no launch live, all lasting locations are remapped; beside that the moment is upkeep. -/
theorem State.upkeep_whenIdle {s : State} (h : s.launches = []) : ({ s with lasting := [] } : State).Upkeep
    s.whenIdle := by
  have remap : ({ s with lasting := [] } : State).Upkeep s.remapLasting :=
    .foldl (fun t (u : Nat) => t.upkeep_remapUnit s.lasting u) (s.lasting.map (· / 256)).eraseDups _
  have units : ({ s with lasting := [] } : State).Upkeep
      (s.remapLasting.toRetire.foldl State.retireUnit { s.remapLasting with toRetire := [] }) :=
    (remap.trans (u := { s.remapLasting with toRetire := [] }) ⟨rfl, fun _ _ => rfl⟩).trans
      (.foldl (fun t (u : TestUnit × Option Nat) => t.upkeep_retireUnit u) _ _)
  have empty : s.launches.isEmpty = true := by simp [h]
  unfold State.whenIdle
  rw [if_pos empty]
  exact units.trans ⟨rfl, fun _ _ => rfl⟩

/-- What upkeep leaves, field by field. -/
theorem State.Upkeep.lasting {s t : State} (h : s.Upkeep t) : t.lasting = s.lasting :=
  (congrArg State.lasting h.rest : _)

theorem State.Upkeep.mgmt {s t : State} (h : s.Upkeep t) : t.mgmt = s.mgmt := (congrArg State.mgmt h.rest : _)

theorem lastingErrors_holds : Claims.LastingErrors := by
  refine ⟨fun s pa row src unit loc hp hx => ?_, fun s k row => s.addCandidate_spec k row, fun s h => ?_,
    fun s words unit out => ⟨fun free => ?_, fun used room => ?_⟩⟩
  · refine congrArg Host.Outcome.next ((State.findError_eq hp hx (.single true)).trans ?_)
    have own : stackOf pa = unit := by
      simp only [State.siteEntry] at hx
      split at hx
      · cases hx
        rfl
      · cases hx
    simp only [State.lasts, own]
  · exact ⟨(State.upkeep_whenIdle h).lasting, s.idles_whenIdle.mem⟩
  · have no : s.coresOut.contains (unit / 2 ^ 14) = false := by simpa using out
    simp only [State.remapUnit, no, Bool.false_eq_true, if_false]
    exact if_pos free
  · have no : s.coresOut.contains (unit / 2 ^ 14) = false := by simpa using out
    have run : s.remapUnit words unit = ({ s with coresOut := insertNat s.coresOut (unit / 2 ^ 14) } :
        State).journalAdd 4 1 0
        (unit / 2 ^ 14) (BitVec.ofNat 64 (((words.find? fun w => w / 256 == unit).getD 0) % 2 ^ 22)) := by
      simp only [State.remapUnit, no, Bool.false_eq_true, if_false]
      exact if_neg (Nat.not_lt.2 used)
    generalize BitVec.ofNat 64 _ = loc at run
    obtain ⟨j, a, b, c, e⟩ := State.journalAdd_only { s with coresOut := insertNat s.coresOut (unit / 2 ^ 14) } 4 1 0
      (unit / 2 ^ 14) loc
    have enters := State.journalAdd_enters { s with coresOut := insertNat s.coresOut (unit / 2 ^ 14) } (k := 4) 1 0
      (unit / 2 ^ 14) loc (by decide) (by decide) room
    rw [run]
    rw [e] at enters ⊢
    exact ⟨mem_insertNat.2 (.inl rfl), enters⟩

/-! ### Power and reset (R11, R428, R434) -/

theorem State.upkeep_hardRepair (s : State) : s.Upkeep s.hardRepair := by
  refine .foldl (fun s (x : Nat × Nat) => ?_) _ s
  exact State.Upkeep.trans (t := s.onStack x.1 fun y => { y with soft := y.soft.filter (· != x.2) })
      ⟨rfl, fun _ _ => rfl⟩
    (State.upkeep_journalAdd _ _ _ _ _ _)

/-- What a reset leaves as it made it: everything but the journal, the messages, what is out of service, the stacks,
and the firmware. -/
structure State.Fresh (s t : State) : Prop where
  rest : { t with
    journal := s.journal, sent := s.sent, held := s.held, seq := s.seq, spares := s.spares, coresOut := s.coresOut
    podsOut := s.podsOut, pods := s.pods, toRetire := s.toRetire, podMap := s.podMap, hbm := s.hbm, lasting := s.lasting
    mgmt := s.mgmt } = s
  tiles : ∀ p k, t.tile p k = s.tile p k
  mgmt : { t.mgmt with running := s.mgmt.running, staged := s.mgmt.staged, ready := s.mgmt.ready } = s.mgmt

theorem State.Fresh.trans {s t u : State} (a : s.Fresh t) (b : t.Fresh u) : s.Fresh u := by
  refine ⟨?_, fun p k => (b.tiles p k).trans (a.tiles p k), ?_⟩
  · refine Eq.trans ?_ a.rest
    rw [← b.rest]
  · refine Eq.trans ?_ a.mgmt
    rw [← b.mgmt]

theorem State.Upkeep.fresh {s t : State} (h : s.Upkeep t) : s.Fresh t := by
  refine ⟨?_, h.tiles, by rw [h.mgmt]⟩
  have m := h.mgmt
  have l := h.lasting
  refine Eq.trans ?_ h.rest
  rw [m, l]

theorem State.fresh_journalSignature (s : State) : s.Fresh s.journalSignature := (s.upkeep_journalAdd _ _ _ _ _).fresh

theorem State.fresh_loadFirmware (s : State) : s.Fresh s.loadFirmware := by
  have images : s.Fresh (s.mgmt.ready.foldl (fun s x => s.loadImage x.1 x.2)
      { s with mgmt := { s.mgmt with ready := [], staged := [] } }) := by
    refine List.foldlRecOn (motive := fun t => s.Fresh t) _ _ ⟨rfl, fun _ _ => rfl, rfl⟩ fun t ht x _ => ht.trans ?_
    unfold State.loadImage
    split
    · exact ⟨rfl, fun _ _ => rfl, rfl⟩
    · exact t.fresh_journalSignature
  unfold State.loadFirmware
  dsimp only
  split
  · exact images
  · exact images.trans (State.fresh_journalSignature _)

theorem State.fresh_resetPart (s : State) : s.domainsReset.Fresh s.resetPart := by
  have idle : s.domainsReset.Fresh s.domainsReset.whenIdle :=
    State.Fresh.trans (t := { s.domainsReset with lasting := [] }) ⟨rfl, fun _ _ => rfl, rfl⟩
      (State.upkeep_whenIdle (s := s.domainsReset) rfl).fresh
  exact (idle.trans (State.upkeep_hardRepair _).fresh).trans (State.fresh_loadFirmware _)

/-- What a reset of the domains leaves. -/
structure State.Blank (t : State) : Prop where
  launches : t.launches = []
  groups : t.groups = []
  ops : t.ops = []
  tlb : t.tlb = []
  l1 : t.l1 = []
  tiles : ∀ p k, t.tile p k = Tile.zero
  troot : t.troot = 0
  clock : t.clock = 0
  partNum : t.partNum = none
  qps : t.qps = []
  regions : t.regions = []
  ptp : t.ptp = none
  stations : t.stations = []

theorem State.domainsReset_blank (s : State) : s.domainsReset.Blank :=
  ⟨rfl, rfl, rfl, rfl, rfl, fun _ _ => rfl, rfl, rfl, rfl, rfl, rfl, rfl, rfl⟩

theorem State.Fresh.blank {s t : State} (h : s.Fresh t) (b : s.Blank) : t.Blank :=
  ⟨(congrArg State.launches h.rest).trans b.launches, (congrArg State.groups h.rest).trans b.groups,
    (congrArg State.ops h.rest).trans b.ops, (congrArg State.tlb h.rest).trans b.tlb, (congrArg State.l1 h.rest).trans
        b.l1,
    fun p k => (h.tiles p k).trans (b.tiles p k), (congrArg State.troot h.rest).trans b.troot,
    (congrArg State.clock h.rest).trans b.clock, (congrArg State.partNum h.rest).trans b.partNum,
    (congrArg State.qps h.rest).trans b.qps, (congrArg State.regions h.rest).trans b.regions,
    (congrArg State.ptp h.rest).trans b.ptp, (congrArg State.stations h.rest).trans b.stations⟩

/-! ### The side-band port (R427) -/

/-- An accepted frame's number is noted. -/
def State.heard (s : State) (f : Frame) : State := { s with mgmt := { s.mgmt with lastSeq := some (frameSeq f) } }

/-- An accepted, well-formed command of its operation acts, when the controller is not frozen. -/
theorem State.command_acts {s : State} {f : Frame} {op : Nat} (act : State → State) (ha : s.mgmt.accepts f = true)
    (hf : s.mgmt.frozen = false) (hr : frameReserved f = false) (ho : frameOp f = op) :
    s.command f op false act = act (s.heard f) := by
  rw [State.command, if_neg (by simp [ha, ho])]
  exact (if_neg (by simp [hf])).trans (if_neg (by simp [ho, hr]))

/-! ### What a reset leaves (R428, R434) -/

theorem State.resetPart_blank (s : State) : s.resetPart.Blank := s.fresh_resetPart.blank s.domainsReset_blank

/-- The settings of the management controller after a reset. -/
structure Mgmt.AsMade (old m : Mgmt) : Prop where
  key : m.key = old.key
  source : m.source = old.source
  super : m.super = 0x8000000000000000
  closed : m.closed = 0
  accepted : m.accepted = 0
  cap : m.cap = 5800
  frozen : m.frozen = false
  hostFrozen : m.hostFrozen = false
  lastSeq : m.lastSeq = none

theorem State.resetPart_mgmt (s : State) : s.mgmt.AsMade s.resetPart.mgmt :=
  have h := s.fresh_resetPart.mgmt
  ⟨(congrArg Mgmt.key h :), (congrArg Mgmt.source h :), (congrArg Mgmt.super h :), (congrArg Mgmt.closed h :),
    (congrArg Mgmt.accepted h :), (congrArg Mgmt.cap h :), (congrArg Mgmt.frozen h :), (congrArg Mgmt.hostFrozen h :),
    (congrArg Mgmt.lastSeq h :)⟩

theorem State.exec_shutdown (s : State) : exec .criticalShutdown s = .next s.shutdown := rfl

theorem State.exec_powerOn (s : State) : exec .powerOn s = .next s.powerOn := rfl

/-- What each of the three events leaves: a shutdown keeps the controller, a reset makes its settings anew. -/
theorem State.reset_cases {s t : State} (h : (exec .criticalShutdown s = .next t ∧ s.power = true) ∨
      (exec .powerOn s = .next t ∧ s.power = false) ∨
      (∃ f, exec (.reset f) s = .next t ∧ s.mgmt.accepts f = true ∧ frameOp f = 13 ∧ frameReserved f = false ∧
        s.mgmt.frozen = false)) :
    t.Blank ∧ ((s.power = true ∧ t = s.shutdown) ∨ s.mgmt.AsMade t.mgmt) := by
  rcases h with ⟨run, hp⟩ | ⟨run, hp⟩ | ⟨f, run, ha, ho, hr, hf⟩
  · rw [State.exec_shutdown] at run
    cases run
    refine ⟨?_, .inl ⟨hp, rfl⟩⟩
    rw [State.shutdown, if_pos hp]
    exact ⟨rfl, rfl, rfl, rfl, rfl, fun _ _ => rfl, rfl, rfl, rfl, rfl, rfl, rfl, rfl⟩
  · rw [State.exec_powerOn] at run
    cases run
    have b := s.resetPart_blank
    rw [State.powerOn, if_neg (by simp [hp])]
    exact ⟨⟨b.launches, b.groups, b.ops, b.tlb, b.l1, b.tiles, b.troot, b.clock, b.partNum, b.qps, b.regions, b.ptp,
      b.stations⟩, .inr s.resetPart_mgmt⟩
  · have act : exec (.reset f) s = .next (((s.heard f).answerFrame f 0 []).resetPart) :=
      congrArg Host.Outcome.next (State.command_acts (fun s => (s.answerFrame f 0 []).resetPart) ha hf hr ho)
    rw [act] at run
    cases run
    have m := State.resetPart_mgmt ((s.heard f).answerFrame f 0 [])
    exact ⟨State.resetPart_blank _, .inr ⟨m.key, m.source, m.super, m.closed, m.accepted, m.cap, m.frozen, m.hostFrozen,
      m.lastSeq⟩⟩

theorem powerAndReset_holds : Claims.PowerAndReset := by
  intro s t h
  obtain ⟨b, m⟩ := State.reset_cases h
  have down : s.power = true ∧ t = s.shutdown → t.mgmt = s.mgmt ∧ t.power = false := by
    rintro ⟨hp, rfl⟩
    rw [State.shutdown, if_pos hp]
    exact ⟨rfl, rfl⟩
  have source : t.mgmt.key = s.mgmt.key ∧ t.mgmt.source = s.mgmt.source := by
    rcases m with m | m
    · rw [(down m).1]
      exact ⟨rfl, rfl⟩
    · exact ⟨m.key, m.source⟩
  refine ⟨b.launches, b.groups, b.ops, b.tlb, b.l1, b.tiles, b.troot, b.clock, b.partNum, b.qps, b.regions, b.ptp,
    b.stations, source.1, source.2, fun ⟨hp, run⟩ => down ⟨hp, ?_⟩, fun no => ?_⟩
  · rw [State.exec_shutdown] at run
    cases run
    rfl
  · rcases m with ⟨hp, e⟩ | m
    · exact absurd ⟨hp, by rw [State.exec_shutdown, e]⟩ no
    · exact ⟨m.super, m.closed, m.accepted, m.cap, m.frozen, m.hostFrozen, m.lastSeq⟩

/-- The one row that was repaired softly is repaired hard. -/
theorem State.hardRepair_one {s : State} {k row : Nat} (hh : s.hbm = [(k, { Stack.zero with soft := [row] })])
    (room : s.journal.full = false) :
    row ∉ (s.hardRepair.stack k).soft ∧ s.journal.Enters s.hardRepair.journal 7 2 3 k := by
  let f : Stack → Stack := fun y => { y with soft := y.soft.filter (· != row) }
  have run : s.hardRepair = (s.onStack k f).journalRow 7 2 k row := by
    simp only [State.hardRepair, hh, List.flatMap_cons, List.map_cons, List.map_nil, List.flatMap_nil, List.append_nil,
      List.foldl_cons, List.foldl_nil, f]
  obtain ⟨j, a, b, c, e⟩ := (s.onStack k f).journalRow_only 7 2 k row
  refine ⟨?_, ?_⟩
  · have stack : s.hardRepair.stack k = f (s.stack k) := by
      rw [run, e]
      exact (s.stack_onStack k k f).trans (if_pos rfl)
    rw [stack]
    simp [f]
  · rw [run]
    exact (s.onStack k f).journalAdd_enters (k := 7) 2 3 k _ (by decide) (by decide) room

theorem powerEventsComplete_holds : Claims.PowerEventsComplete := by
  refine fun s => ⟨fun h => ?_, fun h => ?_, fun h => ?_, fun h => ?_, fun k row hh room => State.hardRepair_one hh
      room⟩
  · rw [State.exec_shutdown, State.shutdown, if_pos h]
  · rw [State.exec_powerOn, State.powerOn, if_neg (by simp [h])]
  · rw [State.exec_shutdown, State.shutdown, if_neg (by simp [h])]
  · rw [State.exec_powerOn, State.powerOn, if_pos h]

theorem State.fieldTest_eq {s : State} {u : TestUnit} (hp : s.power = true) (hu : testUnitOk u = true) (n : Nat)
    (signed first second : Bool) : s.fieldTest u n signed first second =
      if !signed then s.journalSignature
      else if first || second then s
      else let t := s.journalAdd 3 0 8 (testUnitNo u) (BitVec.ofNat 64 n)
        ({ t with toRetire := t.toRetire ++ [(u, some n)] }).whenIdle := by
  simp only [State.fieldTest, hp, hu, Bool.not_true, Bool.or_self, Bool.false_eq_true, if_false]

theorem upkeepEventsComplete_holds : Claims.UpkeepEventsComplete := by
  refine fun s hp => ⟨fun u n hu => ⟨fun b c => ?_, fun b c hbc => ?_, ?_⟩, fun d => ?_, fun ns => ⟨?_, fun t ht => ?_⟩,
    fun port vendor hn hport hdown => ?_⟩
  · exact congrArg Host.Outcome.next ((State.fieldTest_eq hp hu n false b c).trans rfl)
  · have good : (b || c) = true := by simpa using hbc
    exact congrArg Host.Outcome.next ((State.fieldTest_eq hp hu n true b c).trans (if_pos good))
  · exact congrArg Host.Outcome.next ((State.fieldTest_eq hp hu n true false false).trans rfl)
  · exact congrArg Host.Outcome.next (if_pos hp)
  · exact congrArg Host.Outcome.next (if_pos hp)
  · have run : exec (.ptpSync ns) s = .next { s with ptp := some ((ns : Int) - (s.ns : Int)) } :=
      congrArg Host.Outcome.next (if_pos hp)
    rw [run] at ht
    cases ht
    show ((s.ns : Int) + ((ns : Int) - (s.ns : Int))).toNat = ns
    omega
  · refine congrArg Host.Outcome.next (?_ : s.trainLink port vendor = _)
    have known : s.partNum.isNone = false := Option.isNone_eq_false_iff.2 (Option.ne_none_iff_isSome.1 hn)
    simp [State.trainLink, hp, known, hport, hdown]

/-- Settles O55: each event by the branch it takes; a reset by what upkeep and the firmware leave of the domains as
made; a storage error by where it lies. -/
theorem reliability : Obligations.Reliability :=
  ⟨storageErrors_holds, lastingErrors_holds, memoryUpkeep_holds, powerAndReset_holds, powerEventsComplete_holds,
    upkeepEventsComplete_holds⟩

end Sys2Proof.Machine
end

section
/-! PROOFS. The side-band port: management commands and frames (O56). -/

namespace Sys2Proof.Machine

/-- A command with a condition of its own acts when that holds too. -/
theorem State.command_good {s : State} {f : Frame} {op : Nat} {bad : Bool} (act : State → State)
    (ha : s.mgmt.accepts f = true) (hf : s.mgmt.frozen = false) (hr : frameReserved f = false) (ho : frameOp f = op)
    (hb : bad = false) : s.command f op bad act = act (s.heard f) := by
  rw [hb]
  exact State.command_acts act ha hf hr ho

/-- What the part's memory holds at its new addresses. -/
theorem Sparse.get_shift {α : Type} [DecidableEq α] (d : α) (a b len k : Nat) (hk : k < len) : ∀ m : Sparse α,
    Sparse.get d (Sparse.shift a b len m) (b + k) = Sparse.get d m (a + k)
  | [] => rfl
  | (j, v) :: m => by
    have ih := Sparse.get_shift d a b len k hk m
    unfold Sparse.shift at ih ⊢
    by_cases inside : a ≤ j ∧ j < a + len
    · rw [List.filter_cons_of_pos (by simpa using inside), List.map_cons]
      simp only [Sparse.get]
      rw [ih]
      have : (b + k = j - a + b) ↔ (a + k = j) := by omega
      simp only [this]
    · rw [List.filter_cons_of_neg (by simpa using inside), ih]
      have : a + k ≠ j := by omega
      simp only [Sparse.get, if_neg this]

theorem State.renumber_memory {s : State} (h : s.l1 = []) (a k : Nat) (hk : k < 2 ^ 43) :
    (s.renumber a).memGet (a * 2 ^ 43 + k) = s.memGet (s.ownPart * 2 ^ 43 + k) := by
  simp only [State.renumber, h, List.foldl_nil, State.memGet]
  exact Sparse.get_shift _ _ _ _ k hk s.mem

section
variable {s : State} {f : Frame} (ha : s.mgmt.accepts f = true) (hf : s.mgmt.frozen = false)
    (hr : frameReserved f = false)
include ha hf hr

theorem provision_eq (ho : frameOp f = 1) (len : f.payload.length = 48)
    (link : linkLocal (BitVec.ofNat 128 (ofBytes (f.payload.drop 32))) = true) :
    s.provision f = if s.mgmt.key.isSome then (s.heard f).violation f else
      State.answerFrame { s.heard f with mgmt := { (s.heard f).mgmt with
        key := some (BitVec.ofNat 256 (ofBytes (f.payload.take 32)))
        source := BitVec.ofNat 128 (ofBytes (f.payload.drop 32)) } } f 0 [] := by
  unfold State.provision
  exact State.command_good _ ha hf hr ho (by simp [len, link])

theorem qpSet_eq (ho : frameOp f = 2) (h0 : frameArg0 f < 16) (h1 : frameArg1 f < 2) :
    s.qpSet f = if frameArg1 f = 1 then
        (State.flushHeld { s.heard f with qps := insertNat s.qps (frameArg0 f) }).answerFrame f 0 []
      else ((s.heard f).tearDown (frameArg0 f)).answerFrame f 0 [] := by
  unfold State.qpSet
  exact State.command_good _ ha hf hr ho (by simp [h0, h1])

theorem qMask_eq (ho : frameOp f = 3) :
    s.qMask f = if (BitVec.ofNat 64 (frameArg0 f)).getLsbD 63 && (BitVec.ofNat 64 (frameArg1 f)).getLsbD 63 then
        (s.heard f).violation f
      else State.answerFrame { s.heard f with mgmt := { (s.heard f).mgmt with
        super := BitVec.ofNat 64 (frameArg0 f), closed := BitVec.ofNat 64 (frameArg1 f) } } f 0 [] :=
  State.command_good _ ha hf hr ho rfl

theorem setPartNum_eq (ho : frameOp f = 4) (h0 : frameArg0 f < 1024) :
    s.setPartNum f = if !s.launches.isEmpty || s.stations.any fun x => x.2.up then (s.heard f).violation f
      else ((s.heard f).renumber (frameArg0 f)).answerFrame f 0 [] :=
  State.command_good _ ha hf hr ho (by simp [h0])

theorem acceptParts_eq (ho : frameOp f = 5) (h0 : frameArg0 f < 1024) (h64 : frameArg0 f % 64 = 0) :
    s.acceptParts f = State.answerFrame { s.heard f with mgmt := { (s.heard f).mgmt with
      accepted := maskPart s.mgmt.accepted (frameArg0 f) (frameArg1 f) } } f 0 [] :=
  State.command_good _ ha hf hr ho (by simp [h0, h64])

theorem journalAck_eq (ho : frameOp f = 7) :
    s.journalAck f = if s.journal.exported.contains (frameArg0 f) then
        ((s.heard f).reclaim (frameArg0 f)).answerFrame f 0 []
      else (s.heard f).violation f :=
  State.command_good _ ha hf hr ho rfl

theorem unfreezeHost_eq (ho : frameOp f = 11) :
    s.unfreezeHost f = State.answerFrame (if s.mgmt.hostFrozen then
        State.journalFreeze { s.heard f with mgmt := { (s.heard f).mgmt with hostFrozen := false } } 3 0
      else s.heard f) f 0 [] :=
  State.command_good _ ha hf hr ho rfl

theorem stage_eq (ho : frameOp f = 12) :
    s.stage f =
      let m := (s.heard f).mgmt
      let image := m.staged ++ f.payload
      if !Config.imageEnds image then State.answerFrame { s.heard f with mgmt := { m with staged := image } } f 0 []
      else if Config.verifies image then
        State.answerFrame { s.heard f with mgmt := { m with
          staged := [], ready := Sparse.set [] m.ready (Config.imageKind image) image } } f 0 []
      else State.violation (State.journalSignature { s.heard f with mgmt := { m with staged := [] } }) f :=
  State.command_good _ ha hf hr ho rfl

end

theorem managementCommandsComplete_holds : Claims.ManagementCommandsComplete := by
  intro s f ha hf hr s1 a b m ok
  have next {x y : State} (h : x = y) : (Host.Outcome.next x : Out) = .next y := congrArg Host.Outcome.next h
  refine ⟨?provision, ?qpset, ?qmask, ?partnum, ?accept, ?jread, ?jack, ?attest, ?pcap, ?telem, ?unfreeze, ?fwload,
      ?reset⟩
  case provision =>
    intro ho len addr link
    refine ⟨fun key => next ((provision_eq ha hf hr ho len link).trans (if_neg ?_)), fun key =>
      next ((provision_eq ha hf hr ho len link).trans (if_pos ?_))⟩
    · simp [key]
    · exact Option.ne_none_iff_isSome.1 key
  case qpset =>
    intro ho ha'
    refine ⟨fun hb => next ((qpSet_eq ha hf hr ho ha' ?_).trans (if_pos hb)), fun hb =>
      next ((qpSet_eq ha hf hr ho ha' ?_).trans (if_neg ?_))⟩
    · exact (show frameArg1 f = 1 from hb) ▸ Nat.one_lt_two
    · exact (show frameArg1 f = 0 from hb) ▸ Nat.zero_lt_two
    · exact fun c => absurd (hb.symm.trans c) Nat.zero_ne_one
  case qmask =>
    intro ho super closed
    exact ⟨fun h => next ((qMask_eq ha hf hr ho).trans (if_neg (ne_true_of_eq_false h))),
      fun h => next ((qMask_eq ha hf hr ho).trans (if_pos h))⟩
  case partnum =>
    intro ho ha'
    refine ⟨fun hl hs => next ((setPartNum_eq ha hf hr ho ha').trans (if_neg ?_)),
      fun _ l1 => ⟨rfl, fun k hk => State.renumber_memory (s := s1) l1 a k hk⟩,
      fun busy => next ((setPartNum_eq ha hf hr ho ha').trans (if_pos ?_))⟩
    · simpa [hl] using hs
    · simpa [or_iff_not_imp_left] using busy
  case accept => exact fun ho ha' hm => next (acceptParts_eq ha hf hr ho ha' hm)
  case jread => exact fun ho => next (State.command_acts _ ha hf hr ho)
  case jack =>
    exact fun ho => ⟨fun h => next ((journalAck_eq ha hf hr ho).trans (if_pos (by simpa using h))),
      fun h => next ((journalAck_eq ha hf hr ho).trans (if_neg (by simpa using h)))⟩
  case attest => exact fun ho len => next (State.command_good _ ha hf hr ho (by simp [len]))
  case pcap => exact fun ho => next (State.command_acts _ ha hf hr ho)
  case telem => exact fun ho => next (State.command_acts _ ha hf hr ho)
  case unfreeze =>
    exact fun ho => ⟨fun h => next ((unfreezeHost_eq ha hf hr ho).trans (by rw [h]; rfl)),
      fun h => next ((unfreezeHost_eq ha hf hr ho).trans (congrArg ok (if_pos h)))⟩
  case fwload =>
    intro ho image
    refine ⟨fun he => next ((stage_eq ha hf hr ho).trans (if_pos ?_)), fun he hv =>
      next ((stage_eq ha hf hr ho).trans ((if_neg ?_).trans (if_pos hv))), fun he hv =>
      next ((stage_eq ha hf hr ho).trans ((if_neg ?_).trans (if_neg (ne_true_of_eq_false hv))))⟩
    · exact (congrArg not he).trans rfl
    · exact ne_true_of_eq_false ((congrArg not he).trans rfl)
    · exact ne_true_of_eq_false ((congrArg not he).trans rfl)
  case reset => exact fun ho => next (State.command_acts _ ha hf hr ho)

theorem framesAreChecked_holds : Claims.FramesAreChecked := by
  refine fun s f op bad act => ⟨fun h => ?_, fun h ho hf => ⟨_, rfl, ?_, ?_⟩⟩
  · simp [State.command, h]
  · rw [State.command, if_neg (by simp [h, ho])]
    exact if_pos hf
  · rw [State.command, if_neg (by simp [h, ho])]
    have noted : ((s.heard f).answerFrame f Reply.frozen []).mgmt.lastSeq = some (frameSeq f) := rfl
    have run : (if (s.heard f).mgmt.frozen then (s.heard f).answerFrame f Reply.frozen []
      else if frameOp f != op || frameReserved f || bad then (s.heard f).answerFrame f Reply.badmsg []
      else act (s.heard f)) = (s.heard f).answerFrame f Reply.frozen [] := if_pos hf
    refine (congrArg (fun t : State => t.mgmt.accepts f) run).trans ?_
    simp [Mgmt.accepts, noted]

/-- Settles O56: every command through the one lemma that says when a command acts, and a frozen controller by the
frame that its answer leaves. -/
theorem management : Obligations.Management := ⟨managementCommandsComplete_holds, framesAreChecked_holds⟩

end Sys2Proof.Machine
end

section
/-! PROOFS. The engines' transfers: DRAINM, ACST, ACLD, copies, book images and arrivals (O37). -/

namespace Sys2Proof.Machine

theorem State.op?_n {s : State} {n : Nat} {o : Op} (h : s.op? n = some o) : o.n = n := by
  simpa using List.find?_some h

/-! ### The engine's transfers of tiles (R353 to R356) -/

/-- An operation of a tile whose turn has come runs. -/
theorem State.mxComplete_turn {s : State} {n : Nat} {o : Op} {l : Launch} (ho : s.op? n = some o)
    (hl : s.launch? (lidOf o.gid) = some l) (hf : o.fault = none) (hw : o.walk = none) (ht : s.inTurn o = true) :
    s.mxComplete n = match o.kind with
      | .drainm a loc d => s.runDrainm o a loc d (s.podOfOp o) l.layouts
      | .acst t b r loc => s.runAcst o t b r loc (s.podOfOp o)
      | .acld t b add f td e loc => s.runAcld o t b add f td e loc (s.podOfOp o)
      | _ => s := by
  simp only [State.mxComplete, ho, hl, hf, hw, ht, Option.isSome_none, Bool.not_true, Bool.or_self, Bool.false_eq_true,
    if_false] <;> rfl

/-- What DRAINM drains. -/
def State.drainmRun (s : State) (a : DrainArgs) (pod : Nat) (r : BitVec 320) : DrainRun :=
  s.drainRun pod a (encSink r (s.book pod (Rec.book r)) a.rm (drainExp (s.tile pod a.tile) a))

/-- Where DRAINM puts it. -/
def drainmPuts (r : BitVec 320) (d : Side) (vals : List (Nat × Nat)) : List Put :=
  vals.filterMap fun x => (drainmBit r d x.1).map fun b => (⟨b, Rec.width (Rec.enc r), x.2⟩ : Put)

theorem State.runDrainm_writes {s s' : State} {o : Op} {a : DrainArgs} {loc : Bool} {d : Side} {pod : Nat}
    {lays : List (BitVec 320)} (stop : s.mxStop o loc .write ((rowPositions a.row0 a.rows).filterMap fun p =>
      (drainmBit (lays.getD d.lay 0) d p).map (elemBytes (lays.getD d.lay 0))) = none)
    (ok : (s.drainmRun a pod (lays.getD d.lay 0)).stop = none)
    (write : (s.drainmRun a pod (lays.getD d.lay 0)).s.engineWrite o.gid loc
      (drainmPuts (lays.getD d.lay 0) d (s.drainmRun a pod (lays.getD d.lay 0)).vals) none = (s', none)) :
    s.runDrainm o a loc d pod lays = s'.finishOp o.n none (s.drainmRun a pod (lays.getD d.lay 0)).flags := by
  have run : s.runDrainm o a loc d pod lays =
      let run := s.drainmRun a pod (lays.getD d.lay 0)
      match run.stop with
      | some .stopped => (run.s.engineWrite o.gid loc (drainmPuts (lays.getD d.lay 0) d run.vals) (some 0)).1
      | some (.fail f) =>
        (run.s.engineWrite o.gid loc (drainmPuts (lays.getD d.lay 0) d run.vals) (some 0)).1.finishOp o.n (some f)
      | none =>
        let w := run.s.engineWrite o.gid loc (drainmPuts (lays.getD d.lay 0) d run.vals) none
        w.1.finishOp o.n (badAt w.2) (if w.2.isNone then run.flags else 0) := by
    unfold State.runDrainm
    dsimp only
    rw [stop]
    rfl
  rw [run]
  dsimp only
  rw [ok]
  dsimp only
  rw [write]
  rfl

/-- With no residue to add, what memory holds is not asked for. -/
theorem acstPuts_congr (t : Tile) (retired : List Nat) (xs : List (Option Int)) (base : Nat)
    (old old' : Nat → Nat → Nat) :
    acstPuts t retired xs base false old = acstPuts t retired xs base false old' := rfl

theorem State.runAcst_writes {s s' : State} {o : Op} {tile : Nat} {base : Word} {loc : Bool} {pod : Nat}
    (all : ((s.pod pod).retired.any (Rns.channels (s.tile pod tile).fmt).contains) = false)
    (stop : s.mxStop o loc .write (planeLines base.toNat (acstChannels (s.tile pod tile).fmt false)) = none)
    (write : s.engineWrite o.gid loc (acstPuts (s.tile pod tile) (s.pod pod).retired [] base.toNat false fun _ _ => 0)
        none =
      (s', none)) :
    s.runAcst o tile base none loc pod = s'.finishOp o.n none := by
  unfold State.runAcst
  simp only [Option.isSome_none, Bool.false_eq_true, if_false, stop, all]
  rw [acstPuts_congr _ _ _ _ _ fun _ _ => 0, write]
  rfl

theorem State.runAcld_loads {s s' : State} {o : Op} {tile : Nat} {base : Word} {fmt : AccFmt} {td : ResTy} {e : Nat}
    {loc : Bool} {pod : Nat} {r : List (Option Nat)}
    (stop : s.mxStop o loc .read (planeLines base.toNat ((Rns.channels fmt).filter fun c =>
        !(s.pod pod).retired.contains c)) = none)
    (read : s.engineReads o.gid loc
      (planeLines base.toNat ((Rns.channels fmt).filter fun c => !(s.pod pod).retired.contains c)) = (s', r, none)) :
    s.runAcld o tile base false fmt td e loc pod = ((s'.setTile pod tile
        (((s.tile pod tile).cleared fmt td e).load false
      (acldResidues ((planeLines base.toNat ((Rns.channels fmt).filter fun c => !(s.pod pod).retired.contains c)).zip r)
        base.toNat ((Rns.channels fmt).filter fun c => !(s.pod pod).retired.contains c)))).dropInjected pod
            tile).finishOp
      o.n none := by
  unfold State.runAcld
  simp only [stop, read, Bool.false_eq_true, if_false]

theorem matrixTransfersComplete_holds : Claims.MatrixTransfersComplete := by
  intro s n o l ho hl hf hw ht pod
  have turn := State.mxComplete_turn ho hl hf hw ht
  obtain rfl := State.op?_n ho
  refine ⟨?_, ?_, ?_⟩
  · intro a loc d hk r run puts stop ok s' write
    rw [hk] at turn
    exact congrArg Host.Outcome.next (turn.trans (State.runDrainm_writes stop ok write))
  · intro tile base radd loc hk t lines hr all stop s' write
    subst hr
    rw [hk] at turn
    exact congrArg Host.Outcome.next (turn.trans (State.runAcst_writes all stop write))
  · intro tile base fmt td e loc hk chans lines stop s' r read
    rw [hk] at turn
    exact congrArg Host.Outcome.next (turn.trans (State.runAcld_loads stop read))

/-! ### Copies (R305 to R310, R319) -/

theorem State.copyComplete_turn {s : State} {n : Nat} {o : Op} {l : Launch} (ho : s.op? n = some o)
    (hl : s.launch? (lidOf o.gid) = some l) (hf : o.fault = none) (hw : o.walk = none) (ht : s.inTurn o = true) :
    s.copyComplete n = match o.kind with
      | .cpy a => s.runCpy o a (s.podOfOp o) l.layouts
      | .cbld book image done seq => s.runCbld o book image done seq (s.podOfOp o)
      | .cpym a slot t none => s.startCpym o a slot t (s.podOfOp o) l
      | .cpym a _ t (some (b, arrivals)) =>
        if arrivals.all fun x => x.reason.isSome then
          s.endCopy o a.done Status.ok (boxBits b + targetMask t * 2 ^ 16 + arrivalBits arrivals) b.elems
            (boxFirst b) a.seq none
        else s
      | _ => s := by
  simp only [State.copyComplete, ho, hl, hf, hw, ht, Option.isSome_none, Bool.not_true, Bool.or_self,
      Bool.false_eq_true,
    if_false] <;> rfl

theorem State.runCpy_done {s s1 s2 : State} {o : Op} {a : CopyArgs} {pod : Nat} {lays : List (BitVec 320)}
    {p : CopyPlan}
    {b : BoxOut} (check : s.checkCopy o.gid pod lays a false = .ok p)
        (src : s.piecesHeld o.gid a.srcLocal p.src = false)
    (dst : s.piecesHeld o.gid a.dstLocal p.dst = false) (done : s.piecesHeld o.gid false (doneBytes a.done) = false)
    (read : s.readBox o.gid pod a p = (s1, b, none)) (write : s1.engineWrite o.gid a.dstLocal b.puts none =
        (s2, none)) :
    s.runCpy o a pod lays = s2.endCopy o a.done Status.ok (boxBits b) b.elems (boxFirst b) a.seq none := by
  unfold State.runCpy
  rw [check]
  dsimp only
  rw [src, dst, done, if_neg (by decide), read]
  dsimp only
  rw [write]

theorem State.runCbld_done {s s1 : State} {o : Op} {k : Nat} {image done : Word} {seq pod : Nat} {r : List (Option Nat)}
    (from_ : s.bytesStop o.gid false .read ((List.range 16).map fun i => (image.toNat + 32 * i, 32)) = none)
    (to_ : s.bytesStop o.gid false .write (doneBytes done) = none)
    (held : s.piecesHeld o.gid false (((List.range 16).map fun i => (image.toNat + 32 * i, 32)) ++ doneBytes done) =
        false)
    (read : s.engineReads o.gid false ((List.range 16).map fun i => (image.toNat + 32 * i, 32)) = (s1, r, none)) :
    s.runCbld o k image done seq pod = (s1.onPod pod fun p =>
        { p with books := Sparse.set Book.empty p.books k (bookOf (r.flatMap fun x => leBytes 32 (x.getD 0)))
            }).endCopy o done
      Status.ok (if (bookOf (r.flatMap fun x => leBytes 32 (x.getD 0))).ordered then 2 ^ 12 else 0) 256 (2 ^ 64 - 1)
          seq none := by
  unfold State.runCbld
  dsimp only
  rw [from_, to_]
  dsimp only
  rw [held, if_neg Bool.false_ne_true, read]

theorem State.startCpym_sends {s s1 : State} {o : Op} {a : CopyArgs} {slot : Nat} {w : Word} {pod : Nat} {l : Launch}
    {p : CopyPlan} {b : BoxOut} (check : s.checkCopy o.gid pod l.layouts a true = .ok p) (good : targetsBad l w = false)
    (src : s.piecesHeld o.gid a.srcLocal p.src = false) (room : ∀ y ∈ targetsOf w, (s.streamTo o y.2).length < 64)
    (read : s.readBox o.gid pod a p = (s1, b, none)) :
    s.startCpym o a slot w pod l = { s1.onOp o.n fun x => { x with
      kind := .cpym a slot w (some (b, (targetsOf w).map fun y => (⟨y.1, y.2, s.nextOp, none, none⟩ : Arrival))) } with
      nextOp := s.nextOp + 1 } := by
  have fits : ((targetsOf w).all fun y => decide (((s.streamTo o y.2).map (·.seq)).length < 64)) = true := by
    simpa using room
  unfold State.startCpym
  rw [check]
  dsimp only
  rw [good, if_neg Bool.false_ne_true, src, if_neg Bool.false_ne_true, fits, if_neg (by decide), read]

theorem copiesComplete_holds : Claims.CopiesComplete := by
  intro s n o l ho hl hf hw ht pod
  have turn := State.copyComplete_turn ho hl hf hw ht
  refine ⟨?_, ?_, ?_, ?_⟩
  · intro a p s1 b s2 hk check src dst done read write
    rw [hk] at turn
    exact congrArg Host.Outcome.next (turn.trans (State.runCpy_done check src dst done read write))
  · intro k image done seq s1 r hk pieces from_ to_ held read b
    rw [hk] at turn
    exact congrArg Host.Outcome.next (turn.trans (State.runCbld_done from_ to_ held read))
  · intro a slot w p s1 b hk check good src room read sent
    rw [hk] at turn
    exact congrArg Host.Outcome.next (turn.trans (State.startCpym_sends check good src room read))
  · intro a slot w b arr hk known
    rw [hk] at turn
    have all : (arr.all fun x => x.reason.isSome) = true :=
      List.all_eq_true.2 fun x hx => Option.ne_none_iff_isSome.1 (known x hx)
    exact congrArg Host.Outcome.next (turn.trans (if_pos all))

/-! ### The book's image (R34, R319) -/

theorem mem_swapped_zipIdx {α : Type} {l : List α} {x : Nat × α} :
    (x ∈ l.zipIdx.map fun y => (y.2, y.1)) ↔ l[x.1]? = some x.2 := by
  obtain ⟨k, a⟩ := x
  simp [List.mem_zipIdx_iff_getElem?, and_comm]

/-- The entries that CBLD writes are those of its list, by place. -/
theorem get_swapped_zipIdx {α : Type} [DecidableEq α] (d : α) (f : Nat → α) {n k : Nat} (hk : k < n) :
    Sparse.get d (Sparse.setAll d [] (((List.range n).map f).zipIdx.map fun y => (y.2, y.1))) k = f k := by
  have h : ((List.range n).map f)[k]? = some (f k) := by rw [List.getElem?_map, List.getElem?_range hk]; rfl
  refine Sparse.get_setAll_mem _ _ _ _ _ (fun p hp hk => ?_) ⟨(k, f k), mem_swapped_zipIdx.2 h, rfl⟩
  have at_ := mem_swapped_zipIdx.1 hp
  rw [hk, h] at at_
  exact (Option.some.inj at_).symm

/-- A list rises when each of its elements is below the next. -/
theorem all_zip_drop_iff (f : Nat → Int) (n : Nat) :
    ((((List.range n).map f).zip (((List.range n).map f).drop 1)).all fun x => decide (x.1 < x.2)) = true ↔
      ∀ k, k + 1 < n → f k < f (k + 1) := by
  rw [List.all_eq_true]
  constructor
  · intro all k hk
    refine of_decide_eq_true (all (f k, f (k + 1)) (List.mem_iff_getElem?.2 ⟨k, ?_⟩))
    rw [List.getElem?_zip_eq_some]
    simp [hk, Nat.lt_of_succ_lt hk]
  · intro rise x hx
    obtain ⟨k, hk⟩ := List.mem_iff_getElem?.1 hx
    rw [List.getElem?_zip_eq_some] at hk
    obtain ⟨first, second⟩ := hk
    simp [List.getElem?_eq_some_iff] at first second
    obtain ⟨_, first⟩ := first
    obtain ⟨next, second⟩ := second
    rw [← first, ← second]
    exact decide_eq_true (rise k (by omega))

/-- The number of two bytes, low one first. -/
theorem ofNat_two_bytes (bs : List Byte) (k : Nat) (h : k + 1 < bs.length) :
    BitVec.ofNat 16 (ofBytes ((bs.drop k).take 2)) = bs.getD (k + 1) 0 ++ bs.getD k 0 := by
  have two : (bs.drop k).take 2 = [bs.getD k 0, bs.getD (k + 1) 0] := by
    rw [List.drop_eq_getElem_cons (Nat.lt_of_succ_lt h), List.drop_eq_getElem_cons h, List.take_succ_cons,
      List.take_succ_cons, List.take_zero]
    simp [List.getD_eq_getElem?_getD, h, Nat.lt_of_succ_lt h]
  rw [two]
  generalize bs.getD k 0 = lo
  generalize bs.getD (k + 1) 0 = hi
  apply BitVec.eq_of_toNat_eq
  rw [BitVec.toNat_append, Nat.shiftLeft_eq, Nat.mul_comm, ← Nat.two_pow_add_eq_or_of_lt lo.isLt]
  simp only [ofBytes, BitVec.toNat_ofNat]
  omega

theorem bookImageEntries_holds : Claims.BookImageEntries := by
  intro bs len
  have value : ∀ k, k < 256 → (bookOf bs).entry k =
      (BitVec.ofNat 16 (ofBytes ((bs.drop (2 * k)).take 2))).toInt := by
    intro k hk
    unfold Book.entry bookOf
    dsimp only
    exact get_swapped_zipIdx _ (fun k => (BitVec.ofNat 16 (ofBytes ((bs.drop (2 * k)).take 2))).toInt) hk
  refine ⟨fun k hk => (value k hk).trans (congrArg BitVec.toInt (ofNat_two_bytes bs _ (by omega))), ?_⟩
  have rise := all_zip_drop_iff (fun k => (BitVec.ofNat 16 (ofBytes ((bs.drop (2 * k)).take 2))).toInt) 256
  refine rise.trans (forall_congr' fun k => ⟨fun h hk => ?_, fun h hk => ?_⟩)
  · rw [value k (by omega), value (k + 1) (by omega)]
    exact h (by omega)
  · rw [← value k (by omega), ← value (k + 1) (by omega)]
    exact h (by omega)

/-! ### Arrivals (R295, R312, R317) -/

theorem State.cpymArrival_comes {s : State} {n k : Nat} {o : Op} {l : Launch} {a : CopyArgs} {slot : Nat} {w : Word}
    {b : BoxOut} {arr : List Arrival} {x : Arrival} (ho : s.op? n = some o)
        (hk : o.kind = .cpym a slot w (some (b, arr)))
    (hl : s.launch? (lidOf o.gid) = some l) (hx : arr.find? (fun y => y.k == k && y.reason.isNone) = some x)
    (free : s.holdsArrival l.lid x.team slot = false) :
    s.cpymArrival n k = match x.gen with
      | some gen => s.writeArrival o slot b x gen
      | none =>
        if (s.streamTo o x.team).any fun y => decide (y.seq < x.seq) then s
        else s.meetSlot o a slot b x (sourceBytes l.layouts a) := by
  simp only [State.cpymArrival, ho, hk, hl, hx, free, Bool.false_eq_true, if_false] <;> rfl

theorem State.meetSlot_refuses {s : State} {o : Op} {a : CopyArgs} {slot : Nat} {b : BoxOut} {x : Arrival}
    {src : List Bytes}
    {tm : Team} (ht : s.team? (lidOf o.gid) x.team = some tm)
    (no : (tm.land slot).st ≠ .armed ∨ (tm.land slot).want ≤ (tm.land slot).got) :
    s.meetSlot o a slot b x src = s.setReason o.n x.k 1 := by
  simp only [State.meetSlot, ht]
  exact if_pos no

/-- An arrival is listed under the generation of the slot that accepted it. -/
def acceptUnder (k gen : Nat) : OpKind → OpKind
  | .cpym a slot t (some (b, l)) =>
    .cpym a slot t (some (b, l.map fun y => if y.k = k then { y with gen := some gen } else y))
  | y => y

theorem State.meetSlot_accepts {s : State} {o : Op} {a : CopyArgs} {slot : Nat} {b : BoxOut} {x : Arrival}
    {src : List Bytes}
    {tm : Team} (ht : s.team? (lidOf o.gid) x.team = some tm) (armed : (tm.land slot).st = .armed)
    (room : (tm.land slot).got < (tm.land slot).want)
    (fits : arrivalFits a (decide (teamOf o.gid = x.team)) src (tm.land slot) (arrivalPuts b (tm.land slot).base) =
        true) :
    s.meetSlot o a slot b x src = (s.onTeam (lidOf o.gid) x.team fun y =>
      y.setLand slot { tm.land slot with got := (tm.land slot).got + 1 }).onOp o.n fun o =>
        { o with kind := acceptUnder x.k (tm.land slot).gen o.kind } := by
  simp only [State.meetSlot, ht]
  rw [if_neg (by simp [armed, room]), if_neg (by simp [fits])]
  rfl

theorem State.writeArrival_counts {s : State} {o : Op} {slot : Nat} {b : BoxOut} {x : Arrival} {tm : Team}
    (ht : s.team? (lidOf o.gid) x.team = some tm) :
    s.writeArrival o slot b x (tm.land slot).gen =
      ((((s.enginePuts (.member (lidOf o.gid) x.team 0) true (arrivalPuts b (tm.land slot).base)).healLocal
        (.member (lidOf o.gid) x.team 0) (localBytes (arrivalPuts b (tm.land slot).base))).onTeam (lidOf o.gid) x.team
        fun z => z.setLand slot { z.land slot with wrote := (tm.land slot).wrote + 1 }).fillLand
          (lidOf o.gid) x.team slot).setReason o.n x.k 0 := by
  simp only [State.writeArrival, ht]
  exact if_neg (not_not.2 rfl)

theorem cpymArrivalMeetsItsSlot_holds : Claims.CpymArrivalMeetsItsSlot := by
  intro s n k o l a slot w b arr x tm ho hk hl hlid hx ht free first d
  have comes := State.cpymArrival_comes ho hk hl hx free
  rw [hlid] at ht
  have ofNew (new : x.gen = none) : s.cpymArrival n k = s.meetSlot o a slot b x (sourceBytes l.layouts a) := by
    rw [comes, new]
    refine if_neg ?_
    simpa using first new
  refine ⟨?_, ?_, ?_⟩
  · intro new no
    exact congrArg Host.Outcome.next ((ofNew new).trans (State.meetSlot_refuses ht no))
  · intro new armed room fits
    refine ⟨_, congrArg Host.Outcome.next ((ofNew new).trans (State.meetSlot_accepts ht armed room fits)), ?_, rfl⟩
    rw [hlid]
    exact ⟨_, State.team?_onTeam_self s _ _ _ hl ht fun _ => rfl, Sparse.get_set_self _ _ _ _⟩
  · intro accepted
    rw [accepted] at comes
    exact congrArg Host.Outcome.next (comes.trans (State.writeArrival_counts ht))

/-- Settles O37: DRAINM, ACST, ACLD, CPY, CBLD and CPYM whose turn has come run through to their one effect; a book's
image is read two bytes an entry; and an arrival of a CPYM meets the slot that its team has. -/
theorem engineTransfersComplete : Obligations.EngineTransfersComplete :=
  ⟨matrixTransfersComplete_holds, copiesComplete_holds, bookImageEntries_holds, cpymArrivalMeetsItsSlot_holds⟩

end Sys2Proof.Machine
end

section
/-! PROOFS. What an access leaves: a store whose page a lane of the same store moves (O25). -/

namespace Sys2Proof.Machine

/-! ### A unit whose TLB is full walks as it goes -/

theorem State.dropClean_cases (s : State) (core : Nat) (p : Nat → Bool) :
    ∃ c, s.dropClean core p = { s with l1 := c } := ⟨_, rfl⟩

/-- A write of the part's memory that no L1 serves. -/
theorem State.gwrite_home_cases {s : State} {core pa far : Nat} {wt obj : Bool} {bs : List Byte}
    (own : s.isPeer pa = false) :
    ∃ m c q x, s.gwrite core false wt pa bs obj far = { s with mem := m, l1 := c, poison := q, sectors := x } := by
  have run : s.gwrite core false wt pa bs obj far =
      ((s.flushSectors core pa bs.length).memWrite pa bs).touch (State.span pa bs.length) obj true far := by
    simp only [State.gwrite, own, Bool.false_eq_true, if_false]
  obtain ⟨m, c, q, x, back⟩ := s.writeBack_cases core fun k =>
    decide (pa / 32 ≤ k / 32) && decide (k / 32 ≤ (pa + bs.length - 1) / 32)
  obtain ⟨c', drop⟩ := State.dropClean_cases { s with mem := m, l1 := c, poison := q, sectors := x } core fun k =>
    decide (pa / 32 ≤ k / 32) && decide (k / 32 ≤ (pa + bs.length - 1) / 32)
  obtain ⟨m', write⟩ := State.memWrite_cases { s with mem := m, l1 := c', poison := q, sectors := x } pa bs
  obtain ⟨x', reach⟩ := State.touch_cases { s with mem := m', l1 := c', poison := q, sectors := x }
    (State.span pa bs.length) obj true far
  refine ⟨m', c', q, x', ?_⟩
  rw [run, State.flushSectors, back, drop, write, reach]

/-- A TLB that is full of entries which cover nothing. -/
def fullTlb : List Tlb := List.replicate 16384 ⟨0, 0, 0⟩

/-- A unit of a tower with that TLB walks for every address, in memory as it stands. -/
theorem State.known_of_full {s : State} (full : s.tlbOf 1024 = fullTlb) (va : Nat) :
    s.known 1024 va = match s.walk va with
      | .leaf t => some t
      | .fail .. => none := by
  have none_ : s.tlbFind 1024 va = none := by
    rw [State.tlbFind, full]
    refine List.find?_eq_none.2 fun t ht => ?_
    rw [if_neg (by decide), List.append_nil] at ht
    rw [List.eq_of_mem_replicate ht]
    simp [Tlb.covers]
  have size : decide ((s.tlbOf 1024).length < tlbSize 1024) = false := by
    rw [full, fullTlb, List.length_replicate]
    decide
  rw [State.known, none_]
  dsimp only
  rw [size, show decide (1024 < 1024) = false from rfl, Bool.or_self, Bool.and_false, if_neg Bool.false_ne_true] <;>
    rfl

/-! ### The store -/

/-- ST.n64 with `.nocache` of v8 at v4 and v5. -/
def movingStore : MAcc := ⟨⟨0, none⟩, .n64, .nocache, 8, .plain ⟨2, some (4, 0), .ofs 0⟩⟩

/-- Two lanes: the first stores at 20008, the table entry of the second one's page, and the second at 40000000. Both
store a leaf whose frame is 80000000. -/
def movingGroup : Group :=
  { Group.fresh probeGroup 64 0 0 256 probeBase (BitVec.allOnes 64) 0 with
    pos := .slot probeBase 0 (probeHeader (encode (.st movingStore)).length), active := true, core := 1024, em := 3
    vregs := [(vkey 4 0, 0x20008), (vkey 4 1, 0x40000000), (vkey 8 0, 0x80000017), (vkey 8 1, 0x80000017)] }

/-- The tables: the root at 10000, one table at 20000, and its leaves of the first two GiB, each mapped to itself. -/
def tables : List Host.Cell := [(0x10000, 1), (0x10002, 2), (0x20000, 0x17), (0x20008, 0x17), (0x2000B, 0x40)]

def movingPart : State := 
  { State.reset with
    cur := movingGroup.id, launches := [probeLaunch], groups := [movingGroup], troot := 0x10001, mem := tables, tlb :=
        [(1024, fullTlb)] }

def movingHeader : Word := probeHeader (encode (.st movingStore)).length

/-- The accesses of the two lanes. -/
def movingAccesses : List Access := [⟨0, 0x20008, 8⟩, ⟨1, 0x40000000, 8⟩]

theorem movingPart_safe : Safe movingPart := by decide +kernel

theorem movingPart_acts : Acts (.st movingStore) movingStore.h movingPart movingGroup probeLaunch probeBase 0
    movingHeader := by
  decide +kernel

theorem movingGroup_accesses : plainAccesses movingGroup (movingGroup.executing movingStore.h) ⟨2, some (4, 0), .ofs 0⟩
    (Ty_bytes movingStore.t) = movingAccesses := by decide +kernel

theorem movingPart_walks : movingPart.walk 0x20008 = .leaf ⟨0, 2 ^ 30, 0x17⟩ ∧
    movingPart.walk 0x40000000 = .leaf ⟨2 ^ 30, 2 ^ 30, 0x40000017⟩ := by decide +kernel

theorem movingPart_known : movingPart.known 1024 0x20008 = some ⟨0, 2 ^ 30, 0x17⟩ ∧
    movingPart.known 1024 0x40000000 = some ⟨2 ^ 30, 2 ^ 30, 0x40000017⟩ := by
  obtain ⟨first, second⟩ := movingPart_walks
  rw [State.known_of_full rfl, State.known_of_full rfl, first, second]
  exact ⟨rfl, rfl⟩

/-- The part once the first lane has stored. -/
def movedPart : State :=
  movingPart.gwrite 1024 false false 0x20008 (leBytes 8 0x80000017) false 0

theorem movedPart_walk : movedPart.walk 0x40000000 = .leaf ⟨2 ^ 30, 2 ^ 30, 0x80000017⟩ := by decide +kernel

theorem movedPart_known : movedPart.known 1024 0x40000000 = some ⟨2 ^ 30, 2 ^ 30, 0x80000017⟩ := by
  have full : movedPart.tlbOf 1024 = fullTlb := by
    obtain ⟨m, c, q, x, e⟩ := State.gwrite_home_cases (s := movingPart) (core := 1024) (pa := 0x20008) (far := 0)
        (wt := false)
      (obj := false) (bs := leBytes 8 0x80000017) (by decide +kernel)
    rw [movedPart, e]
    rfl
  rw [State.known_of_full full, movedPart_walk]

/-- The part once both lanes have stored: the second where the first has moved its page. -/
def storedPart : State := movedPart.gwrite 1024 false false 0x80000000 (leBytes 8 0x80000017) false 0

theorem movingPart_writes : movingPart.writeLanes movingGroup false .nocache
    (movingAccesses.map fun a => (a, readReg movingGroup movingGroup.issued movingStore.t.wide movingStore.d.toNat
        a.lane)) =
      storedPart := by
  have values : movingAccesses.map (fun a =>
      (a, readReg movingGroup movingGroup.issued movingStore.t.wide movingStore.d.toNat a.lane)) =
      [(⟨0, 0x20008, 8⟩, 0x80000017), (⟨1, 0x40000000, 8⟩, 0x80000017)] := by decide +kernel
  have first : movingPart.writeAt movingGroup false .nocache false ⟨0, 0x20008, 8⟩ 0x80000017 = movedPart := by
    have at_ : movingPart.physOf movingGroup.core 0x20008 = (0x20008, 0x17) := by
      rw [State.physOf, show movingGroup.core = 1024 from rfl, movingPart_known.1]
      decide +kernel
    rw [State.writeAt, if_neg Bool.false_ne_true]
    dsimp only
    rw [at_]
    rfl
  have second : movedPart.writeAt movingGroup false .nocache false ⟨1, 0x40000000, 8⟩ 0x80000017 = storedPart := by
    have at_ : movedPart.physOf movingGroup.core 0x40000000 = (0x80000000, 0x80000017) := by
      rw [State.physOf, show movingGroup.core = 1024 from rfl, movedPart_known]
      decide +kernel
    rw [State.writeAt, if_neg Bool.false_ne_true]
    dsimp only
    rw [at_]
    rfl
  rw [values, State.writeLanes, List.foldl_cons, first, List.foldl_cons, second, List.foldl_nil]

theorem movingPart_checks : movingPart.checkGlobal movingGroup.core .write movingAccesses = none := by
  obtain ⟨first, second⟩ := movingPart_known
  have reach₁ : movingPart.reach 1024 0x20008 .write = .at_ 0x20008 0x17 := by
    rw [State.reach, first]
    decide +kernel
  have reach₂ : movingPart.reach 1024 0x40000000 .write = .at_ 0x40000000 0x40000017 := by
    rw [State.reach, second]
    decide +kernel
  simp [State.checkGlobal, movingAccesses, show movingGroup.core = 1024 from rfl, reach₁, reach₂]

theorem storedPart_far : storedPart.memGet 0x80000000 = 0x17 := by decide +kernel

theorem State.l1Heal_mem (s : State) (core : Nat) (written : List Nat) : (s.l1Heal core written).mem = s.mem := by
  unfold State.l1Heal
  split <;> rfl

theorem State.addAcks_mem (s : State) (g : Group) (l : List Access) (chans : List (Nat × Nat)) :
    (s.addAcks g l chans).mem = s.mem := rfl

theorem issued_mem (i : Instr) (h : Head) (s : State) (g : Group) (l : Launch) (hdr j : Nat) (hw : Word) (s' : State) :
    (issued i h s g l hdr j hw s').mem = s'.mem := rfl

/-- What follows a store that has written leaves memory. -/
theorem stored_mem (i : Instr) (h : Head) (s s1 : State) (g : Group) (l : Launch) (hdr j : Nat) (hw : Word)
    (whole healed : List Nat) (acc : List Access) (chans : List (Nat × Nat)) :
    (issued i h s g l hdr j hw
      ((((s1.clearCovered whole).l1Heal g.core healed).addAcks g acc chans).onGroup g.id fun x => x.raise 0)).mem =
          s1.mem := by
  rw [issued_mem, State.onGroup_mem, State.addAcks_mem, State.l1Heal_mem]
  rfl

/-- The store completes, and its second lane has written at 80000000. -/
theorem movingStore_moves : ∃ t, exec (.st movingStore) movingPart = .next t ∧ t.memGet 0x80000000 = 0x17 := by
  obtain ⟨stores, -⟩ := plainStoresComplete movingPart movingGroup probeLaunch probeBase 0 movingHeader rfl
  have run := stores movingStore _ rfl movingPart_acts
  rw [movingGroup_accesses] at run
  have run := (run movingPart_checks).2 (List.cons_ne_nil _ _)
  rw [show movingStore.pol = .nocache from rfl, movingPart_writes] at run
  exact ⟨_, run, (congrArg (fun m => Sparse.get Config.emptyByte m 0x80000000) (stored_mem ..)).trans storedPart_far⟩

/-- Where the lanes store, as the addresses are translated before the store. -/
theorem movingPart_places : ∀ x ∈ movingGroup.executing movingStore.h,
    (movingPart.physOf movingGroup.core (plainAddr movingGroup movingGroup.issued ⟨2, some (4, 0), .ofs 0⟩
      (Ty_bytes movingStore.t) x)).1 + Ty_bytes movingStore.t ≤ 0x80000000 := by
  have lanes : movingGroup.executing movingStore.h = [0, 1] := by decide +kernel
  have addrs : plainAddr movingGroup movingGroup.issued ⟨2, some (4, 0), .ofs 0⟩ (Ty_bytes movingStore.t) 0 = 0x20008 ∧
      plainAddr movingGroup movingGroup.issued ⟨2, some (4, 0), .ofs 0⟩ (Ty_bytes movingStore.t) 1 = 0x40000000 := by
    decide +kernel
  obtain ⟨addr₀, addr₁⟩ := addrs
  obtain ⟨known₀, known₁⟩ := movingPart_known
  intro x hx
  rw [lanes, List.mem_cons, List.mem_singleton] at hx
  obtain rfl | rfl := hx
  · rw [addr₀, State.physOf, show movingGroup.core = 1024 from rfl, known₀]
    decide +kernel
  · rw [addr₁, State.physOf, show movingGroup.core = 1024 from rfl, known₁]
    decide +kernel

theorem movingPart_far : movingPart.memGet 0x80000000 = 0 ∧ movingPart.l1Get 1024 0x80000000 = 0 := by decide +kernel

/-- Refutes O25: the unit under whose number the group's core translates is a tower's, and its TLB is full, so that
each access walks as it is made. The first lane stores over the table entry of the second lane's page, and the second
lane then stores at 80000000, where no lane's address led before the store. -/
theorem not_accessFrames : ¬ Obligations.AccessFrames := by
  rintro ⟨frame, -⟩
  obtain ⟨t, run, far⟩ := movingStore_moves
  obtain ⟨kept, -⟩ := frame movingStore _ movingPart t movingGroup probeLaunch probeBase 0 movingHeader
      movingPart_safe rfl rfl
    (by decide +kernel) run
  obtain ⟨mem, -⟩ := kept 0x80000000 fun x hx => Or.inr (movingPart_places x hx)
  obtain ⟨before, seen⟩ := movingPart_far
  rw [far, before, show movingGroup.core = 1024 from rfl, seen] at mem
  revert mem
  decide

end Sys2Proof.Machine
end

section
/-! PROOFS. Canonical form is kept (O58): what the part does with its own state, and how an instruction issues.
For each function of the model that gives a state, `f_sound` says that it is sound just when the state before it is,
where `f` leaves memory and the L1s alone, and else that it is sound when the state before it is. -/

namespace Sys2Proof.Machine

/-- Memory and the L1s in canonical form. -/
def Canonical (m : List Host.Cell) (c : Sparse (Sparse (Option Cached))) : Prop :=
  Memory.wf m = true ∧ Sparse.wf [] c = true ∧ c.all (fun x => Sparse.wf none x.2) = true

/-- `Safe`, as a predicate of the state that `simp` does not open. -/
def State.Sound (s : State) : Prop := Canonical s.mem s.l1

@[simp] theorem canonical_iff_sound (s : State) : Canonical s.mem s.l1 ↔ s.Sound := ⟨id, id⟩

/-- A state with other fields is sound by its memory and its L1s. -/
@[simp] theorem State.mk_sound {agenda cur free nextOp power clock mem poison l1 sectors tlb troot partNum pods groups
    launches ops nextAge podsOut coresOut toRetire lasting spares coreIssue podMap qps regions nextRegion seq held
    sent mgmt journal ptp hbm stations toPeers owed throttled} : State.Sound
    ⟨agenda, cur, free, nextOp, power, clock, mem, poison, l1, sectors, tlb, troot, partNum, pods, groups, launches,
    ops, nextAge, podsOut, coresOut, toRetire, lasting, spares, coreIssue, podMap, qps, regions, nextRegion, seq,
    held, sent, mgmt, journal, ptp, hbm, stations, toPeers, owed, throttled⟩ ↔ Canonical mem l1 := ⟨id, id⟩

theorem State.sound_iff (s : State) : s.Sound ↔ Safe s := Iff.rfl

/-- What an instruction comes to leaves a sound state. -/
def Eff.Sound : Eff → Prop
  | .go t _ _ => t.Sound
  | .trapIn t _ _ => t.Sound
  | _ => True

@[simp] theorem Eff.go_sound (t : State) (c : Ctl) (vals : Sparse Lane) : (Eff.go t c vals).Sound ↔ t.Sound := Iff.rfl

@[simp] theorem Eff.trapIn_sound (t : State) (c : Nat) (tv : Word) : (Eff.trapIn t c tv).Sound ↔ t.Sound := Iff.rfl

@[simp] theorem Eff.trap_sound (c : Nat) (tv : Word) : (Eff.trap c tv).Sound := trivial

@[simp] theorem Eff.report_sound (d : Deferred) : (Eff.report d).Sound := trivial

@[simp] theorem Eff.wait_sound (w : Wait) : (Eff.wait w).Sound := trivial

/-- An instruction of a sound state leaves one. -/
def Body.Sound (b : Body) : Prop := ∀ s g l, s.Sound → (b s g l).Sound

/-- A fold of steps that leave memory and the L1s alone. -/
@[simp] theorem foldl_sound {α : Type} {f : State → α → State} (step : ∀ t x, (f t x).Sound ↔ t.Sound) (l : List α)
    (s : State) : (l.foldl f s).Sound ↔ s.Sound := by
  induction l generalizing s with
  | nil => rfl
  | cons x l ih => rw [List.foldl_cons, ih, step]

/-- A fold of steps that keep a state sound. -/
theorem foldl_keeps_sound {α : Type} {f : State → α → State} {l : List α}
    (step : ∀ t, t.Sound → ∀ x ∈ l, (f t x).Sound) {s : State} (h : s.Sound) : (l.foldl f s).Sound :=
  List.foldlRecOn (motive := State.Sound) _ _ h step

@[simp] theorem State.memWrite_sound (s : State) (pa : Nat) (l : List Byte) (h : s.Sound) : (s.memWrite pa l).Sound :=
    State.memWrite_safe l s pa h

@[simp] theorem State.l1Put_sound (s : State) (core pa : Nat) (c : Option Cached) (h : s.Sound) :
    (s.l1Put core pa c).Sound := s.l1Put_safe core pa c h

@[simp] theorem State.l1Fill_sound (s : State) (core : Nat) (obj : Bool) (l : List Nat) (h : s.Sound) :
    (s.l1Fill core obj l).Sound := State.l1Fill_safe core obj l s h

@[simp] theorem State.l1Write_sound (s : State) (core pa : Nat) (obj : Bool) (l : List Byte) (h : s.Sound) :
    (s.l1Write core pa obj l).Sound := State.l1Write_safe core obj l s pa h

@[simp] theorem State.writeBack_sound (s : State) (core : Nat) (p : Nat → Bool) (h : s.Sound) :
    (s.writeBack core p).Sound := s.writeBack_safe core p h

@[simp] theorem State.dropClean_sound (s : State) (core : Nat) (p : Nat → Bool) (h : s.Sound) :
    (s.dropClean core p).Sound := s.dropClean_safe core p h

@[simp] theorem State.release_sound (s : State) (core : Nat) (h : s.Sound) : (s.release core).Sound := s.release_safe
    core h

@[simp] theorem State.acquire_sound (s : State) (core : Nat) (h : s.Sound) : (s.acquire core).Sound := s.acquire_safe
    core h

@[simp] theorem State.fitL1_sound (s : State) (core : Nat) (h : s.Sound) : (s.fitL1 core).Sound := s.fitL1_safe core h

@[simp] theorem State.renumber_sound (s : State) (n : Nat) (h : s.Sound) : (s.renumber n).Sound := s.renumber_safe n h

@[simp] theorem State.advance_sound (s : State) (t : Nat) : (s.advance t).Sound ↔ s.Sound := by
  unfold State.advance
  split <;> simp

/-- Cells that are changed where they stand, and are still cells, are in canonical form. -/
theorem wf_map_cells {m : Sparse (Option Cached)} (p : Nat × Option Cached → Bool)
    (f : Nat × Option Cached → Option Cached) (some_ : ∀ c, f c = none → c.2 = none) (wf : Sparse.wf none m = true) :
    Sparse.wf none (m.map fun c => if p c then (c.1, f c) else c) = true := by
  have e : (fun c : Nat × Option Cached => if p c then (c.1, f c) else c) = fun c => (c.1, if p c then f c else c.2)
      := by
    funext c
    split <;> rfl
  rw [e]
  refine Sparse.wf_map none (fun c => if p c then f c else c.2) (fun c hc => ?_) _ wf
  split
  · exact fun h => hc (some_ c h)
  · exact hc

theorem ite_sound {c : Prop} [Decidable c] {a b : State} (ha : a.Sound) (hb : b.Sound) : (if c then a else b).Sound :=
    by
  split
  · exact ha
  · exact hb

theorem sound_of_eq {α : Type} {p : State × α} {t : State} {x : α} (e : p = (t, x)) (h : p.1.Sound) : t.Sound := by
  rw [e] at h
  exact h

theorem sound_iff_of_eq {α : Type} {p : State × α} {s t : State} {x : α} (e : p = (t, x)) (h : p.1.Sound ↔ s.Sound) :
    t.Sound ↔ s.Sound := by
  rw [e] at h
  exact h

@[simp] theorem getD_map_sound {α : Type} {f : α → State} {s : State} (hf : ∀ x, (f x).Sound ↔ s.Sound)
    (o : Option α) : ((o.map f).getD s).Sound ↔ s.Sound := by
  cases o with
  | none => rfl
  | some x => exact hf x

theorem sound_of_map {o : Option State} {f : State → State} {t : State} (e : o.map f = some t)
    (ho : ∀ u, o = some u → u.Sound) (hf : ∀ u, u.Sound → (f u).Sound) : t.Sound := by
  obtain ⟨u, hu, rfl⟩ := Option.map_eq_some_iff.1 e
  exact hf u (ho u hu)

@[simp] theorem State.setGroup_sound (s : State) (g : Group) : (s.setGroup g).Sound ↔ s.Sound := ⟨id, id⟩

@[simp] theorem State.onGroup_sound (s : State) (g : GroupId) (f : Group → Group) : (s.onGroup g f).Sound ↔ s.Sound :=
    ⟨id, id⟩

@[simp] theorem State.dropGroup_sound (s : State) (g : GroupId) : (s.dropGroup g).Sound ↔ s.Sound := ⟨id, id⟩

@[simp] theorem State.onLaunch_sound (s : State) (lid : Nat) (f : Launch → Launch) : (s.onLaunch lid f).Sound ↔
    s.Sound := ⟨id, id⟩

@[simp] theorem State.onTeam_sound (s : State) (lid t : Nat) (f : Team → Team) : (s.onTeam lid t f).Sound ↔ s.Sound :=
    ⟨id, id⟩

@[simp] theorem State.onPod_sound (s : State) (p : Nat) (f : Pod → Pod) : (s.onPod p f).Sound ↔ s.Sound := ⟨id, id⟩

@[simp] theorem State.setTile_sound (s : State) (p t : Nat) (x : Tile) : (s.setTile p t x).Sound ↔ s.Sound := ⟨id, id⟩

@[simp] theorem State.onOp_sound (s : State) (n : Nat) (f : Op → Op) : (s.onOp n f).Sound ↔ s.Sound := ⟨id, id⟩

@[simp] theorem State.dropOp_sound (s : State) (n : Nat) : (s.dropOp n).Sound ↔ s.Sound := ⟨id, id⟩

@[simp] theorem State.onObject_sound (s : State) (lid addr : Nat) (f : Obj → Obj) : (s.onObject lid addr f).Sound ↔
    s.Sound := ⟨id, id⟩

/-! ### Ops -/

@[simp] theorem State.finishOp_sound (s : State) (n : Nat) (fail : Option Failure) (fl : Flags) :
    (s.finishOp n fail fl).Sound ↔ s.Sound := by
  unfold State.finishOp
  repeat' split
  all_goals simp

@[simp] theorem State.onSector_sound (s : State) (k : Nat) (f : Sector → Sector) : (s.onSector k f).Sound ↔ s.Sound :=
    ⟨id, id⟩

@[simp] theorem State.onSectors_sound (s : State) (p : Nat → Bool) (f : Nat → Sector → Sector) :
    (s.onSectors p f).Sound ↔ s.Sound := ⟨id, id⟩

@[simp] theorem State.fitMsc_sound (s : State) (k : Nat) : (s.fitMsc k).Sound ↔ s.Sound := by
  unfold State.fitMsc
  dsimp only
  repeat' split
  all_goals simp

@[simp] theorem State.fitL2_sound (s : State) (k : Nat) : (s.fitL2 k).Sound ↔ s.Sound := by
  unfold State.fitL2
  dsimp only
  repeat' split
  all_goals simp

@[simp] theorem State.reachSector_sound (s : State) (far : Nat) (obj write : Bool) (k : Nat) :
    (s.reachSector far obj write k).Sound ↔ s.Sound := by simp [State.reachSector]

@[simp] theorem State.touch_sound (s : State) (pas : List Nat) (obj write : Bool) (far : Nat) :
    (s.touch pas obj write far).Sound ↔ s.Sound := by simp [State.touch]

@[simp] theorem State.clearPoison_sound (s : State) (pa len : Nat) : (s.clearPoison pa len).Sound ↔ s.Sound := ⟨id, id⟩

@[simp] theorem State.l1Heal_sound (s : State) (core : Nat) (written : List Nat) (h : s.Sound) :
    (s.l1Heal core written).Sound := by
  unfold State.l1Heal
  split
  · refine s.setL1_safe core _ ?_ h
    exact wf_map_cells (fun c => (State.span (c.1 / 8 * 8) 8).all written.contains)
      (fun c => c.2.map fun x => { x with bad := false }) (fun c => Option.map_eq_none_iff.1) (s.l1Of_wf core h)
  · exact h

@[simp] theorem State.deliver_sound (s : State) (m : Msg) : (s.deliver m).Sound ↔ s.Sound := by
  unfold State.deliver
  split <;> simp

@[simp] theorem State.post_sound (s : State) (qp : Option Nat) (kind status lid : Nat) (arg : Word)
    (detail : BitVec 256) : (s.post qp kind status lid arg detail).Sound ↔ s.Sound := by simp [State.post]

@[simp] theorem State.postSegment_sound (s : State) (n : Nat) : (s.postSegment n).Sound ↔ s.Sound := by
  unfold State.postSegment
  split <;> simp

@[simp] theorem State.journalEntry_sound (s : State) (x : Noted) (count : Nat) : (s.journalEntry x count).Sound ↔
    s.Sound := by
  unfold State.journalEntry
  dsimp only
  split <;> simp

@[simp] theorem State.journalAdd_sound (s : State) (kind detail src unit : Nat) (loc : Word) :
    (s.journalAdd kind detail src unit loc).Sound ↔ s.Sound := by
  unfold State.journalAdd
  dsimp only
  repeat' split
  all_goals simp

@[simp] theorem State.enterWaiting_sound (l : List Noted) : ∀ s : State, (s.enterWaiting l).Sound ↔ s.Sound := by
  induction l with
  | nil => exact fun s => Iff.rfl
  | cons x l ih =>
    intro s
    unfold State.enterWaiting
    split <;> simp [ih]

@[simp] theorem State.enterFolded_sound (l : List (Noted × Nat)) : ∀ s : State, (s.enterFolded l).Sound ↔ s.Sound := by
  induction l with
  | nil => exact fun s => Iff.rfl
  | cons x l ih =>
    intro s
    unfold State.enterFolded
    split <;> simp [ih]

@[simp] theorem State.journalBad_sound (s : State) (pa : Nat) (obj : Bool) : (s.journalBad pa obj).Sound ↔
    s.Sound := by simp [State.journalBad]

@[simp] theorem State.journalSpan_sound (s : State) (pa len : Nat) (obj : Bool) : (s.journalSpan pa len obj).Sound ↔
    s.Sound := by simp [State.journalSpan]

@[simp] theorem State.journalPeer_sound (s : State) (pa : Nat) : (s.journalPeer pa).Sound ↔ s.Sound := by
  simp [State.journalPeer]

@[simp] theorem State.failMma_sound (s : State) (a : Arrived) (f : Failure) : (s.failMma a f).Sound ↔ s.Sound := by
  simp [State.failMma]

@[simp] theorem State.handTile_sound (s : State) (pod t : Nat) : (s.handTile pod t).Sound ↔ s.Sound := by
  unfold State.handTile
  dsimp only
  repeat' split
  all_goals simp

@[simp] theorem State.handTiles_sound (s : State) (pod : Nat) : (s.handTiles pod).Sound ↔ s.Sound := by
  simp [State.handTiles]

@[simp] theorem State.withdrawLatch_sound (s : State) (l : Latch) (cause : Nat) : (s.withdrawLatch l cause).Sound ↔
    s.Sound := by
  unfold State.withdrawLatch
  dsimp only
  split <;> simp

@[simp] theorem State.breakGangs_sound (s : State) (gid : GroupId) : (s.breakGangs gid).Sound ↔ s.Sound := by
  unfold State.breakGangs
  split <;> simp

@[simp] theorem State.partnerGone_sound (s : State) (gid : GroupId) : (s.partnerGone gid).Sound ↔ s.Sound := by
  unfold State.partnerGone
  split <;> simp

@[simp] theorem State.stopNow_sound (s : State) (g : Group) : (s.stopNow g).Sound ↔ s.Sound := by simp [State.stopNow]

@[simp] theorem State.stopGroups_sound (s : State) (p : GroupId → Bool) : (s.stopGroups p).Sound ↔ s.Sound := ⟨id, id⟩

@[simp] theorem State.abortLaunch_sound (s : State) (lid : Nat) (cancelled : Bool) :
    (s.abortLaunch lid cancelled).Sound ↔ s.Sound := ⟨id, id⟩

@[simp] theorem State.faultTeam_sound (s : State) (lid t : Nat) : (s.faultTeam lid t).Sound ↔ s.Sound := by
  unfold State.faultTeam
  repeat' split
  all_goals simp

@[simp] theorem State.closeObject_sound (s : State) (lid obj : Nat) : (s.closeObject lid obj).Sound ↔ s.Sound := by
  unfold State.closeObject
  split <;> simp

@[simp] theorem State.haltWave_sound (s : State) (lid obj : Nat) (r : FaultRec) : (s.haltWave lid obj r).Sound ↔
    s.Sound := by
  unfold State.haltWave
  dsimp only
  repeat' split
  all_goals simp

@[simp] theorem State.haltGroup_sound (s : State) (gid : GroupId) (reason cause : Nat) (deferred : Bool)
    (epc tval : Word) (engine : Bool) : (s.haltGroup gid reason cause deferred epc tval engine).Sound ↔ s.Sound := by
  unfold State.haltGroup
  repeat' split
  all_goals simp

@[simp] theorem State.takeTrap_sound (s : State) (gid : GroupId) (cause : Nat) (epc tval : Word) (resume : Pos)
    (late : Option LaneWork) : (s.takeTrap gid cause epc tval resume late).Sound ↔ s.Sound := by
  unfold State.takeTrap
  repeat' split
  all_goals simp

/-! ### Translate -/

@[simp] theorem State.tlbPut_sound (s : State) (u : Nat) (t : Tlb) : (s.tlbPut u t).Sound ↔ s.Sound := ⟨id, id⟩

@[simp] theorem State.fillTlb_sound (s : State) (u : Nat) (t : Tlb) : (s.fillTlb u t).Sound ↔ s.Sound := by
  unfold State.fillTlb
  split <;> simp

@[simp] theorem State.dropTlb_sound (s : State) (p : Tlb → Bool) : (s.dropTlb p).Sound ↔ s.Sound := ⟨id, id⟩

@[simp] theorem State.noteWalk_sound (s : State) (va : Nat) : (s.noteWalk va).Sound ↔ s.Sound := by
  unfold State.noteWalk
  repeat' split
  all_goals simp

@[simp] theorem State.drawn_sound (s : State) : s.drawn.Sound ↔ s.Sound := ⟨id, id⟩

@[simp] theorem State.l1Copy_sound (core : Nat) (bs : List Byte) : ∀ (s : State) (pa : Nat), s.Sound →
    (s.l1Copy core pa bs).Sound := by
  induction bs with
  | nil => exact fun _ _ h => h
  | cons b t ih => exact fun s pa h => ih _ _ (s.l1Put_sound core pa _ h)

@[simp] theorem State.l1Keep_sound (s : State) (core pa : Nat) (bs : List Byte) (h : s.Sound) :
    (s.l1Keep core pa bs).Sound := by simp [State.l1Keep, h]

@[simp] theorem State.flushSectors_sound (s : State) (core pa len : Nat) (h : s.Sound) :
    (s.flushSectors core pa len).Sound := by simp [State.flushSectors, h]

@[simp] theorem State.peerRead_sound (s : State) (core : Nat) (l1 : Bool) (pa len : Nat) (h : s.Sound) :
    (s.peerRead core l1 pa len).1.Sound := by
  unfold State.peerRead
  repeat' split
  all_goals simp [h]

@[simp] theorem State.gread_sound (s : State) (core : Nat) (l1 : Bool) (pa len : Nat) (obj : Bool) (far : Nat)
    (h : s.Sound) : (s.gread core l1 pa len obj far).1.Sound := by
  unfold State.gread
  dsimp only
  repeat' split
  all_goals simp [h]

@[simp] theorem State.gwrite_sound (s : State) (core : Nat) (l1 wt : Bool) (pa : Nat) (bs : List Byte) (obj : Bool)
    (far : Nat) (h : s.Sound) : (s.gwrite core l1 wt pa bs obj far).Sound := by
  unfold State.gwrite
  dsimp only
  split
  · split <;> simp [h]
  · split
    · refine State.fitL1_sound _ _ ?_
      split <;> simp [h]
    · simp [h]

@[simp] theorem State.clearCovered_sound (s : State) (written : List Nat) : (s.clearCovered written).Sound ↔
    s.Sound := ⟨id, id⟩

@[simp] theorem State.homeWrite_sound (s : State) (pa : Nat) (bs : List Byte) (obj : Bool) (h : s.Sound) :
    (s.homeWrite pa bs obj).Sound := by simp [State.homeWrite, h]

@[simp] theorem State.atomicAt_sound (s : State) (pa : Nat) (op : AtomOp) (v v2 : Nat) (obj : Bool) (h : s.Sound) :
    (s.atomicAt pa op v v2 obj).1.Sound := by
  unfold State.atomicAt
  split <;> simp [h]

@[simp] theorem State.healLocal_sound (s : State) (g : GroupId) (written : List Nat) : (s.healLocal g written).Sound ↔
    s.Sound := ⟨id, id⟩

@[simp] theorem State.setLocalByte_sound (s : State) (g : GroupId) (w : Local) (b : Byte) :
    (s.setLocalByte g w b).Sound ↔ s.Sound := by
  unfold State.setLocalByte
  split <;> simp

@[simp] theorem State.localWrite_sound (g : GroupId) (bs : List Byte) : ∀ (s : State) (w : Local),
    (s.localWrite g w bs).Sound ↔ s.Sound := by
  induction bs with
  | nil => exact fun _ _ => Iff.rfl
  | cons b t ih => exact fun s w => (ih _ _).trans (s.setLocalByte_sound g w b)

/-! ### Runner -/

theorem State.runnerRead_sound {s t : State} {l : Launch} {g : Group} {lane slot k : Nat} {v : Lane}
    (e : s.runnerRead l g lane slot k = some (v, t)) : t.Sound ↔ s.Sound := by
  unfold State.runnerRead at e
  dsimp only at e
  split at e
  · obtain ⟨-, rfl⟩ := Prod.mk.inj (Option.some.inj e)
    rfl
  · obtain ⟨x, -, e⟩ := Option.map_eq_some_iff.1 e
    obtain ⟨-, rfl⟩ := Prod.mk.inj e
    split <;> rfl

theorem State.publish_sound {s t : State} {l : Launch} {g : Group} {lane slot : Nat} {v : Lane}
    (e : s.publish l g lane slot v = .ok t) : t.Sound ↔ s.Sound := by
  unfold State.publish at e
  dsimp only at e
  repeat' split at e
  all_goals
    cases e
    try rfl

theorem State.sendFinal_sound {s t : State} {lid : Nat} {gid : GroupId} {must : Bool} {x : Nat × Nat}
    (e : s.sendFinal lid gid must x = .ok t) : t.Sound ↔ s.Sound := by
  unfold State.sendFinal at e
  dsimp only at e
  repeat' split at e
  all_goals
    cases e
    try rfl

@[simp] theorem State.itemsOut_sound (s : State) (g : Group) (lanes : List Nat) : (s.itemsOut g lanes).Sound ↔
    s.Sound := ⟨id, id⟩

theorem State.retireLanes_sound {gid : GroupId} {lanes : List Nat} {s t : State}
    (e : s.retireLanes gid lanes = .ok t) : t.Sound ↔ s.Sound := by
  have finals (l : Launch) (g : Group) (xs : List (Nat × Nat)) : ∀ {s t : State},
      xs.foldlM (fun s x => State.sendFinal s l.lid gid g.spillOk x) s = .ok t → (t.Sound ↔ s.Sound) := by
    induction xs with
    | nil => rintro s t ⟨⟩; rfl
    | cons x xs ih =>
      intro s t e
      rw [List.foldlM_cons] at e
      cases sent : s.sendFinal l.lid gid g.spillOk x with
      | error _ => rw [sent] at e; cases e
      | ok u => rw [sent] at e; exact (ih e).trans (State.sendFinal_sound sent)
  unfold State.retireLanes at e
  split at e
  · split at e
    · cases e; rfl
    · rename_i l g _ _ _
      cases sent : (finalsOf l g lanes).foldlM (fun s x => State.sendFinal s l.lid gid g.spillOk x) s with
      | error _ => rw [sent] at e; cases e
      | ok u => rw [sent] at e; cases e; exact (State.itemsOut_sound _ _ _).trans (finals l g _ sent)
  · cases e; rfl

@[simp] theorem State.discardLanes_sound (s : State) (gid : GroupId) (lanes : List Nat) :
    (s.discardLanes gid lanes).Sound ↔ s.Sound := by
  unfold State.discardLanes
  split
  · split
    · rfl
    · refine (State.itemsOut_sound _ _ _).trans (foldl_sound (fun t x => ?_) _ _)
      split
      · exact State.sendFinal_sound (by assumption)
      · rfl
  · rfl

/-! ### Issue -/

@[simp] theorem Eff.group_sound (s : State) (g : Group) (c : Ctl) : (Eff.group s g c).Sound ↔ s.Sound := ⟨id, id⟩

@[simp] theorem State.takeDeferred_sound (s : State) (g : Group) (d : Deferred) (resume : Pos) :
    (s.takeDeferred g d resume).Sound ↔ s.Sound := by simp [State.takeDeferred]

@[simp] theorem State.follow_sound (s : State) (gid : GroupId) (hdr j : Nat) (hw : Word) (len : Nat) (ctl : Ctl) :
    (s.follow gid hdr j hw len ctl).Sound ↔ s.Sound := by
  unfold State.follow
  split <;> simp

@[simp] theorem State.noteIssue_sound (s : State) (core : Nat) : (s.noteIssue core).Sound ↔ s.Sound := ⟨id, id⟩

theorem State.settle_sound (s : State) (g : Group) (h : Head) (u : Uses) (wrote : Mask) (hdr j : Nat) (hw : Word)
    (len : Nat) {e : Eff} (he : e.Sound) (hs : s.Sound) : (s.settle g h u wrote hdr j hw len e).Sound := by
  unfold State.settle
  cases e with
  | go t c vals => simpa using he
  | trapIn t c v => simpa using he
  | trap c v => simpa using hs
  | report d => simpa using hs
  | wait w => simpa using hs

theorem issueAt_sound (i : Instr) (h : Head) {body : Body} (hb : body.Sound) (s : State) (g : Group) (l : Launch)
    (hdr j : Nat) (hw : Word) (hs : s.Sound) : (issueAt i h body s g l hdr j hw).Sound := by
  unfold issueAt
  dsimp only
  split
  · simp [hs]
  split
  · simp [hs]
  split
  · simp [hs]
  split
  · simp [hs]
  split
  · simp [hs]
  split
  · simp [hs]
  split
  · simp [hs]
  · exact State.settle_sound _ _ _ _ _ _ _ _ _ (hb _ _ _ ((s.advance_sound _).2 hs)) ((s.advance_sound _).2 hs)

theorem issue_sound (i : Instr) (h : Head) {body : Body} (hb : body.Sound) (s : State) (hs : s.Sound) :
    (issue i h body s).Sound := by
  unfold issue
  split
  · exact hs
  split
  · split
    · exact issueAt_sound i h hb s _ _ _ _ _ hs
    · exact hs
  · exact hs

/-- The part as some lanes of an instruction leave it. -/
def LanesSound (a : Except PubStop LaneRun) : Prop := ∀ r, a = .ok r → r.s.Sound

theorem runLane_sound (l : Launch) (g : Group) (h : Head) (u : Uses) (f : LaneFn) {a : Except PubStop LaneRun}
    (lane : Nat) (ha : LanesSound a) : LanesSound (runLane l g h u f a lane) := by
  intro r e
  unfold runLane at e
  split at e
  · cases e
  rename_i r₀
  have h₀ := ha r₀ rfl
  split at e
  · cases e; exact h₀
  split at e
  · cases e; exact h₀
  dsimp only at e
  split at e
  · cases e; exact h₀
  rename_i v t read
  have ht : t.Sound := by
    split at read
    · cases read; exact h₀
    · split at read
      · split at read
        · cases read
        · exact (State.runnerRead_sound read).2 h₀
      · cases read
  split at e
  · cases e; exact ht
  split at e
  · cases e
  · cases e; exact (State.publish_sound (by assumption)).2 ht

@[simp] theorem runnerLanes_sound (i : Instr) (h : Head) (u : Uses) (f : LaneFn) (addr : Addr) (s : State) (g : Group)
    (l : Launch) (hs : s.Sound) : (runnerLanes i h u f addr s g l).Sound := by
  have lanes : LanesSound (g.emLanes.foldl (runLane l g h u f) (.ok ⟨s, [], []⟩)) :=
    List.foldlRecOn (motive := LanesSound) _ _ (fun r e => by cases e; exact hs) fun a ha x _ => runLane_sound l g h u
        f x ha
  unfold runnerLanes
  split
  · trivial
  split
  · trivial
  · trivial
  rename_i r run
  split
  · trivial
  · simpa using lanes r run

@[simp] theorem perLane_sound (i : Instr) (h : Head) (f : LaneFn) (s : State) (g : Group) (l : Launch)
    (hs : s.Sound) : (perLane i h f s g l).Sound := by
  unfold perLane
  dsimp only
  split
  · exact hs
  · exact runnerLanes_sound _ _ _ _ _ s g l hs

theorem skewed_sound (i : Instr) {b : Body} (hb : b.Sound) : (skewed i b).Sound := by
  intro s g l h
  have up := hb (s.setGroup { g with em := g.em &&& ~~~g.lagging }) { g with em := g.em &&& ~~~g.lagging } l h
  unfold skewed
  dsimp only
  split
  · exact hb s g l h
  · split
    · rename_i e; rw [e] at up; exact up
    · rename_i e; rw [e] at up; exact up
    · exact up

/-! ### Clause -/

theorem State.fetch_sound {s t : State} {core : Nat} {va : Addr} {w : Word} (e : s.fetch core va = .ok (t, w)) :
    t.Sound ↔ s.Sound := by
  unfold State.fetch at e
  repeat' split at e
  all_goals
    cases e
    try rfl

theorem State.fetchAll_sound {core n : Nat} : ∀ {s t : State} {va : Addr} {ws : List Word}, s.fetchAll core va n = .ok
    (t, ws) → (t.Sound ↔ s.Sound) := by
  induction n with
  | zero => rintro s t va ws ⟨⟩; rfl
  | succ n ih =>
    intro s t va ws e
    unfold State.fetchAll at e
    split at e
    · cases e
    · split at e
      · cases e
      · cases e
        exact (ih (by assumption)).trans (State.fetch_sound (by assumption))

@[simp] theorem State.fetchFails_sound (s : State) (g : Group) (hdr : Addr) (stop : FetchStop) :
    (s.fetchFails g hdr stop).Sound ↔ s.Sound := by
  unfold State.fetchFails
  repeat' split
  all_goals simp

theorem State.fetchSlot_sound {s t : State} {core hdr j : Nat} {hw : Word} {ws : List Word}
    (e : s.fetchSlot core hdr j hw = .ok (t, ws)) : t.Sound ↔ s.Sound := State.fetchAll_sound e

@[simp] theorem State.enterClause_sound (s : State) (g : Group) (l : Launch) (a : Addr) (hw : Word) (x : Header)
    (h : s.Sound) : (s.enterClause g l a hw x).Sound := by
  unfold State.enterClause
  dsimp only
  split
  · simp [h]
  split
  · simp [h]
  split
  · simp [h]
  split <;> simp [h]

@[simp] theorem State.enterHeader_sound (s : State) (g : Group) (l : Launch) (a : Addr) (xfer : Option Addr)
    (h : s.Sound) : (s.enterHeader g l a xfer).Sound := by
  unfold State.enterHeader
  dsimp only
  split
  · simp [h]
  split
  · simp [h]
  · rename_i t hw e
    have ht := (State.fetch_sound e).2 h
    split
    · simp [ht]
    split <;> simp [ht]

@[simp] theorem State.enterBack_sound (s : State) (g : Group) (hdr j : Nat) : (s.enterBack g hdr j).Sound ↔ s.Sound :=
    by
  unfold State.enterBack
  dsimp only
  split
  · simp
  · rename_i t hw e
    rw [← State.fetch_sound e]
    split
    · simp
    split <;> simp

@[simp] theorem State.enterAfter_sound (s : State) (g : Group) (hdr j : Nat) (xfer : Addr) :
    (s.enterAfter g hdr j xfer).Sound ↔ s.Sound := by
  unfold State.enterAfter
  split
  · simp
  · rename_i t hw e
    have ht := State.fetch_sound e
    split
    · simp [ht]
    dsimp only
    split <;> simp [ht]

@[simp] theorem State.clauseEntry_sound (s : State) (gid : GroupId) (h : s.Sound) : (s.clauseEntry gid).Sound := by
  unfold State.clauseEntry
  split
  · dsimp only
    repeat' split
    all_goals simp [h]
  · exact h

@[simp] theorem swapWith.begin_sound (o : VXswap) (s : State) (g : Group) (p : GroupId) (m : Mask)
    (vals : Sparse Lane) : (swapWith.begin_ o s g p m vals).Sound ↔ s.Sound := ⟨id, id⟩

end Sys2Proof.Machine
end

section
/-! PROOFS. Canonical form is kept (O58): what an instruction does for its group, and the copy engines. -/

namespace Sys2Proof.Machine

/-! ### LaneInstr -/

@[simp] theorem swapWith_sound (o : VXswap) (s : State) (g : Group) (l : Launch) (p : GroupId) (h : s.Sound) :
    (swapWith o s g l p).Sound := by
  unfold swapWith
  dsimp only
  split
  · split
    · split <;> simp [h]
    · simp [h]
  · split <;> simp [h]

@[simp] theorem xswapBody_sound (o : VXswap) (s : State) (g : Group) (l : Launch) (h : s.Sound) :
    (xswapBody o s g l).Sound := by
  unfold xswapBody
  dsimp only
  repeat' split
  all_goals simp [h]

/-! ### Scalar -/

@[simp] theorem groupBody_sound (f : State → Group → Group) (s : State) (g : Group) (l : Launch) (h : s.Sound) :
    (groupBody f s g l).Sound := by simp [groupBody, h]

@[simp] theorem getsBody_sound (o : SGets) (s : State) (g : Group) (l : Launch) (h : s.Sound) :
    (getsBody o s g l).Sound := by
  unfold getsBody
  split <;> simp [h]

@[simp] theorem plogBody_sound (o : SPlog) (s : State) (g : Group) (l : Launch) (h : s.Sound) :
    (plogBody o s g l).Sound := by
  unfold plogBody
  split <;> simp [h]

@[simp] theorem wgrowBody_sound (o : SWin) (s : State) (g : Group) (l : Launch) (h : s.Sound) :
    (wgrowBody o s g l).Sound := by
  unfold wgrowBody
  dsimp only
  repeat' split
  all_goals simp [h]

@[simp] theorem wshrinkBody_sound (o : SWin) (s : State) (g : Group) (l : Launch) (h : s.Sound) :
    (wshrinkBody o s g l).Sound := by
  unfold wshrinkBody
  dsimp only
  repeat' split
  all_goals simp [h]

/-! ### Control -/

@[simp] theorem brdBody_sound (o : CBrd) (s : State) (g : Group) (l : Launch) (h : s.Sound) :
    (brdBody o s g l).Sound := by
  unfold brdBody
  dsimp only
  repeat' split
  all_goals simp [h]

@[simp] theorem joinBody_sound (s : State) (g : Group) (l : Launch) (h : s.Sound) : (joinBody s g l).Sound := by
  unfold joinBody
  repeat' split
  all_goals simp [h]

@[simp] theorem State.answer_sound (s : State) (r : Request) (v : Lane) (status : Nat) : (s.answer r v status).Sound ↔
    s.Sound := ⟨id, id⟩

@[simp] theorem State.endWave_sound (s : State) (gid : GroupId) : (s.endWave gid).Sound ↔ s.Sound := by
  unfold State.endWave
  repeat' split
  all_goals simp

@[simp] theorem exitBody_sound (o : CExit) (s : State) (g : Group) (l : Launch) (h : s.Sound) :
    (exitBody o s g l).Sound := by
  unfold exitBody
  dsimp only
  split
  · split <;> trivial
  split
  · trivial
  split
  · trivial
  · simp [h]
  · rename_i r e
    have hr := (State.retireLanes_sound e).2 h
    repeat' split
    all_goals simp [hr]

@[simp] theorem braBody_sound (o : CBra) (s : State) (g : Group) (l : Launch) (h : s.Sound) :
    (braBody o s g l).Sound := by simp [braBody, h]

@[simp] theorem callBody_sound (o : CCall) (s : State) (g : Group) (l : Launch) (h : s.Sound) :
    (callBody o s g l).Sound := by simp [callBody, h]

@[simp] theorem retBody_sound (o : CRet) (s : State) (g : Group) (l : Launch) (h : s.Sound) :
    (retBody o s g l).Sound := by simp [retBody, h]

@[simp] theorem briBody_sound (o : CBri) (s : State) (g : Group) (l : Launch) (h : s.Sound) :
    (briBody o s g l).Sound := by simp [briBody, h]

@[simp] theorem loopBody_sound (o : CLoop) (s : State) (g : Group) (l : Launch) (h : s.Sound) :
    (loopBody o s g l).Sound := by simp [loopBody, h]

@[simp] theorem safeBody_sound (o : CSafe) (s : State) (g : Group) (l : Launch) (h : s.Sound) :
    (safeBody o s g l).Sound := by
  unfold safeBody
  repeat' split
  all_goals simp [h]

@[simp] theorem sigchkBody_sound (o : CSig) (s : State) (g : Group) (l : Launch) (h : s.Sound) :
    (sigchkBody o s g l).Sound := by
  unfold sigchkBody
  split <;> simp [h]

@[simp] theorem yieldBody_sound (s : State) (g : Group) (l : Launch) (h : s.Sound) : (yieldBody s g l).Sound := by
  simp [yieldBody, h]

/-! ### Mem -/

@[simp] theorem Refused.eff_sound (w : Word) (e : Refused) : (e.eff w).Sound := by
  cases e <;> trivial

@[simp] theorem State.readAt_sound (s : State) (g : Group) (loc : Bool) (pol : Pol) (rc : Bool) (a : Access)
    (h : s.Sound) : (s.readAt g loc pol rc a).1.Sound := by
  unfold State.readAt
  repeat' split
  all_goals simp [h]

@[simp] theorem State.readEach_sound (g : Group) (loc : Bool) (pol : Pol) (rc : Bool) (l : List Access) : ∀ s : State,
    s.Sound → (s.readEach g loc pol rc l).1.Sound := by
  induction l with
  | nil => exact fun _ h => h
  | cons a l ih =>
    intro s h
    have first := State.readAt_sound s g loc pol rc a h
    unfold State.readEach
    split
    · rename_i e; rw [e] at first; exact first
    · rename_i t bs e
      rw [e] at first
      have rest := ih t first
      split <;> (rename_i e; rw [e] at rest; exact rest)

@[simp] theorem State.readAll_sound (s : State) (g : Group) (loc : Bool) (pol : Pol) (rc : Bool) (l : List Access)
    (h : s.Sound) : (s.readAll g loc pol rc l).1.Sound := by
  unfold State.readAll
  dsimp only
  split <;> simp [h]

@[simp] theorem State.writeAt_sound (s : State) (g : Group) (loc : Bool) (pol : Pol) (rc : Bool) (a : Access)
    (x : Nat) (h : s.Sound) : (s.writeAt g loc pol rc a x).Sound := by
  unfold State.writeAt
  repeat' split
  all_goals simp [h]

@[simp] theorem State.addAcks_sound (s : State) (g : Group) (l : List Access) (chans : List (Nat × Nat)) :
    (s.addAcks g l chans).Sound ↔ s.Sound := ⟨id, id⟩

@[simp] theorem State.addPend_sound (s : State) (g : Group) (k : PendKind) (vregs scals : List Nat)
    (vals : Sparse Lane) (svals : Sparse Word) (fl : Flags) (fail : Option Failure) (chans : List (Nat × Nat))
    (peer : Option (Addr × Addr)) : (s.addPend g k vregs scals vals svals fl fail chans peer).Sound ↔ s.Sound :=
    ⟨id, id⟩

@[simp] theorem sendLoad_sound (s : State) (g : Group) (loc : Bool) (pol : Pol) (rc wide : Bool) (d : Nat)
    (l : List Access) {read : State × Except Nat (List (Access × Nat))} (outs : List Nat → List (Nat × Nat) × Flags)
    (h : read.1.Sound) : (sendLoad s g loc pol rc wide d l read outs).Sound := by
  unfold sendLoad
  dsimp only
  split <;> simpa using h

@[simp] theorem loadPlain_sound (loc : Bool) (h : Head) (t : Ty) (pol : Pol) (d : BitVec 8) (m : MPlain) (word : Word)
    (s : State) (g : Group) (l : Launch) (hs : s.Sound) : (loadPlain loc h t pol d m word s g l).Sound := by
  unfold loadPlain
  dsimp only
  repeat' split
  all_goals simp [hs]

@[simp] theorem State.writeLanes_sound (s : State) (g : Group) (loc : Bool) (pol : Pol) (l : List (Access × Nat))
    (h : s.Sound) : (s.writeLanes g loc pol l).Sound := foldl_keeps_sound
    (fun t ht x _ => t.writeAt_sound g loc pol false x.1 x.2 ht) h

@[simp] theorem afterStore_sound (s : State) {t : State} (g : Group) (loc : Bool) (pol : Pol) (rc : Bool)
    (l whole : List Access) (h : t.Sound) : (afterStore s t g loc pol rc l whole).Sound := by
  unfold afterStore
  dsimp only
  repeat' split
  all_goals simp [h]

@[simp] theorem performStore_sound (s : State) (g : Group) (loc : Bool) (pol : Pol) (l : List (Access × Nat))
    (fl : Flags) (h : s.Sound) : (performStore s g loc pol l fl).Sound := by simp [performStore, h]

@[simp] theorem storePlain_sound (loc : Bool) (h : Head) (t : Ty) (pol : Pol) (d : BitVec 8) (m : MPlain)
    (word : Word) (s : State) (g : Group) (l : Launch) (hs : s.Sound) :
    (storePlain loc h t pol d m word s g l).Sound := by
  unfold storePlain
  dsimp only
  repeat' split
  all_goals simp [hs]

@[simp] theorem loadRecord_sound (loc : Bool) (h : Head) (t : Ty) (pol : Pol) (d : BitVec 8) (lay sb : BitVec 6)
    (vx : BitVec 8) (word : Word) (s : State) (g : Group) (l : Launch) (hs : s.Sound) :
    (loadRecord loc h t pol d lay sb vx word s g l).Sound := by
  unfold loadRecord
  dsimp only
  repeat' split
  all_goals simp [hs]

@[simp] theorem recStoreLane_sound (g : Group) (loc : Bool) (pol : Pol) (s : State) (x : Access × Nat × Nat × Nat)
    (h : s.Sound) : (recStoreLane g loc pol s x).Sound := by
  unfold recStoreLane
  dsimp only
  split <;> simp [h]

@[simp] theorem storeRecord_sound (loc : Bool) (h : Head) (t : Ty) (pol : Pol) (d : BitVec 8) (lay sb : BitVec 6)
    (vx : BitVec 8) (word : Word) (s : State) (g : Group) (l : Launch) (hs : s.Sound) :
    (storeRecord loc h t pol d lay sb vx word s g l).Sound := by
  have stores (w : Nat) (parts : List (Access × Nat × Nat × Flags)) :
      (parts.foldl (fun s p => recStoreLane g loc pol s (p.1, p.2.1, w, p.2.2.1)) s).Sound :=
    foldl_keeps_sound (fun t ht x _ => recStoreLane_sound g loc pol t _ ht) hs
  unfold storeRecord
  dsimp only
  split
  · trivial
  split
  · simp
  split
  · trivial
  · exact (State.onGroup_sound ..).2 (afterStore_sound _ _ _ _ _ _ _
      (ite_sound ((State.drawn_sound _).2 (stores _ _)) (stores _ _)))

@[simp] theorem loadBody_sound (loc : Bool) (h : Head) (t : Ty) (pol : Pol) (d : BitVec 8) (addr : MAddr)
    (word : Word) (s : State) (g : Group) (l : Launch) (hs : s.Sound) :
    (loadBody loc h t pol d addr word s g l).Sound := by
  unfold loadBody
  split <;> simp [hs]

@[simp] theorem storeBody_sound (loc : Bool) (h : Head) (t : Ty) (pol : Pol) (d : BitVec 8) (a : MAddr) (word : Word)
    (s : State) (g : Group) (l : Launch) (hs : s.Sound) : (storeBody loc h t pol d a word s g l).Sound := by
  cases a <;> simp [storeBody, hs]

@[simp] theorem atomLane_sound (g : Group) (op : AtomOp) (loc : Bool) (d : Nat) (s : State) (a : Access)
    (h : s.Sound) : (atomLane g op loc d s a).1.Sound := by
  unfold atomLane
  dsimp only
  split
  · split <;> simp [h]
  split
  · simp [h]
  · have done := State.atomicAt_sound (s.flushSectors g.core (s.physOf g.core a.addr).1 a.len)
      (s.physOf g.core a.addr).1 op
      (atomOperands g op d a.lane).1 (atomOperands g op d a.lane).2 (pteObj (s.physOf g.core a.addr).2) (by simp [h])
    split <;> exact sound_of_eq (by assumption) done

@[simp] theorem atomLanes_sound (g : Group) (op : AtomOp) (loc : Bool) (d : Nat) (l : List Access) (s : State)
    (h : s.Sound) : (atomLanes g op loc d l s).1.Sound :=
  List.foldlRecOn (motive := fun a : State × List (Nat × Nat) => a.1.Sound) _ _ h fun a ha x _ =>
    atomLane_sound g op loc d a.1 x ha

@[simp] theorem atomFails_sound (g : Group) (loc : Bool) (l : List Access) : ∀ s : State, s.Sound →
    (atomFails s g loc l).1.Sound := by
  induction l with
  | nil => exact fun _ h => h
  | cons a l ih =>
    intro s h
    unfold atomFails
    dsimp only
    repeat' split
    all_goals simp [h, ih]

@[simp] theorem atomBody_sound (ret : Bool) (o : MAtom) (s : State) (g : Group) (l : Launch) (h : s.Sound) :
    (atomBody ret o s g l).Sound := by
  have fails (xs : List Access) := atomFails_sound g o.loc xs s h
  unfold atomBody
  dsimp only
  split
  · simp
  split
  · trivial
  split
  · exact h
  split
  · rename_i e
    simpa using sound_of_eq e (fails _)
  · rename_i e
    have done (xs : List Access) := atomLanes_sound g o.op o.loc o.d.toNat xs _ (sound_of_eq e (fails _))
    repeat' split
    all_goals simpa using done _

@[simp] theorem fenceBody_sound (o : MFence) (s : State) (g : Group) (l : Launch) (h : s.Sound) :
    (fenceBody o s g l).Sound := by
  unfold fenceBody
  dsimp only
  repeat' split
  all_goals simp [h]

@[simp] theorem prefBody_sound (s : State) (g : Group) (l : Launch) (h : s.Sound) : (prefBody s g l).Sound := by
  simp [prefBody, h]

@[simp] theorem lineBody_sound (drop : Bool) (o : MLine) (s : State) (g : Group) (l : Launch) (h : s.Sound) :
    (lineBody drop o s g l).Sound := by
  unfold lineBody
  dsimp only
  split
  · simp
  · simp only [Eff.go_sound]
    split
    · simp
      refine foldl_keeps_sound (fun t ht x _ => ?_) h
      repeat' split
      all_goals simp [ht]
    · refine foldl_keeps_sound (fun t ht x _ => ?_) h
      repeat' split
      all_goals simp [ht]

@[simp] theorem xferBody_sound (post : Bool) (o : MXfer) (s : State) (g : Group) (l : Launch) (h : s.Sound) :
    (xferBody post o s g l).Sound := by
  unfold xferBody
  dsimp only
  repeat' split
  all_goals simp [h]

/-! ### Copy -/

@[simp] theorem sealBody_sound (o : PSeal) (s : State) (g : Group) (l : Launch) (h : s.Sound) :
    (sealBody o s g l).Sound := by
  unfold sealBody
  split <;> simp [h]

@[simp] theorem acquireEff_sound (s : State) (g : Group) (c : Cls) (ctl : Ctl) (h : s.Sound) :
    (acquireEff s g c ctl).Sound := by
  unfold acquireEff
  split <;> simp [h]

@[simp] theorem waitbBody_sound (o : PWait) (s : State) (g : Group) (l : Launch) (h : s.Sound) :
    (waitbBody o s g l).Sound := by
  unfold waitbBody
  split <;> simp [h]

@[simp] theorem yieldbBody_sound (o : PYieldb) (s : State) (g : Group) (l : Launch) (h : s.Sound) :
    (yieldbBody o s g l).Sound := by
  unfold yieldbBody
  split <;> simp [h]

@[simp] theorem State.addOp_sound (s : State) (g : Group) (c : Cls) (k : OpKind) (h : s.Sound) :
    (s.addOp g c k).Sound := by simp [State.addOp, h]

@[simp] theorem startCopy_sound (s : State) (g : Group) (done : Word) (k : OpKind) (word : Word) (h : s.Sound) :
    (startCopy s g done k word).Sound := by
  unfold startCopy
  repeat' split
  all_goals simp [h]

@[simp] theorem cpyBody_sound (o : PCpy) (s : State) (g : Group) (l : Launch) (h : s.Sound) :
    (cpyBody o s g l).Sound := by
  unfold cpyBody
  split <;> simp [h]

@[simp] theorem cpymBody_sound (o : PCpym) (s : State) (g : Group) (l : Launch) (h : s.Sound) :
    (cpymBody o s g l).Sound := by
  unfold cpymBody
  split <;> simp [h]

@[simp] theorem cbldBody_sound (o : PCbld) (s : State) (g : Group) (l : Launch) (h : s.Sound) :
    (cbldBody o s g l).Sound := by
  unfold cbldBody
  dsimp only
  split <;> simp [h]

@[simp] theorem cstatBody_sound (o : PCstat) (s : State) (g : Group) (l : Launch) (h : s.Sound) :
    (cstatBody o s g l).Sound := by
  unfold cstatBody
  dsimp only
  repeat' split
  all_goals simp [h]

@[simp] theorem landBody_sound (o : PLand) (s : State) (g : Group) (l : Launch) (h : s.Sound) :
    (landBody o s g l).Sound := by
  unfold landBody
  dsimp only
  repeat' split
  all_goals simp [h]

@[simp] theorem landwBody_sound (o : PLandw) (s : State) (g : Group) (l : Launch) (h : s.Sound) :
    (landwBody o s g l).Sound := by
  unfold landwBody
  dsimp only
  repeat' split
  all_goals simp [h]

/-! ### CopyEngine -/

@[simp] theorem State.journalPlace_sound (s : State) (g : GroupId) (loc : Bool) (place : Nat) :
    (s.journalPlace g loc place).Sound ↔ s.Sound := by
  unfold State.journalPlace
  dsimp only
  repeat' split
  all_goals simp

@[simp] theorem State.journalPieces_sound (s : State) (g : GroupId) (loc : Bool) (l : List Bytes) :
    (s.journalPieces g loc l).Sound ↔ s.Sound := by simp [State.journalPieces]

@[simp] theorem State.engineTouch_sound (s : State) (g : GroupId) (loc : Bool) (l : List Bytes) (write : Bool) :
    (s.engineTouch g loc l write).Sound ↔ s.Sound := by simp [State.engineTouch]

@[simp] theorem State.engineReads_sound (s : State) (g : GroupId) (loc : Bool) (l : List Bytes) :
    (s.engineReads g loc l).1.Sound ↔ s.Sound := by
  unfold State.engineReads
  split <;> simp

@[simp] theorem State.enginePut_sound (s : State) (g : GroupId) (loc : Bool) (p : Put) (h : s.Sound) :
    (s.enginePut g loc p).Sound := by
  unfold State.enginePut
  dsimp only
  repeat' split
  all_goals simp [h]

@[simp] theorem State.enginePuts_sound (s : State) (g : GroupId) (loc : Bool) (l : List Put) (h : s.Sound) :
    (s.enginePuts g loc l).Sound :=
  (State.engineTouch_sound ..).2 (foldl_keeps_sound (fun t ht p _ => t.enginePut_sound g loc p ht) h)

@[simp] theorem State.engineWrite_sound (s : State) (g : GroupId) (loc : Bool) (l : List Put) (bad : Option Nat)
    (whole : Bool) (h : s.Sound) : (s.engineWrite g loc l bad whole).1.Sound := by
  unfold State.engineWrite
  dsimp only
  repeat' split
  all_goals simp [h]

@[simp] theorem State.readBox_sound (s : State) (g : GroupId) (pod : Nat) (a : CopyArgs) (p : CopyPlan) :
    (s.readBox g pod a p).1.Sound ↔ s.Sound := by
  unfold State.readBox
  split <;> simp

@[simp] theorem State.writeDone_sound (s : State) (g : GroupId) (done : Word) (words : List Nat) (h : s.Sound) :
    (s.writeDone g done words).1.Sound := by
  unfold State.writeDone
  repeat' split
  all_goals simp [h]

@[simp] theorem State.opWalks_sound (s : State) (n va : Nat) (w : Bool) : (s.opWalks n va w).Sound ↔ s.Sound := ⟨id, id⟩

@[simp] theorem State.endCopy_sound (s : State) (o : Op) (done : Word) (status extra elems first seq : Nat)
    (bad : Option Nat) (h : s.Sound) : (s.endCopy o done status extra elems first seq bad).Sound := by
  unfold State.endCopy
  split <;> simp [h]

@[simp] theorem State.walkDone_sound (s : State) (o : Op) (done : Word) : (s.walkDone o done).1.Sound ↔ s.Sound := by
  unfold State.walkDone
  dsimp only
  repeat' split
  all_goals simp

@[simp] theorem State.endDenied_sound (s : State) (o : Op) (done : Word) (extra seq : Nat) (h : s.Sound) :
    (s.endDenied o done extra seq).Sound := by simp [State.endDenied, h]

@[simp] theorem State.denyCopy_sound (s : State) (o : Op) (h : s.Sound) : (s.denyCopy o).Sound := by
  unfold State.denyCopy
  split <;> simp [h]

@[simp] theorem State.runCpy_sound (s : State) (o : Op) (a : CopyArgs) (pod : Nat) (lays : List (BitVec 320))
    (h : s.Sound) : (s.runCpy o a pod lays).Sound := by
  unfold State.runCpy
  dsimp only
  repeat' split
  all_goals simp [h]

@[simp] theorem State.runCbld_sound (s : State) (o : Op) (book : Nat) (image done : Word) (seq pod : Nat)
    (h : s.Sound) : (s.runCbld o book image done seq pod).Sound := by
  unfold State.runCbld
  dsimp only
  repeat' split
  all_goals simp [h]

@[simp] theorem State.startCpym_sound (s : State) (o : Op) (a : CopyArgs) (slot : Nat) (t : Word) (pod : Nat)
    (l : Launch) (h : s.Sound) : (s.startCpym o a slot t pod l).Sound := by
  unfold State.startCpym
  dsimp only
  repeat' split
  all_goals simp [h]

@[simp] theorem State.setReason_sound (s : State) (n k reason : Nat) : (s.setReason n k reason).Sound ↔ s.Sound :=
    ⟨id, id⟩

@[simp] theorem State.fillLand_sound (s : State) (lid t slot : Nat) : (s.fillLand lid t slot).Sound ↔ s.Sound := by
  unfold State.fillLand
  dsimp only
  repeat' split
  all_goals simp

@[simp] theorem State.writeArrival_sound (s : State) (o : Op) (slot : Nat) (b : BoxOut) (x : Arrival) (gen : Nat)
    (h : s.Sound) : (s.writeArrival o slot b x gen).Sound := by
  unfold State.writeArrival
  dsimp only
  repeat' split
  all_goals simp [h]

@[simp] theorem State.meetSlot_sound (s : State) (o : Op) (a : CopyArgs) (slot : Nat) (b : BoxOut) (x : Arrival)
    (src : List Bytes) : (s.meetSlot o a slot b x src).Sound ↔ s.Sound := by
  unfold State.meetSlot
  dsimp only
  repeat' split
  all_goals simp

@[simp] theorem State.copyComplete_sound (s : State) (n : Nat) (h : s.Sound) : (s.copyComplete n).Sound := by
  unfold State.copyComplete
  repeat' split
  all_goals simp [h]

@[simp] theorem State.cpymArrival_sound (s : State) (n k : Nat) (h : s.Sound) : (s.cpymArrival n k).Sound := by
  unfold State.cpymArrival
  repeat' split
  all_goals simp [h]

end Sys2Proof.Machine
end

section
/-! PROOFS. Canonical form is kept (O58): the matrix engines, barriers, objects and the system instructions. -/

namespace Sys2Proof.Machine

/-! ### Matrix -/

@[simp] theorem gangBody_sound (o : XGang) (s : State) (g : Group) (l : Launch) (h : s.Sound) :
    (gangBody o s g l).Sound := by
  unfold gangBody
  dsimp only
  split <;> simp [h]

@[simp] theorem tokenTrap_sound (t : Nat) : (tokenTrap t).Sound := trivial

@[simp] theorem withTile_sound (t : Nat) (s : State) (g : Group) {k : Eff} (h : k.Sound) : (withTile t s g k).Sound :=
    by
  unfold withTile
  split
  · trivial
  · split
    · trivial
    · exact h

@[simp] theorem engineHalt_sound (s : State) (g : Group) : (engineHalt s g).Sound ↔ s.Sound := by simp [engineHalt]

@[simp] theorem State.dropInjected_sound (s : State) (pod t : Nat) : (s.dropInjected pod t).Sound ↔ s.Sound := ⟨id, id⟩

@[simp] theorem mzeroBody_sound (o : XMzero) (s : State) (g : Group) (l : Launch) (h : s.Sound) :
    (mzeroBody o s g l).Sound := by
  unfold mzeroBody
  dsimp only
  repeat' split
  all_goals simp [h]

@[simp] theorem relBody_sound (o : XTok) (s : State) (g : Group) (l : Launch) (h : s.Sound) :
    (relBody o s g l).Sound := by simp [relBody, h]

@[simp] theorem acqBody_sound (o : XTok) (s : State) (g : Group) (l : Launch) (h : s.Sound) :
    (acqBody o s g l).Sound := by
  unfold acqBody
  dsimp only
  repeat' split
  all_goals simp [h]

@[simp] theorem State.enterLatch_sound (s : State) (pod : Nat) (a : Arrived) : (s.enterLatch pod a).Sound ↔ s.Sound :=
    by
  unfold State.enterLatch
  dsimp only
  split <;> simp

@[simp] theorem arrive.put_sound (g : Group) (regs : List Nat) (s : State) (a : Arrived) :
    (arrive.put_ g regs s a).Sound ↔ s.Sound := by
  simp [arrive.put_]

@[simp] theorem arrive_sound (o : XMma) (s : State) (g : Group) (gang : Gang) (regs : List Nat) (h : s.Sound) :
    (arrive o s g gang regs).Sound := by
  unfold arrive
  dsimp only
  repeat' split
  all_goals simp [h]

@[simp] theorem mmaBody_sound (o : XMma) (s : State) (g : Group) (l : Launch) (h : s.Sound) :
    (mmaBody o s g l).Sound := by
  unfold mmaBody
  dsimp only
  repeat' split
  all_goals simp [h]

@[simp] theorem mscaleBody_sound (o : XScale) (s : State) (g : Group) (l : Launch) (h : s.Sound) :
    (mscaleBody o s g l).Sound := by
  unfold mscaleBody
  dsimp only
  split <;> simp [h]

@[simp] theorem sendScalars_sound (s : State) (g : Group) (l : List (Nat × Word)) : (sendScalars s g l).Sound ↔
    s.Sound := ⟨id, id⟩

@[simp] theorem mstatBody_sound (o : XMstat) (s : State) (g : Group) (l : Launch) (h : s.Sound) :
    (mstatBody o s g l).Sound := by simp [mstatBody, h]

@[simp] theorem contBody_sound (o : XCont) (s : State) (g : Group) (l : Launch) (h : s.Sound) :
    (contBody o s g l).Sound := by
  unfold contBody
  split <;> simp [h]

@[simp] theorem State.inject_sound (s : State) (pod t pos c d : Nat) (mode : MinjMode) :
    (s.inject pod t pos c d mode).Sound ↔ s.Sound := ⟨id, id⟩

@[simp] theorem State.upset_sound (s : State) (pod t pos c d : Nat) (mode : MinjMode) :
    (s.upset pod t pos c d mode).Sound ↔ s.Sound := by
  unfold State.upset
  split <;> simp

@[simp] theorem minjBody_sound (o : XMinj) (s : State) (g : Group) (l : Launch) (h : s.Sound) :
    (minjBody o s g l).Sound := by
  unfold minjBody
  dsimp only
  repeat' split
  all_goals simp [h]

@[simp] theorem startDrain_sound (s : State) (g : Group) (regs : List Nat) (k : Nat → OpKind) :
    (startDrain s g regs k).Sound ↔ s.Sound := ⟨id, id⟩

@[simp] theorem drainBody_sound (o : XDrain) (s : State) (g : Group) (l : Launch) (h : s.Sound) :
    (drainBody o s g l).Sound := by
  unfold drainBody
  dsimp only
  repeat' split
  all_goals simp [h]

@[simp] theorem drainmBody_sound (o : XDrainm) (s : State) (g : Group) (l : Launch) (h : s.Sound) :
    (drainmBody o s g l).Sound := by
  unfold drainmBody
  dsimp only
  repeat' split
  all_goals simp [h]

@[simp] theorem acstBody_sound (o : XAcst) (s : State) (g : Group) (l : Launch) (h : s.Sound) :
    (acstBody o s g l).Sound := by
  unfold acstBody
  dsimp only
  split <;> simp [h]

@[simp] theorem acldBody_sound (o : XAcld) (s : State) (g : Group) (l : Launch) (h : s.Sound) :
    (acldBody o s g l).Sound := by
  unfold acldBody
  dsimp only
  repeat' split
  all_goals simp [h]

/-! ### MatrixEngine -/

@[simp] theorem State.withhold_sound (s : State) (x : Latch) (f : Arrived → Failure) : (s.withhold x f).Sound ↔
    s.Sound := by simp [State.withhold]

@[simp] theorem State.grant_sound (s : State) (pod k : Nat) : (s.grant pod k).Sound ↔ s.Sound := by
  unfold State.grant
  dsimp only
  repeat' split
  all_goals simp

@[simp] theorem State.passStart_sound (s : State) (pod : Nat) : (s.passStart pod).Sound ↔ s.Sound := ⟨id, id⟩

@[simp] theorem State.passComplete_sound (s : State) (pod : Nat) : (s.passComplete pod).Sound ↔ s.Sound := by
  unfold State.passComplete
  split <;> simp

@[simp] theorem State.passAges_sound (s : State) (pod k : Nat) : (s.passAges pod k).Sound ↔ s.Sound := ⟨id, id⟩

@[simp] theorem State.journalChan_sound (s : State) (pod kind detail chan tile pos : Nat) :
    (s.journalChan pod kind detail chan tile pos).Sound ↔ s.Sound := by simp [State.journalChan]

@[simp] theorem State.drainHalts_sound (s : State) (o : Op) : (s.drainHalts o).Sound ↔ s.Sound := by
  unfold State.drainHalts
  dsimp only
  split <;> simp

@[simp] theorem State.endDrains_sound (s : State) (pod : Nat) : (s.endDrains pod).Sound ↔ s.Sound := by
  simp [State.endDrains]

@[simp] theorem State.retireChannel_sound (s : State) (pod chan detail tile pos : Nat) :
    (s.retireChannel pod chan detail tile pos).Sound ↔ s.Sound := by
  unfold State.retireChannel
  dsimp only
  repeat' split
  all_goals simp

@[simp] theorem State.writeBackRes_sound (s : State) (pod tile pos chan : Nat) :
    (s.writeBackRes pod tile pos chan).Sound ↔ s.Sound := by
  unfold State.writeBackRes
  repeat' split
  all_goals simp

@[simp] theorem State.patternRuns_sound (s : State) (pod : Nat) (x : Pattern) : (s.patternRuns pod x).Sound ↔
    s.Sound := by
  unfold State.patternRuns
  split <;> simp

@[simp] theorem State.patternPass_sound (s : State) (pod : Nat) : (s.patternPass pod).Sound ↔ s.Sound := by
  unfold State.patternPass
  repeat' split
  all_goals simp

@[simp] theorem State.suspect_sound (s : State) (pod chan tile pos : Nat) (hard : Bool) :
    (s.suspect pod chan tile pos hard).Sound ↔ s.Sound := by
  unfold State.suspect
  dsimp only
  repeat' split
  all_goals simp

@[simp] theorem State.corrected_sound (s : State) (pod tile pos chan : Nat) : (s.corrected pod tile pos chan).Sound ↔
    s.Sound := by
  unfold State.corrected
  dsimp only
  split <;> simp

@[simp] theorem State.recheck_sound (s : State) (pod : Nat) (r : Rns.Outcome) : (s.recheck pod r).1.Sound ↔ s.Sound :=
    by
  unfold State.recheck
  dsimp only
  repeat' split
  all_goals simp

@[simp] theorem State.misread_sound (s : State) (pod n : Nat) : (s.misread pod n).Sound ↔ s.Sound := by
  unfold State.misread
  split <;> simp

@[simp] theorem State.reconstructAt_sound (s : State) (pod tile pos : Nat) : (s.reconstructAt pod tile pos).1.Sound ↔
    s.Sound := by
  unfold State.reconstructAt
  dsimp only
  split <;> simp

theorem drainElem_sound (pod tile : Nat) (k : Sink) (trp : Bool) (a : DrainRun) (pos : Nat) :
    (drainElem pod tile k trp a pos).s.Sound ↔ a.s.Sound := by
  have read := State.reconstructAt_sound a.s pod tile pos
  unfold drainElem
  dsimp only
  repeat' split
  all_goals simp [read]

@[simp] theorem State.drainRun_sound (s : State) (pod : Nat) (a : DrainArgs) (k : Sink) : (s.drainRun pod a k).s.Sound
    ↔ s.Sound :=
  List.foldlRecOn (motive := fun r : DrainRun => r.s.Sound ↔ s.Sound) _ _ Iff.rfl fun r hr x _ =>
    (drainElem_sound pod a.tile k a.trp r x).trans hr

@[simp] theorem State.drainComplete_sound (s : State) (n : Nat) : (s.drainComplete n).Sound ↔ s.Sound := by
  unfold State.drainComplete
  dsimp only
  repeat' split
  all_goals simp

theorem State.mxStop_sound (s : State) (o : Op) (loc : Bool) (r : Right) (l : List Bytes) {t : State}
    (e : (s.mxStop o loc r l) = some t) : t.Sound ↔ s.Sound := by
  unfold State.mxStop at e
  repeat' split at e
  all_goals simp at e <;> simp [← e]

@[simp] theorem State.runDrainm_sound (s : State) (o : Op) (a : DrainArgs) (loc : Bool) (d : Side) (pod : Nat)
    (lays : List (BitVec 320)) (h : s.Sound) : (s.runDrainm o a loc d pod lays).Sound := by
  unfold State.runDrainm
  dsimp only
  split
  · rename_i e
    exact (State.mxStop_sound _ _ _ _ _ e).2 h
  · split <;> simp [h]

@[simp] theorem State.valuesOf_sound (s : State) (pod tile : Nat) : (s.valuesOf pod tile).1.Sound ↔ s.Sound := by
  refine List.foldlRecOn (motive := fun r : State × List (Option Int) × Option Nat => r.1.Sound ↔ s.Sound) _ _ Iff.rfl
    fun r hr x _ => ?_
  have read := (State.reconstructAt_sound r.1 pod tile x).trans hr
  dsimp only
  split <;> exact read

@[simp] theorem State.runAcst_sound (s : State) (o : Op) (tile : Nat) (base : Word) (radd : Option Scope) (loc : Bool)
    (pod : Nat) (h : s.Sound) : (s.runAcst o tile base radd loc pod).Sound := by
  unfold State.runAcst
  dsimp only
  split
  · rename_i e
    exact (State.mxStop_sound _ _ _ _ _ e).2 h
  · repeat' split
    all_goals simp [h]

@[simp] theorem State.runAcld_sound (s : State) (o : Op) (tile : Nat) (base : Word) (add : Bool) (fmt : AccFmt)
    (td : ResTy) (e : Nat) (loc : Bool) (pod : Nat) : (s.runAcld o tile base add fmt td e loc pod).Sound ↔ s.Sound := by
  unfold State.runAcld
  dsimp only
  split
  · rename_i e
    exact State.mxStop_sound _ _ _ _ _ e
  · repeat' split
    all_goals simp

@[simp] theorem State.mxComplete_sound (s : State) (n : Nat) (h : s.Sound) : (s.mxComplete n).Sound := by
  unfold State.mxComplete
  repeat' split
  all_goals simp [h]

/-! ### Barrier -/

@[simp] theorem State.setBarrier_sound (s : State) (l : Launch) (g : Group) (k : Nat) (b : Barrier) :
    (s.setBarrier l g k b).Sound ↔ s.Sound := by
  unfold State.setBarrier
  repeat' split
  all_goals simp

@[simp] theorem State.releaseWaiters_sound (s : State) (l : Launch) (g : Group) (k : Nat) :
    (s.releaseWaiters l g k).Sound ↔ s.Sound := ⟨id, id⟩

@[simp] theorem countTrap_sound (n : Nat) (b : Barrier) : (countTrap n b).Sound := trivial

@[simp] theorem noBarrier_sound (k : Nat) : (noBarrier k).Sound := trivial

@[simp] theorem State.arrive_sound (s : State) (l : Launch) (g : Group) (k n : Nat) (b : Barrier) :
    (s.arrive l g k n b).1.Sound ↔ s.Sound := by
  unfold State.arrive
  split <;> simp

@[simp] theorem barBody_sound (o : YBar) (s : State) (g : Group) (l : Launch) (h : s.Sound) :
    (barBody o s g l).Sound := by
  unfold barBody
  dsimp only
  repeat' split
  all_goals simp [h]

@[simp] theorem baraBody_sound (o : YBara) (s : State) (g : Group) (l : Launch) (h : s.Sound) :
    (baraBody o s g l).Sound := by
  unfold baraBody
  dsimp only
  repeat' split
  all_goals simp [h]

@[simp] theorem barwBody_sound (o : YTok) (s : State) (g : Group) (l : Launch) (h : s.Sound) :
    (barwBody o s g l).Sound := by
  unfold barwBody
  dsimp only
  split <;> simp [h]

@[simp] theorem barqBody_sound (o : YTok) (s : State) (g : Group) (l : Launch) (h : s.Sound) :
    (barqBody o s g l).Sound := by
  unfold barqBody
  split <;> simp [h]

@[simp] theorem binitBody_sound (o : YBar) (s : State) (g : Group) (l : Launch) (h : s.Sound) :
    (binitBody o s g l).Sound := by
  unfold binitBody
  dsimp only
  repeat' split
  all_goals simp [h]

/-! ### Object -/

@[simp] theorem sendStatus_sound (s : State) (g : Group) (r : BitVec 6) (v : Nat) : (sendStatus s g r v).Sound ↔
    s.Sound := ⟨id, id⟩

@[simp] theorem register_sound (o : YObj) (s : State) (g : Group) (l : Launch) (d : Nat) (h : s.Sound) :
    (register o s g l d).Sound := by
  unfold register
  dsimp only
  repeat' split
  all_goals simp [h]

@[simp] theorem objregBody_sound (o : YObj) (s : State) (g : Group) (l : Launch) (h : s.Sound) :
    (objregBody o s g l).Sound := by
  unfold objregBody
  dsimp only
  repeat' split
  all_goals simp [h]

@[simp] theorem objdelBody_sound (o : YObj) (s : State) (g : Group) (l : Launch) (h : s.Sound) :
    (objdelBody o s g l).Sound := by
  unfold objdelBody
  dsimp only
  repeat' split
  all_goals simp [h]

@[simp] theorem orelBody_sound (o : YObj) (s : State) (g : Group) (l : Launch) (h : s.Sound) :
    (orelBody o s g l).Sound := by
  unfold orelBody
  dsimp only
  repeat' split
  all_goals simp [h]

@[simp] theorem ocallBody_sound (o : YOcall) (s : State) (g : Group) (l : Launch) (h : s.Sound) :
    (ocallBody o s g l).Sound := by
  unfold ocallBody
  dsimp only
  repeat' split
  all_goals simp [h]

@[simp] theorem State.acceptCall_sound (s : State) (n : Nat) : (s.acceptCall n).Sound ↔ s.Sound := by
  unfold State.acceptCall
  dsimp only
  repeat' split
  all_goals simp

@[simp] theorem State.landReply_sound (s : State) (n lane : Nat) : (s.landReply n lane).Sound ↔ s.Sound := by
  unfold State.landReply
  dsimp only
  repeat' split
  all_goals simp

@[simp] theorem State.waveStart_sound (s : State) (lid addr : Nat) (h : s.Sound) : (s.waveStart lid addr).Sound := by
  unfold State.waveStart
  dsimp only
  repeat' split
  all_goals simp [h]

@[simp] theorem State.waveLimit_sound (s : State) (lid addr : Nat) : (s.waveLimit lid addr).Sound ↔ s.Sound := by
  unfold State.waveLimit
  repeat' split
  all_goals simp

@[simp] theorem creplyBody_sound (o : YCreply) (s : State) (g : Group) (l : Launch) (h : s.Sound) :
    (creplyBody o s g l).Sound := by
  unfold creplyBody
  split <;> simp [h]

@[simp] theorem cdoneBody_sound (o : Bare) (s : State) (g : Group) (l : Launch) (h : s.Sound) :
    (cdoneBody o s g l).Sound := by
  unfold cdoneBody
  repeat' split
  all_goals simp [h]

/-! ### Submit -/

@[simp] theorem State.readNow_sound (s : State) (va len : Nat) : (s.readNow va len).1.Sound ↔ s.Sound := by
  unfold State.readNow
  repeat' split
  all_goals simp

@[simp] theorem State.wordsNow_sound (n : Nat) : ∀ (s : State) (va : Nat), (s.wordsNow va n).1.Sound ↔ s.Sound := by
  induction n with
  | zero => exact fun _ _ => Iff.rfl
  | succ n ih =>
    intro s va
    have first := s.readNow_sound va 8
    unfold State.wordsNow
    split
    · exact sound_iff_of_eq (by assumption) first
    · rename_i t b e
      have rest := (ih t (va + 8)).trans (sound_iff_of_eq e first)
      split <;> exact sound_iff_of_eq (by assumption) rest

@[simp] theorem State.readTable_sound (s : State) (va : Nat) : (s.readTable va).1.Sound ↔ s.Sound := by
  have words := State.wordsNow_sound 320 s va
  unfold State.readTable
  split
  · rfl
  · split <;> exact sound_iff_of_eq (by assumption) words

@[simp] theorem State.accept_sound (s : State) (r : BitVec 2048) (qp : Option Nat) : (s.accept r qp).1.Sound ↔
    s.Sound := by
  have table := s.readTable_sound (field r 320 57)
  unfold State.accept
  dsimp only
  split
  · rfl
  split
  · exact sound_iff_of_eq (by assumption) table
  · rw [← sound_iff_of_eq (by assumption) table]
    repeat' split
    all_goals simp

@[simp] theorem State.submit_sound (s : State) (r : BitVec 2048) (qp : Option Nat) : (s.submit r qp).1.Sound ↔
    s.Sound := by
  have accept := s.accept_sound r qp
  unfold State.submit
  split
  · exact sound_iff_of_eq (by assumption) accept
  · rw [← sound_iff_of_eq (by assumption) accept]
    simp

/-! ### System -/

@[simp] theorem trapBody_sound (cause : Nat) (o : ZTrap) (s : State) (g : Group) (l : Launch) (h : s.Sound) :
    (trapBody cause o s g l).Sound := by simp [trapBody, h]

@[simp] theorem returnTo_sound (s : State) (g : Group) (aside : Aside) (p : Pos) : (returnTo s g aside p).Sound ↔
    s.Sound := ⟨id, id⟩

@[simp] theorem rttBody_sound (o : ZRtt) (s : State) (g : Group) (l : Launch) (h : s.Sound) :
    (rttBody o s g l).Sound := by
  unfold rttBody
  repeat' split
  all_goals simp [h]

@[simp] theorem haltBody_sound (s : State) (g : Group) (l : Launch) (h : s.Sound) : (haltBody s g l).Sound := by
  simp [haltBody, h]

@[simp] theorem State.readParts_sound (core : Nat) (l : List Access) : ∀ s : State, s.Sound →
    (s.readParts core l).1.Sound := by
  induction l with
  | nil => exact fun _ h => h
  | cons a l ih =>
    intro s h
    have first := s.gread_sound core false (s.physOf core a.addr).1 a.len (pteObj (s.physOf core a.addr).2) 2 h
    unfold State.readParts
    dsimp only
    split
    · exact sound_of_eq (by assumption) first
    · have rest := ih _ (sound_of_eq (by assumption) first)
      split <;> exact sound_of_eq (by assumption) rest

@[simp] theorem State.readRecord_sound (s : State) (core va : Nat) (h : s.Sound) : (s.readRecord core va).1.Sound := by
  unfold State.readRecord
  dsimp only
  split <;> simp [h]

@[simp] theorem launchRead_sound (o : ZLaunch) (s : State) (g : Group) (l : Launch) (r : BitVec 2048) (h : s.Sound) :
    (launchRead o s g l r).Sound := by
  have accept := s.accept_sound r none
  unfold launchRead
  split
  · simpa using h
  split
  · simpa [sound_iff_of_eq (by assumption) accept] using h
  · have ht := (sound_iff_of_eq (by assumption) accept).2 h
    split <;> simp [ht]

@[simp] theorem launchBody_sound (o : ZLaunch) (s : State) (g : Group) (l : Launch) (h : s.Sound) :
    (launchBody o s g l).Sound := by
  have read := (s.release g.core).readRecord_sound g.core (g.sreg o.sa.toNat).toNat (s.release_sound g.core h)
  unfold launchBody
  dsimp only
  split
  · simp
  split
  · trivial
  split
  · simpa using h
  split
  · simpa using sound_of_eq (by assumption) read
  · exact launchRead_sound _ _ _ _ _ (sound_of_eq (by assumption) read)

theorem released_sound (s : State) (g : Group) {k : State → Group → Eff} (hk : ∀ t g, t.Sound → (k t g).Sound)
    (h : s.Sound) : (released s g k).Sound := by
  unfold released
  split
  · trivial
  split
  · simpa using h
  · exact hk _ _ (s.release_sound g.core h)

@[simp] theorem setsBody_sound (o : ZSets) (s : State) (g : Group) (l : Launch) (h : s.Sound) :
    (setsBody o s g l).Sound := by
  unfold setsBody
  dsimp only
  split
  · trivial
  · exact released_sound s g (fun t _ ht => by simp [ht]) h

@[simp] theorem tlbinvBody_sound (o : ZTlbinv) (s : State) (g : Group) (l : Launch) (h : s.Sound) :
    (tlbinvBody o s g l).Sound := by
  unfold tlbinvBody
  split
  · exact released_sound s g (fun t _ ht => by simp [ht]) h
  dsimp only
  split
  · trivial
  · exact released_sound s g (fun t _ ht => by simp [ht]) h

@[simp] theorem State.releaseFaults_sound (s : State) (lid : Nat) (page : Option Nat) :
    (s.releaseFaults lid page).Sound ↔ s.Sound := ⟨id, id⟩

@[simp] theorem presBody_sound (o : ZPres) (s : State) (g : Group) (l : Launch) (h : s.Sound) :
    (presBody o s g l).Sound := by simp [presBody, h]

end Sys2Proof.Machine
end

section
/-! PROOFS. Canonical form is kept (O58): results that arrive, page walks, scheduling and placing. -/

namespace Sys2Proof.Machine

/-! ### Response -/

@[simp] theorem State.respond_sound (s : State) (gid : GroupId) (n : Nat) (kinds : List PendKind) :
    (s.respond gid n kinds).Sound ↔ s.Sound := by
  unfold State.respond
  repeat' split
  all_goals simp

@[simp] theorem State.acknowledge_sound (s : State) (gid : GroupId) (n : Nat) (ok : Bool) :
    (s.acknowledge gid n ok).Sound ↔ s.Sound := by
  unfold State.acknowledge
  repeat' split
  all_goals simp

@[simp] theorem State.endLine_sound (s : State) (o : Op) (fail : Option Failure) : (s.endLine o fail).Sound ↔
    s.Sound := by simp [State.endLine]

@[simp] theorem State.lineRead_sound (s : State) (pa : Nat) (obj : Bool) : (s.lineRead pa obj).1.Sound ↔ s.Sound := by
  unfold State.lineRead
  repeat' split
  all_goals simp

@[simp] theorem State.fetchLands_sound (s : State) (n : Nat) : (s.fetchLands n).Sound ↔ s.Sound := by
  unfold State.fetchLands
  split
  · rfl
  · rename_i o _
    have read (pa ga : Nat) := s.lineRead_sound pa (s.opObj o ga)
    split
    · split
      · rfl
      · split <;> (rw [← sound_iff_of_eq (by assumption) (read _ _)]; simp)
    · rfl

@[simp] theorem State.postDone_sound (s : State) (n : Nat) (h : s.Sound) : (s.postDone n).Sound := by
  unfold State.postDone
  repeat' split
  all_goals simp [h]

@[simp] theorem State.deferredTrap_sound (s : State) (gid : GroupId) : (s.deferredTrap gid).Sound ↔ s.Sound := by
  unfold State.deferredTrap
  repeat' split
  all_goals simp

/-! ### Replay -/

theorem laneBody_sound {s : State} {g : Group} {i : Instr} {word : Word} {b : Body}
    (e : laneBody s g i word = some b) : b.Sound := by
  unfold laneBody at e
  split at e
  · cases e; exact fun s g l h => loadBody_sound _ _ _ _ _ _ _ s g l h
  · cases e; exact fun s g l h => storeBody_sound _ _ _ _ _ _ _ s g l h
  · cases e; exact fun s g l h => loadBody_sound _ _ _ _ _ _ _ s g l h
  · cases e; exact fun s g l h => storeBody_sound _ _ _ _ _ _ _ s g l h
  · cases e; exact fun s g l h => atomBody_sound _ _ s g l h
  · cases e; exact fun s g l h => atomBody_sound _ _ s g l h
  · cases e; exact fun s g l h => fenceBody_sound _ s g l h
  · obtain ⟨f, -, rfl⟩ := Option.map_eq_some_iff.1 e
    exact fun s g l h => perLane_sound _ _ _ s g l h

/-- What a piece of work comes to leaves a sound state. -/
def Late.Sound : Late → Prop
  | .on s _ => s.Sound
  | .miss s => s.Sound
  | .trap s _ _ _ => s.Sound

@[simp] theorem Late.on_sound (s : State) (left : List LaneWork) : (Late.on s left).Sound ↔ s.Sound := Iff.rfl

@[simp] theorem Late.miss_sound (s : State) : (Late.miss s).Sound ↔ s.Sound := Iff.rfl

@[simp] theorem Late.trap_sound (s : State) (c : Nat) (epc tv : Word) : (Late.trap s c epc tv).Sound ↔ s.Sound :=
    Iff.rfl

@[simp] theorem State.lateWait_sound (s : State) (g : Group) (w : LaneWork) (x : Wait) : (s.lateWait g w x).Sound ↔
    s.Sound := by
  unfold State.lateWait
  repeat' split
  all_goals simp

@[simp] theorem State.lateReport_sound (s : State) (g : Group) (w : LaneWork) (d : Deferred) :
    (s.lateReport g w d).Sound ↔ s.Sound := by
  unfold State.lateReport
  split <;> simp

theorem State.lateExit_sound (s : State) (g : Group) (o : CExit) (w : LaneWork) (m : Mask) (h : s.Sound) :
    (s.lateExit g o w m).Sound := by
  unfold State.lateExit
  dsimp only
  split
  · simpa using h
  split
  · simpa using h
  split
  · simpa using h
  · simpa using h
  · rename_i r e
    have hr := (State.retireLanes_sound e).2 (by simpa using h)
    repeat' split
    all_goals simp [hr]

theorem State.lateWork_sound (s : State) (g : Group) (l : Launch) (w : LaneWork) (m : Mask) (h : s.Sound) :
    (s.lateWork g l w m).Sound := by
  unfold State.lateWork
  dsimp only
  split
  · exact h
  · exact s.lateExit_sound _ _ _ _ h
  split
  · exact h
  split
  · simpa using h
  · exact h
  · rename_i body _ e
    have done := laneBody_sound e (s.setGroup (g.asOf w m)) (g.asOf w m) l (by simpa using h)
    split
    · rename_i e; rw [e] at done; simpa using done
    · exact h
    · rename_i e; rw [e] at done; simpa using done
    · simpa using h
    · exact h

@[simp] theorem State.latePass_sound (gid : GroupId) (l : Launch) (t : List LaneWork) : ∀ (s : State)
    (before : List LaneWork), s.Sound → (s.latePass gid l before t).Sound := by
  induction t with
  | nil => exact fun s _ h => by simpa [State.latePass] using h
  | cons w t ih =>
    intro s before h
    unfold State.latePass
    dsimp only
    split
    · exact h
    split
    · simpa using h
    split
    · exact ih _ _ h
    split
    · exact ih _ _ h
    rename_i g _ _ _ _
    have work := s.lateWork_sound g ((s.launch? l.lid).getD l) { w with lanes := w.lanes &&& g.live }
      (runnable before { w with lanes := w.lanes &&& g.live }) h
    split
    · rename_i e; rw [e] at work; exact ih _ _ work
    · rename_i e; rw [e] at work; simpa using work
    · rename_i e
      rw [e] at work
      split
      · simpa using work
      · exact ih _ _ h

@[simp] theorem State.valueArrives_sound (s : State) (gid : GroupId) (h : s.Sound) : (s.valueArrives gid).Sound := by
  unfold State.valueArrives
  dsimp only
  repeat' split
  all_goals simp [h]

@[simp] theorem State.spillTimeout_sound (s : State) (gid : GroupId) : (s.spillTimeout gid).Sound ↔ s.Sound := by
  unfold State.spillTimeout
  split <;> simp

/-! ### Walk -/

@[simp] theorem State.journalTable_sound (s : State) (pa : Option Nat) : (s.journalTable pa).Sound ↔ s.Sound := by
  unfold State.journalTable
  split <;> simp

@[simp] theorem State.addRecord_sound (s : State) (lid : Nat) (r : FaultRec) : (s.addRecord lid r).Sound ↔ s.Sound :=
    ⟨id, id⟩

@[simp] theorem State.walkOne_sound (s : State) (u va : Nat) : (s.walkOne u va).1.Sound ↔ s.Sound := by
  unfold State.walkOne
  repeat' split
  all_goals simp

@[simp] theorem State.walkEach_sound (u : Nat) (l : List Nat) : ∀ (s : State) (f : List (Nat × Nat)),
    (s.walkEach u l f).1.Sound ↔ s.Sound := by
  induction l with
  | nil => exact fun _ _ => Iff.rfl
  | cons va l ih =>
    intro s f
    have first := s.walkOne_sound u va
    unfold State.walkEach
    split <;> exact (ih _ _).trans (sound_iff_of_eq (by assumption) first)

@[simp] theorem State.walkForGroup_sound (s : State) (g : Group) (vas : List Nat) (x w engine : Bool) :
    (s.walkForGroup g vas x w engine).Sound ↔ s.Sound := by
  have walks := State.walkEach_sound g.core vas s []
  unfold State.walkForGroup
  split <;> (rw [← sound_iff_of_eq (by assumption) walks]; simp)

@[simp] theorem State.walkForOp_sound (s : State) (o : Op) (va : Nat) (w : Bool) : (s.walkForOp o va w).Sound ↔
    s.Sound := by
  unfold State.walkForOp
  dsimp only
  repeat' split
  all_goals simp

@[simp] theorem State.tableWalk_sound (s : State) (w : Walker) : (s.tableWalk w).Sound ↔ s.Sound := by
  unfold State.tableWalk
  repeat' split
  all_goals simp

@[simp] theorem State.queuePlace_sound (s : State) (va : Nat) (r : Right) : (s.queuePlace va r).1.Sound ↔ s.Sound := by
  unfold State.queuePlace
  repeat' split
  all_goals simp

@[simp] theorem State.findQueue_sound (s : State) (fq : Nat) : (s.findQueue fq).1.Sound ↔ s.Sound := by
  have first := s.queuePlace_sound fq .read
  unfold State.findQueue
  split
  · rfl
  split
  · exact sound_iff_of_eq (by assumption) first
  · rename_i t hdr e
    have ht := sound_iff_of_eq e first
    have second (va : Nat) := (t.queuePlace_sound va .write).trans ht
    dsimp only
    split
    · exact ht
    split
    · exact ht
    split <;> exact sound_iff_of_eq (by assumption) (second _)

@[simp] theorem State.announce_sound (s : State) (l : Launch) (r : FaultRec) (bits va : Nat) :
    (s.announce l r bits va).Sound ↔ s.Sound := by
  unfold State.announce
  split <;> simp

@[simp] theorem State.denyOp_sound (s : State) (o : Op) (va : Nat) (h : s.Sound) : (s.denyOp o va).Sound := by
  unfold State.denyOp
  split <;> simp [h]

@[simp] theorem State.abandonSave_sound (s : State) (lid team : Nat) : (s.abandonSave lid team).Sound ↔ s.Sound := by
  unfold State.abandonSave
  repeat' split
  all_goals simp

@[simp] theorem State.faultUnheard_sound (s : State) (lid : Nat) (r : FaultRec) (h : s.Sound) :
    (s.faultUnheard lid r).Sound := by
  unfold State.faultUnheard
  repeat' split
  all_goals simp [h]

@[simp] theorem State.writeRecord_sound (s : State) (lid : Nat) (h : s.Sound) : (s.writeRecord lid).Sound := by
  unfold State.writeRecord
  split
  · exact h
  split
  · exact h
  split
  · exact h
  have found (fq : Nat) := (s.findQueue_sound fq).2 h
  split
  · exact h
  · have ht := sound_of_eq (by assumption) (found _)
    dsimp only
    split <;> simp [ht]
  · have ht := sound_of_eq (by assumption) (found _)
    simp [ht]

/-! ### Sched -/

@[simp] theorem State.fillPlace_sound (s : State) (core : Nat) : (s.fillPlace core).Sound ↔ s.Sound := by
  unfold State.fillPlace
  repeat' split
  all_goals simp

@[simp] theorem State.quantum_sound (s : State) (gid : GroupId) : (s.quantum gid).Sound ↔ s.Sound := by
  unfold State.quantum
  dsimp only
  repeat' split
  all_goals simp

@[simp] theorem State.noteReady_sound (s : State) : s.noteReady.Sound ↔ s.Sound := ⟨id, id⟩

@[simp] theorem State.age_sound (s : State) (gid : GroupId) : (s.age gid).Sound ↔ s.Sound := by
  unfold State.age
  repeat' split
  all_goals simp

@[simp] theorem State.displace_sound (s : State) (gid : GroupId) : (s.displace gid).Sound ↔ s.Sound := by
  unfold State.displace
  dsimp only
  repeat' split
  all_goals simp

@[simp] theorem State.boundary_sound (s : State) (gid : GroupId) (h : s.Sound) : (s.boundary gid).Sound := by
  unfold State.boundary
  repeat' split
  all_goals simp [h]

@[simp] theorem State.forceStop_sound (s : State) (gid : GroupId) : (s.forceStop gid).Sound ↔ s.Sound := by
  unfold State.forceStop
  repeat' split
  all_goals simp

@[simp] theorem State.noteHeader_sound (s : State) (l : Launch) : (s.noteHeader l).Sound ↔ s.Sound := by
  unfold State.noteHeader
  dsimp only
  repeat' split
  all_goals simp

@[simp] theorem State.holdSave_sound (s : State) (l : Launch) (g : Group) (va : Nat) : (s.holdSave l g va).Sound ↔
    s.Sound := by
  unfold State.holdSave
  split <;> simp

@[simp] theorem State.useArea_sound (s : State) (lid : Nat) (f : Nat → Nat) : (s.useArea lid f).Sound ↔ s.Sound :=
    ⟨id, id⟩

@[simp] theorem State.withdrawMma_sound (s : State) (gid : GroupId) : (s.withdrawMma gid).Sound ↔ s.Sound := by
  unfold State.withdrawMma
  dsimp only
  repeat' split
  all_goals simp

@[simp] theorem State.presentMma_sound (s : State) (gid : GroupId) : (s.presentMma gid).Sound ↔ s.Sound := by
  unfold State.presentMma
  dsimp only
  repeat' split
  all_goals simp

@[simp] theorem State.saveGroup_sound (s : State) (gid : GroupId) (h : s.Sound) : (s.saveGroup gid).Sound := by
  unfold State.saveGroup
  split <;> simp [h]

@[simp] theorem State.bringBack_sound (s : State) (gid : GroupId) (core : Nat) (f : Group → Group) (h : s.Sound) :
    (s.bringBack gid core f).Sound := by simp [State.bringBack, h]

@[simp] theorem State.activate_sound (s : State) (core : Nat) : (s.activate core).Sound ↔ s.Sound := by
  simp [State.activate]

@[simp] theorem State.moveGroups_sound (s : State) (gs : List Group) (h : s.Sound) : (s.moveGroups gs).Sound :=
  foldl_keeps_sound (fun t ht g _ => t.bringBack_sound g.id _ _ ht)
    (foldl_keeps_sound (fun t ht g _ => t.saveGroup_sound g.id ht) h)

theorem State.rehome_sound {s t : State} {g0 : Group} {n : Nat} (e : s.rehome g0 n = some t) (h : s.Sound) :
    t.Sound := by
  unfold State.rehome at e
  split at e
  · cases e
  · obtain ⟨d, -, rfl⟩ := Option.map_eq_some_iff.1 e
    exact s.moveGroups_sound _ h

theorem State.satisfy_sound {s t : State} {g0 : Group} {n : Nat} (e : s.satisfy g0 n = some t) (h : s.Sound) :
    t.Sound := by
  refine sound_of_map e (fun u hu => ?_) fun u hu => ?_
  · split at hu
    · cases hu; exact h
    · exact State.rehome_sound hu h
  · dsimp only
    cases (u.onGroup g0.id fun x => { x with n := max x.n n, wait := none }).group? g0.id with
    | none => simpa using hu
    | some g => exact State.fitL1_sound _ _ (by simpa using hu)

@[simp] theorem State.saveVictim_sound (s : State) (v : Group) (h : s.Sound) : (s.saveVictim v).Sound := by
  unfold State.saveVictim
  repeat' split
  all_goals simp [h]

@[simp] theorem State.freeStore_sound (g0 : Group) (n k : Nat) : ∀ s : State, s.Sound → (s.freeStore g0 n k).Sound := by
  induction k with
  | zero => exact fun _ h => h
  | succ k ih =>
    intro s h
    unfold State.freeStore
    split
    · exact State.satisfy_sound (by assumption) h
    split
    · simpa using h
    dsimp only
    split
    · exact s.saveVictim_sound _ h
    · exact ih _ (s.saveVictim_sound _ h)

@[simp] theorem State.stalemate_sound (s : State) (core : Nat) (h : s.Sound) : (s.stalemate core).Sound := by
  unfold State.stalemate
  split
  · exact h
  split
  · split
    · rename_i e
      obtain ⟨u, -, e⟩ := Option.bind_eq_some_iff.1 e
      exact State.satisfy_sound e h
    split
    · exact h
    · refine State.freeStore_sound _ _ _ _ (foldl_keeps_sound (fun t ht g _ => ?_) ((s.advance_sound _).2 h))
      cases t.launch? (lidOf g.id) with
      | none => exact ht
      | some l => exact (t.noteHeader_sound l).2 ht
  · exact h

/-! ### Host -/

@[simp] theorem State.refuse_sound (s : State) (qp status lid : Nat) : (s.refuse qp status lid).Sound ↔ s.Sound := by
  simp [State.refuse]

@[simp] theorem State.answerHost_sound (s : State) (qp status lid : Nat) (arg : Word) :
    (s.answerHost qp status lid arg).Sound ↔ s.Sound := by simp [State.answerHost]

@[simp] theorem State.journalFreeze_sound (s : State) (detail unit : Nat) : (s.journalFreeze detail unit).Sound ↔
    s.Sound := by simp [State.journalFreeze]

@[simp] theorem State.hostRecord_sound (s : State) (qp : Nat) (r : BitVec 2048) : (s.hostRecord qp r).Sound ↔
    s.Sound := by
  unfold State.hostRecord
  repeat' split
  all_goals simp

@[simp] theorem State.badSend_sound (s : State) (qp len : Nat) : (s.badSend qp len).Sound ↔ s.Sound := by
  unfold State.badSend
  split <;> simp

theorem State.control_sound (s : State) (qp : Nat) (m : BitVec 512) (op : Nat) {act : State → State}
    (ha : (act s).Sound ↔ s.Sound) : (s.control qp m op act).Sound ↔ s.Sound := by
  unfold State.control
  repeat' split
  all_goals simp [ha]

@[simp] theorem State.hostAbort_sound (s : State) (qp : Nat) (m : BitVec 512) : (s.hostAbort qp m).Sound ↔ s.Sound :=
  s.control_sound qp m 1 (by split <;> simp)

@[simp] theorem State.hostResume_sound (s : State) (qp : Nat) (m : BitVec 512) : (s.hostResume qp m).Sound ↔ s.Sound :=
  s.control_sound qp m 2 (by split <;> simp)

@[simp] theorem State.hostRegion_sound (s : State) (qp : Nat) (m : BitVec 512) : (s.hostRegion qp m).Sound ↔ s.Sound :=
  s.control_sound qp m 3 (by split <;> simp)

@[simp] theorem State.hostUnregion_sound (s : State) (qp : Nat) (m : BitVec 512) : (s.hostUnregion qp m).Sound ↔
    s.Sound :=
  s.control_sound qp m 4 (by dsimp only; split <;> simp)

@[simp] theorem State.rdmaPlaces_sound (s : State) (rkey va len : Nat) (w : Bool) :
    (s.rdmaPlaces rkey va len w).1.Sound ↔ s.Sound := by
  unfold State.rdmaPlaces
  repeat' split
  all_goals simp

@[simp] theorem State.send_sound (s : State) (qp : Nat) (x : Sent) : (s.send qp x).Sound ↔ s.Sound := ⟨id, id⟩

@[simp] theorem State.owe_sound (s : State) (o : Owed) : (s.owe o).Sound ↔ s.Sound := by
  unfold State.owe
  repeat' split
  all_goals simp

@[simp] theorem State.flushOwed_sound (s : State) : s.flushOwed.Sound ↔ s.Sound := by simp [State.flushOwed]

@[simp] theorem State.touchBytes_sound (s : State) (l : List (Nat × Bool)) (write : Bool) :
    (s.touchBytes l write).Sound ↔ s.Sound := by simp [State.touchBytes]

@[simp] theorem State.rdmaRead_sound (s : State) (qp rkey va len : Nat) : (s.rdmaRead qp rkey va len).Sound ↔
    s.Sound := by
  have places := s.rdmaPlaces_sound rkey va len false
  unfold State.rdmaRead
  split
  · rfl
  split
  · simp
  split
  · simp [sound_iff_of_eq (by assumption) places]
  · have ht := sound_iff_of_eq (by assumption) places
    dsimp only
    split <;> simp [ht]

@[simp] theorem State.rdmaWrite_sound (s : State) (qp rkey va : Nat) (bs : List Byte) (h : s.Sound) :
    (s.rdmaWrite qp rkey va bs).Sound := by
  have places := s.rdmaPlaces_sound rkey va bs.length true
  unfold State.rdmaWrite
  split
  · exact h
  split
  · simpa using h
  split
  · simpa [sound_iff_of_eq (by assumption) places] using h
  · rename_i t l e
    have ht := (sound_iff_of_eq e places).2 h
    have written : State.Sound { t with mem := Sparse.setAll Config.emptyByte t.mem ((l.map (·.1)).zip bs) } :=
      t.setAll_safe _ ht
    dsimp only
    rw [State.touchBytes_sound, State.clearCovered_sound]
    exact written

/-! ### Place -/

@[simp] theorem State.startTeam_sound (s : State) (lid t home : Nat) (cores : List Nat) (urgent : Bool)
    (h : s.Sound) : (s.startTeam lid t home cores urgent).Sound := by
  unfold State.startTeam
  split
  · exact State.fitL1_sound _ _ (State.fitL1_sound _ _ (by simp [h]))
  · exact h

theorem State.startOn_sound {s u : State} {l : Launch} {scope : List Nat} {t : Nat} {more : Bool} {core : Nat}
    (e : s.startOn l scope t more core = some u) (h : s.Sound) : u.Sound := by
  unfold State.startOn at e
  split at e
  · cases e
  dsimp only at e
  split at e
  · cases e
  · cases e
    exact s.startTeam_sound _ _ _ _ _ h

theorem State.startAll_sound {l : Launch} {scope : List Nat} {ts : List (Nat × List Nat)} : ∀ {s t : State},
    s.startAll l scope ts = some t → s.Sound → t.Sound := by
  induction ts with
  | nil => rintro s t ⟨⟩ h; exact h
  | cons x ts ih =>
    intro s t e h
    unfold State.startAll at e
    split at e
    · rename_i e'
      obtain ⟨c, -, started⟩ := List.exists_of_findSome?_eq_some e'
      exact ih e (State.startOn_sound started h)
    · cases e

@[simp] theorem State.noteAnchor_sound (s : State) (l : Launch) (k : Nat) : (s.noteAnchor l k).Sound ↔ s.Sound := by
  unfold State.noteAnchor
  dsimp only
  repeat' split
  all_goals simp

@[simp] theorem State.sendRange_sound (s : State) (l : Launch) : (s.sendRange l).Sound ↔ s.Sound := by
  simp [State.sendRange]

@[simp] theorem State.sendAll_sound (s : State) (l : Launch) : (s.sendAll l).Sound ↔ s.Sound :=
  foldl_sound (fun t _ => getD_map_sound (fun x => t.sendRange_sound x) _) _ _

theorem State.startSet_sound {s t : State} {l : Launch} {k pod : Nat} (e : s.startSet l k pod = some t)
    (h : s.Sound) : t.Sound := by
  unfold State.startSet at e
  split at e
  · cases e
  · exact sound_of_map e (fun u hu => State.startAll_sound hu h) fun u hu => by simpa using hu

theorem State.startFresh_sound {s t : State} {l : Launch} {r : Range} {core : Nat}
    (e : s.startFresh l r core = some t) (h : s.Sound) : t.Sound := by
  unfold State.startFresh at e
  dsimp only at e
  split at e
  · cases e
  split at e
  · exact sound_of_map e (fun u hu => State.startSet_sound hu h) fun u hu => by simpa using hu
  · exact sound_of_map e (fun u hu => State.startAll_sound hu h) fun u hu => by simpa using hu

theorem State.startSets_sound {l : Launch} {ks : List Nat} : ∀ {s t : State}, s.startSets l ks = some t → s.Sound →
    t.Sound := by
  induction ks with
  | nil => rintro s t ⟨⟩ h; exact h
  | cons k ks ih =>
    intro s t e h
    unfold State.startSets at e
    split at e
    · rename_i e'
      obtain ⟨c, -, started⟩ := List.exists_of_findSome?_eq_some e'
      exact ih e (State.startSet_sound started h)
    · cases e

theorem State.startTogether_sound {s t : State} {l : Launch} (e : s.startTogether l = some t) (h : s.Sound) :
    t.Sound := by
  refine sound_of_map e (fun u hu => ?_) fun u hu => by simpa using hu
  split at hu
  · exact State.startSets_sound hu h
  · exact State.startAll_sound hu h

@[simp] theorem State.moveTeams_sound (s : State) (l : Launch) (k m src dst : Nat) : (s.moveTeams l k m src dst).Sound
    ↔ s.Sound := ⟨id, id⟩

@[simp] theorem State.stealTower_sound (s : State) (tower : Nat) : (s.stealTower tower).Sound ↔ s.Sound := by
  unfold State.stealTower
  repeat' split
  all_goals simp

@[simp] theorem State.stealPod_sound (s : State) (pod : Nat) : (s.stealPod pod).Sound ↔ s.Sound := by
  unfold State.stealPod
  dsimp only
  repeat' split
  all_goals simp

@[simp] theorem State.steal_sound (s : State) (thief : Nat) : (s.steal thief).Sound ↔ s.Sound := by
  unfold State.steal
  repeat' split
  all_goals simp

@[simp] theorem State.answerPeer_sound (s : State) (src : Nat) (x : Sent) : (s.answerPeer src x).Sound ↔ s.Sound :=
    ⟨id, id⟩

@[simp] theorem State.servePeer_sound (s t : State) (src pa len : Nat) (bs : List Byte) :
    (s.servePeer t src pa len bs).Sound ↔ t.Sound := by simp [State.servePeer]

@[simp] theorem State.peerRequest_sound (s : State) (src : Nat) (r : PeerReq) (h : s.Sound) :
    (s.peerRequest src r).Sound := by
  unfold State.peerRequest
  split
  · exact h
  split
  · simpa using h
  split
  · repeat' split
    all_goals simp [h]
  · split <;> simp [h]
  · split
    · simpa using h
    rename_i op pa v v2 _
    have done := s.atomicAt_sound pa op v.toNat v2.toNat false h
    split <;> simpa using sound_of_eq (by assumption) done

@[simp] theorem State.journalPort_sound (s : State) (port pa : Nat) : (s.journalPort port pa).Sound ↔ s.Sound := by
  simp [State.journalPort]

@[simp] theorem State.loseAck_sound (port : Nat) (s : State) (x : GroupId × Ack) : (State.loseAck port s x).Sound ↔
    s.Sound := by
  unfold State.loseAck
  repeat' split
  all_goals simp

@[simp] theorem State.loseLine_sound (port : Nat) (s : State) (o : Op) : (State.loseLine port s o).Sound ↔ s.Sound := by
  unfold State.loseLine
  repeat' split
  all_goals simp

@[simp] theorem State.losePend_sound (port : Nat) (s : State) (x : GroupId × Pend) : (State.losePend port s x).Sound ↔
    s.Sound := by
  unfold State.losePend
  repeat' split
  all_goals simp

@[simp] theorem State.loseOwed_sound (s : State) : s.loseOwed.Sound ↔ s.Sound := by
  refine (foldl_sound (fun t o => ?_) _ _).trans (by simp)
  repeat' split
  all_goals simp

@[simp] theorem State.linkLoss_sound (s : State) (port : Nat) : (s.linkLoss port).Sound ↔ s.Sound := by
  unfold State.linkLoss
  dsimp only
  split <;> simp

/-! ### Serve -/

@[simp] theorem State.loseTeam_sound (s : State) (lid : Nat) (t : Team) (reason core : Nat) :
    (s.loseTeam lid t reason core).Sound ↔ s.Sound := by
  unfold State.loseTeam
  dsimp only
  repeat' split
  all_goals simp

@[simp] theorem State.checkImages_sound (l : Launch) (ts : List Team) : ∀ s : State, (s.checkImages l ts).1.Sound ↔
    s.Sound := by
  induction ts with
  | nil => exact fun _ => Iff.rfl
  | cons t ts ih =>
    intro s
    unfold State.checkImages
    split <;> simp [ih]

@[simp] theorem State.restoreTeam_sound (s : State) (l : Launch) (t : Team) (home : Nat) (cores : List Nat)
    (h : s.Sound) : (s.restoreTeam l t home cores).Sound :=
  foldl_keeps_sound (fun t ht x _ => t.bringBack_sound x.1.id x.2 _ ht) (by simpa using h)

theorem State.restoreAll_sound {l : Launch} {cands : List Nat} {ts : List Team} : ∀ {s t : State}, s.restoreAll l
    cands ts = some t → s.Sound → t.Sound := by
  induction ts with
  | nil => rintro s t ⟨⟩ h; exact h
  | cons x ts ih =>
    intro s t e h
    unfold State.restoreAll at e
    split at e
    · rename_i e'
      obtain ⟨c, -, back⟩ := List.exists_of_findSome?_eq_some e'
      obtain ⟨cores, -, rfl⟩ := Option.map_eq_some_iff.1 back
      exact ih e (s.restoreTeam_sound _ _ _ _ h)
    · cases e

@[simp] theorem State.restoreEngineTiles_sound (s : State) (l : Launch) (ts : List Team) (pod : Nat) :
    (s.restoreEngineTiles l ts pod).Sound ↔ s.Sound := by simp [State.restoreEngineTiles]

theorem State.restoreUnit_sound {s u : State} {l : Launch} {t : Team} {core : Nat}
    (e : s.restoreUnit l t core = some u) (h : s.Sound) : u.Sound := by
  have images (ts : List Team) := State.checkImages_sound l ts s
  unfold State.restoreUnit at e
  dsimp only at e
  split at e
  · cases e
  refine sound_of_map e (fun v hv => State.restoreAll_sound hv h) fun v hv => ?_
  split
  · exact (sound_iff_of_eq (by assumption) (images _)).2 h
  · refine (foldl_sound (fun t _ => t.drawn_sound) _ _).2 ?_
    split <;> simp [hv]

@[simp] theorem State.restoreOne_sound (s : State) (l : Launch) (t : Team) (core : Nat) (h : s.Sound) :
    (s.restoreOne l t core).Sound := by
  unfold State.restoreOne
  repeat' split
  all_goals simp [h]

theorem State.take_sound {s u : State} {l : Launch} {core : Nat} {x : Turn} {k : Option (Nat × Nat)}
    (e : s.take l core x = some (k, u)) (h : s.Sound) : u.Sound := by
  unfold State.take at e
  split at e
  · obtain ⟨t, started, e⟩ := Option.map_eq_some_iff.1 e
    cases e
    exact State.startFresh_sound started h
  · split at e
    · obtain ⟨t, back, e⟩ := Option.map_eq_some_iff.1 e
      cases e
      exact State.restoreUnit_sound back h
    · cases e

@[simp] theorem State.sendFor_sound (lid tower n : Nat) : ∀ s : State, (s.sendFor lid tower n).Sound ↔ s.Sound := by
  induction n with
  | zero => exact fun _ => Iff.rfl
  | succ n ih =>
    intro s
    unfold State.sendFor
    repeat' split
    all_goals simp [ih]

@[simp] theorem State.serve_sound (core : Nat) (ls : List Launch) : ∀ s : State, s.Sound →
    (s.serve core ls).2.Sound := by
  induction ls with
  | nil => exact fun _ h => h
  | cons l ls ih =>
    intro s h
    unfold State.serve
    split
    · dsimp only
      cases e : ((s.sendAll l).launch? l.lid).bind (s.sendAll l).startTogether with
      | none => simpa using h
      | some t =>
        obtain ⟨x, -, started⟩ := Option.bind_eq_some_iff.1 e
        exact State.startTogether_sound started (by simpa using h)
    · dsimp only
      have sent : (s.sendFor l.lid (towerOf core) (l.rangeCount - l.sentRanges)).Sound := by simpa using h
      split
      · exact ih _ sent
      split
      · rename_i e
        obtain ⟨c, -, took⟩ := List.exists_of_findSome?_eq_some e
        exact State.take_sound took sent
      split
      · exact sent
      · exact ih _ sent

@[simp] theorem State.turn_sound (s : State) (core : Nat) (h : s.Sound) : (s.turn core).2.Sound := by
  unfold State.turn
  split <;> simp [h]

@[simp] theorem State.teamDispatch_sound (s : State) (core : Nat) (h : s.Sound) : (s.teamDispatch core).Sound := by
  have turn := s.turn_sound core h
  unfold State.teamDispatch
  split
  · rename_i e; rw [e] at turn; exact turn
  · exact h

@[simp] theorem State.unitRestore_sound (s : State) (lid : Nat) (team : Option Nat) (core : Nat) (h : s.Sound) :
    (s.unitRestore lid team core).Sound := by
  have turn := s.turn_sound core h
  unfold State.unitRestore
  split
  · exact h
  split
  · exact h
  split
  · exact s.restoreOne_sound _ _ _ h
  split
  · rename_i e
    rw [e] at turn
    split
    · exact turn
    · exact h
  · exact h

@[simp] theorem State.stopUnit_sound (s : State) (l : Launch) (t : Nat) : (s.stopUnit l t).Sound ↔ s.Sound := ⟨id, id⟩

@[simp] theorem State.makeRoom_sound (met : State → Bool) (vs : List (Launch × Nat)) : ∀ s : State,
    (State.makeRoom met vs s).Sound ↔ s.Sound := by
  induction vs with
  | nil => exact fun _ => Iff.rfl
  | cons v vs ih =>
    intro s
    unfold State.makeRoom
    repeat' split
    all_goals simp [ih]

@[simp] theorem State.noteAreas_sound (s : State) (tower : Nat) : (s.noteAreas tower).Sound ↔ s.Sound := by
  simp [State.noteAreas]

@[simp] theorem State.requestStop_sound (s : State) (tower : Nat) : (s.requestStop tower).Sound ↔ s.Sound := by
  unfold State.requestStop
  dsimp only
  repeat' split
  all_goals simp

end Sys2Proof.Machine
end

section
/-! PROOFS. Canonical form is kept (O58): saves, reliability and management, and one step of the part. -/

namespace Sys2Proof.Machine

/-! ### Save -/

@[simp] theorem State.releaseTile_sound (s : State) (pod t : Nat) : (s.releaseTile pod t).Sound ↔ s.Sound := ⟨id, id⟩

@[simp] theorem State.releaseTiles_sound (s : State) (h : Holder) : (s.releaseTiles h).Sound ↔ s.Sound := by
  simp [State.releaseTiles]

@[simp] theorem State.saveTeam_sound (s : State) (l : Launch) (t : Team) (h : s.Sound) : (s.saveTeam l t).Sound := by
  have saved := foldl_keeps_sound (f := fun s g => (s.saveGroup g.id).onGroup g.id Group.keepMarked)
    (l := (s.teamGroups l.lid t.num).filter (·.resident))
    (fun t ht g _ => (State.onGroup_sound ..).2 (t.saveGroup_sound g.id ht)) h
  simpa [State.saveTeam] using saved

@[simp] theorem State.saveEngineTiles_sound (s : State) (l : Launch) : (s.saveEngineTiles l).Sound ↔ s.Sound := by
  unfold State.saveEngineTiles
  split <;> simp

@[simp] theorem State.unitSave_sound (s : State) (lid : Nat) (team : Option Nat) (h : s.Sound) :
    (s.unitSave lid team).Sound := by
  unfold State.unitSave
  split
  · exact h
  dsimp only
  split
  · exact h
  split
  · exact (getD_map_sound (fun g => by simp) _).2 h
  · simpa using h
  · have saved (l : Launch) (ts : List Team) : (ts.foldl (fun s t => s.saveTeam l t) s).Sound :=
      foldl_keeps_sound (fun u hu t _ => u.saveTeam_sound l t hu) h
    simpa using saved _ _

@[simp] theorem State.dropImage_sound (s : State) (g : Group) : (s.dropImage g).Sound ↔ s.Sound := by
  unfold State.dropImage
  split <;> simp

@[simp] theorem State.releaseSet_sound (s : State) (l : Launch) (t : Team) : (s.releaseSet l t).Sound ↔ s.Sound := by
  unfold State.releaseSet
  dsimp only
  split <;> simp

@[simp] theorem State.retireTeam_sound (s : State) (lid t : Nat) : (s.retireTeam lid t).Sound ↔ s.Sound := by
  unfold State.retireTeam
  repeat' split
  all_goals simp

@[simp] theorem State.retire_sound (s : State) (gid : GroupId) : (s.retire gid).Sound ↔ s.Sound := by
  unfold State.retire
  repeat' split
  all_goals simp

@[simp] theorem State.releaseAll_sound (s : State) (h : s.Sound) : s.releaseAll.Sound :=
  foldl_keeps_sound (fun t ht c _ => t.release_sound c ht) h

@[simp] theorem State.dropLaunch_sound (s : State) (lid : Nat) (good : Bool) : (s.dropLaunch lid good).Sound ↔
    s.Sound := ⟨id, id⟩

@[simp] theorem State.refuseFailed_sound (n : Nat) : ∀ s : State, (s.refuseFailed n).Sound ↔ s.Sound := by
  induction n with
  | zero => exact fun _ => Iff.rfl
  | succ n ih =>
    intro s
    unfold State.refuseFailed
    repeat' split
    all_goals simp [ih]

@[simp] theorem State.retireUnit_sound (s : State) (u : TestUnit × Option Nat) : (s.retireUnit u).Sound ↔ s.Sound := by
  unfold State.retireUnit
  dsimp only
  split
  · split <;> simp
  · split <;> simp
  · refine foldl_sound (fun t p => ?_) _ _
    split
    · rfl
    · split <;> simp

@[simp] theorem State.remapUnit_sound (s : State) (words : List Nat) (unit : Nat) : (s.remapUnit words unit).Sound ↔
    s.Sound := by
  unfold State.remapUnit
  dsimp only
  repeat' split
  all_goals simp

@[simp] theorem State.remapLasting_sound (s : State) : s.remapLasting.Sound ↔ s.Sound := by simp [State.remapLasting]

@[simp] theorem State.whenIdle_sound (s : State) : s.whenIdle.Sound ↔ s.Sound := by
  unfold State.whenIdle
  split <;> simp

@[simp] theorem State.completeLaunch_sound (s : State) (lid : Nat) (h : s.Sound) : (s.completeLaunch lid).Sound := by
  unfold State.completeLaunch
  repeat' split
  all_goals simp [h]

@[simp] theorem State.silence_sound (s : State) (pod : Nat) : (s.silence pod).Sound ↔ s.Sound := ⟨id, id⟩

@[simp] theorem State.losePod_sound (s : State) (pod : Nat) : (s.losePod pod).Sound ↔ s.Sound := by
  unfold State.losePod
  dsimp only
  split
  · rfl
  · simp

/-! ### Reliability -/

@[simp] theorem State.onStack_sound (s : State) (k : Nat) (f : Stack → Stack) : (s.onStack k f).Sound ↔ s.Sound :=
    ⟨id, id⟩

@[simp] theorem State.journalRow_sound (s : State) (kind detail stack row : Nat) :
    (s.journalRow kind detail stack row).Sound ↔ s.Sound := by simp [State.journalRow]

@[simp] theorem State.softRepair_sound (s : State) (stack row : Nat) : (s.softRepair stack row).Sound ↔ s.Sound := by
  unfold State.softRepair
  dsimp only
  repeat' split
  all_goals simp

@[simp] theorem State.serveHeld_sound (s : State) : s.serveHeld.Sound ↔ s.Sound := by simp [State.serveHeld]

@[simp] theorem State.quiesceEnd_sound (s : State) (stack row : Nat) : (s.quiesceEnd stack row).Sound ↔ s.Sound := by
  unfold State.quiesceEnd
  split <;> simp

@[simp] theorem State.addCandidate_sound (s : State) (stack row : Nat) : (s.addCandidate stack row).Sound ↔ s.Sound :=
    ⟨id, id⟩

@[simp] theorem State.activation_sound (s : State) (stack row : Nat) (corrupt : Bool) :
    (s.activation stack row corrupt).Sound ↔ s.Sound := by
  unfold State.activation
  dsimp only
  repeat' split
  all_goals simp

@[simp] theorem State.setForced_sound (s : State) (stack : Nat) (on : Bool) : (s.setForced stack on).Sound ↔
    s.Sound := by
  unfold State.setForced
  split <;> simp

@[simp] theorem State.spoil_sound (s : State) (x : Site) (h : s.Sound) : (s.spoil x).Sound := by
  cases x with
  | reg gid word ofs => exact h
  | scratch lid team word ofs => exact h
  | l1 core pa ofs =>
    obtain ⟨hm, hp, hc⟩ := h
    refine s.setL1_safe core _ ?_ ⟨hm, hp, hc⟩
    have e : (fun c : Nat × Option Cached => if c.1 / 8 = pa / 8 then (c.1, c.2.map fun x => { x with bad := true })
        else c)
        = fun c => if decide (c.1 / 8 = pa / 8) then (c.1, c.2.map fun x => { x with bad := true }) else c := by
      funext c
      simp
    rw [e]
    exact wf_map_cells _ _ (fun c hc => by simpa using hc) (s.l1Of_wf core ⟨hm, hp, hc⟩)
  | l2 pod pa dirty => exact h
  | msc bank pa dirty => exact h
  | hbm pa row => exact h

@[simp] theorem State.lasts_sound (s : State) (core ofs : Nat) (x : Site) : (s.lasts core ofs x).Sound ↔ s.Sound := by
  unfold State.lasts
  split <;> simp

@[simp] theorem State.findError_sound (s : State) (x : Site) (r : Reread) (h : s.Sound) : (s.findError x r).Sound := by
  unfold State.findError
  repeat' split
  all_goals simp [h]

@[simp] theorem State.hardRepair_sound (s : State) : s.hardRepair.Sound ↔ s.Sound := by simp [State.hardRepair]

@[simp] theorem State.journalSignature_sound (s : State) : s.journalSignature.Sound ↔ s.Sound := by
  simp [State.journalSignature]

@[simp] theorem State.loadImage_sound (s : State) (k : Nat) (image : List Byte) : (s.loadImage k image).Sound ↔
    s.Sound := by
  unfold State.loadImage
  split <;> simp

@[simp] theorem State.loadFirmware_sound (s : State) : s.loadFirmware.Sound ↔ s.Sound := by
  unfold State.loadFirmware
  split <;> simp

@[simp] theorem State.domainsReset_sound (s : State) : s.domainsReset.Sound := safeAtReset.1

@[simp] theorem State.resetPart_sound (s : State) : s.resetPart.Sound := by simp [State.resetPart]

@[simp] theorem State.shutdown_sound (s : State) (h : s.Sound) : s.shutdown.Sound := by
  unfold State.shutdown
  split
  · exact s.domainsReset_sound
  · exact h

@[simp] theorem State.powerOn_sound (s : State) (h : s.Sound) : s.powerOn.Sound := by
  unfold State.powerOn
  split
  · exact h
  · exact s.resetPart_sound

@[simp] theorem State.fieldTest_sound (s : State) (u : TestUnit) (test : Nat) (signed first second : Bool) :
    (s.fieldTest u test signed first second).Sound ↔ s.Sound := by
  unfold State.fieldTest
  repeat' split
  all_goals simp

@[simp] theorem State.capWindow_sound (s : State) (demand : Nat) : (s.capWindow demand).Sound ↔ s.Sound := by
  unfold State.capWindow
  split <;> simp

@[simp] theorem State.ptpSync_sound (s : State) (ns : Nat) : (s.ptpSync ns).Sound ↔ s.Sound := by
  unfold State.ptpSync
  split <;> simp

@[simp] theorem State.trainLink_sound (s : State) (port : Nat) (vendor : Bool) : (s.trainLink port vendor).Sound ↔
    s.Sound := by
  unfold State.trainLink
  split <;> simp

/-! ### Management -/

@[simp] theorem State.answerFrame_sound (s : State) (f : Frame) (status : Nat) (payload : List Byte) :
    (s.answerFrame f status payload).Sound ↔ s.Sound := ⟨id, id⟩

@[simp] theorem State.answerLong_sound (s : State) (f : Frame) (bytes : List Byte) : (s.answerLong f bytes).Sound ↔
    s.Sound := by simp [State.answerLong]

@[simp] theorem State.violation_sound (s : State) (f : Frame) : (s.violation f).Sound ↔ s.Sound := by
  simp [State.violation]

@[simp] theorem State.command_sound (s : State) (f : Frame) (op : Nat) (bad : Bool) {act : State → State}
    (acts : ∀ t : State, t.Sound → (act t).Sound) (h : s.Sound) : (s.command f op bad act).Sound := by
  unfold State.command
  refine ite_sound h ?_
  dsimp only
  refine ite_sound (by simpa using h) (ite_sound (by simpa using h) (acts _ (by simpa using h)))

@[simp] theorem State.provision_sound (s : State) (f : Frame) (h : s.Sound) : (s.provision f).Sound :=
  s.command_sound f 1 _ (fun t ht => by split <;> simp [ht]) h

@[simp] theorem State.flushHeld_sound (s : State) : s.flushHeld.Sound ↔ s.Sound := by simp [State.flushHeld]

@[simp] theorem State.tearDown_sound (s : State) (q : Nat) : (s.tearDown q).Sound ↔ s.Sound := by
  unfold State.tearDown
  split <;> simp

@[simp] theorem State.qpSet_sound (s : State) (f : Frame) (h : s.Sound) : (s.qpSet f).Sound :=
  s.command_sound f 2 _ (fun t ht => by split <;> simp [ht]) h

@[simp] theorem State.qMask_sound (s : State) (f : Frame) (h : s.Sound) : (s.qMask f).Sound :=
  s.command_sound f 3 _ (fun t ht => by dsimp only; split <;> simp [ht]) h

@[simp] theorem State.setPartNum_sound (s : State) (f : Frame) (h : s.Sound) : (s.setPartNum f).Sound :=
  s.command_sound f 4 _ (fun t ht => by split <;> simp [ht]) h

@[simp] theorem State.acceptParts_sound (s : State) (f : Frame) (h : s.Sound) : (s.acceptParts f).Sound :=
  s.command_sound f 5 _ (fun t ht => by simp [ht]) h

@[simp] theorem State.readCheckpoint_sound (s : State) : s.readCheckpoint.Sound ↔ s.Sound := by
  unfold State.readCheckpoint
  split <;> simp

@[simp] theorem State.journalRead_sound (s : State) (f : Frame) (h : s.Sound) : (s.journalRead f).Sound :=
  s.command_sound f 6 _ (fun t ht => by simp [ht]) h

@[simp] theorem State.reclaim_sound (s : State) (seq : Nat) : (s.reclaim seq).Sound ↔ s.Sound := by
  unfold State.reclaim
  dsimp only
  split <;> simp

@[simp] theorem State.journalAck_sound (s : State) (f : Frame) (h : s.Sound) : (s.journalAck f).Sound :=
  s.command_sound f 7 _ (fun t ht => by split <;> simp [ht]) h

@[simp] theorem State.attest_sound (s : State) (f : Frame) (h : s.Sound) : (s.attest f).Sound :=
  s.command_sound f 8 _ (fun t ht => by simp [ht]) h

@[simp] theorem State.powerCap_sound (s : State) (f : Frame) (h : s.Sound) : (s.powerCap f).Sound :=
  s.command_sound f 9 _ (fun t ht => by simp [ht]) h

@[simp] theorem State.sendTelemetry_sound (s : State) (f : Frame) (h : s.Sound) : (s.sendTelemetry f).Sound :=
  s.command_sound f 10 _ (fun t ht => by simp [ht]) h

@[simp] theorem State.unfreezeHost_sound (s : State) (f : Frame) (h : s.Sound) : (s.unfreezeHost f).Sound :=
  s.command_sound f 11 _ (fun t ht => by dsimp only; split <;> simp [ht]) h

@[simp] theorem State.stage_sound (s : State) (f : Frame) (h : s.Sound) : (s.stage f).Sound :=
  s.command_sound f 12 _ (fun t ht => by dsimp only; split <;> [skip; split] <;> simp [ht]) h

@[simp] theorem State.resetCommand_sound (s : State) (f : Frame) (h : s.Sound) : (s.resetCommand f).Sound :=
  s.command_sound f 13 _ (fun t _ => (t.answerFrame f 0 []).resetPart_sound) h

/-! ### Front -/

@[simp] theorem State.evictLine_sound (s : State) (core pa : Nat) (h : s.Sound) : (s.evictLine core pa).Sound := by
  simp [State.evictLine, h]

@[simp] theorem State.settleSector_sound (s : State) (pa : Nat) : (s.settleSector pa).Sound ↔ s.Sound := by
  simp [State.settleSector]

@[simp] theorem State.evictTlb_sound (s : State) (va : Nat) : (s.evictTlb va).Sound ↔ s.Sound := ⟨id, id⟩

/-! ### One step of the part -/

/-- A step that comes to a state comes to a sound one. -/
def OutSound (o : Out) : Prop := ∀ t, o = .next t → t.Sound

theorem outSound_next {t : State} (h : t.Sound) : OutSound (.next t) := by
  rintro _ ⟨⟩
  exact h

theorem bodyOf_sound {i : Instr} {h : Head} {body : Body} (e : bodyOf i = some (h, body)) : body.Sound := by
  cases i <;> simp only [bodyOf, Option.some.injEq, Prod.mk.injEq, reduceCtorEq] at e
  all_goals obtain ⟨-, rfl⟩ := e
  case ld o => exact skewed_sound _ fun s g l hs => loadBody_sound _ _ _ _ _ _ _ s g l hs
  case st o => exact skewed_sound _ fun s g l hs => storeBody_sound _ _ _ _ _ _ _ s g l hs
  case lds o => exact skewed_sound _ fun s g l hs => loadBody_sound _ _ _ _ _ _ _ s g l hs
  case sts o => exact skewed_sound _ fun s g l hs => storeBody_sound _ _ _ _ _ _ _ s g l hs
  case atom o => exact skewed_sound _ fun s g l hs => atomBody_sound true o s g l hs
  case red o => exact skewed_sound _ fun s g l hs => atomBody_sound false o s g l hs
  case fence o => exact skewed_sound _ fun s g l hs => fenceBody_sound o s g l hs
  all_goals exact fun s g l hs => by simp [hs]

/-- An event is one function of the state. -/
theorem exec_event_sound {i : Instr} (e : bodyOf i = none) {s : State} (h : s.Sound) : OutSound (exec i s) := by
  cases i <;> simp only [bodyOf, reduceCtorEq] at e
  all_goals refine outSound_next ?_
  case clauseEntry g => exact s.boundary_sound g h
  case deferredTrap g => exact (s.deferredTrap_sound g).2 h
  case loadResponse g n => exact (s.respond_sound g n [.load]).2 h
  case atomicResponse g n => exact (s.respond_sound g n [.atomic]).2 h
  case fetchLineLanded op => exact (s.fetchLands_sound op).2 h
  case postAcknowledged op => exact s.postDone_sound op h
  case copyOperationComplete op => exact s.copyComplete_sound op h
  case cpymArrival op k => exact s.cpymArrival_sound op k h
  case rendezvousGrant pod latch => exact (s.grant_sound pod latch).2 h
  case passStart pod => exact (s.passStart_sound pod).2 h
  case passComplete pod => exact (s.passComplete_sound pod).2 h
  case mxOperationComplete op => exact s.mxComplete_sound op h
  case drainComplete op => exact (s.drainComplete_sound op).2 h
  case patternPass pod => exact (s.patternPass_sound pod).2 h
  case reservationAging pod k => exact (s.passAges_sound pod k).2 h
  case runnerValueArrival g => exact s.valueArrives_sound g h
  case runnerSpillTimeout g => exact (s.spillTimeout_sound g).2 h
  case ocallRequestAccept op => exact (s.acceptCall_sound op).2 h
  case waveStart lid obj => exact s.waveStart_sound lid obj h
  case ocallReply op lane => exact (s.landReply_sound op lane).2 h
  case waveTimeLimit lid obj => exact (s.waveLimit_sound lid obj).2 h
  case quantumExpiry g => exact (s.quantum_sound g).2 h
  case pendingAging g => exact (s.age_sound g).2 h
  case urgentDisplacement g => exact (s.displace_sound g).2 h
  case groupActivation core => exact (s.activate_sound core).2 h
  case wgrowStalemate core => exact s.stalemate_sound core h
  case tableWalk w => exact (s.tableWalk_sound w).2 h
  case faultRecordWrite lid => exact s.writeRecord_sound lid h
  case launchRecord qp r => exact (s.hostRecord_sound qp r).2 h
  case badmsgSend qp len => exact (s.badSend_sound qp len).2 h
  case abort qp m => exact (s.hostAbort_sound qp m).2 h
  case resume qp m => exact (s.hostResume_sound qp m).2 h
  case region qp m => exact (s.hostRegion_sound qp m).2 h
  case unregion qp m => exact (s.hostUnregion_sound qp m).2 h
  case rdmaRead qp rkey va len => exact (s.rdmaRead_sound qp rkey va len).2 h
  case rdmaWrite qp rkey va data => exact s.rdmaWrite_sound qp rkey va data h
  case ualinkInboundRequest src r => exact s.peerRequest_sound src r h
  case linkLoss port => exact (s.linkLoss_sound port).2 h
  case teamDispatch core => exact s.teamDispatch_sound core h
  case steal tower => exact (s.steal_sound tower).2 h
  case preemptionRequest tower => exact (s.requestStop_sound tower).2 h
  case forcedStop g => exact (s.forceStop_sound g).2 h
  case unitSave lid team => exact s.unitSave_sound lid team h
  case unitRestore lid team core => exact s.unitRestore_sound lid team core h
  case groupRetirement g => exact (s.retire_sound g).2 h
  case launchCompletion lid => exact s.completeLaunch_sound lid h
  case podLost pod => exact (s.losePod_sound pod).2 h
  case softRepair stack row => exact (s.softRepair_sound stack row).2 h
  case quiesceEnd stack row => exact (s.quiesceEnd_sound stack row).2 h
  case activationCounterEvent stack row corrupt => exact (s.activation_sound stack row corrupt).2 h
  case selfRefreshEnter stack => exact (s.setForced_sound stack true).2 h
  case selfRefreshExit stack => exact (s.setForced_sound stack false).2 h
  case criticalShutdown => exact s.shutdown_sound h
  case infieldTestRun u test signed first second => exact (s.fieldTest_sound u test signed first second).2 h
  case powerCapWindow demand => exact (s.capWindow_sound demand).2 h
  case provision f => exact s.provision_sound f h
  case qpset f => exact s.qpSet_sound f h
  case qmask f => exact s.qMask_sound f h
  case partnum f => exact s.setPartNum_sound f h
  case accept f => exact s.acceptParts_sound f h
  case jread f => exact s.journalRead_sound f h
  case jack f => exact s.journalAck_sound f h
  case attest f => exact s.attest_sound f h
  case pcap f => exact s.powerCap_sound f h
  case telem f => exact s.sendTelemetry_sound f h
  case unfreeze f => exact s.unfreezeHost_sound f h
  case fwload f => exact s.stage_sound f h
  case reset f => exact s.resetCommand_sound f h
  case powerOn => exact s.powerOn_sound h
  case ptpSync ns => exact (s.ptpSync_sound ns).2 h
  case linkTraining port vendor => exact (s.trainLink_sound port vendor).2 h
  case writeAcknowledgement g n ok => exact (s.acknowledge_sound g n ok).2 h
  case variableLatencyResult g n => exact (s.respond_sound g n [.scalar]).2 h

theorem exec_sound (i : Instr) {s : State} (h : s.Sound) : OutSound (exec i s) := by
  cases e : bodyOf i with
  | none => exact exec_event_sound e h
  | some x =>
    rw [exec_eq_issue e]
    exact outSound_next (issue_sound i x.1 (bodyOf_sound e) s h)

theorem State.issueNext_sound (s : State) (gid : GroupId) (h : s.Sound) : OutSound (s.issueNext gid) := by
  unfold State.issueNext
  split
  · exact outSound_next h
  split
  · split
    · exact outSound_next h
    split
    · exact outSound_next ((s.stopNow_sound _).2 h)
    split
    · exact outSound_next ((s.fetchFails_sound _ _ _).2 h)
    rename_i fetched
    have ht := (State.fetchSlot_sound fetched).2 h
    split
    · exact exec_sound _ (by simpa using ht)
    · exact outSound_next ((State.takeTrap_sound _ _ _ _ _ _ _).2 ht)
  · exact outSound_next h

theorem State.perform_sound (s : State) (a : Act) (h : s.Sound) : OutSound (s.perform a) := by
  cases a with
  | issue g => exact s.issueNext_sound g h
  | event i =>
    show OutSound (if isEvent i then exec i s else .next s)
    split
    · exact exec_sound i h
    · exact outSound_next h
  | flaw x r => exact outSound_next (s.findError_sound x r h)
  | evict core pa => exact outSound_next (s.evictLine_sound core pa h)
  | settle pa => exact outSound_next ((s.settleSector_sound pa).2 h)
  | evictTlb va => exact outSound_next ((s.evictTlb_sound va).2 h)
  | misread pod n => exact outSound_next ((s.misread_sound pod n).2 h)
  | upset pod tile pos chan d mode => exact outSound_next ((s.upset_sound pod tile pos chan d mode).2 h)
  | tick n => exact outSound_next ((s.advance_sound (s.clock + n)).2 h)

theorem noted_sound {o : Out} (h : OutSound o) : OutSound (noted o) := by
  cases o with
  | next t =>
    have ready : t.noteReady.Sound := t.noteReady_sound.2 (h t rfl)
    exact outSound_next ready
  | fault r => exact h
  | refused r => exact h

theorem step_sound (s : State) (h : s.Sound) : OutSound (step s) := by
  unfold step
  split
  · rename_i a rest _
    have next : State.Sound { s with agenda := rest } := by simpa using h
    exact noted_sound (State.perform_sound _ a next)
  · exact noted_sound (s.perform_sound s.choose h)

/-- Settles O58: each function by which a step changes the state keeps memory and the L1s in canonical form, or leaves
them alone. -/
theorem safeKeptByEveryStep : Obligations.SafeKeptByEveryStep := fun s t h e =>
  t.sound_iff.1 (step_sound s (s.sound_iff.2 h) t e)

end Sys2Proof.Machine
end
